-- ==== Sys2Proof/Word.lean ====
section
/-! DEFINITION. The word types of the block. -/

namespace Sys2Proof

/-- A byte of a frame, a command or a memory. -/
abbrev Byte := BitVec 8

/-- A count of grains, modulo 2^64 (R35, R50). -/
abbrev Grain := BitVec 64

/-- A control-space word (R5). -/
abbrev W32 := BitVec 32

/-- A sparse table: pairs of index and entry, indices strictly rising, no entry equal to what an unlisted index reads as. -/
abbrev Tab (α : Type) := List (Nat × α)

end Sys2Proof
end

