-- ==== Sys2Proof/Syntax.lean ====
section
/-! DEFINITION. The commands of the block, one constructor per row of the opcode table, with the operands of each. -/

namespace Sys2Proof

/-- A master of the control space (R144): a PCIe function, the management port, or the control cluster. -/
inductive Master where
  /-- PCIe function `fn` -/
  | pf (fn : Nat)
  /-- the management port -/
  | mgt
  /-- the control cluster -/
  | cc
deriving DecidableEq, Repr

/-- The three kinds of queue of a partition (R165). -/
inductive QKind where
  /-- submission queue -/
  | sq
  /-- completion queue -/
  | cq
  /-- event ring -/
  | er
deriving DecidableEq, Repr

/-- How many queues of a kind a partition has (R165). -/
def QKind.count : QKind → Nat
  | .sq => 8
  | .cq => 8
  | .er => 4

/-- The line conditions of a port as they stand at a boundary (R262, R272). -/
structure LinkCond where
  sig : Bool
  cdr : Bool
  sync : Bool
  fec : Bool
  an : Bool
  lf : Bool
  rf : Bool
  hiBer : Bool
  /-- auto-negotiation resolution was refused (R259, R260) -/
  anRefused : Bool
deriving DecidableEq, Repr

/-- The commands of the block: one constructor per row of the opcode table. -/
inductive Instr where
  /-- REGISTER_WRITE (R9). A master writes a control-space register that has no row of its own; the access is checked and the field is updated per its access code. -/
  | registerWrite (m : Master) (addr : Nat) (size : Nat) (val : BitVec 32)
  /-- MAX_FIELD_READ (R681). A normal read of a MAX-type field returns the greatest value since the last read and restarts tracking from the current value. -/
  | maxFieldRead (m : Master) (addr : Nat)
  /-- GRAIN_BOUNDARY (R36). At each grain boundary the sequencer samples synchronised inputs, stamps them, sorts them and appends them to the backlog. -/
  | grainBoundary (xoPpm : BitVec 12)
  /-- BACKLOG_APPLY (R42). The sequencer applies up to four decisions from the backlog head, in stamp, class and index order. -/
  | backlogApply
  /-- GRAIN_LOST (R52). The grain monitor finds XO_PPM beyond 2,000 or no boundary for 100 ns and records a class X fault. -/
  | grainLost (ppm : Int) (gap : Nat)
  /-- GR_COUNT_LO_READ (R45). A normal read of GR_COUNT_LO returns the low word and latches the high word into GR_COUNT_HI. -/
  | grCountLoRead (m : Master)
  /-- TB_TIME_NS_READ (R75). A normal read of TB_TIME_NS returns NS and latches SEC and FRAC of the same grain. -/
  | tbTimeNsRead (m : Master)
  /-- TB_FREQ_LO_WRITE (R76). A write to TB_FREQ_LO places F[31:0] in the staging word. -/
  | tbFreqLoWrite (m : Master) (v : BitVec 32)
  /-- TB_FREQ_HI_WRITE (R76). A write to TB_FREQ_HI commits the staged frequency word at the next boundary, unless holdover discards it. -/
  | tbFreqHiWrite (m : Master) (v : BitVec 32)
  /-- TB_FREQ_LO_READ (R76). A normal read of TB_FREQ_LO returns F[31:0] in force and latches F[39:32]. -/
  | tbFreqLoRead (m : Master)
  /-- TB_REF_CTL_WRITE (R62). A write of TB_REF_CTL selects the source and can end holdover or cause loss of qualification. -/
  | tbRefCtlWrite (m : Master) (v : BitVec 32)
  /-- REF_WINDOW_END (R58). At the end of each 1 ms REF measurement window, REFx_OK is cleared or set by the measured frequency. -/
  | refWindowEnd (b : Bool) (ppb : Int)
  /-- REF_EDGE_TIMEOUT (R58). 256 grains without a REF edge clear REFx_OK and raise TB_REF_DEGRADED. -/
  | refEdgeTimeout (b : Bool)
  /-- REF_EDGE (R60). A REF edge of the selected source after a sampling boundary is stamped into the sample FIFO. -/
  | refEdge (b : Bool) (sub : Nat)
  /-- PPS_EDGE (R58). A PPS edge is stamped into the sample FIFO and its interval qualifies or disqualifies the PPS input. -/
  | ppsEdge (b : Bool) (sub : Nat)
  /-- PPS_TIMEOUT (R58). No PPS edge within 1,100,000,000 grains disqualifies the PPS input. -/
  | ppsTimeout (b : Bool)
  /-- HOLDOVER_SAMPLE (R61). At each boundary with GR_COUNT mod 2^20 = 0, F is sampled into the holdover mean. -/
  | holdoverSample
  /-- TB_ERR_EST_WRITE (R63). A write of TB_ERR_EST takes effect at the next boundary and restarts the growth counter. -/
  | tbErrEstWrite (m : Master) (v : BitVec 32)
  /-- ERR_EST_GROWTH (R63). When the growth counter reaches 10^9 grains, HOLD_RATE is added to TB_ERR_EST. -/
  | errEstGrowth
  /-- ECAP_EDGE (R65). A capture edge on ECAPn is stamped, compensated and pushed into its FIFO, and may raise its capture event. -/
  | ecapEdge (n : Nat) (rising : Bool) (sub : Nat)
  /-- EVC_REC_POP (R83). A normal read of EVC_REC3 returns the grain stamp and pops the capture record. -/
  | evcRecPop (m : Master) (n : Nat)
  /-- TB_SMP_POP (R79). A normal read of TB_SMP_W2 returns the grain stamp and pops the sample record. -/
  | tbSmpPop (m : Master)
  /-- TOUT_EDGE (R69). A time output reaches a scheduled edge instant and toggles per its mode. -/
  | toutEdge (k : Nat)
  /-- TOU_WRITE (R84). A write to an output's registers takes effect at its next rising edge, or drives it low for a mode change. -/
  | touWrite (m : Master) (k : Nat) (off : Nat) (v : BitVec 32)
  /-- IRIG_FRAME_START (R70). At each second an IRIG-B output begins a frame describing that second with time quality from the estimate. -/
  | irigFrameStart (k : Nat)
  /-- TOU_IRIG_WRITE (R72). A write of the IRIG or leap registers is taken and the leap arming is judged, refusing a past LEAP_SEC. -/
  | touIrigWrite (m : Master) (leap : Bool) (v : BitVec 32)
  /-- LEAP_SECOND_END (R72). At the end of the armed leap second TAI_UTC changes by one and LEAP_ARM clears. -/
  | leapSecondEnd
  /-- TB_ADJUST (R73). Command 0x08 schedules a STEP or SET of TB_TIME at grain AT, cancelling any pending adjustment. -/
  | tbAdjust (id : Nat)
  /-- TB_ADJUST_APPLY (R73). At grain AT the scheduled step or set is applied to TB_TIME and the command completes. -/
  | tbAdjustApply
  /-- FRAME_START (R31). A start of frame on an ingress port is stamped with TB_TIME, a sequence number and the epoch in force. -/
  | frameStart (port : Nat) (sub : Nat)
  /-- FRAME_RECEIVED (R256). A received frame is checked by the MAC, policed, hashed and dispatched to an engine. -/
  | frameReceived (port : Nat) (bytes : List Byte) (fcsOk : Bool) (work : Nat) (corr : Nat) (uncorr : Nat)
  /-- POLICING_INTERVAL_START (R148). A new 1 µs policing interval begins and grants are recomputed from the newest epoch's weights. -/
  | policingIntervalStart
  /-- MICROWORD_EXECUTE (R284). An engine executes one microword of a packet in its five phases. -/
  | microwordExecute (e : Nat) (pkt : Nat) (bad : Bool)
  /-- LOOKUP_RETURN (R290). A CAM, FDB, T2 or state lookup result returns and resumes the waiting packet. -/
  | lookupReturn (pkt : Nat) (ddr : BitVec 2)
  /-- UCODE_PARITY_REWRITE (R293). After a PARITY check the word is rewritten from a good engine copy within 64 grains. -/
  | ucodeParityRewrite (e : Nat) (addr : Nat)
  /-- PACKET_ENQUEUE (R377). An engine passes a finished packet to the queue manager, which admits it and hands it to the resequencer. -/
  | packetEnqueue (pkt : Nat)
  /-- RESEQ_GAP_TIMEOUT (R388). A missing number still not done GAP µs after its open grain is declared lost. -/
  | reseqGapTimeout (port : Nat) (seq : BitVec 16)
  /-- TIMED_RELEASE (R126). A timed packet's release boundary arrives and the gate starts it, holds it or treats it as late. -/
  | timedRelease (port : Nat) (dev : Int)
  /-- PORT_TRANSMIT_START (R379). A free port starts the head of the highest eligible prompt queue. -/
  | portTransmitStart (port : Nat) (dev : Int)
  /-- FRAME_TX_END (R376). The last bit of a copy leaves the wire and the packet's cells are freed with its last reference. -/
  | frameTxEnd (port : Nat)
  /-- MATCH_ENTRY_TIMEOUT (R102). A two-step correction entry unmatched for 1 s is freed. -/
  | matchEntryTimeout (port : Nat)
  /-- TSU_TXS_POP (R110). A normal read of TSU_TXS_W3 returns SEC_HI and pops the two-step record. -/
  | tsuTxsPop (m : Master) (port : Nat)
  /-- GATE_ENTRY_START (R381). A gate-list entry's start instant is reached and its gate states take effect. -/
  | gateEntryStart (port : Nat)
  /-- PREEMPT_VERIFY (R385). The 802.3br verify procedure completes or fails after link up. -/
  | preemptVerify (port : Nat) (ok : Bool)
  /-- LATENCY_WINDOW_END (R125). At a window's last grain the latency monitor latches WORST, BOUND and MARGIN. -/
  | latencyWindowEnd (pmbOk : Bool) (mode : BitVec 8)
  /-- ENGINE_WEDGE (R131). An engine's watchdog reaches 50,000 grains and a class F fault is recorded. -/
  | engineWedge (e : Nat)
  /-- PTN_BIND_WRITE (R145). A write of PTN_BIND changes a function's enable and, only while disabled, its partition. -/
  | ptnBindWrite (m : Master) (f : Nat) (v : BitVec 32)
  /-- PARTITION_RESET (R152). A partition reset decision puts PT n in RESETTING and stops its traffic and fetching. -/
  | partitionReset (n : Nat)
  /-- PARTITION_RESET_COMPLETE (R153). No packet of the partition remains; its state is cleared and PTN_RESET_DONE raised. -/
  | partitionResetComplete (n : Nat)
  /-- PARTITION_RESET_DEADLINE (R153). At g + T + 64,000 grains any remaining packet of the partition is discarded and the reset completes. -/
  | partitionResetDeadline (n : Nat)
  /-- PTN_RESET (R155). Command 0x05 requests a reset of a partition. -/
  | ptnReset (id : Nat)
  /-- PTN_WIN_RESET_WRITE (R160). Writing 0xC1EA to PTN_WIN_RESET requests a reset of the window's partition. -/
  | ptnWinResetWrite (m : Master) (n : Nat) (v : BitVec 32)
  /-- SQ_DOORBELL (R166). The host writes an SQ tail. -/
  | sqDoorbell (m : Master) (n : Nat) (i : Nat) (v : BitVec 32)
  /-- HEAD_DOORBELL (R181). The host writes a CQ or ER head, freeing entries and rearming the queue. -/
  | headDoorbell (m : Master) (n : Nat) (er : Bool) (i : Nat) (v : BitVec 32)
  /-- QUEUE_EN_WRITE (R189). Setting or clearing EN of an SQ, CQ or ER enables or stops it, or refuses the enable. -/
  | queueEnWrite (m : Master) (n : Nat) (kind : QKind) (i : Nat) (v : BitVec 32)
  /-- COMMAND_FETCH (R170). The CQ unit fetches a burst of up to 8 commands by DMA and stamps their arrival. -/
  | commandFetch (data : List Byte) (ok : Bool)
  /-- COMMAND_ARRIVAL (R207). A command's P7 arrival is applied and it is checked in order and passed to its interpreter. -/
  | commandArrival (id : Nat)
  /-- FENCE_COMMAND_START (R173). A FENCE command begins once every earlier command of its SQ has completed. -/
  | fenceCommandStart (id : Nat)
  /-- COMPLETION_WRITE (R175). A completion is written into its CQ when there is room. -/
  | completionWrite (n : Nat) (j : Nat) (ok : Bool)
  /-- INTERRUPT_COALESCE_TIMEOUT (R181). The oldest unsignalled entry reaches COAL_TIME and the queue signals MSI-X. -/
  | interruptCoalesceTimeout (n : Nat) (er : Bool) (i : Nat)
  /-- NOP (R197). Command 0x00 does nothing. -/
  | nop (id : Nat)
  /-- DEV_RESET (R209). Command 0x01 with the key causes a device reset without completion. -/
  | devReset (id : Nat)
  /-- FCU_HIST_READ (R589). Command 0x03 copies the fault history to a host buffer. -/
  | fcuHistRead (id : Nat) (ok : Bool)
  /-- CAM_WRITE (R321). Command 0x10 writes one CAM entry whole. -/
  | camWrite (id : Nat)
  /-- CAM_INVALIDATE (R321). Command 0x11 invalidates a range of CAM entries in ascending order. -/
  | camInvalidate (id : Nat)
  /-- CAM_LOOKUP (R319). Command 0x12 searches the CAM under a profile and may open a walk context. -/
  | camLookup (id : Nat)
  /-- CAM_STEP (R320). Command 0x13 returns the next match of a walk context. -/
  | camStep (id : Nat)
  /-- CAM_CONTEXT_TIMEOUT (R212). A walk context idle for 1,000,000 grains is freed. -/
  | camContextTimeout (n : Nat) (c : Nat)
  /-- FDB_WRITE (R214). Command 0x18 writes an FDB entry, displacing the oldest dynamic entry if needed. -/
  | fdbWrite (id : Nat)
  /-- FDB_DELETE (R214). Command 0x19 deletes an FDB entry. -/
  | fdbDelete (id : Nat)
  /-- FDB_FLUSH (R213). Command 0x1A removes FDB entries of the region by port, VID or dynamic selection. -/
  | fdbFlush (id : Nat)
  /-- FDB_READ (R213). Command 0x1B returns an FDB entry's state. -/
  | fdbRead (id : Nat)
  /-- CFG_OPEN (R216). Command 0x20 opens a configuration transaction. -/
  | cfgOpen (id : Nat)
  /-- CFG_SET (R234). Command 0x21 adds or replaces a setting in the open transaction. -/
  | cfgSet (id : Nat)
  /-- CFG_COMMIT (R235). Command 0x22 closes the transaction and schedules its commit at grain AT. -/
  | cfgCommit (id : Nat)
  /-- CFG_ABORT (R234). Command 0x23 discards the open transaction or cancels a pending commit. -/
  | cfgAbort (id : Nat)
  /-- COMMIT_APPLY (R235). A commit is presented at its grain, checked, and opens an epoch, waits or fails. -/
  | commitApply
  /-- COMMIT_WAIT_TIMEOUT (R239). A waiting commit reaches AT + T_max + 64,000 grains and completes with EPOCH_BUSY. -/
  | commitWaitTimeout
  /-- EPOCH_RETIRE (R237). The older epoch retires when no packet carrying it remains, and the mirror starts. -/
  | epochRetire
  /-- MIRROR_COMPLETE (R298). A mirror copy of rules and words into the retired bank and region completes. -/
  | mirrorComplete
  /-- QUIESCE_END (R243). No packet in a drain's scope remains; drained settings apply and the commit completes. -/
  | quiesceEnd
  /-- QUIESCE_DEADLINE (R243). At g + T_max + 64,000 grains remaining in-scope packets are discarded and the quiesce ends. -/
  | quiesceDeadline
  /-- CFG_IMAGE_APPLY (R246). Command 0x44 verifies a signed image and runs it as one transaction. -/
  | cfgImageApply (id : Nat) (image : List Byte) (ok : Bool)
  /-- T2_STAGE (R415). Command 0x28 writes tiles into a table's staging side, waiting if the side is still live. -/
  | t2Stage (id : Nat) (data : List Byte) (ok : Bool)
  /-- T2_STAGE_WRITE_START (R415). A waiting T2_STAGE begins writing when the older epoch retires. -/
  | t2StageWriteStart (id : Nat)
  /-- T2_STAGE_COMPLETE (R415). Every staged byte is written and readable and T2_STAGE completes. -/
  | t2StageComplete (id : Nat)
  /-- PMC_CENSUS (R220). Command 0x30 schedules a census at grain AT or joins the pending one. -/
  | pmcCensus (id : Nat)
  /-- CENSUS_CAPTURE (R597). At boundary AT every counter is captured. -/
  | censusCapture
  /-- CENSUS_COMPLETE (R597). The census is written into its slot and PMC_CENSUS completes. -/
  | censusComplete
  /-- PMC_READ (R599). Command 0x31 writes a census header and the issuer's entries to a buffer. -/
  | pmcRead (id : Nat) (ok : Bool)
  /-- PRM_STORE (R221). Command 0x34 reads its buffer and requests a PRM store. -/
  | prmStore (id : Nat) (data : List Byte) (ok : Bool)
  /-- PRM_STORE_ADMIT (R549). The store request's P0 decision admits it against the ledger or refuses it with ENERGY_SHORT. -/
  | prmStoreAdmit
  /-- PRM_STORE_COMPLETE (R553). An admitted store's last line is durable and it completes. -/
  | prmStoreComplete
  /-- PRM_READ (R554). Command 0x35 reads PRM lines into a buffer. -/
  | prmRead (id : Nat) (bad : List Nat) (ok : Bool)
  /-- PRM_SCRUB_LINE (R552). The device zeroes one line of a SCRUB unit in the background. -/
  | prmScrubLine (unit : Nat)
  /-- PRM_REGION_WRITE (R552). A write of PRM_REGION changes a partition's region and marks gained units SCRUB, or is refused. -/
  | prmRegionWrite (m : Master) (n : Nat) (v : BitVec 32)
  /-- FW_INFO (R222). Command 0x40 returns the firmware version, build and signer. -/
  | fwInfo (id : Nat)
  /-- PTP_INSTANCE (R105). Command 0x48 configures a firmware PTP instance. -/
  | ptpInstance (id : Nat)
  /-- KEY_GENERATE (R490). Command 0x50 generates a key into an empty slot. -/
  | keyGenerate (id : Nat)
  /-- KEY_IMPORT (R492). Command 0x51 imports a key blob into a slot. -/
  | keyImport (id : Nat) (blob : List Byte) (ok : Bool)
  /-- KEY_EXPORT (R491). Command 0x52 exports a slot as a device-wrapped blob. -/
  | keyExport (id : Nat) (ok : Bool)
  /-- KEY_PUBLIC (R489). Command 0x53 returns a slot's public key. -/
  | keyPublic (id : Nat) (ok : Bool)
  /-- KEY_ZEROISE (R502). Command 0x54 empties a key slot. -/
  | keyZeroise (id : Nat)
  /-- PKA_SIGN (R485). Command 0x58 signs a digest or message with a private key. -/
  | pkaSign (id : Nat) (buf : List Byte) (ok : Bool)
  /-- PKA_VERIFY (R486). Command 0x59 verifies a signature with a supplied public key. -/
  | pkaVerify (id : Nat) (buf : List Byte) (ok : Bool)
  /-- PKA_AGREE (R493). Command 0x5A derives a shared secret into a destination slot. -/
  | pkaAgree (id : Nat) (buf : List Byte) (ok : Bool)
  /-- RNG_READ (R496). Command 0x5B reseeds the DRBG and returns random bytes. -/
  | rngRead (id : Nat) (ok : Bool)
  /-- TAG_FLOW_SET (R369). Command 0x5C claims a tag flow and sets its checking mode and key slot. -/
  | tagFlowSet (id : Nat)
  /-- TDM_CHAIN_SET (R459). Command 0x60 sets a channel's chain, span and hem schedule from START. -/
  | tdmChainSet (id : Nat)
  /-- RADIO_NODE_ADD (R460). Command 0x61 registers a node with spans and a sync word. -/
  | radioNodeAdd (id : Nat)
  /-- RADIO_NODE_DEL (R460). Command 0x62 removes a node from the schedule. -/
  | radioNodeDel (id : Nat)
  /-- MDM_SHAPE_SET (R449). Command 0x63 installs filter-and-mask or DPD shaping after any burst on air. -/
  | mdmShapeSet (id : Nat) (buf : List Byte) (ok : Bool)
  /-- HUP_MEASURE (R546). Command 0x70 runs one hold-up bank test. -/
  | hupMeasure (id : Nat)
  /-- TWIN_REJOIN (R623). Command 0x78 starts or reports the twin rejoin. -/
  | twinRejoin (id : Nat)
  /-- PKA_SERVICE_START (R483). A firmware service reaches the head of the PKA order and its PKA phase begins. -/
  | pkaServiceStart
  /-- PKA_SERVICE_RELEASE (R483). The service's fixed time elapses and its result is released. -/
  | pkaServiceRelease (ok : Bool)
  /-- PKA_DP_OP (R482). A write to PKA_DP_OP starts a datapath operation for exactly T grains. -/
  | pkaDpOp (m : Master) (v : BitVec 32)
  /-- PKA_DP_COMPLETE (R482). After T grains the datapath result becomes readable, or PKA_TIMING fences the unit. -/
  | pkaDpComplete (late : Bool)
  /-- ENTROPY_HEALTH_FAIL (R495). A noise-source health test fails, clearing ENT_OK and restarting the source. -/
  | entropyHealthFail (apt : Bool)
  /-- ENTROPY_STARTUP_PASS (R495). The start-up test passes and ENT_OK returns. -/
  | entropyStartupPass
  /-- DRBG_RESEED (R496). A reseed falls due after 4,096 requests or 1 s. -/
  | drbgReseed
  /-- DRBG_RESEED_LIMIT (R496). A deferred reseed reaches 65,536 requests or 60 s and the PKA is fenced with cause ENTROPY. -/
  | drbgReseedLimit
  /-- PKA_KEYSTORE (R501). An uncorrectable slot integrity error empties the slot and raises event 667. -/
  | pkaKeystore (slot : Nat)
  /-- TILE_TRANSFER_COMPLETE (R409). A state tile's transfer between homes ends and its home changes. -/
  | tileTransferComplete (tile : Nat)
  /-- STATE_REQUEST_TIMEOUT (R413). A tile request unserved for 2,000 grains fails and counts NOSTATE. -/
  | stateRequestTimeout (pkt : Nat)
  /-- DDR_PATROL_SCRUB (R418). The patrol scrub reads a burst and corrects or reports errors. -/
  | ddrPatrolScrub (addr : Nat) (status : BitVec 2)
  /-- DDR_TIMEOUT (R427). A DDR5 read without response for 10 µs returns LFAIL with a K fault. -/
  | ddrTimeout (pkt : Nat)
  /-- DDR_TRAINING_COMPLETE (R427). DDR5 training ends with success or failure and T2_DONE is set. -/
  | ddrTrainingComplete (aOk : Bool) (bOk : Bool) (rate : BitVec 2) (gib : BitVec 8)
  /-- LINK_CONDITION_CHANGE (R261). A port's link condition changes at a boundary and its link-state machine moves. -/
  | linkConditionChange (port : Nat) (cond : LinkCond)
  /-- UP_HOLD_EXPIRY (R261). Good conditions held for UP_HOLD bring the port UP as a P4 input. -/
  | upHoldExpiry (port : Nat)
  /-- DOWN_HOLD_EXPIRY (R261). A bad condition persisting for DN_HOLD takes the port down as a P4 input. -/
  | downHoldExpiry (port : Nat)
  /-- PRT_CTL_WRITE (R271). A write of PRT_CTL sets ADMIN_DOWN and the hold times. -/
  | prtCtlWrite (m : Master) (port : Nat) (v : BitVec 32)
  /-- LINK_DECISION (R266). A P4 link up or down decision is applied, flushing queues on down. -/
  | linkDecision
  /-- LEARN_DECISION (R331). A P6 learning event is applied to the FDB by the learning decision table. -/
  | learnDecision
  /-- AGEING_SWEEP_STEP (R334). A sweep step examines one bucket and removes aged or down-port entries. -/
  | ageingSweepStep
  /-- CASC_CTL_WRITE (R338). A write of CASC_CTL enables or disables the cascade and starts training. -/
  | cascCtlWrite (m : Master) (v : BitVec 32)
  /-- CASC_ALIGNED (R322). Cascade training locks every lane and sets ALIGNED. -/
  | cascAligned
  /-- CASC_LANE_LOSS (R345). A cascade lane loses lock, clearing ALIGNED and starting retraining. -/
  | cascLaneLoss (up : Bool)
  /-- CASC_LOOKUP_ISSUE (R324). A queued cascaded lookup is sent in its origin's issue slot. -/
  | cascLookupIssue (mi : Bool)
  /-- CASC_REQUEST (R323). A cascade request record arrives and the device searches, relays and drives CASC_MO_N. -/
  | cascRequest (bytes : List Byte) (up : Bool) (mi : Bool)
  /-- CASC_RESULT (R327). A cascade result record arrives and is relayed or gathered by the origin. -/
  | cascResult (bytes : List Byte) (up : Bool)
  /-- CASC_RESULT_FORM (R323). At t + 112 the origin forms the cascaded lookup result. -/
  | cascResultForm
  /-- PUNT_RING_WRITE (R362). A punted frame is written into the next punt ring descriptor or dropped. -/
  | puntRingWrite (n : Nat) (pkt : Nat) (desc : List Byte) (ok : Bool)
  /-- PUNT_VECTOR_DEFERRED (R362). A deferred punt-ring vector is sent at the end of its 1,024-grain interval. -/
  | puntVectorDeferred (n : Nat)
  /-- SEND_RING_POLL (R363). The device reads the send ring head descriptor. -/
  | sendRingPoll (n : Nat) (desc : List Byte) (ok : Bool)
  /-- SEND_RING_READ (R363). A send-ring frame is read, stamped and enters as logical port 100. -/
  | sendRingRead (n : Nat) (frame : List Byte) (ok : Bool) (work : Nat)
  /-- RED_WINDOW_FORGET (R366). A redundancy window without a frame for FORGET ms is removed. -/
  | redWindowForget (node : Nat) (mac : BitVec 48)
  /-- SCHEDULE_START (R474). A new TDMA schedule takes effect at START. -/
  | scheduleStart (ch : Nat)
  /-- CHAIN_START (R460). A chain starts and node table changes and span roles take effect. -/
  | chainStart (ch : Nat)
  /-- SPAN_START (R461). A span starts with its role. -/
  | spanStart (ch : Nat)
  /-- BURST_START (R462). The device starts a burst in a beacon or downlink window, raising PA_EN. -/
  | burstStart (ch : Nat)
  /-- BURST_END (R444). A device burst's ramp-down ends; PA_EN falls and mask and DPD checks are judged. -/
  | burstEnd (ch : Nat) (bins : List (Nat × Int)) (nmse : BitVec 16)
  /-- DPD_UPDATE (R445). New DPD coefficients fitted by firmware take effect at the next burst start. -/
  | dpdUpdate (ch : Nat) (ls : List (BitVec 32)) (coef : List (BitVec 32))
  /-- PA_LIMIT (R448). PA_EN high for 41 ms is dropped and the channel fenced. -/
  | paLimit (ch : Nat)
  /-- SYNC_DETECT (R439). The receiver detects a sync word and begins decoding the burst. -/
  | syncDetect (ch : Nat) (word : BitVec 32) (sub : Nat)
  /-- BURST_DECODED (R440). A received burst is decoded, reported and classed by placement. -/
  | burstDecoded (ch : Nat) (coded : List Byte) (level : BitVec 16) (cfo : BitVec 16)
  /-- RADIO_FRAME_RELEASE (R470). At the end of its last overlapped span a kept frame becomes a packet or is discarded. -/
  | radioFrameRelease (ch : Nat) (work : Nat)
  /-- NOISE_FLOOR_MEASURE (R443). An idle span's noise measurement is kept or discarded and NF updated. -/
  | noiseFloorMeasure (ch : Nat) (level : BitVec 16) (full : Bool)
  /-- DCLK_LOSS (R455). RFm_DCLK is lost; DCLK_OK clears, PA_EN drops and bursts are discarded. -/
  | dclkLoss (ch : Nat)
  /-- DCLK_RETURN (R455). After 1 ms of good clock DCLK_OK returns. -/
  | dclkReturn (ch : Nat)
  /-- MDM_HELD_RELEASE (R447). Writing 1 to MDM_STS.HELD releases the hold. -/
  | mdmHeldRelease (m : Master) (ch : Nat)
  /-- RF_SPI_GO (R430). Writing GO starts an RF control SPI transaction. -/
  | rfSpiGo (m : Master) (ch : Nat) (v : BitVec 32)
  /-- RF_SPI_COMPLETE (R430). The SPI transaction finishes and BUSY clears. -/
  | rfSpiComplete (ch : Nat) (rx : BitVec 32)
  /-- LOCKSTEP_SELF_TEST (R508). Every PERIOD µs a mismatch is injected into the comparator and checked. -/
  | lockstepSelfTest (caught : Bool)
  /-- LOCKSTEP_FAULT (R509). A cluster fault condition is detected and the cores stop. -/
  | lockstepFault (causes : BitVec 4)
  /-- TCM_CORR (R511). A corrected TCM error is written back and recorded as class C. -/
  | tcmCorr (addr : Nat)
  /-- CC_WDOG_KICK (R511). Writing 0x5A17 to CC_WDOG restarts the firmware watchdog. -/
  | ccWdogKick (m : Master) (v : BitVec 32)
  /-- FW_WATCHDOG (R511). The watchdog count reaches TIME and the cluster is fenced. -/
  | fwWatchdog
  /-- CC_FUSE_PROG_GO (R514). A GO write programs the board hash fuse or is refused. -/
  | ccFuseProgGo (m : Option Master) (v : BitVec 32) (vio : Bool)
  /-- FUSE_PROG_DONE (R514). Fuse programming completes and DONE is set. -/
  | fuseProgDone
  /-- SEM_ACQ (R516). An ACQ write grants a free semaphore or queues the waiter. -/
  | semAcq (m : Master) (sem : Nat) (v : BitVec 32)
  /-- SEM_REL (R516). A REL write frees a semaphore and grants it to the head waiter. -/
  | semRel (m : Master) (sem : Nat) (v : BitVec 32)
  /-- SEM_RENEW (R516). A RENEW write extends the holder's lease. -/
  | semRenew (m : Master) (sem : Nat) (v : BitVec 32)
  /-- SEM_LEASE_EXPIRY (R517). A lease ends without release, the semaphore is revoked and passed on. -/
  | semLeaseExpiry (sem : Nat)
  /-- IDCODE (R524). TAP instruction IDCODE selects the identification register. -/
  | idcode
  /-- SAMPLE_PRELOAD (R524). TAP instruction SAMPLE/PRELOAD samples pins non-intrusively. -/
  | samplePreload (pins : List Bool) (load : List Bool)
  /-- CLAMP (R525). TAP instruction CLAMP acts only while RESET_N is low. -/
  | clamp
  /-- HIGHZ (R525). TAP instruction HIGHZ acts only while RESET_N is low. -/
  | highz
  /-- EXTEST (R525). TAP instruction EXTEST drives the boundary register while RESET_N is low. -/
  | extest
  /-- EXTEST_PULSE (R525). IEEE 1149.6 EXTEST_PULSE on AC-coupled lanes while RESET_N is low. -/
  | extestPulse
  /-- EXTEST_TRAIN (R525). IEEE 1149.6 EXTEST_TRAIN on AC-coupled lanes while RESET_N is low. -/
  | extestTrain
  /-- BYPASS (R524). TAP instruction BYPASS, also taken by unlisted codes. -/
  | bypass (code : BitVec 8)
  /-- DBG_AUTH (R518). The debugger reads a fresh nonce and the device serial. -/
  | dbgAuth
  /-- DBG_AUTH_RESPONSE (R518). The debugger's HMAC response is checked and a session opens or fails. -/
  | dbgAuthResponse (level : BitVec 2) (mac : List Byte)
  /-- DBG_CLOSE (R518). TAP instruction DBG_CLOSE ends the debug session. -/
  | dbgClose
  /-- TAP_RESET (R518). A TAP reset ends the debug session. -/
  | tapReset
  /-- DEBUG_PEEK (R520). A DBG_ACCESS read without TAKE returns the peek value without side effects. -/
  | debugPeek (core : Bool) (addr : Nat)
  /-- DEBUG_TAKE (R520). A DBG_ACCESS read with TAKE performs a normal read and is logged. -/
  | debugTake (addr : Nat)
  /-- DEBUG_WRITE (R521). A DBG_ACCESS write to the control or core space is applied and logged. -/
  | debugWrite (core : Bool) (addr : Nat) (v : BitVec 32)
  /-- DEBUG_HALT (R522). A HALT stops both cores at the next retired instruction. -/
  | debugHalt
  /-- DEBUG_RESUME (R522). A RESUME restarts both halted cores. -/
  | debugResume
  /-- POWER_ON (R535). First application of VAON starts D0 and the rail bring-up sequence. -/
  | powerOn
  /-- RAIL_TIMEOUT (R535). A rail not good within 10 ms stops the sequence with a class X fault. -/
  | railTimeout (rail : Nat)
  /-- RAIL_RETRY (R535). One second after a rail timeout the sequence is retried. -/
  | railRetry
  /-- SEQUENCER_LOAD (R536). Firmware checks and loads the sequencer image and runs TRIM. -/
  | sequencerLoad (image : List Byte) (io : List Nat)
  /-- SEQ_FAIL (R538). A sequencer entry fails and the ROM sequence completes the work. -/
  | seqFail
  /-- PMB_ALERT (R539). PMB_ALERT_N asserts and event 672 CODE 3 is raised. -/
  | pmbAlert
  /-- VOUT_POLL (R541). READ_VOUT is polled and a rise is confirmed or VCORE_LOW recorded. -/
  | voutPoll (mv : BitVec 16) (ok : Bool)
  /-- VCORE_SLOW (R541). A rise not confirmed within 1 ms records VCORE_SLOW. -/
  | vcoreSlow
  /-- STANDBY_ENTRY (R543). STBY_N low for 32 ticks resets the device and lowers the main rails. -/
  | standbyEntry (io : List Nat)
  /-- WAKE (R544). A WAKE edge, STBY_N high or the alarm brings the rails up and boots. -/
  | wake (src : BitVec 2) (io : List Nat)
  /-- HUP_TEST_START (R546). A periodic hold-up test begins, reserving E_TEST, or is skipped. -/
  | hupTestStart
  /-- HUP_TEST_END (R545). The 2 ms test ends; CAP and ESR are computed or the test discarded. -/
  | hupTestEnd (v0 : Nat) (v1 : Nat) (v2 : Nat)
  /-- HUP_SAMPLE (R547). Each µs the bank is sampled and E_BANK recomputed. -/
  | hupSample (code : BitVec 12)
  /-- PFAIL_N_ASSERT (R556). PFAIL_N low for PF_FILT µs is a P0 supply source. -/
  | pfailNAssert
  /-- MONITOR_TRIP (R556). HUP_SENSE falling below V_TRIP is a P0 supply source. -/
  | monitorTrip (code : BitVec 12)
  /-- PWR_GOOD_LOSS (R556). A PWR_GOOD falling while enabled is a P0 supply source with RAIL_LOST. -/
  | pwrGoodLoss (rail : Nat)
  /-- LAST_GASP_WRITE (R557). The last-gasp record is written into the free slot once the running store stops at a line boundary. -/
  | lastGaspWrite
  /-- SHED_COMPLETE (R557). The last admitted store is durable and the SHED entry lowers the rails. -/
  | shedComplete (io : List Nat)
  /-- INPUT_RESTORED (R558). Input good for 100 ms after a shed powers the device up as at power-on. -/
  | inputRestored
  /-- FAULT_DETECTED (R568). A detected fault is applied as a P1 decision: recorded, counted and acted on by class. -/
  | faultDetected (up : Option (Nat × Nat × Nat))
  /-- FATAL_RESET (R581). Ten µs after an X fault without X_HOLD the device resets. -/
  | fatalReset
  /-- FCU_XRESET (R581). Writing 0xD5E7 to FCU_CTL.XRESET during a fatal hold resets the device. -/
  | fcuXreset (m : Master) (v : BitVec 32)
  /-- PMC_CFG_WRITE (R600). A write of PMC_CFG changes a counter's selection, owner, threshold or enable. -/
  | pmcCfgWrite (m : Master) (u : Nat) (c : Nat) (hi : Bool) (v : BitVec 32)
  /-- PMC_CLR (R596). Writing CLR sets the counter to 0. -/
  | pmcClr (m : Master) (u : Nat) (c : Nat) (v : BitVec 32)
  /-- COUNTER_VIEW_READ (R601). A normal read of a counter's LO word latches its HI word. -/
  | counterViewRead (m : Master) (n : Nat) (u : Nat) (c : Nat) (hi : Bool)
  /-- TORV_LINK_UP (R606). All four lanes lock and a keep-alive arrives; the Torv link is up. -/
  | torvLinkUp
  /-- TORV_LINK_DOWN (R606). Lane lock loss, a lost or late decision takes the Torv link down. -/
  | torvLinkDown
  /-- TORV_KEEPALIVE_TIMEOUT (R606). No keep-alive for 4 µs takes the link down. -/
  | torvKeepaliveTimeout
  /-- TORV_KEEPALIVE (R608). A KEEPALIVE frame carries the partner's state and cluster status. -/
  | torvKeepalive (frame : List Byte)
  /-- TORV_DECISION (R613). A DECISION frame carries a shared learning or sweep decision. -/
  | torvDecision (frame : List Byte)
  /-- TORV_TOUCH (R614). A TOUCH frame raises a shared entry's TOUCH. -/
  | torvTouch (frame : List Byte)
  /-- TORV_COMMAND (R615). A COMMAND frame carries a twin-scoped command for checking. -/
  | torvCommand (frame : List Byte)
  /-- TORV_VERDICT (R615). A VERDICT frame returns the partner's check status of a carried command. -/
  | torvVerdict (frame : List Byte)
  /-- TORV_TIME (R617). A TIME frame carries the senior's time changes to apply at LAG. -/
  | torvTime (frame : List Byte)
  /-- TORV_READY (R616). A READY frame coordinates an epoch opening with a configuration digest. -/
  | torvReady (frame : List Byte)
  /-- TORV_PROBE (R608). A PROBE frame from the junior is answered with a PROBE_REPLY. -/
  | torvProbe (frame : List Byte)
  /-- TORV_PROBE_REPLY (R608). A PROBE_REPLY lets the junior compute GOFF and one-way delay. -/
  | torvProbeReply (frame : List Byte)
  /-- TORV_BULK (R609). A BULK frame replaces the ways of one bucket during rejoin. -/
  | torvBulk (frame : List Byte)
  /-- TORV_BULK_END (R622). A BULK_END frame ends a transfer pass. -/
  | torvBulkEnd (frame : List Byte)
  /-- TORV_NOTICE (R625). A NOTICE frame reports a partner fence and raises event 676. -/
  | torvNotice (frame : List Byte)
  /-- TORV_ROLE (R622). A ROLE frame carries the partner's senior strap after training. -/
  | torvRole (frame : List Byte)
  /-- SHARED_DECISION_APPLY (R613). A shared decision reaches its pair grain and enters the sequencer on both devices. -/
  | sharedDecisionApply
  /-- ALIVE_TOGGLE (R610). TWN_ALIVE_OUT toggles every 10 µs. -/
  | aliveToggle
  /-- ALIVE_IN_STOPPED (R610). No TWN_ALIVE_IN edge for 25 µs counts the partner's alive line as stopped. -/
  | aliveInStopped
  /-- WITNESS_SAMPLE (R611). In its sense window a device samples TWN_WITNESS and may change twin state. -/
  | witnessSample (level : Bool)
  /-- TWN_CTL_WRITE (R619). A write of TWN_CTL enables or disables twin operation. -/
  | twnCtlWrite (m : Master) (v : BitVec 32)
  /-- REJOIN_RETRY (R619). One second after a failed rejoin the device retries. -/
  | rejoinRetry
  /-- REJOIN_COMPLETE (R622). At pair grain t the junior loads the senior's time and both become PAIRED. -/
  | rejoinComplete
  /-- RESET_N_ASSERT (R634). RESET_N low resets the device, squelching outputs within 200 ns. -/
  | resetNAssert
  /-- RESET_N_RELEASE (R636). RESET_N rises; straps are latched and boot begins. -/
  | resetNRelease (straps : BitVec 6)
  /-- INTERNAL_RESET_RELEASE (R633). An internal 10 µs reset is released and boot begins. -/
  | internalResetRelease (straps : BitVec 6)
  /-- ISLAND_CLOCK_OK (R635). An island's start condition holds and its CLK_OK bit sets. -/
  | islandClockOk (d : Nat)
  /-- BOOT_PHASE_END (R640). A boot phase completes and the next begins. -/
  | bootPhaseEnd (nor0 : List Byte) (nor1 : List Byte)
  /-- BOOT_DONE (R641). BOOT_DONE is set, command fetching starts and TWN_ALIVE_OUT toggles. -/
  | bootDone
  /-- DEV_BOOT_LOAD_WRITE (R648). A write to DEV_BOOT_LOAD supplies the next word of the boot stream. -/
  | devBootLoadWrite (m : Master) (v : BitVec 32)
  /-- BOOT_STREAM_TIMEOUT (R638). A management-port boot stream not complete within 10 s fails. -/
  | bootStreamTimeout
  /-- PCI_PERST (R652). PCI_PERST_N low resets the endpoint without a device reset. -/
  | pciPerst (low : Bool)
  /-- TJ_SAMPLE (R675). The junction temperature is sampled and HOT set or cleared. -/
  | tjSample (tj : BitVec 12)
  /-- ALIVE_IN_RETURN (R619). TWN_ALIVE_IN starts toggling again after it counted as stopped, so A holds once more for the twin transitions. -/
  | aliveInReturn
  /-- SUPPLY_LOSS (R645). All supplies, VAON included, vanish at once without a shed, and the outputs stop as their rails fall. -/
  | supplyLoss
  /-- PCIE_FUNCTION_RESET (R194). A PCIe function reset of one function returns its MSI-X table and pending-bit array to their reset values. -/
  | pcieFunctionReset (f : Nat)
  /-- DDR_CASE_TEMPERATURE_CHANGE (R419). The DDR5 components report a case temperature crossing 85 °C, and the controller doubles or restores the refresh rate and sets or clears HOT. -/
  | ddrCaseTemperatureChange (hot : Bool)
  /-- KEYGEN_SLICE_END (R483). A 1 ms slice of RSA key generation ends, letting queued services run, or the non-constant generation finishes and releases its key. -/
  | keygenSliceEnd (finished : Bool)
deriving DecidableEq, Repr

end Sys2Proof
end

