-- ==== Sys2Proof/Decode.lean ====
section
/-! DEFINITION. The words of the opcode table. -/

namespace Sys2Proof

/-- The command that a table word spells. No row of the opcode table gives bits: a command comes to the block as an access,
an edge, a frame or an expiry, never as a word of an instruction stream; so no word spells one. -/
def decodeTableWord (_nbits _w : Nat) : Option Instr := none

end Sys2Proof
end

