-- ==== Sys2Proof/Config.lean ====
section
/-! DEFINITION. What a part or its firmware fixes and the values the spec leaves open. An opaque constant has no body: nothing can be proved of its value. -/

namespace Sys2Proof.Config

/-- The part is an XA grade, otherwise IA (DEV_ID.GRADE, R13). -/
opaque gradeXA : Bool

/-- DEV_ID.GRADE (R13). -/
def grade : BitVec 4 := if gradeXA then 2 else 1

/-- Reset value of DEV_TJ.ALARM in 0.25 degree C: +100 degree C for IA, +110 for XA (R675). -/
def alarmReset : BitVec 12 := if gradeXA then 440 else 400

/-- Free values: the n-th value the spec leaves open in a run. -/
opaque freeValue : Nat → BitVec 64

/-- Word `a` of the base program (R281), which the spec does not list. -/
opaque baseWord : Nat → BitVec 128

/-- The bits of the base program's class key that the spec does not give (R296), from the frame and its ingress port. -/
opaque classKeyBits : List Byte → Nat → BitVec 64

/-- Whether a frame's IEC 62351-6 security extension holds under a mode and a key (R369, R370). -/
opaque tagOk : Nat → List Byte → List Byte → Bool

/-- The device's 256-bit root key DRK (R491). -/
opaque drk : BitVec 256

/-- The n-th byte that the DRBG gives since the device was made (R496). -/
opaque drbgByte : Nat → BitVec 8

/-- What an RSA key generation of a modulus of `n` bytes finds (R490): n, p, q, dp, dq, qinv as the bytes of a private form,
with e left to the form; the second argument counts the DRBG bytes drawn before. -/
opaque rsaKey : Nat → Nat → List (BitVec 8)

/-- The device serial in the fuses (R513). -/
opaque serial : BitVec 64

/-- SHA-384 hash `k` of a vendor public key in the fuses, as a big-endian number (R513). -/
opaque keyHash : Nat → BitVec 384

end Sys2Proof.Config
end

