-- ==== Sys2Proof/Machine/State.lean ====
section
/-! DEFINITION. The state of the block as plain data: every register, FIFO, buffer, counter, mode and pin the spec gives it,
the queue of commands that wait, and the state at the first application of VAON (`State.reset`). -/

namespace Sys2Proof.Machine

/-- Why a command stops with a fault. -/
inductive Fault where
  /-- Raised by a meaning whose operand names no unit of the device (a port, engine, partition, queue, channel, slot, register or tile number out of range): the row describes no such event. Safe: the machine stops. -/
  | noSuchUnit
deriving DecidableEq, Repr

/-- Why a command is refused. -/
inductive Refusal where
  /-- Raised by a dispatch arm whose row has no meaning yet. Safe: the machine stops. -/
  | notModelled (mnemonic : String)
deriving DecidableEq, Repr

/-- A record of the time-base sample FIFO (R79). -/
structure Smp where
  /-- TB_TIME of the edge in 2^-48 ns (R57). -/
  stamp : Nat
  /-- 0 REFA, 1 REFB, 2 PPSA, 3 PPSB. -/
  src : BitVec 2
  /-- samples were lost before this one. -/
  loss : Bool
  /-- grain stamp. -/
  grain : Grain
deriving DecidableEq, Repr

/-- A capture record of one ECAP input (R83). -/
structure EvcRec where
  /-- compensated TB_TIME in 2^-48 ns. -/
  stamp : Nat
  /-- 0 rising, 1 falling. -/
  falling : Bool
  /-- stamps were lost before this one. -/
  loss : Bool
  /-- grain stamp. -/
  grain : Grain
deriving DecidableEq, Repr

/-- A scheduled TB_ADJUST (R73). -/
structure Adj where
  /-- true = SET, false = STEP. -/
  set : Bool
  /-- grain of application. -/
  at_ : Grain
  /-- STEP value in 2^-48 ns. -/
  step : Int
  /-- SET value in 2^-48 ns. -/
  value : Nat
  /-- the command that waits for it; none for the load of a rejoin (R622). -/
  cmd : Option Nat
deriving DecidableEq, Repr

/-- Qualification state of one REF frequency input (R58). -/
structure RefIn where
  /-- REFx_OK (R58,R78). -/
  ok : Bool
  /-- grain of the last edge seen (R58). -/
  last : Option Grain
  /-- the current window held a gap of 256 grains (R58). -/
  gap : Bool
deriving DecidableEq, Repr

/-- Qualification state of one REF frequency input (R58) at device reset. -/
def RefIn.reset : RefIn where
  ok := false
  last := none
  gap := false

/-- Qualification state of one PPS input (R58). -/
structure PpsIn where
  /-- PPSx OK (R58,R78). -/
  ok : Bool
  /-- grain of the last edge (R58). -/
  last : Option Grain
  /-- consecutive good intervals, up to 10 (R58). -/
  good : Nat
deriving DecidableEq, Repr

/-- Qualification state of one PPS input (R58) at device reset. -/
def PpsIn.reset : PpsIn where
  ok := false
  last := none
  good := 0

/-- Time base (03). -/
structure Tb where
  /-- TB_TIME with its residue, in 2^-48 ns, modulo 2^48 s (R55,R56,R75). -/
  t : Nat
  /-- frequency word in force (R56,R76). -/
  f : BitVec 40
  /-- staging word of TB_FREQ_LO (R76). -/
  stageLo : BitVec 32
  /-- word in force during the grain before the current one (R61). -/
  fPrev : BitVec 40
  /-- HOLDOVER during the grain before the current one (R61). -/
  holdPrev : Bool
  /-- TB_ERR_EST written, in force from the next boundary (R63,R64). -/
  pEst : Option (BitVec 32)
  /-- TB_REF_CTL written, in force from the next boundary (R61,R62). -/
  pRef : Option (BitVec 32)
  /-- word committed by TB_FREQ_HI, in force from the next boundary (R56,R76). -/
  pendF : Option (BitVec 40)
  /-- TB_TIME_SEC_LO latch (R75). -/
  secLoLatch : BitVec 32
  /-- TB_TIME_HI latch: FRAC and SEC[47:32] (R75). -/
  hiLatch : BitVec 24
  /-- TB_FREQ_HI latch (R76). -/
  fHiLatch : BitVec 8
  /-- TB_REF_CTL.SRC (R58,R77). -/
  src : BitVec 2
  /-- TB_REF_CTL.REFA_FREQ (R77). -/
  refaFreq : BitVec 2
  /-- TB_REF_CTL.REFB_FREQ (R77). -/
  refbFreq : BitVec 2
  /-- TB_REF_CTL.HOLD_AVG (R61,R77). -/
  holdAvg : BitVec 4
  /-- TB_REF_CTL.SMP_INT (R60,R77). -/
  smpInt : BitVec 2
  /-- REFA (R58). -/
  refA : RefIn
  /-- REFB (R58). -/
  refB : RefIn
  /-- PPSA (R58). -/
  ppsA : PpsIn
  /-- PPSB (R58). -/
  ppsB : PpsIn
  /-- next sampling boundary of TB_TIME whose first REF edge is to be stamped (2^-48 ns) (R60). -/
  smpFrom : Nat
  /-- sample FIFO, oldest first (R60,R79,R91). -/
  fifo : List Smp
  /-- a sample was lost since the last one stored (R60). -/
  fifoLoss : Bool
  /-- HOLDOVER (R61,R78). -/
  holdover : Bool
  /-- samples of F of the running mean, newest first (R61). -/
  means : List (Grain × BitVec 40)
  /-- only samples later than this boundary count (R61). -/
  meanFloor : Grain
  /-- pending TB_ADJUST (ADJ_PENDING) (R73,R74,R78). -/
  adj : Option Adj
  /-- adjustments applied (grain, value in 2^-48 ns), newest first (R87,R101). -/
  adjLog : List (Grain × Int)
  /-- TB_VALID.BOUND (R64,R80). -/
  bound : BitVec 24
  /-- TB_VALID.TRACEABLE (R64,R80). -/
  traceable : Bool
  /-- TB_ERR_EST (R63,R80). -/
  errEst : BitVec 32
  /-- TB_HOLD_RATE (R63,R80). -/
  holdRate : BitVec 24
  /-- growth counter (R63). -/
  growth : Nat
  /-- TIME_VALID pin (R64,R78). -/
  timeValid : Bool
deriving DecidableEq, Repr

/-- Time base (03) at device reset. -/
def Tb.reset : Tb where
  t := 0
  f := 0
  stageLo := 0
  fPrev := 0
  holdPrev := false
  pEst := none
  pRef := none
  pendF := none
  secLoLatch := 0
  hiLatch := 0
  fHiLatch := 0
  src := 0
  refaFreq := 0
  refbFreq := 0
  holdAvg := 6
  smpInt := 3
  refA := RefIn.reset
  refB := RefIn.reset
  ppsA := PpsIn.reset
  ppsB := PpsIn.reset
  smpFrom := 0
  fifo := []
  fifoLoss := false
  holdover := false
  means := []
  meanFloor := 0
  adj := none
  adjLog := []
  bound := 100
  traceable := false
  errEst := 0xFFFFFFFF
  holdRate := 50000
  growth := 0
  timeValid := false

/-- Capture input n (03), n = 0-31. -/
structure Evc where
  /-- EVC_CTL.EN (R81). -/
  en : Bool
  /-- EVC_CTL.EDGE (R81). -/
  edge : BitVec 2
  /-- EVC_CTL.THRESH (R68,R81). -/
  thresh : BitVec 7
  /-- EVC_CTL.DLY (R65,R81). -/
  dly : BitVec 16
  /-- capture FIFO, oldest first (R67,R83,R91). -/
  fifo : List EvcRec
  /-- a stamp was lost since the last one stored (R67). -/
  fifoLoss : Bool
  /-- EVC_STS.DEAD (R66,R82). -/
  dead : BitVec 8
  /-- EVC_STS.LOST (R67,R82). -/
  lost : BitVec 16
  /-- grain and 2^-16 grain position of the last stamped edge (R66). -/
  lastAt : Option (Grain × Nat)
  /-- event raised since the level was last below THRESH (R68). -/
  raised : Bool
deriving DecidableEq, Repr

/-- Capture input n (03), n = 0-31 at device reset. -/
def Evc.reset : Evc where
  en := false
  edge := 1
  thresh := 1
  dly := 0
  fifo := []
  fifoLoss := false
  dead := 0
  lost := 0
  lastAt := none
  raised := false

/-- Time output k (03), k = 0-7. -/
structure Tou where
  /-- MODE (R69,R84). -/
  mode : BitVec 2
  /-- POL (R84). -/
  pol : Bool
  /-- SQUELCH (R84,R90). -/
  squelch : Bool
  /-- PFRAC in force (R69,R84). -/
  pfrac : BitVec 8
  /-- START_SEC in force (R84). -/
  startSec : BitVec 32
  /-- START_NS in force (R84). -/
  startNs : BitVec 30
  /-- PERIOD in force (R69,R84). -/
  period : BitVec 30
  /-- HIGH in force (R69,R84). -/
  high : BitVec 30
  /-- DLY (R69,R84). -/
  dly : BitVec 16
  /-- PFRAC written, in force at the next rising edge (R84). -/
  pPfrac : Option (BitVec 8)
  /-- START_SEC written (R84). -/
  pStartSec : Option (BitVec 32)
  /-- START_NS written (R84). -/
  pStartNs : Option (BitVec 30)
  /-- PERIOD written (R84). -/
  pPeriod : Option (BitVec 30)
  /-- HIGH written (R84). -/
  pHigh : Option (BitVec 30)
  /-- level of the schedule before POL and SQUELCH (R69). -/
  level : Bool
  /-- instant of the rising edge of the current or last pulse (2^-48 ns) (R69). -/
  riseAt : Nat
  /-- instant from which the next rising edge is sought (R69,R88). -/
  seekFrom : Nat
  /-- symbols of the IRIG-B frame in progress (0, 1, 2 = marker) (R70). -/
  irigBits : List Nat
  /-- next symbol of that frame (R70). -/
  irigIdx : Nat
deriving DecidableEq, Repr

/-- Time output k (03), k = 0-7 at device reset. -/
def Tou.reset : Tou where
  mode := 0
  pol := false
  squelch := false
  pfrac := 0
  startSec := 0
  startNs := 0
  period := 1000000000
  high := 1000000
  dly := 0
  pPfrac := none
  pStartSec := none
  pStartNs := none
  pPeriod := none
  pHigh := none
  level := false
  riseAt := 0
  seekFrom := 0
  irigBits := []
  irigIdx := 0

/-- Shared IRIG and leap registers (03). -/
structure Irig where
  /-- TAI_UTC (R85). -/
  taiUtc : BitVec 16
  /-- LOCAL, half-hours (R85). -/
  local_ : BitVec 6
  /-- DST (R85). -/
  dst : Bool
  /-- DSP (R85). -/
  dsp : Bool
  /-- LEAP_ARM (R72,R85). -/
  leapArm : Bool
  /-- LEAP_DEL (R72,R85). -/
  leapDel : Bool
  /-- LEAP_SEC (R72,R85). -/
  leapSec : BitVec 32
deriving DecidableEq, Repr

/-- Shared IRIG and leap registers (03) at device reset. -/
def Irig.reset : Irig where
  taiUtc := 0
  local_ := 0
  dst := false
  dsp := false
  leapArm := false
  leapDel := false
  leapSec := 0

/-- A two-step record (R110). -/
structure Txs where
  /-- egress stamp in 2^-48 ns. -/
  stamp : Nat
  /-- sequenceId. -/
  seq : BitVec 16
  /-- messageType. -/
  msgType : BitVec 4
  /-- domainNumber. -/
  domain : BitVec 8
deriving DecidableEq, Repr

/-- An entry of the two-step correction table (R102). -/
structure Match where
  /-- domainNumber. -/
  domain : BitVec 8
  /-- sourcePortIdentity. -/
  srcPort : BitVec 80
  /-- sequenceId. -/
  seq : BitVec 16
  /-- messageType of the general message it waits for. -/
  forType : BitVec 4
  /-- C in 2^-16 ns. -/
  corr : Int
  /-- grain it was made. -/
  made : Grain
deriving DecidableEq, Repr

/-- Timestamp unit of port p (04), p = 0-95. -/
structure Tsu where
  /-- TSU_CTL.EN (R108). -/
  en : Bool
  /-- TSU_CTL.TC (R108). -/
  tc : BitVec 2
  /-- TSU_CTL.TC_ONE (R102,R108). -/
  tcOne : Bool
  /-- TSU_CTL.L2 (R95,R108). -/
  l2 : Bool
  /-- TSU_CTL.UDP4 (R95,R108). -/
  udp4 : Bool
  /-- TSU_CTL.UDP6 (R95,R108). -/
  udp6 : Bool
  /-- TSU_DLY.ING (R93,R109). -/
  ing : BitVec 16
  /-- TSU_DLY.EGR (R93,R109). -/
  egr : BitVec 16
  /-- TSU_ASYM (R101,R109). -/
  asym : BitVec 32
  /-- TSU_LINK_DLY (R101,R109). -/
  link : BitVec 32
  /-- two-step FIFO, oldest first (R100,R110,R117). -/
  txs : List Txs
  /-- TXS_LOST (R100,R111). -/
  lost : BitVec 8
  /-- PRED_ERR (R98,R111). -/
  predErr : BitVec 8
  /-- FUP_MISS (R102,R111). -/
  fupMiss : BitVec 8
  /-- two-step match table, oldest first (R102,R117). -/
  table : List Match
deriving DecidableEq, Repr

/-- Timestamp unit of port p (04), p = 0-95 at device reset. -/
def Tsu.reset : Tsu where
  en := false
  tc := 0
  tcOne := true
  l2 := true
  udp4 := false
  udp6 := false
  ing := 0
  egr := 0
  asym := 0
  link := 0
  txs := []
  lost := 0
  predErr := 0
  fupMiss := 0
  table := []

/-- Forwarding engine n (05, 11, 21), n = 0-63. -/
structure Eng where
  /-- 0 live, 2 fenced by wedge, 3 fenced by another fault (R136,R575). -/
  fence : BitVec 2
  /-- handshake watchdog (R131,R136). -/
  watch : BitVec 16
  /-- it completed a handshake in this grain (R131). -/
  stepped : Bool
  /-- dispatch queue (packet numbers), oldest first (R577,R584). -/
  disp : List Nat
  /-- FE_DISP.DROP (R577,R584). -/
  dispDrop : BitVec 16
  /-- packets in flight (FE_STS.INFLIGHT) (R120,R136). -/
  held : List Nat
  /-- E commands held (command numbers) (R203). -/
  cmds : List Nat
  /-- FE_LAT.WORST (R125,R136). -/
  worst : BitVec 16
  /-- FE_LAT.PKTS (R125,R136). -/
  pkts : BitVec 16
  /-- worst latency so far in this window (R125). -/
  curWorst : Nat
  /-- packets completed so far in this window (R125). -/
  curPkts : Nat
  /-- FE_MCHK.CAUSE (R292,R307). -/
  mCause : BitVec 3
  /-- FE_MCHK.ADDR (R307). -/
  mAddr : BitVec 12
  /-- FE_MCHK.COUNT (R307). -/
  mCount : BitVec 16
  /-- physical addresses whose copy fails its parity (R282,R293). -/
  badWords : List Nat
  /-- PARITY machine checks: address and grain (R293). -/
  parityAt : List (Nat × Grain)
deriving DecidableEq, Repr

/-- Forwarding engine n (05, 11, 21), n = 0-63 at device reset. -/
def Eng.reset : Eng where
  fence := 0
  watch := 0
  stepped := false
  disp := []
  dispDrop := 0
  held := []
  cmds := []
  worst := 0
  pkts := 0
  curWorst := 0
  curPkts := 0
  mCause := 0
  mAddr := 0
  mCount := 0
  badWords := []
  parityAt := []

/-- Core-wide registers and latency monitor (05). -/
structure Core where
  /-- QM_CORE_CTL.LOAD_CAP in force (R123,R132). -/
  loadCap : BitVec 2
  /-- LOAD_CAP written, in force from the next window (R132). -/
  pLoadCap : Option (BitVec 2)
  /-- QM_LAT_WORST.WORST (R125,R134). -/
  worst : BitVec 16
  /-- QM_LAT_WORST.ENG (R134). -/
  eng : BitVec 6
  /-- QM_LAT_BOUND.BOUND (R134). -/
  bound : BitVec 16
  /-- QM_LAT_BOUND.MARGIN (R125,R134). -/
  margin : BitVec 16
  /-- number of the next window to latch (R125,R141). -/
  win : Nat
  /-- once-per-window events already raised (kind, unit) (R128,R276,R340,R388,R400). -/
  once : List (Nat × Nat)
deriving DecidableEq, Repr

/-- Core-wide registers and latency monitor (05) at device reset. -/
def Core.reset : Core where
  loadCap := 2
  pLoadCap := none
  worst := 0
  eng := 0
  bound := 0
  margin := 0
  win := 0
  once := []

/-- Partition n (06), n = 0-15. -/
structure Ptn where
  /-- RESETTING (R152,R157). -/
  resetting : Bool
  /-- grain of the reset decision (R152). -/
  rstAt : Grain
  /-- T of the reset in progress (R153). -/
  rstT : Nat
  /-- the reset has completed; RESETTING falls at the next boundary (R153). -/
  rstEnd : Bool
  /-- PTN_RESET commands waiting for the completion (number, merged) (R155). -/
  rstCmds : List (Nat × Bool)
  /-- PTN_STS.TIME_SUB (R149,R157). -/
  timeSub : Bool
  /-- PTN_XDROP (R143,R160). -/
  xdrop : BitVec 16
  /-- PTN_RST_DROP (R152,R160). -/
  rstDrop : BitVec 16
  /-- PTN_PDROP (R148,R160). -/
  pdrop : BitVec 32
  /-- work offered in the policing interval, in 1/96 packets (R148). -/
  offered : Nat
  /-- work admitted in the policing interval, in 1/96 packets (R148). -/
  admitted : Nat
  /-- WEIGHT in force in the policing interval (R148). -/
  polW : Nat
  /-- punt ring: next descriptor (R361,R362). -/
  puntHead : Nat
  /-- punt ring stopped by a DMA error (R363). -/
  puntStop : Bool
  /-- grain of the last punt vector (R362). -/
  puntVecAt : Option Grain
  /-- a punt vector waits for the end of its interval (R362). -/
  puntDefer : Bool
  /-- send ring: next descriptor (R363). -/
  sendHead : Nat
  /-- send ring stopped by a DMA error (R363). -/
  sendStop : Bool
  /-- grain of the last read of the head descriptor (R363). -/
  sendPollAt : Option Grain
  /-- descriptor read with OWN = 1, whose frame is to be read (R361,R363). -/
  sendDesc : Option (List Byte)
  /-- FDB_STS.LEARN_DROP (R330,R339). -/
  learnDrop : BitVec 32
  /-- FDB_STS.MOVES (R331,R339). -/
  moves : BitVec 16
  /-- FDB_STS.CONFLICTS (R331,R339). -/
  conflicts : BitVec 16
  /-- FDB_STS.AGED (R334,R339). -/
  aged : BitVec 16
  /-- used(n) (R377,R396). -/
  usedCells : Nat
  /-- QM_PTN_CELLS.MAX (R396,R681). -/
  maxCells : Nat
  /-- MT_PTN.EVICTED (R412,R422). -/
  evicted : BitVec 32
  /-- MT_PTN.NOSTATE (R413,R422). -/
  noState : BitVec 32
  /-- MT_PTN.LOST (R422,R425). -/
  lostRecs : BitVec 32
  /-- PTN_SLOTS.MAX (R187,R681). -/
  slotMax : Nat
  /-- CFG_IMG_ID (R250). -/
  imgId : BitVec 64
  /-- CQ_INT_PIN.PIN (R183,R188). -/
  intPin : BitVec 2
  /-- EV_SEL: source -> EN, ER (reset 0 for every source) (R180,R187). -/
  evSel : Tab (BitVec 3)
deriving DecidableEq, Repr

/-- Partition n (06), n = 0-15 at device reset. -/
def Ptn.reset : Ptn where
  resetting := false
  rstAt := 0
  rstT := 0
  rstEnd := false
  rstCmds := []
  timeSub := false
  xdrop := 0
  rstDrop := 0
  pdrop := 0
  offered := 0
  admitted := 0
  polW := 1
  puntHead := 0
  puntStop := false
  puntVecAt := none
  puntDefer := false
  sendHead := 0
  sendStop := false
  sendPollAt := none
  sendDesc := none
  learnDrop := 0
  moves := 0
  conflicts := 0
  aged := 0
  usedCells := 0
  maxCells := 0
  evicted := 0
  noState := 0
  lostRecs := 0
  slotMax := 0
  imgId := 0
  intPin := 0
  evSel := []

/-- Binding of one PCIe function (R156); at reset function f is bound to PT f and enabled. -/
structure Bind where
  /-- PTN_BIND.PT. -/
  pt : BitVec 4
  /-- PTN_BIND.EN. -/
  en : Bool
deriving DecidableEq, Repr

/-- Device identity, access record, clocks, straps and boot (00, 01, 24, 25). -/
structure Dev where
  /-- CLK_OK bits of islands D0-D13; D0 alone runs at first power (R18,R32,R535). -/
  clkOk : BitVec 14
  /-- DEV_ACCESS_ADDR (R30,R33). -/
  accAddr : BitVec 32
  /-- DEV_ACCESS_CAUSE cause field (R30,R33). -/
  accCause : BitVec 4
  /-- DEV_ACCESS_CAUSE WRITE (R30,R33). -/
  accWrite : Bool
  /-- DEV_ACCESS_CAUSE PT (R30,R33). -/
  accPt : BitVec 4
  /-- DEV_ACCESS_CAUSE CC (R30,R33). -/
  accCc : Bool
  /-- DEV_ACCESS_CAUSE VALID (R30,R33). -/
  accValid : Bool
  /-- level of RESET_N (R634,R636). -/
  resetN : Bool
  /-- the device is held in device reset (R632,R633). -/
  inReset : Bool
  /-- an internal reset is asserted (R633,R642). -/
  intReset : Bool
  /-- DEV_BOOT.PHASE (R640,R646). -/
  phase : BitVec 4
  /-- DEV_BOOT.BOOT_DONE (R641,R646). -/
  bootDone : Bool
  /-- DEV_BOOT.COPY (R646). -/
  copy : BitVec 2
  /-- DEV_BOOT.FW_OK (R646). -/
  fwOk : Bool
  /-- DEV_BOOT.T2_DONE (R646). -/
  t2Done : Bool
  /-- DEV_BOOT.REASON, kept through a device reset (R646). -/
  reason : BitVec 3
  /-- strap BOOT_SRC latched (R636,R647). -/
  sBootSrc : BitVec 2
  /-- strap TWN_SENIOR latched (R636,R647). -/
  sSenior : Bool
  /-- strap CASC_POS latched (R636,R647). -/
  sCascPos : BitVec 2
  /-- strap MGT_MODE latched (R636,R647). -/
  sMgtMode : Bool
  /-- DEV_BOOT_TIME (R647). -/
  bootTime : BitVec 32
  /-- words of the boot stream received, newest first (R638,R648). -/
  bootStream : List (BitVec 32)
  /-- a firmware image has been read into both TCMs (R635,R640). -/
  fwRead : Bool
  /-- a boot directory with a good CHECK names a DDR5 rate (R638). -/
  dirOk : Bool
  /-- AON time at which the boot phase in progress began (R638). -/
  bootStart : Nat
  /-- PCI_PERST_N high (endpoint out of reset) (R652). -/
  perst : Bool
  /-- DEV_TJ.TJ, signed, 0.25 degree C (R675). -/
  tj : BitVec 12
  /-- DEV_TJ.ALARM (R675). -/
  alarmTj : BitVec 12
  /-- DEV_TJ.HOT (R675,R680). -/
  hot : Bool
deriving DecidableEq, Repr

/-- Device identity, access record, clocks, straps and boot (00, 01, 24, 25) at device reset. -/
def Dev.reset : Dev where
  clkOk := 1
  accAddr := 0
  accCause := 0
  accWrite := false
  accPt := 0
  accCc := false
  accValid := false
  resetN := false
  inReset := true
  intReset := true
  phase := 0
  bootDone := false
  copy := 3
  fwOk := false
  t2Done := false
  reason := 0
  sBootSrc := 0
  sSenior := false
  sCascPos := 0
  sMgtMode := false
  bootTime := 0
  bootStream := []
  fwRead := false
  dirOk := false
  bootStart := 0
  perst := true
  tj := 0
  alarmTj := Config.alarmReset
  hot := false

/-- The control-space bus of the masters (01). -/
structure Bus where
  /-- value returned to the last register read (R10). -/
  lastRead : BitVec 32
  /-- register writes that are seen at the next grain boundary, oldest first (R36,R271,R275). -/
  pend : List (Nat × BitVec 32)
deriving DecidableEq, Repr

/-- The control-space bus of the masters (01) at device reset. -/
def Bus.reset : Bus where
  lastRead := 0
  pend := []

/-- A fault as it is recorded (21). -/
structure Rec where
  /-- class: 0 C, 1 K, 2 F, 3 X. -/
  cls : BitVec 2
  /-- fault source number (R571). -/
  src : Nat
  /-- cause code. -/
  cause : Nat
  /-- partition affected. -/
  pt : Option Nat
  /-- cause-specific data. -/
  data : Nat
deriving DecidableEq, Repr

/-- A learning event (R330). -/
structure LearnEv where
  /-- partition. -/
  pt : Nat
  /-- source MAC. -/
  mac : BitVec 48
  /-- VID. -/
  vid : BitVec 12
  /-- ingress logical port. -/
  port : Nat
deriving DecidableEq, Repr

/-- A decision that waits in the sequencer (R20, R39); the kinds are those for which the table has one row that presents the input and another that applies it. -/
inductive Decision where
  /-- P0 16-32: a PRM store request, the owner's first waiting store (R221, R549). -/
  | store (owner : Nat)
  /-- P1: a fault (R568). -/
  | fault (r : Rec)
  /-- P2 2-17: reset of partition `n` (R152). -/
  | ptnReset (n : Nat)
  /-- P4: link change of logical port `p` (R261, R457). -/
  | link (p : Nat) (up : Bool) (cause : BitVec 4)
  /-- P5: the commit of index `i` (0-15 a partition, 16 twin-scoped) at its grain (R235). -/
  | commit (i : Nat)
  /-- P6: a learning event (R330). -/
  | learn (e : LearnEv)
  /-- P6 128: a sweep step of a bucket (R334). -/
  | sweep (bucket : Nat)
  /-- P7: arrival of the command of this number (R207). -/
  | command (id : Nat)
deriving DecidableEq, Repr

/-- An input of the sequencer: class, source index and what it decides (R38, R39). -/
structure Inp where
  cls : Nat
  idx : Nat
  what : Decision
deriving DecidableEq, Repr

/-- A stamped input (R36). -/
structure Entry where
  stamp : Grain
  inp : Inp
deriving DecidableEq, Repr

/-- The grain sequencer (02). -/
structure Gr where
  /-- GR_COUNT (R35,R45). -/
  count : BitVec 64
  /-- GR_COUNT_HI latch (R45,R46). -/
  hiLatch : BitVec 32
  /-- GR_STS.LOCK (R47). -/
  lock : Bool
  /-- GR_STS.XO_PPM, signed (R47). -/
  xoPpm : BitVec 12
  /-- GR_STS.HOLDING (R43,R47). -/
  holding : Bool
  /-- GR_BACKLOG.MAX (R48,R681). -/
  maxDepth : Nat
  /-- GR_HOLD_CNT (R49). -/
  holdCnt : BitVec 32
  /-- inputs completed in the grain in progress, to be stamped at the next boundary (R36). -/
  seen : List Inp
  /-- decision backlog, oldest first (R42,R43). -/
  backlog : List Entry
  /-- P0-P5 inputs that could not be appended, oldest first (R44). -/
  waiting : List Entry
deriving DecidableEq, Repr

/-- The grain sequencer (02) at device reset. -/
def Gr.reset : Gr where
  count := 0
  hiLatch := 0
  lock := false
  xoPpm := 0
  holding := false
  maxDepth := 0
  holdCnt := 0
  seen := []
  backlog := []
  waiting := []

/-- Submission queue i of a partition (07). -/
structure Sq where
  /-- FN (R185). -/
  fn : BitVec 4
  /-- LOC (R185). -/
  loc : Bool
  /-- BASE_LO (R185). -/
  baseLo : BitVec 20
  /-- BASE_HI (R185). -/
  baseHi : BitVec 32
  /-- SIZE (R185). -/
  size : BitVec 4
  /-- CQ (R185). -/
  cq : BitVec 3
  /-- EN (R185,R189). -/
  en : Bool
  /-- TAIL (R166,R185). -/
  tail : Nat
  /-- HEAD (R166,R185). -/
  head : Nat
  /-- ERR (R185). -/
  err : BitVec 4
deriving DecidableEq, Repr

/-- Submission queue i of a partition (07) at device reset. -/
def Sq.reset : Sq where
  fn := 0
  loc := false
  baseLo := 0
  baseHi := 0
  size := 2
  cq := 0
  en := false
  tail := 0
  head := 0
  err := 0

/-- A completion waiting for its CQ (R174). -/
structure Cpl where
  /-- the command it completes. -/
  cmd : Nat
  /-- partition. -/
  pt : Nat
  /-- completion queue. -/
  cq : Nat
  /-- TAG. -/
  tag : BitVec 12
  /-- SQ. -/
  sq : BitVec 3
  /-- STATUS. -/
  status : BitVec 8
  /-- DUP_TAG. -/
  dup : Bool
  /-- FW. -/
  fw : Bool
  /-- arrival grain. -/
  arrive : Grain
  /-- completion grain. -/
  done : Grain
  /-- result bytes 16-31. -/
  result : List Byte
deriving DecidableEq, Repr

/-- Completion queue j or event ring k of a partition (07). -/
structure Ring where
  /-- FN (R186). -/
  fn : BitVec 4
  /-- LOC (R186). -/
  loc : Bool
  /-- BASE_LO (R186). -/
  baseLo : BitVec 20
  /-- BASE_HI (R186). -/
  baseHi : BitVec 32
  /-- SIZE (R186). -/
  size : BitVec 4
  /-- VEC (R186). -/
  vec : BitVec 6
  /-- EN (R186,R189). -/
  en : Bool
  /-- COAL_CNT (R186). -/
  coalCnt : BitVec 8
  /-- COAL_TIME (R186). -/
  coalTime : BitVec 8
  /-- HEAD (R166,R186). -/
  head : Nat
  /-- TAIL (R166,R186). -/
  tail : Nat
  /-- ERR (R186). -/
  err : BitVec 4
  /-- PHASE of this pass (R175,R189). -/
  phase : Bool
  /-- armed (R181). -/
  armed : Bool
  /-- a stall has been reported (CQ) (R176). -/
  stalled : Bool
  /-- grain of the oldest entry not yet signalled (R181). -/
  oldest : Option Grain
  /-- ER_LOST (ER only) (R180,R186). -/
  lost : BitVec 32
  /-- LOSS is to be set in the next record (ER only) (R180). -/
  lossPend : Bool
deriving DecidableEq, Repr

/-- Completion queue j or event ring k of a partition (07) at device reset. -/
def Ring.reset : Ring where
  fn := 0
  loc := false
  baseLo := 0
  baseHi := 0
  size := 2
  vec := 0
  en := false
  coalCnt := 1
  coalTime := 0
  head := 0
  tail := 0
  err := 0
  phase := true
  armed := false
  stalled := false
  oldest := none
  lost := 0
  lossPend := false

/-- What a command in flight waits for (R167-R173, R207). -/
inductive CmdState where
  /-- stamped; its P7 arrival has not been applied -/
  | arriving
  /-- checked; FENCE = 1 and an earlier command of its SQ is not complete (R173) -/
  | fenced
  /-- checked; the row of its opcode may run -/
  | ready
  /-- its effect has begun and ends at a later step -/
  | running
deriving DecidableEq, Repr

/-- A command in flight (R167-R173). -/
structure Cmd where
  /-- the model's number of the command. -/
  id : Nat
  /-- partition. -/
  pt : Nat
  /-- submission queue; none = carried from the twin peer. -/
  sq : Option Nat
  /-- its 64 bytes. -/
  bytes : List Byte
  /-- arrival stamp. -/
  arrive : Grain
  /-- what it waits for. -/
  state : CmdState
  /-- engine that holds it (flag E, R203). -/
  engine : Option Nat
  /-- grain it is stated for, or grain it ends, where the opcode has one. -/
  at_ : Grain
  /-- its completion is formed and waits to be written. -/
  done : Bool
deriving DecidableEq, Repr

/-- Command queues, completions, events and interrupts (07). -/
structure Cq where
  /-- SQ i of PT n at 8n+i (R165,R185). -/
  sq : Tab Sq
  /-- CQ j of PT n at 8n+j (R165,R186). -/
  cq : Tab Ring
  /-- ER k of PT n at 4n+k (R165,R186). -/
  er : Tab Ring
  /-- on-die SQ area of PT n at 2048n (R165,R184). -/
  onSq : Tab Byte
  /-- on-die CQ area of PT n at 1024n (R165,R184). -/
  onCq : Tab Byte
  /-- on-die ER area of PT n at 1024n (R165,R184). -/
  onEr : Tab Byte
  /-- MSI-X table of function f at 256f; Vector Control words read 1 where unlisted (R182,R184). -/
  msix : Tab (BitVec 32)
  /-- MSI-X pending bits of function f (R181,R182). -/
  pba : Tab (BitVec 64)
  /-- MSI-X Enable of each function (PCIe configuration space) (R181). -/
  msixEn : BitVec 16
  /-- Function Mask of each function (R181). -/
  msixMask : BitVec 16
  /-- CQ_INT_PIN(n).EN (R188). -/
  intEn : BitVec 16
  /-- CQ_SHARED.MAX (R188,R681). -/
  sharedMax : Nat
  /-- next partition of the fetch round robin (R170). -/
  rrPt : Nat
  /-- next SQ of each partition's round robin (R170). -/
  rrSq : Tab Nat
  /-- commands in flight, in arrival order (R168,R169). -/
  cmds : List Cmd
  /-- completions waiting to be written, oldest first (R175,R176). -/
  cpls : List Cpl
  /-- the model's number of the next command (R167). -/
  nextCmd : Nat
deriving DecidableEq, Repr

/-- Command queues, completions, events and interrupts (07) at device reset. -/
def Cq.reset : Cq where
  sq := []
  cq := []
  er := []
  onSq := []
  onCq := []
  onEr := []
  msix := []
  pba := []
  msixEn := 0xFFFF
  msixMask := 0
  intEn := 1
  sharedMax := 0
  rrPt := 0
  rrSq := []
  cmds := []
  cpls := []
  nextCmd := 0

/-- A CAM entry (R314); an entry that is absent is invalid. -/
structure CamEnt where
  /-- range entry. -/
  range : Bool
  /-- KEY; a range entry uses bits 127-0. -/
  key : BitVec 192
  /-- MASK; a range entry uses bits 127-0. -/
  mask : BitVec 192
  /-- the four LO, HI pairs of a range entry. -/
  pairs : List (Nat × Nat)
deriving DecidableEq, Repr

/-- A lookup profile as a lookup uses it (R318). -/
structure ProfDef where
  /-- MULTI. -/
  multi : Bool
  /-- CASC. -/
  casc : Bool
  /-- RANGE. -/
  range : Bool
  /-- BLOCKS. -/
  blocks : BitVec 32
deriving DecidableEq, Repr

/-- A walk context (R212, R320). -/
structure Walk where
  /-- in use. -/
  live : Bool
  /-- it ended by exhaustion. -/
  exhausted : Bool
  /-- profile number of the lookup. -/
  num : Nat
  /-- the profile as it stood at the lookup. -/
  prof : ProfDef
  /-- search key. -/
  key : BitVec 192
  /-- global index last returned. -/
  last : Nat
  /-- REMAIN. -/
  remain : Nat
  /-- grain of the last lookup or step on it. -/
  used : Grain
deriving DecidableEq, Repr

/-- What one device answers to a cascaded lookup (R323, R327). -/
structure CascRes where
  /-- sender's CASC_POS. -/
  pos : Nat
  /-- 0x10 winner, 0x11 count only, 0x12 error record. -/
  kind : BitVec 8
  /-- global index of its first match. -/
  index : Nat
  /-- its matches. -/
  count : Nat
deriving DecidableEq, Repr

/-- A cascaded lookup of this device (R323, R324). -/
structure CascReq where
  /-- TYPE 0x02. -/
  walk : Bool
  /-- packet that waits for it. -/
  pkt : Option Nat
  /-- command that waits for it. -/
  cmd : Option Nat
  /-- partition. -/
  pt : Nat
  /-- profile number. -/
  prof : Nat
  /-- profile. -/
  def_ : ProfDef
  /-- key. -/
  key : BitVec 192
  /-- AFTER (walk). -/
  after : Nat
  /-- SEQ once sent. -/
  seq : BitVec 16
  /-- grain t. -/
  sent : Option Grain
  /-- result records gathered, its own among them. -/
  recs : List CascRes
deriving DecidableEq, Repr

/-- CAM blocks, walk contexts and the cascade (12). -/
structure Cam where
  /-- entry e of block b at 4096b+e (R314). -/
  ents : Tab (Option CamEnt)
  /-- CAM_STS.FENCED (R336,R342). -/
  fenced : BitVec 32
  /-- walk context c of PT n at 16n+c (R212,R320). -/
  walks : Tab (Option Walk)
  /-- CASC_CTL.EN (R338). -/
  cascEn : Bool
  /-- CASC_CTL.LAST (R338). -/
  cascLast : BitVec 2
  /-- CASC_STS.ALIGNED (R322,R338). -/
  aligned : Bool
  /-- lane D locked (R338). -/
  dLock : Bool
  /-- lane U locked (R338). -/
  uLock : Bool
  /-- CASC_STS.CRC_ERR (R325,R338). -/
  crcErr : BitVec 8
  /-- CASC_STS.QMAX (R338,R681). -/
  qMax : Nat
  /-- lookups waiting for an issue slot, oldest first (R324). -/
  slotQ : List CascReq
  /-- lookups sent and not yet formed (R323,R327). -/
  pendCasc : List CascReq
  /-- next SEQ (R327). -/
  seq : BitVec 16
  /-- a grain at which the cascade cycle is at 0 (R322,R324). -/
  cycleAt : Grain
  /-- grain training started (R322). -/
  trainAt : Option Grain
  /-- grains R + 4k at which CASC_MO_N goes low for four grains (R323,R325). -/
  moLow : List Grain
deriving DecidableEq, Repr

/-- CAM blocks, walk contexts and the cascade (12) at device reset. -/
def Cam.reset : Cam where
  ents := []
  fenced := 0
  walks := []
  cascEn := false
  cascLast := 0
  aligned := false
  dLock := false
  uLock := false
  crcErr := 0
  qMax := 0
  slotQ := []
  pendCasc := []
  seq := 0
  cycleAt := 0
  trainAt := none
  moLow := []

/-- An FDB entry (R329). -/
structure FdbEnt where
  /-- MAC. -/
  mac : BitVec 48
  /-- VID. -/
  vid : BitVec 12
  /-- PORT. -/
  port : Nat
  /-- STATIC. -/
  static : Bool
  /-- FLAPPING. -/
  flapping : Bool
  /-- PAIR. -/
  pair : Bool
  /-- TWIN. -/
  twin : Bool
  /-- MOVES. -/
  moves : Nat
  /-- WSTART. -/
  wstart : Grain
  /-- TOUCH. -/
  touch : Grain
  /-- grain of the last install or move by a learning decision. -/
  chg : Option Grain
deriving DecidableEq, Repr

/-- The forwarding database (12). -/
structure Fdb where
  /-- way w of bucket b at 4b+w (R328,R329). -/
  ents : Tab (Option FdbEnt)
  /-- learn queue, oldest first (R330). -/
  learnQ : List LearnEv
  /-- the sequencer's late learns (counted in LEARN_DROP too) (R53,R344). -/
  lateLearn : BitVec 32
deriving DecidableEq, Repr

/-- The forwarding database (12) at device reset. -/
def Fdb.reset : Fdb where
  ents := []
  learnQ := []
  lateLearn := 0

/-- A live epoch (R237). -/
structure Epoch where
  /-- epoch number. -/
  num : BitVec 16
  /-- grain it opened. -/
  opened : Grain
  /-- owner of each claimed setting (R318, R349); absent = free. -/
  own : Tab (Option Nat)
  /-- epoch-class settings that differ from their reset values, by setting and index. -/
  vals : Tab (List (BitVec 32))
  /-- rule bank: false A, true B. -/
  bank : Bool
  /-- microcode region: false A, true B. -/
  region : Bool
deriving DecidableEq, Repr

/-- A configuration transaction (R234). -/
structure Txn where
  /-- partition. -/
  pt : Nat
  /-- entries carried from the twin peer (R608). -/
  remote : Bool
  /-- settings held, key and value words. -/
  sets : List (Nat × List (BitVec 32))
deriving DecidableEq, Repr

/-- A commit that has arrived (R235-R239). -/
structure Commit where
  /-- partition. -/
  pt : Nat
  /-- twin-scoped. -/
  twin : Bool
  /-- AT. -/
  at_ : Grain
  /-- its command; none for a commit of the twin peer. -/
  cmd : Option Nat
  /-- ALLOW_DRAIN. -/
  drainOk : Bool
  /-- IMAGE_ID of a CFG_IMAGE_APPLY. -/
  image : Option (BitVec 64)
  /-- its settings. -/
  sets : List (Nat × List (BitVec 32))
  /-- it has been presented and waits (R239). -/
  waiting : Bool
  /-- AT + T_max + 64,000. -/
  until_ : Grain
  /-- carried from the twin peer (R616). -/
  remote : Bool
deriving DecidableEq, Repr

/-- A drain between g and q (R243). -/
structure Quiesce where
  /-- g. -/
  at_ : Grain
  /-- g + T_max + 64,000. -/
  until_ : Grain
  /-- partition. -/
  pt : Nat
  /-- its command; none once the command is discarded. -/
  cmd : Option Nat
  /-- epoch it opened. -/
  num : BitVec 16
  /-- IMAGE_ID. -/
  image : Option (BitVec 64)
  /-- drained settings and their new values. -/
  sets : List (Nat × List (BitVec 32))
  /-- logical ports in scope as egress. -/
  egress : List Nat
  /-- logical ports in scope as ingress. -/
  ingress : List Nat
  /-- partitions in scope. -/
  parts : List Nat
  /-- every packet is in scope. -/
  all : Bool
  /-- LOST. -/
  lost : BitVec 64
deriving DecidableEq, Repr

/-- A mirror copy (R298). -/
structure Mirror where
  /-- grain it is complete; of a queued one not yet known (0). -/
  doneAt : Grain
  /-- rule bank it copies into: false A, true B. -/
  bank : Bool
  /-- microcode region it copies into: false A, true B. -/
  region : Bool
  /-- it copies every word of A into B (after a UCODE_LAYOUT drain). -/
  full : Bool
deriving DecidableEq, Repr

/-- Epoch 0, in force from device reset with every setting at its reset value (R237, R252). -/
def Epoch.zero : Epoch := { num := 0, opened := 0, own := [], vals := [], bank := false, region := false }

/-- Settings, transactions and epochs (09, 11). -/
structure Cfg where
  /-- drain-class settings that differ from their reset values (R231,R241). -/
  drain : Tab (List (BitVec 32))
  /-- live epochs, newest first (R237,R247). -/
  epochs : List Epoch
  /-- open transactions (R216,R234,R250). -/
  txns : List Txn
  /-- commits pending or waiting, in order of AT then index (R235,R239). -/
  commits : List Commit
  /-- drains in progress (R243,R249). -/
  quiesces : List Quiesce
  /-- CFG_STS.BUSY_CNT (R249). -/
  busyCnt : BitVec 16
  /-- CFG_OPENED_HI latch (R248). -/
  openedHi : BitVec 32
  /-- class rule r of PT n in bank b at 1024b+64n+r (R295,R297). -/
  rules : Tab (List (BitVec 32))
  /-- microcode word at a physical address; absent = the base program's word (R280,R282). -/
  ucode : Tab (Option (BitVec 128))
  /-- mirror copies, the running one first (R298). -/
  mirrors : List Mirror
  /-- PRS_UC_SEL ADDR and ENG (R305). -/
  uctl : BitVec 18
deriving DecidableEq, Repr

/-- Settings, transactions and epochs (09, 11) at device reset. -/
def Cfg.reset : Cfg where
  drain := []
  epochs := [Epoch.zero]
  txns := []
  commits := []
  quiesces := []
  busyCnt := 0
  openedHi := 0
  rules := []
  ucode := []
  mirrors := []
  uctl := 0

/-- A T2_STAGE that waits or writes (R415). -/
structure Stage where
  /-- its command; none once discarded. -/
  cmd : Option Nat
  /-- its partition. -/
  pt : Nat
  /-- table. -/
  table : Nat
  /-- side being written. -/
  side : Bool
  /-- first tile. -/
  tile : Nat
  /-- its data. -/
  words : List (BitVec 32)
  /-- it writes. -/
  writing : Bool
deriving DecidableEq, Repr

/-- T2 and its DDR5 (15). -/
structure T2 where
  /-- 32-bit word w of physical tile t at 512t+w (R407,R414). -/
  mem : Tab (BitVec 32)
  /-- T2_STAGE commands, in arrival order (R415). -/
  stages : List Stage
  /-- DDR_STS.A_OK (R424). -/
  aOk : Bool
  /-- DDR_STS.B_OK (R424). -/
  bOk : Bool
  /-- DDR_STS.RATE (R424). -/
  rate : BitVec 2
  /-- DDR_STS.GIB (R424). -/
  gib : BitVec 8
  /-- DDR_STS.HOT (R419,R424). -/
  hot : Bool
  /-- DDR_ECC.CORR (R424). -/
  corr : BitVec 16
  /-- DDR_ECC.UNCORR (R424). -/
  uncorr : BitVec 16
  /-- DDR_ERR_ADDR (R418,R424). -/
  errAddr : BitVec 32
deriving DecidableEq, Repr

/-- T2 and its DDR5 (15) at device reset. -/
def T2.reset : T2 where
  mem := []
  stages := []
  aOk := false
  bOk := false
  rate := 0
  gib := 0
  hot := false
  corr := 0
  uncorr := 0
  errAddr := 0

/-- A flow record (R408, R410). -/
structure FlowRec where
  /-- flow number. -/
  flow : BitVec 16
  /-- its 32 words. -/
  words : List (BitVec 32)
deriving DecidableEq, Repr

/-- A redundancy window (R366, R408). -/
structure RedRec where
  /-- node. -/
  node : Nat
  /-- source MAC. -/
  mac : BitVec 48
  /-- TOP. -/
  top : BitVec 16
  /-- DELIVER. -/
  deliver : BitVec 64
  /-- PASS. -/
  pass : BitVec 64
  /-- grain of its last frame. -/
  last : Grain
deriving DecidableEq, Repr

/-- A state tile of the pool (R408, R409). -/
structure Tile where
  /-- KIND: false flow, true redundancy. -/
  red : Bool
  /-- owner. -/
  pt : Nat
  /-- TOUCH. -/
  touch : Grain
  /-- engine that holds it; none = T1. -/
  home : Option Nat
  /-- engine it moves to. -/
  moving : Option Nat
  /-- flow records by slot. -/
  flows : List (Nat × FlowRec)
  /-- redundancy records by slot. -/
  reds : List (Nat × RedRec)
deriving DecidableEq, Repr

/-- A state request that waits (R409, R413). -/
structure TileReq where
  /-- packet. -/
  pkt : Nat
  /-- tile it waits for; none = it waits for a tile. -/
  tile : Option Nat
  /-- grain the wait began. -/
  since : Grain
deriving DecidableEq, Repr

/-- State tiles (15). -/
structure Mt where
  /-- tile t of the pool (bank 2 + t / 1024) (R407,R408). -/
  tiles : Tab (Option Tile)
  /-- requests waiting, oldest first (R409,R413). -/
  reqs : List TileReq
  /-- fenced T1 state banks (R426). -/
  fencedBanks : BitVec 16
deriving DecidableEq, Repr

/-- State tiles (15) at device reset. -/
def Mt.reset : Mt where
  tiles := []
  reqs := []
  fencedBanks := 0

/-- What a packet in an engine waits for (R290). -/
inductive Lookup where
  /-- a CAM lookup under a profile -/
  | cam (prof : Nat)
  /-- an FDB lookup -/
  | fdb
  /-- a read of a word of a T2 table -/
  | t2 (table : Nat) (addr : Nat)
  /-- a load of a word of its flow record -/
  | stateLd (word : Nat)
  /-- a store into a word of its flow record -/
  | stateSt (word : Nat) (val : BitVec 32)
  /-- the base program's own state request (R366, R409) -/
  | base
deriving DecidableEq, Repr

/-- Execution context of a packet in an engine (R285). -/
structure EngCtx where
  /-- G0-G15. -/
  g : List (BitVec 32)
  /-- cursor. -/
  cursor : Nat
  /-- micro-stack, newest first. -/
  stack : List Nat
  /-- relative address of the next microword. -/
  pc : Nat
  /-- Z. -/
  z : Bool
  /-- N. -/
  n : Bool
  /-- C. -/
  c : Bool
  /-- HIT. -/
  hit : Bool
  /-- MULTI. -/
  multi : Bool
  /-- LFAIL. -/
  lfail : Bool
  /-- END. -/
  end_ : Bool
  /-- key words 0-5. -/
  key : List (BitVec 32)
  /-- microwords executed. -/
  steps : Nat
  /-- lookup it waits for. -/
  wait : Option Lookup
deriving DecidableEq, Repr

/-- Where a packet stands on its way (R20, R376). -/
inductive PktStage where
  /-- its start of frame is stamped and its end has not been received -/
  | arriving
  /-- in the dispatch queue of its engine (R577) -/
  | dispatched
  /-- in execution -/
  | inEngine
  /-- finished by its engine, not yet taken by the queue manager -/
  | finished
  /-- in cells of T1, its copies in the queues or at the resequencer -/
  | stored
deriving DecidableEq, Repr

/-- A packet in the device (R31, R376). -/
structure Pkt where
  /-- the model's number of the packet. -/
  id : Nat
  /-- ingress logical port. -/
  port : Nat
  /-- partition (R142). -/
  part : Nat
  /-- ingress sequence number. -/
  seq : BitVec 16
  /-- ingress TB_TIME stamp, 2^-48 ns. -/
  stamp : Nat
  /-- grain of its start-of-frame stamp. -/
  grain : Grain
  /-- epoch it carries. -/
  epoch : BitVec 16
  /-- the frame from DA to before the FCS. -/
  bytes : List Byte
  /-- where it stands. -/
  stage : PktStage
  /-- engine that serves it. -/
  engine : Option Nat
  /-- MOVED mark. -/
  moved : Bool
  /-- its execution context. -/
  ctx : EngCtx
  /-- traffic class. -/
  tc : BitVec 3
  /-- flow. -/
  flow : BitVec 16
  /-- rewrite entry named, none at entry (R291). -/
  rw : Option (BitVec 16)
  /-- destination word. -/
  dest : Option (BitVec 32)
  /-- punt reason. -/
  punt : Option (BitVec 8)
  /-- port of a DIRECT frame of the send ring. -/
  direct : Option Nat
  /-- ONE_STEP of the send ring. -/
  oneStep : Bool
  /-- TWO_STEP of the send ring. -/
  twoStep : Bool
  /-- HSR frame to pass on unchanged to the other ring port (R368). -/
  pass : Option (List Byte)
  /-- TSU_CTL of the ingress port at the stamp (R116). -/
  ctl : BitVec 7
  /-- work in units (R120). -/
  work : Nat
  /-- unicast to an FDB entry without PAIR (R365). -/
  single : Bool
  /-- routed by the base program (R359). -/
  routed : Bool
  /-- grain it entered the core (R124). -/
  core : Grain
  /-- cells it is charged. -/
  cells : Nat
  /-- copies not yet out. -/
  refs : Nat
deriving DecidableEq, Repr

/-- A copy of a packet in an egress queue (R376, R378). -/
structure Copy where
  /-- packet. -/
  pkt : Nat
  /-- ingress port. -/
  port : Nat
  /-- ingress sequence number. -/
  seq : BitVec 16
  /-- cells of the packet. -/
  cells : Nat
  /-- the frame as it leaves, before FCS and PTP correction. -/
  frame : List Byte
  /-- release boundary of a timed copy, TB_TIME in 2^-48 ns. -/
  relAt : Option Nat
  /-- grain at which the resequencer released it (prompt); none while it waits there. -/
  relG : Option Grain
  /-- it is held under R390 (timed). -/
  held : Bool
  /-- express. -/
  express : Bool
  /-- epoch. -/
  epoch : BitVec 16
  /-- redundancy node it is sent toward: 64 × ROLE + NODE (R365). -/
  node : Option Nat
  /-- SeqNr given to it. -/
  rseq : Option (BitVec 16)
  /-- its queue. -/
  queue : Nat
  /-- ingress stamp, 2^-48 ns. -/
  stamp : Nat
  /-- grain of that stamp. -/
  grain : Grain
  /-- partition. -/
  part : Nat
deriving DecidableEq, Repr

/-- Egress queue q of logical port p (14). -/
structure Queue where
  /-- copies in queue order (R378). -/
  copies : List Copy
  /-- CELLS (R376,R397). -/
  cells : Nat
  /-- DROP (R377,R397). -/
  drop : BitVec 32
  /-- credit in 10^-6 bit (R384,R397). -/
  credit : Int
  /-- HELD (R390,R397). -/
  held : BitVec 16
  /-- HICLAMP (R395,R397). -/
  hiclamp : BitVec 16
  /-- late packets sent (QM_REL W1) (R128,R138). -/
  lateSent : BitVec 16
  /-- late packets dropped (QM_REL W1) (R128,R138). -/
  lateDrop : BitVec 16
deriving DecidableEq, Repr

/-- Egress queue q of logical port p (14) at device reset. -/
def Queue.reset : Queue where
  copies := []
  cells := 0
  drop := 0
  credit := 0
  held := 0
  hiclamp := 0
  lateSent := 0
  lateDrop := 0

/-- A frame on the wire of a port (R376, R385). -/
structure Tx where
  /-- the copy. -/
  copy : Copy
  /-- its queue. -/
  queue : Nat
  /-- grain its transmission started. -/
  start : Grain
  /-- bits from preamble to end of gap. -/
  bits : Nat
deriving DecidableEq, Repr

/-- Schedule state of port p, p = 0-101 (14). -/
structure Sched where
  /-- ENTRY (R381,R398). -/
  entry : BitVec 6
  /-- GATES (R381,R398). -/
  gates : BitVec 8
  /-- ACTIVE (R381,R398). -/
  active : Bool
  /-- HOLD (R382,R398). -/
  hold : Bool
  /-- VERIFY (R385,R398). -/
  verify : BitVec 2
  /-- PREEMPTS (R385,R398). -/
  preempts : BitVec 32
  /-- frame on the wire (R376). -/
  tx : Option Tx
  /-- preempted frame whose remainder waits (R382,R386). -/
  paused : Option Tx
deriving DecidableEq, Repr

/-- Schedule state of port p, p = 0-101 (14) at device reset. -/
def Sched.reset : Sched where
  entry := 0
  gates := 0xFF
  active := false
  hold := false
  verify := 0
  preempts := 0
  tx := none
  paused := none

/-- Resequencer context of ingress port i (14). -/
structure Rsq where
  /-- NEXT (R387,R399). -/
  next : BitVec 16
  /-- DONE(i) (R388,R399). -/
  doneTo : BitVec 16
  /-- numbers done beyond DONE (R388). -/
  doneSet : List (BitVec 16)
  /-- missing numbers and their open grains (R388). -/
  missing : List (BitVec 16 × Grain)
  /-- numbers declared lost whose packet may still appear (R391). -/
  lostSet : List (BitVec 16)
  /-- RSQ_LOST (R388,R399). -/
  lost : BitVec 32
  /-- RSQ_STRAY (R391,R399). -/
  stray : BitVec 16
deriving DecidableEq, Repr

/-- Resequencer context of ingress port i (14) at device reset. -/
def Rsq.reset : Rsq where
  next := 0
  doneTo := 0
  doneSet := []
  missing := []
  lostSet := []
  lost := 0
  stray := 0

/-- Packets, queues and the resequencer (14). -/
structure Qm where
  /-- packets in the device, oldest first (R31,R376). -/
  pkts : List Pkt
  /-- the model's number of the next packet (R376). -/
  nextPkt : Nat
  /-- queue q of port p at 8p+q (R378). -/
  queues : Tab Queue
  /-- schedule of port p (R398). -/
  sched : Tab Sched
  /-- resequencer context of port i (R387,R399). -/
  rsq : Tab Rsq
  /-- RSQ_CTL.GAP (R388,R399). -/
  gap : BitVec 7
  /-- fenced packet-buffer banks (R405). -/
  bufFenced : BitVec 48
  /-- engine of the last packet of each bucket and ingress port (R303). -/
  lastEng : List (Nat × Nat × Nat)
deriving DecidableEq, Repr

/-- Packets, queues and the resequencer (14) at device reset. -/
def Qm.reset : Qm where
  pkts := []
  nextPkt := 0
  queues := []
  sched := []
  rsq := []
  gap := 4
  bufFenced := 0
  lastEng := []

/-- Ethernet port p, p = 0-95 (10). -/
structure Port where
  /-- PRT_CTL.ADMIN_DOWN (R271). -/
  adminDown : Bool
  /-- PRT_CTL.DN_HOLD (R271). -/
  dnHold : BitVec 8
  /-- PRT_CTL.UP_HOLD (R271). -/
  upHold : BitVec 16
  /-- PRT_STS.STATE (R261,R272). -/
  state : BitVec 3
  /-- SIG (R262,R272). -/
  sig : Bool
  /-- CDR (R262,R272). -/
  cdr : Bool
  /-- SYNC (R262,R272). -/
  sync : Bool
  /-- FEC (R262,R272). -/
  fec : Bool
  /-- AN (R262,R272). -/
  an : Bool
  /-- LF (R262,R272). -/
  lf : Bool
  /-- RF (R262,R272). -/
  rf : Bool
  /-- HI_BER (R262,R272). -/
  hiBer : Bool
  /-- CAUSE (R263,R272,R273). -/
  cause : BitVec 4
  /-- grain the good conditions began (UP_WAIT) (R261). -/
  upSince : Grain
  /-- grain the bad condition began (DOWN_WAIT) (R261). -/
  badSince : Grain
  /-- cause of the first bad condition (DOWN_WAIT) (R263). -/
  badCause : BitVec 4
  /-- up by the last P4 decision applied (R261,R265). -/
  up : Bool
  /-- down by the last P4 decision applied (neither before the first) (R265,R266). -/
  down : Bool
  /-- stamp of the last P4 decision applied (R265). -/
  decAt : Grain
  /-- PRT_FLUSH (R266,R274). -/
  flush : BitVec 32
  /-- HITS (R261,R274). -/
  hits : BitVec 8
  /-- DOWNS (R274). -/
  downs : BitVec 8
  /-- RX_NOTUP (R265,R274). -/
  rxNotUp : BitVec 16
  /-- CORR (R274). -/
  corr : BitVec 16
  /-- UNCORR (R274). -/
  uncorr : BitVec 16
  /-- SDS_TXEQ.PRE (R275). -/
  pre : BitVec 4
  /-- SDS_TXEQ.MAIN (R275). -/
  main : BitVec 6
  /-- SDS_TXEQ.POST (R275). -/
  post : BitVec 5
  /-- transmitter squelched (R268) (R268,R269). -/
  squelched : Bool
deriving DecidableEq, Repr

/-- Ethernet port p, p = 0-95 (10) at device reset. -/
def Port.reset : Port where
  adminDown := false
  dnHold := 0
  upHold := 10000
  state := 0
  sig := false
  cdr := false
  sync := false
  fec := false
  an := false
  lf := false
  rf := false
  hiBer := false
  cause := 0
  upSince := 0
  badSince := 0
  badCause := 0
  up := false
  down := false
  decAt := 0
  flush := 0
  hits := 0
  downs := 0
  rxNotUp := 0
  corr := 0
  uncorr := 0
  pre := 4
  main := 51
  post := 8
  squelched := true

/-- Forwarding state outside the settings (13). -/
structure Fwd where
  /-- SeqNr counter of node k (R365). -/
  nodeSeq : Tab (BitVec 16)
  /-- tag flow f: OWNER [11:8], SLOT [7:2], MODE [1:0]; 0 = free (R369). -/
  tagFlows : Tab (BitVec 16)
deriving DecidableEq, Repr

/-- Forwarding state outside the settings (13) at device reset. -/
def Fwd.reset : Fwd where
  nodeSeq := []
  tagFlows := []

/-- A node of a channel's node table (R460, R464, R472). -/
structure NodeEnt where
  /-- 1 ACTIVE, 2 REACQ. -/
  state : BitVec 2
  /-- consecutive intrusions. -/
  count : Nat
  /-- spans held, bit i for span i. -/
  mask : BitVec 256
  /-- sync word. -/
  sync : BitVec 32
  /-- last OFFSET, ns. -/
  offset : Int
deriving DecidableEq, Repr

/-- A schedule (R459). -/
structure TdmSched where
  /-- SPANS. -/
  spans : Nat
  /-- CHAIN, ms. -/
  chain : Nat
  /-- SPAN, us. -/
  span : Nat
  /-- HEM, us. -/
  hem : Nat
  /-- START, TAI second. -/
  start : Nat
deriving DecidableEq, Repr

/-- A detected burst (R439, R463). -/
structure RxBurst where
  /-- node whose sync word was detected. -/
  node : Nat
  /-- sync stamp, 2^-48 ns. -/
  sync : Nat
  /-- start of its interval, 2^-48 ns. -/
  from_ : Nat
  /-- end of its interval, 2^-48 ns. -/
  to_ : Nat
  /-- TYPE. -/
  type_ : Nat
  /-- NODE of the header. -/
  hdrNode : Nat
  /-- payload. -/
  payload : List Byte
  /-- burst report. -/
  report : List Byte
  /-- RESULT. -/
  result : BitVec 3
  /-- it has been decoded. -/
  decoded : Bool
  /-- R465 discards it. -/
  collided : Bool
  /-- it is to become a packet if nothing overlaps it. -/
  keep : Bool
  /-- it is a frame that R470 counts in BAD. -/
  bad : Bool
  /-- end of the last span its interval overlaps, 2^-48 ns. -/
  relAt : Nat
  /-- a drain in progress had it in scope. -/
  inScope : Bool
deriving DecidableEq, Repr

/-- The device's burst on air (R433). -/
structure TxBurst where
  /-- it is the beacon. -/
  beacon : Bool
  /-- the frame it carries. -/
  frame : List Byte
  /-- instant its ramp-up begins, 2^-48 ns. -/
  start : Nat
  /-- instant its ramp-down ends, 2^-48 ns. -/
  end_ : Nat
  /-- copy it carries, none for a beacon. -/
  copy : Option Copy
  /-- first grain boundary at or after end_. -/
  endAt : Grain
deriving DecidableEq, Repr

/-- Transmit shaping (R444, R445, R449). -/
structure Shape where
  /-- MODE 1. -/
  dpd : Bool
  /-- 64 FIR taps. -/
  taps : List (BitVec 16)
  /-- 16 breakpoints. -/
  mask : List (BitVec 24 × BitVec 16)
  /-- KO. -/
  ko : Nat
  /-- MD. -/
  md : Nat
  /-- ADAPT. -/
  adapt : Nat
  /-- MU. -/
  mu : Nat
  /-- NMSE_MAX. -/
  nmseMax : BitVec 16
  /-- 28 coefficients. -/
  coef : List (BitVec 32)
deriving DecidableEq, Repr

/-- Shaping at reset: mode 0 with nothing loaded (R449). -/
def Shape.zero : Shape := { dpd := false, taps := [], mask := [], ko := 0, md := 0, adapt := 0, mu := 0, nmseMax := 0, coef := [] }

/-- Radio channel m, m = 0-3 (16, 17). -/
structure Radio where
  /-- SYNC_ERR (R450). -/
  syncErr : BitVec 3
  /-- EST_SRC (R450). -/
  estSrc : Bool
  /-- RX_CAL (R450). -/
  rxCal : BitVec 16
  /-- TX_DLY (R450). -/
  txDly : BitVec 16
  /-- RX_DLY (R450). -/
  rxDly : BitVec 16
  /-- DCLK_OK (R450,R455). -/
  dclkOk : Bool
  /-- PA_EN[m] (R448,R450). -/
  pa : Bool
  /-- grain PA_EN rose (R448). -/
  paAt : Grain
  /-- grain the blanking of the receiver ends (R439). -/
  blankTo : Grain
  /-- HELD (R447,R450). -/
  held : Bool
  /-- HOLD_CAUSE (R450). -/
  holdCause : BitVec 2
  /-- channel fenced (R456,R583). -/
  fenced : Bool
  /-- noise measurements kept, newest first (R443,R450). -/
  nf : List (BitVec 16)
  /-- NMSE (R446,R450). -/
  nmse : BitVec 16
  /-- UPDATES (R450). -/
  updates : BitVec 8
  /-- REVERTS (R446,R450). -/
  reverts : BitVec 8
  /-- consecutive captures above NMSE_MAX (R446). -/
  overN : Nat
  /-- NMSE before an update not yet judged (R446). -/
  preNmse : Option (BitVec 16)
  /-- coefficients before that update (R446). -/
  prevCoef : List (BitVec 32)
  /-- coefficients fitted, in force at the next burst start (R445). -/
  newCoef : Option (List (BitVec 32))
  /-- SYNC (R440,R450). -/
  sync : BitVec 16
  /-- HDR_FAIL (R440,R450). -/
  hdrFail : BitVec 16
  /-- RS_FAIL (R440,R450). -/
  rsFail : BitVec 16
  /-- CRC_FAIL (R440,R450). -/
  crcFail : BitVec 16
  /-- BURSTS (R450). -/
  bursts : BitVec 16
  /-- MASK_VIOL (R444,R450). -/
  maskViol : BitVec 16
  /-- MDM_LAST, no byte listed reads 0 (R441,R450). -/
  lastRep : List Byte
  /-- MDM_SPI_TX (WO) (R450). -/
  spiTx : BitVec 32
  /-- BITS (R450). -/
  spiBits : BitVec 6
  /-- BUSY (R450). -/
  spiBusy : Bool
  /-- MDM_SPI_RX (R450). -/
  spiRx : BitVec 32
  /-- shaping in force (R444,R449). -/
  shape : Shape
  /-- MDM_SHAPE_SET that waits for the burst on air (R449). -/
  shapeCmd : Option (Nat × Shape)
  /-- burst on air (R433). -/
  burst : Option TxBurst
  /-- RPT_APPEND (R472). -/
  rptAppend : Bool
  /-- TDM_BEACON (R472). -/
  beaconWord : BitVec 32
  /-- schedule in force (R459,R472). -/
  sched : Option TdmSched
  /-- schedule that waits for START (R459,R474). -/
  nextSched : Option TdmSched
  /-- chain in progress (R459). -/
  chain : Nat
  /-- current span (R472). -/
  spanIdx : Nat
  /-- the quiet tail is in progress (R459). -/
  inTail : Bool
  /-- role of each span of this chain: 0 beacon, 255 downlink, otherwise the node that holds it (R461). -/
  roles : List (BitVec 8)
  /-- nodes whose spans are released in this chain (R461,R468). -/
  released : List Nat
  /-- NO_BEACON (R461,R472). -/
  noBeacon : Bool
  /-- BEACON_SPAN (R461,R472). -/
  beaconSpan : BitVec 8
  /-- node table in force (R460,R472). -/
  nodes : Tab (Option NodeEnt)
  /-- additions and deletions since the last chain start, oldest first (R460). -/
  nodePend : List (Nat × Option NodeEnt)
  /-- nodes that return to ACTIVE at the next chain start (R468). -/
  toActive : List Nat
  /-- ADVANCE entries waiting for a beacon (node, OFFSET in ns) (R467,R468). -/
  advance : List (Nat × Int)
  /-- RELEASE entries waiting for a beacon (R467). -/
  release : List Nat
  /-- bursts being received or held, oldest first (R465). -/
  tracked : List RxBurst
  /-- HEM_INTR (R464,R472). -/
  hemIntr : BitVec 16
  /-- SPAN_INTR (R464,R472). -/
  spanIntr : BitVec 16
  /-- COLLISIONS (R465,R472). -/
  collisions : BitVec 16
  /-- OVERRUN (R465,R472). -/
  overrun : BitVec 16
  /-- BAD (R470,R472). -/
  bad : BitVec 16
  /-- logical port 96 + m is up by the last P4 decision applied (R457). -/
  up : Bool
  /-- stamp of the last P4 decision applied (R457). -/
  decAt : Grain
  /-- a burst was started, PA_EN was high or a sync was detected in the current span, or its noise is measured (R443). -/
  spanBusy : Bool
  /-- a chain is in progress (R459,R472). -/
  chainOn : Bool
  /-- the channel was enabled when the chain in progress started (R479). -/
  nodeRx : Bool
  /-- up state last presented as a P4 input (R457). -/
  upSeen : Bool
  /-- grain and instant at which the last burst ended (R462). -/
  lastEnd : Option (Grain × Nat)
  /-- beacon entries that did not fit: node, CMD, OFFSET in ns (R467). -/
  left : List (Nat × Nat × Int)
  /-- bursts sent in DPD mode since the shaping was installed (R445). -/
  captures : Nat
  /-- a capture waits to be fitted by the firmware (R445). -/
  fitDue : Bool
deriving DecidableEq, Repr

/-- Radio channel m, m = 0-3 (16, 17) at device reset. -/
def Radio.reset : Radio where
  syncErr := 2
  estSrc := false
  rxCal := 0
  txDly := 0
  rxDly := 0
  dclkOk := false
  pa := false
  paAt := 0
  blankTo := 0
  held := false
  holdCause := 0
  fenced := false
  nf := []
  nmse := 0
  updates := 0
  reverts := 0
  overN := 0
  preNmse := none
  prevCoef := []
  newCoef := none
  sync := 0
  hdrFail := 0
  rsFail := 0
  crcFail := 0
  bursts := 0
  maskViol := 0
  lastRep := []
  spiTx := 0
  spiBits := 8
  spiBusy := false
  spiRx := 0
  shape := Shape.zero
  shapeCmd := none
  burst := none
  rptAppend := false
  beaconWord := 0x6B2DC0A9
  sched := none
  nextSched := none
  chain := 0
  spanIdx := 0
  inTail := false
  roles := []
  released := []
  noBeacon := false
  beaconSpan := 0
  nodes := []
  nodePend := []
  toActive := []
  advance := []
  release := []
  tracked := []
  hemIntr := 0
  spanIntr := 0
  collisions := 0
  overrun := 0
  bad := 0
  up := false
  decAt := 0
  spanBusy := false
  chainOn := false
  nodeRx := false
  upSeen := false
  lastEnd := none
  left := []
  captures := 0
  fitDue := false

/-- A key slot that holds a key (R489). -/
structure KeySlot where
  /-- 1 PRIVATE, 2 PUBLIC, 3 SECRET. -/
  kind : BitVec 2
  /-- ALG. -/
  alg : BitVec 8
  /-- private form or secret. -/
  priv : List Byte
  /-- public form. -/
  pub : List Byte
deriving DecidableEq, Repr

/-- A firmware service in the PKA order (R483). -/
structure Service where
  /-- its command. -/
  cmd : Nat
  /-- issuing partition. -/
  pt : Nat
  /-- opcode. -/
  op : BitVec 8
  /-- ALG. -/
  alg : Nat
  /-- SLOT. -/
  slot : Nat
  /-- DEST. -/
  dest : Nat
  /-- LEN. -/
  len : Nat
  /-- input read from the buffer. -/
  input : List Byte
  /-- grain its result is released, once begun; of a slice, the grain by which it ends; none while it waits. -/
  endAt : Option Grain
  /-- an RSA key generation that has begun, which runs in slices. -/
  slices : Bool
  /-- status found at its start. -/
  status : Nat
  /-- output to write at its release. -/
  output : List Byte
  /-- where in the buffer. -/
  outAt : Nat
  /-- slot filled at its release, and with what. -/
  key : Option (Nat × KeySlot)
deriving DecidableEq, Repr

/-- Public-key unit, key store, entropy (18). -/
structure Pka where
  /-- PKA_STS.CAUSE (R498). -/
  cause : BitVec 3
  /-- FENCED (R498,R576). -/
  fenced : Bool
  /-- operand RAM (R481,R504). -/
  ram : Tab (BitVec 64)
  /-- CY (R481,R500). -/
  cy : BitVec 64
  /-- PKA_DP_XA.X (R500). -/
  x : BitVec 12
  /-- PKA_DP_XA.A (R500). -/
  a : BitVec 12
  /-- PKA_DP_B.B (R500). -/
  b : BitVec 12
  /-- OP of the operation in progress (R500). -/
  op : BitVec 2
  /-- LM1 of the operation in progress (R500). -/
  lm1 : BitVec 7
  /-- X of the operation in progress (R481). -/
  opX : BitVec 12
  /-- A of the operation in progress (R481). -/
  opA : BitVec 12
  /-- B of the operation in progress (R481). -/
  opB : BitVec 12
  /-- BUSY: the grain in which BUSY returns to 0 (R482,R500). -/
  busyTo : Option Grain
  /-- ERR (R481,R500). -/
  err : Bool
  /-- OVR (R500). -/
  ovr : Bool
  /-- services in command arrival order, the one in its PKA phase first (R483,R498). -/
  queue : List Service
  /-- key slots; absent = EMPTY (R489,R499). -/
  slots : Tab (Option KeySlot)
  /-- ENT_OK (R495,R498). -/
  entOk : Bool
  /-- DRBG_OK (R496,R498). -/
  drbgOk : Bool
  /-- the start-up test of the device reset has passed and the DRBG was instantiated (R495,R496). -/
  inst : Bool
  /-- RCT_FAIL (R499). -/
  rct : BitVec 16
  /-- APT_FAIL (R499). -/
  apt : BitVec 16
  /-- DRBG requests since the last reseed (R496). -/
  reqs : Nat
  /-- grain of the last reseed (R496). -/
  seedAt : Grain
  /-- DRBG outputs drawn (the argument of the free value of each) (R496). -/
  draws : Nat
deriving DecidableEq, Repr

/-- Public-key unit, key store, entropy (18) at device reset. -/
def Pka.reset : Pka where
  cause := 0
  fenced := false
  ram := []
  cy := 0
  x := 0
  a := 0
  b := 0
  op := 0
  lm1 := 0
  opX := 0
  opA := 0
  opB := 0
  busyTo := none
  err := false
  ovr := false
  queue := []
  slots := []
  entOk := false
  drbgOk := false
  inst := false
  rct := 0
  apt := 0
  reqs := 0
  seedAt := 0
  draws := 0

/-- What a semaphore's waiter or holder is (R515, R516). -/
structure Lease where
  /-- the HCU; false = the cluster. -/
  hcu : Bool
  /-- TOKEN. -/
  token : BitVec 16
  /-- LEASE, us. -/
  lease : Nat
  /-- command that waits (HCU). -/
  cmd : Option Nat
deriving DecidableEq, Repr

/-- A semaphore that is held (R515-R517). -/
structure Sem where
  /-- holder. -/
  holder : Lease
  /-- grain its lease ends. -/
  until_ : Grain
  /-- grains remaining while frozen (R523). -/
  frozen : Option (BitVec 64)
  /-- waiters, oldest first. -/
  waiters : List Lease
deriving DecidableEq, Repr

/-- Control cluster, fuses, semaphores (19). -/
structure Cc where
  /-- CC_STS.STATE (R526). -/
  state : BitVec 2
  /-- CC_FENCE.CAUSE (R509,R526). -/
  cause : BitVec 3
  /-- CC_FENCE.ALSO (R509,R526). -/
  also : BitVec 6
  /-- fence grain (R526). -/
  fenceAt : BitVec 64
  /-- CC_FENCE_HI latch (R526). -/
  fenceHi : BitVec 32
  /-- PERIOD (R508,R526). -/
  period : BitVec 17
  /-- PASSES (R508,R526). -/
  passes : BitVec 32
  /-- grain of the last self-test (R508). -/
  testAt : Grain
  /-- comparator input bit the next self-test injects (R508). -/
  testBit : Nat
  /-- CC_TCM_ECC.CORR (R511,R526). -/
  corr : BitVec 16
  /-- CC_WDOG.TIME (R511,R526). -/
  wdTime : BitVec 10
  /-- TIME in force since the last kick (R511). -/
  wdForce : BitVec 10
  /-- grains counted since the last kick (R511). -/
  wdCount : Nat
  /-- SVN of the running image (R526). -/
  svn : BitVec 6
  /-- SIGNER (R526). -/
  signer : BitVec 2
  /-- VERSION of the running image (R512,R222). -/
  version : BitVec 32
  /-- BUILD of the running image (R512,R222). -/
  build : BitVec 32
  /-- ADVANCE of the running image, not yet used (R513). -/
  advance : Bool
  /-- TCM of the leading core (R506,R512). -/
  tcm : Tab Byte
  /-- TCM of the trailing core (R506,R521). -/
  tcm2 : Tab Byte
  /-- general registers 0-31, program counter 32 and status word 33 of the leading core (R521). -/
  coreRegs : Tab (BitVec 64)
  /-- the same of the trailing core (R521). -/
  coreRegs2 : Tab (BitVec 64)
  /-- semaphores held; absent = free (R515,R526). -/
  sems : Tab (Option Sem)
  /-- LOST of each semaphore (R517,R526). -/
  semLost : BitVec 64
  /-- QFULL of each semaphore (R516,R526). -/
  semFull : BitVec 64
  /-- CC_FUSE_STAGE (R514). -/
  stage : Tab (BitVec 32)
  /-- value that the programming in progress writes (R514). -/
  progVal : BitVec 256
  /-- CC_FUSE_PROG.BUSY (R514). -/
  progBusy : Bool
  /-- REFUSED (R514). -/
  progRef : Bool
  /-- DONE (R514). -/
  progDone : Bool
  /-- PTP instances configured: bytes 9-27 of the command (R105,R222). -/
  ptp : Tab (List Byte)
deriving DecidableEq, Repr

/-- Control cluster, fuses, semaphores (19) at device reset. -/
def Cc.reset : Cc where
  state := 0
  cause := 0
  also := 0
  fenceAt := 0
  fenceHi := 0
  period := 1000
  passes := 0
  testAt := 0
  testBit := 0
  corr := 0
  wdTime := 100
  wdForce := 100
  wdCount := 0
  svn := 0
  signer := 0
  version := 0
  build := 0
  advance := false
  tcm := []
  tcm2 := []
  coreRegs := []
  coreRegs2 := []
  sems := []
  semLost := 0
  semFull := 0
  stage := []
  progVal := 0
  progBusy := false
  progRef := false
  progDone := false
  ptp := []

/-- One-time-programmable fuses (R513, R514). -/
structure Fuse where
  /-- SVN floor (R513). -/
  floor : BitVec 6
  /-- revoke bits (R513). -/
  revoked : BitVec 4
  /-- PWR_BOARD_HASH, blank when shipped (R514). -/
  boardHash : BitVec 256
  /-- PWR_BOARD_HASH as the boot in progress uses it (R514). -/
  bootHash : BitVec 256
deriving DecidableEq, Repr

/-- One-time-programmable fuses (R513, R514) at device reset. -/
def Fuse.reset : Fuse where
  floor := 0
  revoked := 0
  boardHash := 0
  bootHash := 0

/-- Debug port and TAP (19). -/
structure Dbg where
  /-- ALLOW (R527). -/
  allow : BitVec 2
  /-- FREEZE_LEASES (R523,R527). -/
  freeze : Bool
  /-- SLOT (R527). -/
  slot : BitVec 6
  /-- LOCK (R527). -/
  lock : Bool
  /-- LEVEL (R518,R527). -/
  level : BitVec 2
  /-- HALTED (R522,R527). -/
  halted : Bool
  /-- DBG_PEEK_REFUSED (R520,R527). -/
  peekRef : Bool
  /-- TCM_DIFF (R521,R527). -/
  tcmDiff : Bool
  /-- HALT_REFUSED (R527,R531). -/
  haltRef : Bool
  /-- AUTH_FAIL (R518,R527). -/
  authFail : BitVec 8
  /-- nonce issued and not yet used (R518). -/
  nonce : Option (BitVec 256)
  /-- AON tick until which no nonce is issued (R518). -/
  blockTo : Option Nat
  /-- TAP instruction register; IDCODE at TAP reset (R524). -/
  ir : BitVec 8
  /-- data register as last captured, bit 0 first (R524). -/
  dr : List Bool
  /-- boundary register as last loaded or sampled (R524). -/
  bsr : List Bool
  /-- an intrusive instruction acts on the pins (R525). -/
  acting : Bool
  /-- DATA the next capture of DBG_ACCESS returns (R525). -/
  result : BitVec 32
  /-- STATUS the next capture of DBG_ACCESS returns (R525). -/
  status : BitVec 5
  /-- serial last shifted out by DBG_AUTH (R518). -/
  serialOut : BitVec 64
deriving DecidableEq, Repr

/-- Debug port and TAP (19) at device reset. -/
def Dbg.reset : Dbg where
  allow := 2
  freeze := false
  slot := 0
  lock := false
  level := 0
  halted := false
  peekRef := false
  tcmDiff := false
  haltRef := false
  authFail := 0
  nonce := none
  blockTo := none
  ir := 1
  dr := []
  bsr := []
  acting := false
  result := 0
  status := 0
  serialOut := 0

/-- An admitted PRM store that is not complete (R548, R549, R553). -/
structure Store where
  /-- its command; none once discarded. -/
  cmd : Option Nat
  /-- partition. -/
  owner : Nat
  /-- first device line. -/
  first : Nat
  /-- its lines. -/
  lines : List (List Byte)
  /-- units marked SCRUB at its admission that its lines fall in. -/
  scrub : List Nat
  /-- E, in 1/2000 uJ. -/
  energy : Nat
  /-- grain of admission. -/
  admitAt : Grain
  /-- grain its writing began, once it is the first of the stores. -/
  startAt : Option Grain
deriving DecidableEq, Repr

/-- Power manager (20). -/
structure Pwr where
  /-- PWR_STS.STATE (R560). -/
  state : BitVec 2
  /-- SEQ_OK (R536,R560). -/
  seqOk : Bool
  /-- setpoint row (R540,R560). -/
  row : BitVec 3
  /-- confirmed row (R541,R560). -/
  conf : BitVec 3
  /-- PWR_GOOD (R534,R560). -/
  good : BitVec 8
  /-- PWR_EN (R534,R535). -/
  en : BitVec 8
  /-- next rail of the ROM sequence (R535). -/
  railNext : Nat
  /-- VAON is present (R535). -/
  vaon : Bool
  /-- FLOOR (R560). -/
  floor : BitVec 3
  /-- HEAD (R560). -/
  head : BitVec 4
  /-- MARGIN_MIN (R560). -/
  marginMin : BitVec 16
  /-- DN_WIN (R560). -/
  dnWin : BitVec 8
  /-- windows below the setpoint (R540). -/
  down : Nat
  /-- offered work of the window in progress, 1/96 packets (R540). -/
  offered : Nat
  /-- offered work of the last window (R540,R542). -/
  offeredLast : Nat
  /-- grain the rise that is not confirmed began (R541). -/
  riseAt : Option Grain
  /-- READ_MV (R560). -/
  readMv : BitVec 16
  /-- VADDR (R560). -/
  vaddr : BitVec 7
  /-- PF_FILT (R560). -/
  pfFilt : BitVec 8
  /-- EN_PFAIL (R560). -/
  enPfail : Bool
  /-- EN_MON (R560). -/
  enMon : Bool
  /-- WAKE_EN (R560). -/
  wakeEn : Bool
  /-- ALARM_EN (R560). -/
  alarmEn : Bool
  /-- PWR_AON (R544,R560). -/
  aon : BitVec 64
  /-- PWR_AON HI latch (R560). -/
  aonHi : BitVec 32
  /-- PWR_WAKE_AT (R560). -/
  wakeAt : BitVec 64
  /-- sequencer store (R536). -/
  store : List (BitVec 64)
  /-- shed in progress: P0 source and grain p (R556,R558). -/
  shed : Option (Nat × Grain)
  /-- the last-gasp record of the shed has been written (R557). -/
  shedDone : Bool
  /-- PFAIL_N as last reported (R556). -/
  pfailN : Bool
  /-- a rail timed out; the sequence is to be retried (R535). -/
  railFail : Bool
  /-- rails are being brought up (R535,R544). -/
  upSeq : Bool
  /-- the SHED entry has run; the device waits for its input (R557,R558). -/
  off : Bool
  /-- part of a tick counted, in 1/1953125 (R544). -/
  aonRes : Nat
  /-- a setpoint has been written since boot (R540). -/
  commanded : Bool
  /-- VOUT_MODE has been read and is linear (R539). -/
  modeOk : Bool
  /-- the loop holds after PMB_MODE (R539). -/
  pmbHold : Bool
  /-- a commanded fall has not been polled yet (R542). -/
  falling : Bool
  /-- entry that failed and its word address, until the ROM sequence completes it (R538). -/
  seqFail : Option (Nat × Nat)
  /-- last-gasp record captured at the shed grain, FCU history not filled in (R557,R559). -/
  lg : Option (List Byte)
deriving DecidableEq, Repr

/-- Power manager (20) at device reset. -/
def Pwr.reset : Pwr where
  state := 0
  seqOk := false
  row := 0
  conf := 0
  good := 0
  en := 0
  railNext := 0
  vaon := true
  floor := 0
  head := 2
  marginMin := 100
  dnWin := 10
  down := 0
  offered := 0
  offeredLast := 0
  riseAt := none
  readMv := 0
  vaddr := 0x20
  pfFilt := 10
  enPfail := true
  enMon := true
  wakeEn := true
  alarmEn := false
  aon := 0
  aonHi := 0
  wakeAt := 0
  store := []
  shed := none
  shedDone := false
  pfailN := true
  railFail := false
  upSeq := false
  off := false
  aonRes := 0
  commanded := false
  modeOk := false
  pmbHold := false
  falling := false
  seqFail := none
  lg := none

/-- Hold-up bank and energy ledger (20). -/
structure Hup where
  /-- DIV (R560). -/
  div : BitVec 12
  /-- PERIOD (R560). -/
  period : BitVec 8
  /-- I_TEST (R560). -/
  iTest : BitVec 16
  /-- V_MIN (R560). -/
  vMin : BitVec 16
  /-- V_TRIP (R560). -/
  vTrip : BitVec 16
  /-- CAP_MIN (R560). -/
  capMin : BitVec 24
  /-- HOLD_W (R560). -/
  holdW : BitVec 16
  /-- SHED_W (R560). -/
  shedW : BitVec 16
  /-- CAP (R545,R560). -/
  cap : BitVec 24
  /-- ESR (R545,R560). -/
  esr : BitVec 32
  /-- V (R547,R560). -/
  v : BitVec 16
  /-- TEST: a test runs, for a periodic measurement or for a command (R545,R560). -/
  test : Option (Option Nat)
  /-- E_TEST of the running test, in 1/2000 uJ (R546). -/
  eTest : Nat
  /-- grain HUP_TEST rose (R545). -/
  testAt : Grain
  /-- grain the last periodic test fell due (R546). -/
  dueAt : Grain
  /-- HOLD_W as of the last sample, the P_HOLD of the ledger (R547,R550). -/
  pHold : Nat
  /-- SHED_W as of the last sample (R548,R550). -/
  pShed : Nat
  /-- LOW (R550,R560). -/
  low : Bool
  /-- VALID (R545,R560). -/
  valid : Bool
  /-- SKIPPED (R545,R560). -/
  skipped : BitVec 8
  /-- E_BANK, uJ (R547,R560). -/
  eBank : Nat
deriving DecidableEq, Repr

/-- Hold-up bank and energy ledger (20) at device reset. -/
def Hup.reset : Hup where
  div := 0
  period := 10
  iTest := 0
  vMin := 0xFFFF
  vTrip := 0
  capMin := 0
  holdW := 2000
  shedW := 1300
  cap := 0
  esr := 0
  v := 0
  test := none
  eTest := 0
  testAt := 0
  dueAt := 0
  pHold := 2000
  pShed := 1300
  low := false
  valid := false
  skipped := 0
  eBank := 0

/-- Persistent records and the ledger's stores (20). -/
structure Prm where
  /-- admitted stores not complete, in order of admission (R549,R553). -/
  stores : List Store
  /-- store requests whose P0 decision is due: command and data (R221). -/
  wait : List (Nat × List Byte)
  /-- device lines; an unlisted line reads zeros (R551). -/
  lines : Tab (List Byte)
  /-- lines that fail their check (R554). -/
  badLines : List Nat
  /-- PRM_REGION(n) BASE and SIZE (R551,R560). -/
  regions : Tab (Nat × Nat)
  /-- units marked SCRUB (R552). -/
  scrub : List Nat
  /-- lines of a SCRUB unit already zeroed in the background (R552). -/
  scrubAt : Tab Nat
  /-- grain of the last background line (R552). -/
  scrubLast : Option Grain
  /-- line writes of each unit (R555). -/
  wear : Tab Nat
  /-- the wear event has been raised (R555). -/
  wearEv : Bool
  /-- PRM_ERR.UNCORR (R554,R560). -/
  uncorr : BitVec 16
  /-- SOE ring, newest first (R559). -/
  soe : List (List Byte)
deriving DecidableEq, Repr

/-- Persistent records and the ledger's stores (20) at device reset. -/
def Prm.reset : Prm where
  stores := []
  wait := []
  lines := []
  badLines := []
  regions := []
  scrub := []
  scrubAt := []
  scrubLast := none
  wear := []
  wearEv := false
  uncorr := 0
  soe := []

/-- A record of the fault history (R571). -/
structure FRec where
  /-- the fault. -/
  rec_ : Rec
  /-- FENCE. -/
  fence : Bool
  /-- COUNT. -/
  count : BitVec 8
  /-- EPOCH. -/
  epoch : BitVec 16
  /-- GRAIN. -/
  grain : BitVec 64
  /-- SEQ. -/
  seq : BitVec 32
  /-- LAST. -/
  last : BitVec 32
deriving DecidableEq, Repr

/-- Fault collection (21). -/
structure Fcu where
  /-- X_HOLD (R583). -/
  xHold : Bool
  /-- history, oldest first (R572,R583). -/
  hist : List FRec
  /-- HOLDING (R583). -/
  holding : Bool
  /-- PRIOR_X (R583). -/
  priorX : Bool
  /-- SEQ (R572,R583). -/
  seq : BitVec 32
  /-- LOST (R572,R583). -/
  lost : BitVec 32
  /-- FCU_CNT_C (R583). -/
  cntC : BitVec 32
  /-- FCU_CNT_K (R583). -/
  cntK : BitVec 32
  /-- FCU_CNT_F (R583). -/
  cntF : BitVec 32
  /-- FCU_CNT_X (R583). -/
  cntX : BitVec 32
  /-- grain of the X fault whose reset is due (R581). -/
  xDue : Option Grain
  /-- event 674 is to be raised after boot (R585). -/
  xEvent : Bool
deriving DecidableEq, Repr

/-- Fault collection (21) at device reset. -/
def Fcu.reset : Fcu where
  xHold := false
  hist := []
  holding := false
  priorX := false
  seq := 0
  lost := 0
  cntC := 0
  cntK := 0
  cntF := 0
  cntX := 0
  xDue := none
  xEvent := false

/-- Counter c of unit u (22). -/
structure Ctr where
  /-- SEL (R600). -/
  sel : BitVec 8
  /-- OWN (R600). -/
  own : BitVec 4
  /-- ALL (R600). -/
  all : Bool
  /-- EN (R600). -/
  en : Bool
  /-- THRESH (R600). -/
  thresh : BitVec 24
  /-- COUNT (R596,R601). -/
  count : BitVec 48
  /-- latch of COUNT_HI (R601). -/
  hi : BitVec 16
deriving DecidableEq, Repr

/-- Counter c of unit u (22) at device reset. -/
def Ctr.reset : Ctr where
  sel := 1
  own := 0
  all := false
  en := true
  thresh := 0
  count := 0
  hi := 0

/-- A census (R597, R598). -/
structure Census where
  /-- CENSUS. -/
  num : BitVec 16
  /-- GRAIN. -/
  at_ : Grain
  /-- newest live epoch at AT. -/
  epoch : BitVec 16
  /-- the 1,344 entries. -/
  ents : List (BitVec 64)
deriving DecidableEq, Repr

/-- Counters and the census (22). -/
structure Pmc where
  /-- counter c of unit u at 8u+c (R592,R600). -/
  ctrs : Tab Ctr
  /-- number of the next census (R597). -/
  next : BitVec 16
  /-- AT of the pending census (R220,R602). -/
  pend : Option Grain
  /-- commands that wait for it; true = it joined a pending census (R220). -/
  pendCmds : List (Nat × Bool)
  /-- counters as they stood at boundary AT, before the writes seen there (R597,R603). -/
  snap : Option Census
  /-- census captured and being written (R597,R602). -/
  writing : Option Census
  /-- complete censuses held, newest first (R598). -/
  slots : List Census
deriving DecidableEq, Repr

/-- Counters and the census (22) at device reset. -/
def Pmc.reset : Pmc where
  ctrs := []
  next := 0
  pend := none
  pendCmds := []
  snap := none
  writing := none
  slots := []

/-- A shared decision that waits for its pair grain (R613). -/
structure Shared where
  /-- application pair grain. -/
  apply : Grain
  /-- it originated on the partner. -/
  remote : Bool
  /-- P6 or P7 source index. -/
  index : Nat
  /-- learning decision. -/
  learn : Option LearnEv
  /-- sweep step. -/
  bucket : Option Nat
  /-- twin-scoped command of this device. -/
  cmd : Option Nat
  /-- command carried from the partner: partition and its bytes. -/
  carried : Option (Nat × List Byte)
  /-- both devices have accepted it (commands). -/
  ok : Bool
deriving DecidableEq, Repr

/-- A change of the senior's time carried to the junior (R617). -/
structure TimeChg where
  /-- application pair grain. -/
  apply : Grain
  /-- F. -/
  setF : Option (BitVec 40)
  /-- STEP, 2^-48 ns. -/
  step : Option Int
  /-- SET or LOAD, 2^-48 ns. -/
  set : Option Nat
  /-- the SET is the LOAD of a rejoin, residue included. -/
  load : Bool
  /-- TRACEABLE value of the senior. -/
  trace : Bool
  /-- TB_ERR_EST. -/
  est : Option (BitVec 32)
deriving DecidableEq, Repr

/-- Twin operation (23). -/
structure Twn where
  /-- EN (R626). -/
  en : Bool
  /-- AUTO (R626). -/
  auto : Bool
  /-- JSRC (R626). -/
  jsrc : BitVec 2
  /-- LAG (R626). -/
  lag : BitVec 12
  /-- STATE (R618,R626). -/
  state : BitVec 3
  /-- LINK (L) (R606,R626). -/
  link : Bool
  /-- ALIVE (A) (R610,R626). -/
  alive : Bool
  /-- WITNESS (W) (R611,R626). -/
  witness : Bool
  /-- CAUSE (R626). -/
  cause : BitVec 4
  /-- SHARE (R626). -/
  share : BitVec 16
  /-- GOFF (R612,R626). -/
  goff : BitVec 64
  /-- TWN_GOFF_HI latch (R626). -/
  goffHi : BitVec 32
  /-- LATE (R606,R626). -/
  late : BitVec 16
  /-- SEPARATIONS (R626). -/
  seps : BitVec 16
  /-- lanes that hold block lock (R606). -/
  lanes : BitVec 4
  /-- grain of the last keep-alive (R606). -/
  lastKa : Option Grain
  /-- FSEQ of the next frame sent (R607). -/
  fseqTx : BitVec 32
  /-- FSEQ of the last frame received (R607). -/
  fseqRx : Option (BitVec 32)
  /-- GOFF and delay of the probes answered since training (R608). -/
  probes : List (BitVec 64 × BitVec 64)
  /-- shared decisions that wait (R613). -/
  shared : List Shared
  /-- time changes that wait (R617). -/
  times : List TimeChg
  /-- READY sent: grain, epoch, TWIN (R616). -/
  ready : Option (Grain × BitVec 16 × Bool)
  /-- READY received (R616). -/
  partReady : Option (Grain × BitVec 16 × Bool)
  /-- digest of the last READY received (R609,R616). -/
  digest : List Byte
  /-- the device has been PAIRED since device reset (R611). -/
  pairedOnce : Bool
  /-- the partner's cluster is fenced (R608,R623). -/
  partCcFenced : Bool
  /-- STATE of the last keep-alive (R608). -/
  partState : BitVec 3
  /-- the partner's strap (R608,R622). -/
  partSenior : Option Bool
  /-- level of TWN_ALIVE_OUT (R610,R643). -/
  aliveOut : Bool
  /-- TWN_ALIVE_OUT toggles (R610). -/
  aliveRun : Bool
  /-- grain TWN_ALIVE_IN counted as stopped (R619). -/
  aliveStop : Option Grain
  /-- state the rejoin in progress came from (R619). -/
  joinFrom : BitVec 3
  /-- step of the rejoin (0 none, 1-4) (R622). -/
  joinStep : Nat
  /-- pair grain t of the rejoin (R622). -/
  joinAt : Grain
  /-- TWIN_REJOIN commands that wait (R623). -/
  joinCmds : List Nat
  /-- transfer pass (R622). -/
  pass : Nat
  /-- buckets sent and not changed since (R622). -/
  sentBuckets : List Nat
  /-- a retry of the rejoin is due (R619). -/
  retry : Bool
  /-- partitions whose learning is held during a transfer (R622,R624). -/
  holdLearn : List Nat
  /-- partitions whose regions this device transfers to its partner (R622,R624). -/
  xfer : List Nat
  /-- grain of the last failed rejoin (R619). -/
  failAt : Grain
  /-- grain + 1 at which the touch of an entry (by way index) was last carried (R614). -/
  touchAt : Tab (BitVec 64)
deriving DecidableEq, Repr

/-- Twin operation (23) at device reset. -/
def Twn.reset : Twn where
  en := false
  auto := true
  jsrc := 1
  lag := 1024
  state := 0
  link := false
  alive := false
  witness := false
  cause := 0
  share := 0
  goff := 0
  goffHi := 0
  late := 0
  seps := 0
  lanes := 0
  lastKa := none
  fseqTx := 0
  fseqRx := none
  probes := []
  shared := []
  times := []
  ready := none
  partReady := none
  digest := []
  pairedOnce := false
  partCcFenced := false
  partState := 0
  partSenior := none
  aliveOut := false
  aliveRun := false
  aliveStop := none
  joinFrom := 0
  joinStep := 0
  joinAt := 0
  joinCmds := []
  pass := 0
  sentBuckets := []
  retry := false
  holdLearn := []
  xfer := []
  failAt := 0
  touchAt := []

/-- What the block sends to the outside. -/
inductive Output where
  /-- a DMA write to the memory of a function (R165, R201) -/
  | dma (fn addr : Nat) (bytes : List Byte)
  /-- an MSI-X message (R181) -/
  | msix (fn vec : Nat)
  /-- a frame that starts on a port, with its egress stamp (R98) -/
  | frame (port stamp : Nat) (bytes : List Byte)
  /-- a burst of a radio channel (R433) -/
  | burst (ch start : Nat) (frame : List Byte)
  /-- a level on TOUT[k] (R69) -/
  | tout (k : Nat) (level : Bool)
  /-- a frame on the Torv link (R607) -/
  | torv (kind : Nat) (body : List Byte)
  /-- a record on the cascade lanes (R323) -/
  | casc (down : Bool) (bytes : List Byte)
  /-- an RF control SPI word (R430) -/
  | spi (ch : Nat) (bits : Nat) (word : BitVec 32)
  /-- a PMBus write (R537, R539): address, command code, data bytes and value -/
  | pmbus (addr code len val : Nat)
deriving DecidableEq, Repr

/-- The whole block. -/
structure State where
  /-- device. -/
  dev : Dev
  /-- bus. -/
  bus : Bus
  /-- sequencer. -/
  gr : Gr
  /-- time base. -/
  tb : Tb
  /-- capture inputs (R81). -/
  evc : Tab Evc
  /-- time outputs (R84). -/
  tou : Tab Tou
  /-- IRIG and leap registers (R85). -/
  irig : Irig
  /-- timestamp units (R108). -/
  tsu : Tab Tsu
  /-- engines (R136). -/
  eng : Tab Eng
  /-- core-wide registers (R132). -/
  core : Core
  /-- partitions (R157). -/
  ptn : Tab Ptn
  /-- PTN_BIND of the functions; function f is bound to PT f and enabled where unlisted (R145,R156). -/
  bind_ : Tab Bind
  /-- command queues (R165). -/
  cq : Cq
  /-- CAM (R314). -/
  cam : Cam
  /-- FDB (R328). -/
  fdb : Fdb
  /-- configuration (R231). -/
  cfg : Cfg
  /-- T2 (R407). -/
  t2 : T2
  /-- state tiles (R407). -/
  mt : Mt
  /-- queue manager (R376). -/
  qm : Qm
  /-- Ethernet ports (R271). -/
  ports : Tab Port
  /-- forwarding (R346). -/
  fwd : Fwd
  /-- radio channels (R450). -/
  radio : Tab Radio
  /-- PKA (R480). -/
  pka : Pka
  /-- control cluster (R506). -/
  cc : Cc
  /-- fuses (R513). -/
  fuse : Fuse
  /-- debug (R518). -/
  dbg : Dbg
  /-- power (R534). -/
  pwr : Pwr
  /-- hold-up (R545). -/
  hup : Hup
  /-- persistent records (R551). -/
  prm : Prm
  /-- faults (R567). -/
  fcu : Fcu
  /-- counters (R592). -/
  pmc : Pmc
  /-- twin (R605). -/
  twn : Twn
  /-- what the block has sent to the outside, newest first (the model's own record). -/
  out : List Output
  /-- the model's own counter of free values used. -/
  freeCtr : Nat
  /-- commands waiting, first in first out. -/
  pending : List Instr
deriving DecidableEq, Repr

/-- The device when VAON has just been applied for the first time (R535): main rails off, D0 alone clocked, PHASE 0, every register at its reset value. -/
def State.reset : State where
  dev := Dev.reset
  bus := Bus.reset
  gr := Gr.reset
  tb := Tb.reset
  evc := []
  tou := []
  irig := Irig.reset
  tsu := []
  eng := []
  core := Core.reset
  ptn := []
  bind_ := []
  cq := Cq.reset
  cam := Cam.reset
  fdb := Fdb.reset
  cfg := Cfg.reset
  t2 := T2.reset
  mt := Mt.reset
  qm := Qm.reset
  ports := []
  fwd := Fwd.reset
  radio := []
  pka := Pka.reset
  cc := Cc.reset
  fuse := Fuse.reset
  dbg := Dbg.reset
  pwr := Pwr.reset
  hup := Hup.reset
  prm := Prm.reset
  fcu := Fcu.reset
  pmc := Pmc.reset
  twn := Twn.reset
  out := []
  freeCtr := 0
  pending := []

end Sys2Proof.Machine
end

