-- ==== Sys2Proof/WellFormed.lean ====
section
/-! DEFINITION. Which commands name existing units of the device: every index operand below its bound. -/

namespace Sys2Proof

/-- A master names one of the sixteen functions, or is the management port or the control cluster (R144, R145). -/
def Master.wf : Master → Bool
  | .pf f => decide (f < 16)
  | .mgt => true
  | .cc => true

/-- A well-formed command: each index operand names a unit the device has. -/
def Instr.wf : Instr → Bool
  | .registerWrite m _ _ _ => m.wf
  | .maxFieldRead m _ => m.wf
  | .grainBoundary _ => true
  | .backlogApply => true
  | .grainLost _ _ => true
  | .grCountLoRead m => m.wf
  | .tbTimeNsRead m => m.wf
  | .tbFreqLoWrite m _ => m.wf
  | .tbFreqHiWrite m _ => m.wf
  | .tbFreqLoRead m => m.wf
  | .tbRefCtlWrite m _ => m.wf
  | .refWindowEnd _ _ => true
  | .refEdgeTimeout _ => true
  | .refEdge _ sub => decide (sub < 65536)
  | .ppsEdge _ sub => decide (sub < 65536)
  | .ppsTimeout _ => true
  | .holdoverSample => true
  | .tbErrEstWrite m _ => m.wf
  | .errEstGrowth => true
  | .ecapEdge n _ sub => decide (n < 32) && decide (sub < 65536)
  | .evcRecPop m n => m.wf && decide (n < 32)
  | .tbSmpPop m => m.wf
  | .toutEdge k => decide (k < 8)
  | .touWrite m k off _ => m.wf && decide (k < 8) && decide (off < 6)
  | .irigFrameStart k => decide (k < 8)
  | .touIrigWrite m _ _ => m.wf
  | .leapSecondEnd => true
  | .tbAdjust _ => true
  | .tbAdjustApply => true
  | .frameStart port sub => decide (port < 96) && decide (sub < 65536)
  | .frameReceived port _ _ _ _ _ => decide (port < 96)
  | .policingIntervalStart => true
  | .microwordExecute e _ _ => decide (e < 64)
  | .lookupReturn _ _ => true
  | .ucodeParityRewrite e addr => decide (e < 64) && decide (addr < 4096)
  | .packetEnqueue _ => true
  | .reseqGapTimeout port _ => decide (port < 102)
  | .timedRelease port _ => decide (port < 102)
  | .portTransmitStart port _ => decide (port < 102)
  | .frameTxEnd port => decide (port < 102)
  | .matchEntryTimeout port => decide (port < 96)
  | .tsuTxsPop m port => m.wf && decide (port < 96)
  | .gateEntryStart port => decide (port < 102)
  | .preemptVerify port _ => decide (port < 96)
  | .latencyWindowEnd _ _ => true
  | .engineWedge e => decide (e < 64)
  | .ptnBindWrite m f _ => m.wf && decide (f < 16)
  | .partitionReset n => decide (n < 16)
  | .partitionResetComplete n => decide (n < 16)
  | .partitionResetDeadline n => decide (n < 16)
  | .ptnReset _ => true
  | .ptnWinResetWrite m n _ => m.wf && decide (n < 16)
  | .sqDoorbell m n i _ => m.wf && decide (n < 16) && decide (i < 8)
  | .headDoorbell m n er i _ => m.wf && decide (n < 16) && decide (i < if er then 4 else 8)
  | .queueEnWrite m n kind i _ => m.wf && decide (n < 16) && decide (i < kind.count)
  | .commandFetch _ _ => true
  | .commandArrival _ => true
  | .fenceCommandStart _ => true
  | .completionWrite n j _ => decide (n < 16) && decide (j < 8)
  | .interruptCoalesceTimeout n er i => decide (n < 16) && decide (i < if er then 4 else 8)
  | .nop _ => true
  | .devReset _ => true
  | .fcuHistRead _ _ => true
  | .camWrite _ => true
  | .camInvalidate _ => true
  | .camLookup _ => true
  | .camStep _ => true
  | .camContextTimeout n c => decide (n < 16) && decide (c < 16)
  | .fdbWrite _ => true
  | .fdbDelete _ => true
  | .fdbFlush _ => true
  | .fdbRead _ => true
  | .cfgOpen _ => true
  | .cfgSet _ => true
  | .cfgCommit _ => true
  | .cfgAbort _ => true
  | .commitApply => true
  | .commitWaitTimeout => true
  | .epochRetire => true
  | .mirrorComplete => true
  | .quiesceEnd => true
  | .quiesceDeadline => true
  | .cfgImageApply _ _ _ => true
  | .t2Stage _ _ _ => true
  | .t2StageWriteStart _ => true
  | .t2StageComplete _ => true
  | .pmcCensus _ => true
  | .censusCapture => true
  | .censusComplete => true
  | .pmcRead _ _ => true
  | .prmStore _ _ _ => true
  | .prmStoreAdmit => true
  | .prmStoreComplete => true
  | .prmRead _ _ _ => true
  | .prmScrubLine unit => decide (unit < 1008)
  | .prmRegionWrite m n _ => m.wf && decide (n < 16)
  | .fwInfo _ => true
  | .ptpInstance _ => true
  | .keyGenerate _ => true
  | .keyImport _ _ _ => true
  | .keyExport _ _ => true
  | .keyPublic _ _ => true
  | .keyZeroise _ => true
  | .pkaSign _ _ _ => true
  | .pkaVerify _ _ _ => true
  | .pkaAgree _ _ _ => true
  | .rngRead _ _ => true
  | .tagFlowSet _ => true
  | .tdmChainSet _ => true
  | .radioNodeAdd _ => true
  | .radioNodeDel _ => true
  | .mdmShapeSet _ _ _ => true
  | .hupMeasure _ => true
  | .twinRejoin _ => true
  | .pkaServiceStart => true
  | .pkaServiceRelease _ => true
  | .pkaDpOp m _ => m.wf
  | .pkaDpComplete _ => true
  | .entropyHealthFail _ => true
  | .entropyStartupPass => true
  | .drbgReseed => true
  | .drbgReseedLimit => true
  | .pkaKeystore slot => decide (slot < 64)
  | .tileTransferComplete tile => decide (tile < 14336)
  | .stateRequestTimeout _ => true
  | .ddrPatrolScrub _ _ => true
  | .ddrTimeout _ => true
  | .ddrTrainingComplete _ _ _ _ => true
  | .linkConditionChange port _ => decide (port < 96)
  | .upHoldExpiry port => decide (port < 96)
  | .downHoldExpiry port => decide (port < 96)
  | .prtCtlWrite m port _ => m.wf && decide (port < 96)
  | .linkDecision => true
  | .learnDecision => true
  | .ageingSweepStep => true
  | .cascCtlWrite m _ => m.wf
  | .cascAligned => true
  | .cascLaneLoss _ => true
  | .cascLookupIssue _ => true
  | .cascRequest _ _ _ => true
  | .cascResult _ _ => true
  | .cascResultForm => true
  | .puntRingWrite n _ _ _ => decide (n < 16)
  | .puntVectorDeferred n => decide (n < 16)
  | .sendRingPoll n _ _ => decide (n < 16)
  | .sendRingRead n _ _ _ => decide (n < 16)
  | .redWindowForget _ _ => true
  | .scheduleStart ch => decide (ch < 4)
  | .chainStart ch => decide (ch < 4)
  | .spanStart ch => decide (ch < 4)
  | .burstStart ch => decide (ch < 4)
  | .burstEnd ch _ _ => decide (ch < 4)
  | .dpdUpdate ch _ _ => decide (ch < 4)
  | .paLimit ch => decide (ch < 4)
  | .syncDetect ch _ sub => decide (ch < 4) && decide (sub < 65536)
  | .burstDecoded ch _ _ _ => decide (ch < 4)
  | .radioFrameRelease ch _ => decide (ch < 4)
  | .noiseFloorMeasure ch _ _ => decide (ch < 4)
  | .dclkLoss ch => decide (ch < 4)
  | .dclkReturn ch => decide (ch < 4)
  | .mdmHeldRelease m ch => m.wf && decide (ch < 4)
  | .rfSpiGo m ch _ => m.wf && decide (ch < 4)
  | .rfSpiComplete ch _ => decide (ch < 4)
  | .lockstepSelfTest _ => true
  | .lockstepFault causes => decide (causes ≠ 0)
  | .tcmCorr _ => true
  | .ccWdogKick m _ => m.wf
  | .fwWatchdog => true
  | .ccFuseProgGo m _ _ => m.all (·.wf)
  | .fuseProgDone => true
  | .semAcq m sem _ => m.wf && decide (sem < 64)
  | .semRel m sem _ => m.wf && decide (sem < 64)
  | .semRenew m sem _ => m.wf && decide (sem < 64)
  | .semLeaseExpiry sem => decide (sem < 64)
  | .idcode => true
  | .samplePreload _ _ => true
  | .clamp => true
  | .highz => true
  | .extest => true
  | .extestPulse => true
  | .extestTrain => true
  | .bypass _ => true
  | .dbgAuth => true
  | .dbgAuthResponse _ _ => true
  | .dbgClose => true
  | .tapReset => true
  | .debugPeek _ _ => true
  | .debugTake _ => true
  | .debugWrite _ _ _ => true
  | .debugHalt => true
  | .debugResume => true
  | .powerOn => true
  | .railTimeout rail => decide (rail < 8)
  | .railRetry => true
  | .sequencerLoad _ _ => true
  | .seqFail => true
  | .pmbAlert => true
  | .voutPoll _ _ => true
  | .vcoreSlow => true
  | .standbyEntry _ => true
  | .wake _ _ => true
  | .hupTestStart => true
  | .hupTestEnd _ _ _ => true
  | .hupSample _ => true
  | .pfailNAssert => true
  | .monitorTrip _ => true
  | .pwrGoodLoss rail => decide (rail < 8)
  | .lastGaspWrite => true
  | .shedComplete _ => true
  | .inputRestored => true
  | .faultDetected _ => true
  | .fatalReset => true
  | .fcuXreset m _ => m.wf
  | .pmcCfgWrite m u c _ _ => m.wf && decide (u < 168) && decide (c < 8)
  | .pmcClr m u c _ => m.wf && decide (u < 168) && decide (c < 8)
  | .counterViewRead m n u c _ => m.wf && decide (n < 16) && decide (u < 168) && decide (c < 8)
  | .torvLinkUp => true
  | .torvLinkDown => true
  | .torvKeepaliveTimeout => true
  | .torvKeepalive _ => true
  | .torvDecision _ => true
  | .torvTouch _ => true
  | .torvCommand _ => true
  | .torvVerdict _ => true
  | .torvTime _ => true
  | .torvReady _ => true
  | .torvProbe _ => true
  | .torvProbeReply _ => true
  | .torvBulk _ => true
  | .torvBulkEnd _ => true
  | .torvNotice _ => true
  | .torvRole _ => true
  | .sharedDecisionApply => true
  | .aliveToggle => true
  | .aliveInStopped => true
  | .witnessSample _ => true
  | .twnCtlWrite m _ => m.wf
  | .rejoinRetry => true
  | .rejoinComplete => true
  | .resetNAssert => true
  | .resetNRelease _ => true
  | .internalResetRelease _ => true
  | .islandClockOk d => decide (d < 14)
  | .bootPhaseEnd _ _ => true
  | .bootDone => true
  | .devBootLoadWrite m _ => m.wf
  | .bootStreamTimeout => true
  | .pciPerst _ => true
  | .tjSample _ => true
  | .aliveInReturn => true
  | .supplyLoss => true
  | .pcieFunctionReset f => decide (f < 16)
  | .ddrCaseTemperatureChange _ => true
  | .keygenSliceEnd _ => true

end Sys2Proof
end

