-- ==== Sys2Proof/Machine/Ops.lean ====
section
/-! DEFINITION. The shared operations of the meanings: sparse tables, fields of words, bytes, saturating counters, grains,
free values, outputs and inputs of the sequencer. -/

namespace Sys2Proof.Machine

/-! ## Outcomes -/

/-- The outcome of a row: the next state where its operands name existing units, otherwise the fault `noSuchUnit`. -/
def ev (ok : Bool) (t : State) : Host.Outcome State Fault Refusal :=
  if ok then .next t else .fault .noSuchUnit

/-- A row whose condition does not hold describes no event: the state stays as it is (log entry 2). -/
def evIf (ok cond : Bool) (s t : State) : Host.Outcome State Fault Refusal :=
  ev ok (if cond then t else s)

/-- What the blocks that a power-fail shed stops would have done: nothing from the shed grain on (R557). -/
def powered (s t : State) : State := if s.pwr.shed.isSome then s else t

/-! ## Sparse tables -/

section Tables
variable {α : Type}

/-- Entry `i`; an unlisted index reads as `d i`. -/
def tget (d : Nat → α) : Tab α → Nat → α
  | [], i => d i
  | (k, v) :: r, i => if k = i then v else tget d r i

/-- The table without index `i`. -/
def tdel : Tab α → Nat → Tab α
  | [], _ => []
  | (k, v) :: r, i => if k = i then tdel r i else (k, v) :: tdel r i

/-- The table with index `i` listed as `v`, indices rising. -/
def tput : Tab α → Nat → α → Tab α
  | [], i, v => [(i, v)]
  | (k, w) :: r, i, v =>
    if i < k then (i, v) :: (k, w) :: r
    else if k = i then (i, v) :: r
    else (k, w) :: tput r i v

/-- Entry `i` becomes `v`; an entry equal to what an unlisted index reads as is not listed. -/
def tset [DecidableEq α] (d : Nat → α) (t : Tab α) (i : Nat) (v : α) : Tab α :=
  if v = d i then tdel t i else tput t i v

/-- Entry `i` changed by a function. -/
def tmod [DecidableEq α] (d : Nat → α) (t : Tab α) (i : Nat) (f : α → α) : Tab α :=
  tset d t i (f (tget d t i))

/-- The canonical form: indices strictly rising and no listed entry equal to what an unlisted index reads as. -/
def twf [DecidableEq α] (d : Nat → α) : Tab α → Bool
  | [] => true
  | (k, v) :: r => !decide (v = d k) && r.all (fun e => decide (k < e.1)) && twf d r

/-- Successive entries from index `i`. -/
def tputs [DecidableEq α] (d : Nat → α) : Tab α → Nat → List α → Tab α
  | t, _, [] => t
  | t, i, v :: vs => tputs d (tset d t i v) (i + 1) vs

/-- `n` successive entries from index `i`. -/
def tgets (d : Nat → α) (t : Tab α) (i n : Nat) : List α :=
  (List.range n).map fun k => tget d t (i + k)

end Tables

/-! ## Words and bytes -/

/-- Field of `len` bits at bit `lo`, as a number. -/
def fld (w : W32) (lo len : Nat) : Nat := w.toNat / 2 ^ lo % 2 ^ len

/-- Bit `i` of a word. -/
def bit (w : W32) (i : Nat) : Bool := w.toNat.testBit i

/-- A Boolean as a bit. -/
def b1 (b : Bool) : Nat := if b then 1 else 0

/-- A word from a number. -/
def w32 (n : Nat) : W32 := BitVec.ofNat 32 n

/-- Signed value of the low `len` bits of a number. -/
def signed (len n : Nat) : Int :=
  let m := n % 2 ^ len
  if m < 2 ^ (len - 1) then (m : Int) else (m : Int) - (2 ^ len : Nat)

/-- `n` little-endian bytes of a number. -/
def leBytes : Nat → Nat → List Byte
  | 0, _ => []
  | n + 1, v => BitVec.ofNat 8 v :: leBytes n (v / 256)

/-- `n` big-endian bytes of a number. -/
def beBytes (n v : Nat) : List Byte := (leBytes n v).reverse

/-- The number that little-endian bytes spell. -/
def leNat : List Byte → Nat
  | [] => 0
  | b :: r => b.toNat + 256 * leNat r

/-- The number that big-endian bytes spell. -/
def beNat (l : List Byte) : Nat := l.foldl (fun a b => a * 256 + b.toNat) 0

/-- `len` bytes from `off`. -/
def slice (l : List Byte) (off len : Nat) : List Byte := (l.drop off).take len

/-- Little-endian number of `len` bytes at `off`. -/
def le (l : List Byte) (off len : Nat) : Nat := leNat (slice l off len)

/-- Big-endian number of `len` bytes at `off`. -/
def be (l : List Byte) (off len : Nat) : Nat := beNat (slice l off len)

/-- Bytes padded with zeros, or cut, to a length. -/
def padTo (n : Nat) (l : List Byte) : List Byte := (l ++ List.replicate n 0).take n

/-- Words of four little-endian bytes. -/
def wordsLE (n : Nat) (l : List Byte) (off : Nat) : List W32 :=
  (List.range n).map fun k => w32 (le l (off + 4 * k) 4)

/-- Word `k` of a value. -/
def wd (l : List W32) (k : Nat) : W32 := l.getD k 0

/-- All bytes of a range are zero. -/
def zeros (l : List Byte) (off len : Nat) : Bool := (slice l off len).all (· == 0)

/-! ## Saturating counters -/

/-- Add, saturating at the greatest value of the width. -/
def satAdd {w : Nat} (x : BitVec w) (n : Nat) : BitVec w :=
  BitVec.ofNat w (min (2 ^ w - 1) (x.toNat + n))

/-- Count one, saturating. -/
def satInc {w : Nat} (x : BitVec w) : BitVec w := satAdd x 1

/-! ## Grains -/

/-- The current grain (R35). -/
def now (s : State) : Grain := s.gr.count

/-- A grain stamp lies in the future; comparisons are modulo 2^64 (R50, R51). -/
def future (s : State) (g : Grain) : Bool :=
  let d := (g - s.gr.count).toNat
  decide (0 < d) && decide (d < 2 ^ 63)

/-- Grain `g` has been reached (R50). -/
def reached (s : State) (g : Grain) : Bool := !future s g

/-- Grains passed since `g`. -/
def since (s : State) (g : Grain) : Nat := (s.gr.count - g).toNat

/-- `a` is before `b`, modulo 2^64 (R50). -/
def before (a b : Grain) : Bool :=
  let d := (b - a).toNat
  decide (0 < d) && decide (d < 2 ^ 63)

/-! ## Free values, outputs, inputs -/

/-- A value the spec leaves open. -/
def freeVal (s : State) : BitVec 64 := Config.freeValue s.freeCtr

/-- The counter of free values advances. -/
def freeNext (s : State) : State := { s with freeCtr := s.freeCtr + 1 }

/-- Something goes to the outside. -/
def emit (s : State) (o : Output) : State := { s with out := o :: s.out }

/-- An input completes its synchroniser: the next boundary stamps it (R36). -/
def see (s : State) (cls idx : Nat) (d : Decision) : State :=
  { s with gr := { s.gr with seen := s.gr.seen ++ [⟨cls, idx, d⟩] } }

/-- Order of inputs of one grain (R38): class, then source index. -/
def inpBefore (a b : Inp) : Bool := decide (a.cls < b.cls) || (decide (a.cls = b.cls) && decide (a.idx < b.idx))

/-- An input in its place among the stamped ones of its grain. -/
def insEntry (x : Entry) : List Entry → List Entry
  | [] => [x]
  | y :: r => if y.stamp = x.stamp ∧ inpBefore x.inp y.inp then x :: y :: r else y :: insEntry x r

/-- An input that belongs to the boundary of this grain is appended with the inputs seen there (R38, R269); where others wait, or
the backlog is full, it waits with them (R44). -/
def seeNow (s : State) (cls idx : Nat) (d : Decision) : State :=
  let x : Entry := ⟨s.gr.count, ⟨cls, idx, d⟩⟩
  if s.gr.waiting.isEmpty ∧ s.gr.backlog.length < 4096 then { s with gr := { s.gr with backlog := insEntry x s.gr.backlog } }
  else { s with gr := { s.gr with waiting := insEntry x s.gr.waiting } }

/-- A fault is detected: a P1 input whose index is its source number (R568). -/
def detect (s : State) (r : Rec) : State := see s 1 r.src (.fault r)

/-- A class K fault. -/
def kFault (s : State) (src cause : Nat) (pt : Option Nat) (data : Nat) : State :=
  detect s { cls := 1, src := src, cause := cause, pt := pt, data := data }

/-- A class F fault. -/
def fFault (s : State) (src cause data : Nat) : State :=
  detect s { cls := 2, src := src, cause := cause, pt := none, data := data }

/-- A class X fault. -/
def xFault (s : State) (src cause data : Nat) : State :=
  detect s { cls := 3, src := src, cause := cause, pt := none, data := data }

/-- A class C fault. -/
def cFault (s : State) (src cause data : Nat) : State :=
  detect s { cls := 0, src := src, cause := cause, pt := none, data := data }

/-! ## Indexed units -/

def evcAt (s : State) (n : Nat) : Evc := tget (fun _ => Evc.reset) s.evc n
def setEvc (s : State) (n : Nat) (x : Evc) : State := { s with evc := tset (fun _ => Evc.reset) s.evc n x }
def touAt (s : State) (k : Nat) : Tou := tget (fun _ => Tou.reset) s.tou k
def setTou (s : State) (k : Nat) (x : Tou) : State := { s with tou := tset (fun _ => Tou.reset) s.tou k x }
def tsuAt (s : State) (p : Nat) : Tsu := tget (fun _ => Tsu.reset) s.tsu p
def setTsu (s : State) (p : Nat) (x : Tsu) : State := { s with tsu := tset (fun _ => Tsu.reset) s.tsu p x }
def engAt (s : State) (e : Nat) : Eng := tget (fun _ => Eng.reset) s.eng e
def setEng (s : State) (e : Nat) (x : Eng) : State := { s with eng := tset (fun _ => Eng.reset) s.eng e x }
/-- Packets of an engine, in execution or in its dispatch queue (R577). -/
def engPkts (x : Eng) : Nat := x.held.length + x.disp.length
/-- Packets that an engine holds: it takes the first ones of its queue while it has room, 8 in all (R120). DEDUCED: log entry 159. -/
def engInFlight (x : Eng) : Nat := min 8 (engPkts x)
/-- Packets that wait in its dispatch queue. -/
def engDepth (x : Eng) : Nat := engPkts x - 8
def ptnAt (s : State) (n : Nat) : Ptn := tget (fun _ => Ptn.reset) s.ptn n
def setPtn (s : State) (n : Nat) (x : Ptn) : State := { s with ptn := tset (fun _ => Ptn.reset) s.ptn n x }
def portAt (s : State) (p : Nat) : Port := tget (fun _ => Port.reset) s.ports p
def setPort (s : State) (p : Nat) (x : Port) : State := { s with ports := tset (fun _ => Port.reset) s.ports p x }
def radioAt (s : State) (m : Nat) : Radio := tget (fun _ => Radio.reset) s.radio m
def setRadio (s : State) (m : Nat) (x : Radio) : State := { s with radio := tset (fun _ => Radio.reset) s.radio m x }

/-- Function `f` is bound to partition `f` and enabled at reset (R144, R156). -/
def bindReset (f : Nat) : Bind := { pt := BitVec.ofNat 4 f, en := true }
def bindAt (s : State) (f : Nat) : Bind := tget bindReset s.bind_ f
def setBind (s : State) (f : Nat) (x : Bind) : State := { s with bind_ := tset bindReset s.bind_ f x }

def sqAt (s : State) (n i : Nat) : Sq := tget (fun _ => Sq.reset) s.cq.sq (8 * n + i)
def setSq (s : State) (n i : Nat) (x : Sq) : State :=
  { s with cq := { s.cq with sq := tset (fun _ => Sq.reset) s.cq.sq (8 * n + i) x } }
def cqAt (s : State) (n j : Nat) : Ring := tget (fun _ => Ring.reset) s.cq.cq (8 * n + j)
def setCq (s : State) (n j : Nat) (x : Ring) : State :=
  { s with cq := { s.cq with cq := tset (fun _ => Ring.reset) s.cq.cq (8 * n + j) x } }
def erAt (s : State) (n k : Nat) : Ring := tget (fun _ => Ring.reset) s.cq.er (4 * n + k)
def setEr (s : State) (n k : Nat) (x : Ring) : State :=
  { s with cq := { s.cq with er := tset (fun _ => Ring.reset) s.cq.er (4 * n + k) x } }

def queueAt (s : State) (p q : Nat) : Queue := tget (fun _ => Queue.reset) s.qm.queues (8 * p + q)
def setQueue (s : State) (p q : Nat) (x : Queue) : State :=
  { s with qm := { s.qm with queues := tset (fun _ => Queue.reset) s.qm.queues (8 * p + q) x } }
def schedAt (s : State) (p : Nat) : Sched := tget (fun _ => Sched.reset) s.qm.sched p
def setSched (s : State) (p : Nat) (x : Sched) : State :=
  { s with qm := { s.qm with sched := tset (fun _ => Sched.reset) s.qm.sched p x } }
def rsqAt (s : State) (i : Nat) : Rsq := tget (fun _ => Rsq.reset) s.qm.rsq i
def setRsq (s : State) (i : Nat) (x : Rsq) : State :=
  { s with qm := { s.qm with rsq := tset (fun _ => Rsq.reset) s.qm.rsq i x } }

/-- Counter `c` of unit `u` (R592, R600). -/
def ctrAt (s : State) (u c : Nat) : Ctr := tget (fun _ => Ctr.reset) s.pmc.ctrs (8 * u + c)
def setCtr (s : State) (u c : Nat) (x : Ctr) : State :=
  { s with pmc := { s.pmc with ctrs := tset (fun _ => Ctr.reset) s.pmc.ctrs (8 * u + c) x } }

/-! ## Packets -/

/-- The packet of a number. -/
def pktAt (s : State) (id : Nat) : Option Pkt := s.qm.pkts.find? fun p => decide (p.id = id)

/-- The packet of a number replaced. -/
def setPkt (s : State) (p : Pkt) : State :=
  { s with qm := { s.qm with pkts := s.qm.pkts.map fun q => if q.id = p.id then p else q } }

/-- The packet of a number gone. -/
def delPkt (s : State) (id : Nat) : State :=
  { s with qm := { s.qm with pkts := s.qm.pkts.filter fun q => decide (q.id ≠ id) } }

end Sys2Proof.Machine
end

