-- ==== Sys2Proof/Machine/Settings.lean ====
section
/-! DEFINITION. The settings (spec/09): identifiers, reset values, the value a setting holds under an epoch, and the
ownership they express. A setting is known by its key, SETTING × 65,536 + INDEX. -/

namespace Sys2Proof.Machine

/-- Key of a setting. -/
def skey (sid idx : Nat) : Nat := sid * 65536 + idx

/-! ## Identifiers (R231) -/

def sPORT_MODE : Nat := 0x00010001
def sPORT_OWN : Nat := 0x00010002
def sVLAN_RANGE : Nat := 0x00020001
def sBUF_SHARE : Nat := 0x00030001
def sBUF_CARVE : Nat := 0x00030002
def sQM_REL : Nat := 0x00030010
def sQM_GATE : Nat := 0x00030011
def sQM_SHAPE : Nat := 0x00030012
def sUCODE_LAYOUT : Nat := 0x00040001
def sUCODE_WORDS : Nat := 0x00040002
def sCLS_RULE : Nat := 0x00040010
def sCLS_SPREAD : Nat := 0x00040011
def sCAM_BLOCK_OWN : Nat := 0x00050001
def sCAM_BLOCK_MODE : Nat := 0x00050002
def sCAM_PROFILE : Nat := 0x00050003
def sFDB_REGION : Nat := 0x00060001
def sFDB_AGE : Nat := 0x00060002
def sT1_FLOOR : Nat := 0x00070001
def sT2_BASE : Nat := 0x00070010
def sT2_SWAP : Nat := 0x00070011
def sFWD_ACL : Nat := 0x00080001
def sFWD_REWRITE : Nat := 0x00080002
def sFWD_MCAST : Nat := 0x00080003
def sFWD_RED : Nat := 0x00080004
def sKEY_OWN : Nat := 0x00090001
def sECAP_OWN : Nat := 0x00090002
def sRADIO_OWN : Nat := 0x00090003
def sPTN_WEIGHT : Nat := 0x00090004
def sRADIO_MODE : Nat := 0x000A0001

/-- The drain-class settings (R231); every other setting is of epoch class. -/
def drainClass (sid : Nat) : Bool :=
  [sPORT_MODE, sPORT_OWN, sBUF_SHARE, sBUF_CARVE, sUCODE_LAYOUT, sCAM_BLOCK_OWN, sCAM_BLOCK_MODE, sFDB_REGION,
    sT2_BASE, sRADIO_OWN, sRADIO_MODE].contains sid

/-- WORDS of a setting at an index, and that the index exists (R231, R282, R295, R300, R318, R348, R356, R358, R394); none
where the setting or the index does not exist. UCODE_WORDS takes 4 or 8 words: 4 is answered here. -/
def settingWords (sid idx : Nat) : Option Nat :=
  if sid = sPORT_MODE ∨ sid = sPORT_OWN then (if idx < 96 then some 1 else none)
  else if sid = sVLAN_RANGE then (if idx < 128 then some 1 else none)
  else if sid = sBUF_SHARE then (if idx < 16 then some 2 else none)
  else if sid = sBUF_CARVE then (if idx < 102 then some 1 else none)
  else if sid = sQM_REL then (if idx < 768 then some 1 else none)
  else if sid = sQM_GATE then
    (if idx < 12288 then (if idx % 128 = 0 then some 4 else if 64 ≤ idx % 128 then some 1 else none) else none)
  else if sid = sQM_SHAPE then (if idx < 768 then some 2 else none)
  else if sid = sUCODE_LAYOUT then (if idx = 0 then some 2 else none)
  else if sid = sUCODE_WORDS then (if idx < 4096 then some 4 else none)
  else if sid = sCLS_RULE then (if idx < 1024 then some 6 else none)
  else if sid = sCLS_SPREAD then
    (if idx < 8 then some 2 else if 512 ≤ idx ∧ idx < 614 then some 1 else if 1024 ≤ idx ∧ idx < 2048 then some 1 else none)
  else if sid = sCAM_BLOCK_OWN ∨ sid = sCAM_BLOCK_MODE then (if idx < 32 then some 1 else none)
  else if sid = sCAM_PROFILE then (if idx < 64 then some 2 else none)
  else if sid = sFDB_REGION ∨ sid = sT1_FLOOR ∨ sid = sPTN_WEIGHT then (if idx < 16 then some 1 else none)
  else if sid = sFDB_AGE then (if idx < 16 then some 3 else none)
  else if sid = sT2_BASE then (if idx < 4 then some 4 else none)
  else if sid = sT2_SWAP then (if idx < 4 then some 1 else none)
  else if sid = sFWD_ACL then (if idx < 65536 then some 2 else none)
  else if sid = sFWD_REWRITE then (if idx < 4096 then some 7 else none)
  else if sid = sFWD_MCAST then
    (if idx < 4096 then some 5 else if 4096 < idx ∧ idx < 8191 then some 5
     else if 8192 ≤ idx ∧ idx < 8294 then some 1 else if 8320 ≤ idx ∧ idx < 8336 then some 10 else none)
  else if sid = sFWD_RED then (if idx < 96 then some 2 else none)
  else if sid = sKEY_OWN then (if idx < 64 then some 1 else none)
  else if sid = sECAP_OWN then (if idx < 32 then some 1 else none)
  else if sid = sRADIO_OWN then (if idx < 4 then some 1 else none)
  else if sid = sRADIO_MODE then (if idx < 4 then some 5 else none)
  else none

/-- Reset value of a setting by its key (R146, R135, R257, R281, R300, R317, R318, R333, R350, R393-R395, R420, R431). -/
def settingReset (key : Nat) : List W32 :=
  let sid := key / 65536
  let idx := key % 65536
  if sid = sBUF_SHARE then (if idx = 0 then [0, 393216] else [0, 0])
  else if sid = sBUF_CARVE then [0xAAAAAAAA]
  else if sid = sQM_REL then [1000000]
  else if sid = sQM_GATE then (if idx % 128 = 0 then [0xFF00, 0, 0, 0] else [0])
  else if sid = sQM_SHAPE then [2, 0]
  else if sid = sUCODE_LAYOUT then [0x08000000, 0x800]
  else if sid = sCLS_SPREAD then (if idx < 8 then [0x1FF, 0xFFFFFFFF] else if idx < 1024 then [0] else [w32 ((idx - 1024) % 64)])
  else if sid = sFDB_REGION then (if idx = 0 then [0x4000] else [0])
  else if sid = sFDB_AGE then [4577637, 0x080003E8, 3]
  else if sid = sPTN_WEIGHT then [1]
  else if sid = sFWD_MCAST ∧ 8192 ≤ idx ∧ idx < 8320 then [0x90000001]
  else List.replicate ((settingWords sid idx).getD 0) 0

/-- The newest live epoch (R237). -/
def newest (s : State) : Epoch := s.cfg.epochs.headD Epoch.zero

/-- The oldest live epoch (R247). -/
def oldest (s : State) : Epoch := s.cfg.epochs.getLastD Epoch.zero

/-- The live epoch of a number; a packet whose epoch has retired takes the oldest live one (log entry 21). -/
def epochOf (s : State) (n : BitVec 16) : Epoch :=
  (s.cfg.epochs.find? fun e => decide (e.num = n)).getD (oldest s)

/-- Rule bank base of an epoch. -/
def bankOf (e : Epoch) : Nat := if e.bank then 1024 else 0

/-- Value of a setting under an epoch (R238); drain-class settings hold one value (R243). -/
def setVal (s : State) (e : Epoch) (sid idx : Nat) : List W32 :=
  if drainClass sid then tget settingReset s.cfg.drain (skey sid idx)
  else if sid = sCLS_RULE then tget (fun _ => List.replicate 6 0) s.cfg.rules (bankOf e + idx)
  else tget settingReset e.vals (skey sid idx)

/-- Value of a setting in the newest live epoch. -/
def cur (s : State) (sid idx : Nat) : List W32 := setVal s (newest s) sid idx

/-- Word 0 of a setting in the newest live epoch. -/
def cur0 (s : State) (sid idx : Nat) : W32 := wd (cur s sid idx) 0

/-! ## Ownership (R146, R232) in the newest live epoch -/

/-- Owner of a logical port: Ethernet ports by PORT_OWN, radio ports by RADIO_OWN; ports 100 and 101 have none. -/
def portOwner (s : State) (p : Nat) : Nat :=
  if p < 96 then fld (cur0 s sPORT_OWN p) 0 4 else if p < 100 then fld (cur0 s sRADIO_OWN (p - 96)) 0 4 else 0

def portShared (s : State) (p : Nat) : Bool := decide (p < 96) && bit (cur0 s sPORT_OWN p) 4
def camOwner (s : State) (b : Nat) : Nat := fld (cur0 s sCAM_BLOCK_OWN b) 0 4
def keyOwner (s : State) (k : Nat) : Nat := fld (cur0 s sKEY_OWN k) 0 4
def ecapOwner (s : State) (n : Nat) : Nat := fld (cur0 s sECAP_OWN n) 0 4
def radioOwner (s : State) (m : Nat) : Nat := fld (cur0 s sRADIO_OWN m) 0 4
def fdbBase (s : State) (n : Nat) : Nat := fld (cur0 s sFDB_REGION n) 0 6
def fdbSize (s : State) (n : Nat) : Nat := fld (cur0 s sFDB_REGION n) 8 7
def guarOf (s : State) (n : Nat) : Nat := fld (wd (cur s sBUF_SHARE n) 0) 0 19
def ceilOf (s : State) (n : Nat) : Nat := fld (wd (cur s sBUF_SHARE n) 1) 0 19
def floorOf (s : State) (n : Nat) : Nat := fld (cur0 s sT1_FLOOR n) 0 14
def weightOf (s : State) (n : Nat) : Nat := fld (cur0 s sPTN_WEIGHT n) 0 8

/-- VLAN range `j` of partition `n` under an epoch holds a VID (R142, R146). -/
def vlanHolds (s : State) (e : Epoch) (n j v : Nat) : Bool :=
  let w := wd (setVal s e sVLAN_RANGE (8 * n + j)) 0
  bit w 31 && decide (fld w 0 12 ≤ v) && decide (v ≤ fld w 16 12)

/-- The partition whose VLAN ranges hold a VID (R142). -/
def vlanOwner (s : State) (e : Epoch) (v : Nat) : Option Nat :=
  (List.range 16).find? fun n => (List.range 8).any fun j => vlanHolds s e n j v

/-! ## Release settings of a queue (R135) -/

def qTarget (s : State) (e : Epoch) (p q : Nat) : Nat := fld (wd (setVal s e sQM_REL (8 * p + q)) 0) 0 20
def qTimed (s : State) (e : Epoch) (p q : Nat) : Bool := decide (p < 96) && bit (wd (setVal s e sQM_REL (8 * p + q)) 0) 20
def qLateDrop (s : State) (e : Epoch) (p q : Nat) : Bool := bit (wd (setVal s e sQM_REL (8 * p + q)) 0) 21

/-- Greatest TARGET of any timed queue on the ports that satisfy `f`, in any live epoch (R153, R239, R243). Only listed
settings can be timed: the reset value is prompt. -/
def tMaxOf (s : State) (f : Nat → Bool) : Nat :=
  s.cfg.epochs.foldl (fun m e =>
    e.vals.foldl (fun m kv =>
      if kv.1 / 65536 = sQM_REL ∧ f (kv.1 % 65536 / 8) ∧ bit (wd kv.2 0) 20 then max m (fld (wd kv.2 0) 0 20) else m) m) 0

/-- T_max over every port. -/
def tMax (s : State) : Nat := tMaxOf s fun _ => true

/-! ## Microprogram regions (R281) -/

/-- Base of the region that an epoch runs. -/
def ucodeBase (s : State) (e : Epoch) : Nat :=
  let v := setVal s e sUCODE_LAYOUT 0
  if e.region then fld (wd v 1) 0 12 else fld (wd v 0) 0 12

/-- Words of each region. -/
def ucodeLen (s : State) : Nat := fld (wd (cur s sUCODE_LAYOUT 0) 0) 16 12

end Sys2Proof.Machine
end

