-- ==== Sys2Proof/Machine/Events.lean ====
section
/-! DEFINITION. Event records, event rings and interrupts (spec/07 R177-R183), counters (spec/22 R592-R596), and the effects
on queues of a failed write. -/

namespace Sys2Proof.Machine

/-! ## Counters -/

/-- A counted event of a unit, attributed to a partition (R592, R593, R596): `n` is added to each enabled counter of the unit
whose SEL names it and whose OWN is the partition or whose ALL is set. -/
def count (s : State) (u sel n pt : Nat) : State :=
  (List.range 8).foldl (fun s c =>
    let x := ctrAt s u c
    if x.en ∧ x.sel.toNat = sel ∧ (x.all ∨ x.own.toNat = pt) then
      setCtr s u c { x with count := x.count + BitVec.ofNat 48 n }
    else s) s

/-! ## Interrupts -/

/-- The lowest-numbered function bound to partition `n` that satisfies `f`. -/
def lowestFn (s : State) (n : Nat) (f : Bind → Bool) : Option Nat :=
  (List.range 16).find? fun k => decide ((bindAt s k).pt.toNat = n) && f (bindAt s k)

/-- Reset word of an MSI-X table: Vector Control words are masked, all others 0 (PCIe Base Specification, R182). -/
def msixReset (i : Nat) : W32 := if i % 4 = 3 then 1 else 0

/-- A vector of a function is masked. -/
def vecMasked (s : State) (f v : Nat) : Bool :=
  s.cq.msixMask.toNat.testBit f || bit (tget msixReset s.cq.msix (256 * f + 4 * v + 3)) 0

/-- Set or clear a pending bit. -/
def setPba (s : State) (f v : Nat) (b : Bool) : State :=
  let w := tget (fun _ => (0 : BitVec 64)) s.cq.pba f
  let m : BitVec 64 := BitVec.ofNat 64 (2 ^ v)
  { s with cq := { s.cq with pba := tset (fun _ => 0) s.cq.pba f (if b then w ||| m else w &&& ~~~m) } }

/-- MSI-X vector `v` of function `f` (R181): sent where MSI-X is enabled and the vector unmasked; a masked vector sets its
pending bit; nothing where MSI-X is disabled. -/
def msixSend (s : State) (f v : Nat) : State :=
  if !s.cq.msixEn.toNat.testBit f then s
  else if vecMasked s f v then setPba s f v true
  else emit s (.msix f v)

/-- Entries of a queue or ring (R165). -/
def ringSize (loc : Bool) (size : BitVec 4) (onDie : Nat) : Nat := if loc then onDie else 2 ^ size.toNat

/-- Entries a CQ or ER holds that the host has not consumed. -/
def unconsumed (r : Ring) (n : Nat) : Nat := (r.tail + n - r.head) % n

/-- Whether an armed ring signals now (R181). -/
def signals (s : State) (r : Ring) (entries : Nat) : Bool :=
  let u := unconsumed r entries
  r.en && r.armed && decide (0 < u) &&
    (decide (max 1 r.coalCnt.toNat ≤ u) ||
      (match r.oldest with
       | some g => decide (r.coalTime ≠ 0) && decide (r.coalTime.toNat * 256 ≤ since s g)
       | none => false))

/-- The message a ring's signal sends (R181). -/
def ringMsix (s : State) (n : Nat) (r : Ring) : State :=
  if r.loc then
    match lowestFn s n (·.en) with
    | some f => msixSend s f r.vec.toNat
    | none => s
  else msixSend s r.fn.toNat r.vec.toNat

/-- A CQ signals and disarms where R181 says so. -/
def cqSignal (s : State) (n j : Nat) : State :=
  let r := cqAt s n j
  if signals s r (ringSize r.loc r.size 32) then
    ringMsix (setCq s n j { r with armed := false, oldest := none }) n r
  else s

/-- An ER signals and disarms where R181 says so. -/
def erSignal (s : State) (n k : Nat) : State :=
  let r := erAt s n k
  if signals s r (ringSize r.loc r.size 64) then
    ringMsix (setEr s n k { r with armed := false, oldest := none }) n r
  else s

/-! ## Event records -/

/-- The 16 bytes of a record (R179). -/
def evRecord (src : Nat) (loss phase : Bool) (code data : Nat) (g : Grain) : List Byte :=
  leBytes 2 (src % 1024 + 2 ^ 14 * b1 loss + 2 ^ 15 * b1 phase) ++ leBytes 2 code ++ leBytes 4 data ++ leBytes 8 g.toNat

/-- The SOE ring keeps the latest 512 records of sources 4p and 576-767, delivered or not, with LOSS and PHASE 0 (R559,
log entry 22). -/
def soeKeep (s : State) (src code data : Nat) (g : Grain) : State :=
  if (src < 384 ∧ src % 4 = 0) ∨ 576 ≤ src then
    { s with prm := { s.prm with soe := (evRecord src false false code data g :: s.prm.soe).take 512 } }
  else s

/-- The ring's next entry, and whether the record fits (R166, R176, R180). -/
def ringFull (r : Ring) (entries : Nat) : Bool := decide ((r.tail + 1) % entries = r.head)

/-- The PHASE and tail after one entry is written (R175). -/
def ringAdvance (r : Ring) (entries : Nat) (g : Grain) : Ring :=
  let t := (r.tail + 1) % entries
  { r with tail := t, phase := (if t = 0 then !r.phase else r.phase), oldest := some (r.oldest.getD g) }

/-- Where the bytes of an ER entry go: the on-die area, or by DMA to the function's memory (R165). -/
def erStore (s : State) (n : Nat) (r : Ring) (bytes : List Byte) : State :=
  if r.loc then { s with cq := { s.cq with onEr := tputs (fun _ => 0) s.cq.onEr (1024 * n + 16 * r.tail) bytes } }
  else emit s (.dma r.fn.toNat (2 ^ 32 * r.baseHi.toNat + 4096 * r.baseLo.toNat + 16 * r.tail) bytes)

/-- A record goes into ER `k` of partition `n` (R180). A disabled ring discards it uncounted (R190); a full ring counts it in
ER_LOST; a failed DMA write stops the ring with ERR 5 (R191), which is the case while the PCIe endpoint is in reset (R652). -/
def erPut (s : State) (n k src code data : Nat) (g : Grain) : State :=
  let r := erAt s n k
  let sz := ringSize r.loc r.size 64
  if !r.en then s
  else if ringFull r sz then setEr s n k { r with lost := satInc r.lost, lossPend := true }
  else if !r.loc && !s.dev.perst then setEr s n k { r with en := false, err := 5, lossPend := false }
  else
    let s := erStore s n r (evRecord src r.lossPend r.phase code data g)
    erSignal (setEr s n k { ringAdvance r sz (now s) with lossPend := false }) n k

/-- The ring that EV_SEL of partition `n` names for a source, where delivered. -/
def evRing (s : State) (n src : Nat) : Option Nat :=
  let w := tget (fun _ => (0 : BitVec 3)) (ptnAt s n).evSel src
  if w.toNat / 4 = 1 then some (w.toNat % 4) else none

/-- Whether delivering to ER `k` of `n` loses the record. -/
def erWouldLose (s : State) (n k : Nat) : Bool :=
  let r := erAt s n k
  r.en && ringFull r (ringSize r.loc r.size 64)

/-- Whether delivering to ER `k` of `n` stops the ring with ERR 5. -/
def erWouldFail (s : State) (n k : Nat) : Bool :=
  let r := erAt s n k
  r.en && !ringFull r (ringSize r.loc r.size 64) && !r.loc && !s.dev.perst

/-- A record of one of the partition's own queue events, which raises nothing further. -/
def deliverLast (s : State) (n src code data : Nat) (g : Grain) : State :=
  match evRing s n src with
  | some k => erPut s n k src code data g
  | none => s

/-- One source delivered to partition `n` (R180): a lost record raises EV_LOST unless that event's own ring is the full one;
a failed write raises RING_ERROR (R191). -/
def deliver (s : State) (n src code data : Nat) (g : Grain) : State :=
  match evRing s n src with
  | none => s
  | some k =>
    let lose := erWouldLose s n k
    let fail := erWouldFail s n k
    let s := erPut s n k src code data g
    if lose then
      (if evRing s n (448 + 8 * n + 3) = some k then s else deliverLast s n (448 + 8 * n + 3) 0 k (now s))
    else if fail then deliverLast s n (448 + 8 * n + 4) 0 (k + 0x20 + 0x500) (now s)
    else s

/-- Whether R149 routes a source to partition `n`. -/
def routed (s : State) (n src : Nat) : Bool :=
  if src < 384 then decide (portOwner s (src / 4) = n)
  else if src < 448 then true
  else if src < 576 then decide ((src - 448) / 8 = n)
  else if src < 608 then decide (n = 0) || (ptnAt s n).timeSub
  else if src < 640 then decide (ecapOwner s (src - 608) = n)
  else if src < 656 then decide (radioOwner s ((src - 640) / 4) = n)
  else decide (n = 0)

/-- An event is raised with the grain stamp of its condition (R149, R177-R180, R683). -/
def raiseAt (s : State) (src code data : Nat) (g : Grain) : State :=
  (List.range 16).foldl (fun s n => if routed s n src then deliver s n src code data g else s) (soeKeep s src code data g)

/-- An event of the current grain. -/
def raise (s : State) (src code data : Nat) : State := raiseAt s src code data (now s)

/-- Once per latency window and unit (R128, R276, R340, R388, R400): the event is raised the first time only, with the grain
stamp of its condition. -/
def raiseOnceAt (s : State) (kind unit src code data : Nat) (g : Grain) : State :=
  if s.core.once.contains (kind, unit) then s
  else raiseAt { s with core := { s.core with once := (kind, unit) :: s.core.once } } src code data g

/-- Once per latency window and unit, in the current grain. -/
def raiseOnce (s : State) (kind unit src code data : Nat) : State := raiseOnceAt s kind unit src code data (now s)

/-- RING_ERROR of a queue (R178): index, kind (0 SQ, 1 CQ, 2 ER, 3 punt or send ring) and cause. -/
def ringError (s : State) (n idx kind cause : Nat) : State :=
  raise s (448 + 8 * n + 4) 0 (idx + 16 * kind + 256 * cause)

end Sys2Proof.Machine
end

