-- ==== Sys2Proof/Machine/Access.lean ====
section
/-! DEFINITION. Access of a master to a control-space register: reach, serving island, fenced units, refusal (spec/01 R22,
R26-R30, R682), and what a read returns. -/

namespace Sys2Proof.Machine

/-- Partition a master is bound to (R144, R156). -/
def masterPt (s : State) : Master → Nat
  | .pf f => (bindAt s f).pt.toNat
  | .mgt => 0
  | .cc => 0

/-- Whether a function may make accesses at all (PTN_BIND.EN, R156). -/
def masterOn (s : State) : Master → Bool
  | .pf f => (bindAt s f).en
  | .mgt => true
  | .cc => true

/-- The control cluster, or a master bound to PT0. -/
def isSteward (s : State) (m : Master) : Bool := masterOn s m && decide (masterPt s m = 0)

/-- The reach of a master (R22): the regions below 0x0800_0000 for PT0 and the cluster; the window of PT n for PT n, PT0 and
the cluster; space that no region names is outside the reach of every other master (log entry 23). -/
def reaches (s : State) (m : Master) (addr : Nat) : Bool :=
  isSteward s m ||
    (masterOn s m && decide (0x08000000 ≤ addr) && decide (addr < 0x09000000) &&
      decide ((addr - 0x08000000) / 0x100000 = masterPt s m))

/-- The window of partition `n`. -/
def winBase (n : Nat) : Nat := 0x08000000 + n * 0x100000

/-- The island that serves a register; none for D0 and the Neash core (R682). -/
def servedBy (addr : Nat) : Option Nat :=
  if addr < 0x00100000 then none
  else if addr < 0x00300000 then some 1
  else if addr < 0x00360000 then some (8 + (addr - 0x00300000) / 0x1000 / 24)
  else if 0x00400000 ≤ addr ∧ addr < 0x00401000 then some 13
  else if 0x00401000 ≤ addr ∧ addr < 0x00500000 then some 1
  else if 0x01000000 ≤ addr ∧ addr < 0x01600000 then some (8 + (addr - 0x01000000) / 0x10000 / 24)
  else if 0x04C00000 ≤ addr ∧ addr < 0x05000000 then some 4
  else if 0x06000000 ≤ addr ∧ addr < 0x06800000 then some 7
  else if 0x07000000 ≤ addr ∧ addr < 0x07020000 then some 2
  else if 0x07020000 ≤ addr ∧ addr < 0x07780000 then some 12
  else if 0x07E00000 ≤ addr ∧ addr < 0x07F00000 then some 5
  else if 0x07F00000 ≤ addr ∧ addr < 0x08000000 then some 6
  else if 0x08000000 ≤ addr ∧ addr < 0x09000000 then
    let off := (addr - 0x08000000) % 0x100000
    if 0x20000 ≤ off ∧ off < 0x80000 then some (8 + (off - 0x20000) / 0x1000 / 24) else none
  else none

/-- CLK_OK of an island. -/
def clkOk (s : State) (d : Nat) : Bool := s.dev.clkOk.toNat.testBit d

/-- An engine is fenced. -/
def engFenced (s : State) (e : Nat) : Bool := decide ((engAt s e).fence.toNat ≠ 0)

/-- Live engines, lowest first. -/
def liveEngines (s : State) : List Nat := (List.range 64).filter fun e => !engFenced s e

/-- The cluster is fenced (R510). -/
def ccFenced (s : State) : Bool := decide (s.cc.state.toNat = 3)

/-- The register belongs to a fenced unit (R28). -/
def unitFencedAt (s : State) (addr : Nat) : Bool :=
  if 0x04000000 ≤ addr ∧ addr < 0x04400000 then engFenced s ((addr - 0x04000000) / 0x10000)
  else if 0x06000000 ≤ addr ∧ addr < 0x06800000 then (radioAt s (addr % 0x400000 / 0x1000)).fenced
  else if 0x06800000 ≤ addr ∧ addr < 0x07000000 then s.pka.fenced
  else if 0x07000000 ≤ addr ∧ addr < 0x07020000 then ccFenced s
  else false

/-- The cause that refuses an access, in the order of R30: 1 ACCESS_WIDTH, 3 ACCESS_OWNER, 2 ACCESS_UNMAPPED, 5 ISLAND_DOWN,
4 ACCESS_FENCED (writes only). -/
def refusal (s : State) (m : Master) (addr size : Nat) (write mapped : Bool) : Option Nat :=
  if size ≠ 4 ∨ addr % 4 ≠ 0 then some 1
  else if !reaches s m addr then some 3
  else if !mapped then some 2
  else if (match servedBy addr with | some d => !clkOk s d | none => false) then some 5
  else if write && unitFencedAt s addr then some 4
  else none

/-- A refused access is a P1 input: a class K fault of the master's source (R30, R569, R570). -/
def refuse (s : State) (m : Master) (addr : Nat) (write : Bool) (cause : Nat) : State :=
  let isl := match servedBy addr with | some d => if cause = 5 then d else 0 | none => 0
  let data := addr % 2 ^ 32 + 2 ^ 32 * b1 write + 2 ^ 36 * isl
  match m with
  | .cc => kFault s 32 cause none data
  | _ => kFault s (16 + masterPt s m) cause (some (masterPt s m)) data

/-- What the last register read returned. -/
def readBack (s : State) (v : W32) : State := { s with bus := { s.bus with lastRead := v } }

/-- A naturally aligned write of a register that exists: refused, or the effect `k` (R26-R30). -/
def regWr (s : State) (m : Master) (addr : Nat) (k : State → State) : State :=
  match refusal s m addr 4 true true with
  | some c => refuse s m addr true c
  | none => k s

/-- A naturally aligned read of a register that exists: refused and answered 0, or the effect `k` on the state in which the
value is returned (R26-R30). -/
def regRd (s : State) (m : Master) (addr : Nat) (v : State → W32) (k : State → State) : State :=
  match refusal s m addr 4 false true with
  | some c => readBack (refuse s m addr false c) 0
  | none => readBack (k s) (v s)

/-- A write that only PT0 and the control cluster make; every register below 0x0800_0000 is out of any other master's reach,
so the access check has judged it already (R22). -/
def pendWrite (s : State) (addr : Nat) (v : W32) : State :=
  { s with bus := { s.bus with pend := s.bus.pend ++ [(addr, v)] } }

end Sys2Proof.Machine
end

