-- ==== Sys2Proof/Machine/Commands.lean ====
section
/-! DEFINITION. Commands in flight (spec/07 R167-R176, spec/08): their fields, slots, engines that hold them, completions. -/

namespace Sys2Proof.Machine

/-! ## Status codes (R227) -/

def stDONE : Nat := 0x00
def stNOTE : Nat := 0x01
def stILLEGAL_MODE : Nat := 0x10
def stNOT_OWNER : Nat := 0x11
def stENERGY_SHORT : Nat := 0x12
def stINTERPRETER_ABSENT : Nat := 0x13
def stRETRY : Nat := 0x14
def stEPOCH_BUSY : Nat := 0x15
def stTWIN_SEPARATED : Nat := 0x16
def stDRAIN_REQUIRED : Nat := 0x17
def stPOINT : Nat := 0x18
def stQUEUE_FULL : Nat := 0x1A
def stBAD_PARAM : Nat := 0x1B
def stUNIT_FENCED : Nat := 0x1C
def stNOT_SUPPORTED : Nat := 0x1D
def stBUFFER_FAULT : Nat := 0x80
def stCAM_BLOCK_MODE : Nat := 0x81
def stCAM_STEP_END : Nat := 0x82
def stCAM_STALE : Nat := 0x83
def stFDB_FULL : Nat := 0x84
def stADJUST_CANCELLED : Nat := 0x85
def stCFG_NO_TXN : Nat := 0x88
def stCFG_TXN_OPEN : Nat := 0x89
def stCFG_SIG : Nat := 0x8A
def stCFG_FORMAT : Nat := 0x8B
def stT2_NO_STAGE : Nat := 0x8C
def stCENSUS_BUSY : Nat := 0x8D
def stKEY_EMPTY : Nat := 0x90
def stKEY_OCCUPIED : Nat := 0x91
def stVERIFY_FAIL : Nat := 0x92
def stUNWRAP_FAIL : Nat := 0x93
def stENTROPY_FAIL : Nat := 0x94
def stKEY_TYPE : Nat := 0x95
def stNODE_FULL : Nat := 0x98
def stSYNC_IN_USE : Nat := 0x99
def stSCHED : Nat := 0x9A
def stHUP_BUSY : Nat := 0x9C
def stTWIN_ABSENT : Nat := 0xA8

/-! ## Fields of a command (R167) -/

def opOf (c : Cmd) : Nat := le c.bytes 0 1
def fenceOf (c : Cmd) : Bool := (le c.bytes 1 1).testBit 0
def drainOf (c : Cmd) : Bool := (le c.bytes 1 1).testBit 1
def twinOf (c : Cmd) : Bool := (le c.bytes 1 1).testBit 2
def tagOf (c : Cmd) : Nat := le c.bytes 2 2 % 4096

/-- Parameter of `len` bytes at command byte `off`, little-endian (R196). -/
def par (c : Cmd) (off len : Nat) : Nat := le c.bytes off len

/-- Parameter bits. -/
def parBits (c : Cmd) (off lo len : Nat) : Nat := par c off ((lo + len + 7) / 8) / 2 ^ lo % 2 ^ len

/-- Buffer of a command: function, address, length (R201). -/
def bufFn (c : Cmd) : Nat := parBits c 48 0 4
def bufLen (c : Cmd) : Nat := par c 52 4
def bufAddr (c : Cmd) : Nat := par c 56 8

/-- The firmware interprets opcodes 0x40-0xBF (R171). -/
def isFw (op : Nat) : Bool := decide (0x40 ≤ op) && decide (op < 0xC0)

/-! ## Slots (R168, R169) -/

/-- The command in flight of a number. -/
def cmdAt (s : State) (id : Nat) : Option Cmd := s.cq.cmds.find? fun c => decide (c.id = id)

/-- Commands of partition `n` in flight. -/
def inFlight (s : State) (n : Nat) : Nat := (s.cq.cmds.filter fun c => decide (c.pt = n)).length

/-- Shared slots in use (R169). -/
def sharedUse (s : State) : Nat := ((List.range 16).map fun n => inFlight s n - 64).sum

/-- A command of partition `n` may be fetched (R169). -/
def slotFree (s : State) (n : Nat) : Bool :=
  decide (inFlight s n < 512) && (decide (inFlight s n < 64) || decide (sharedUse s < 1024))

/-- The tracked maxima of the slot counts follow (R187, R188, R681). -/
def trackSlots (s : State) (n : Nat) : State :=
  let x := ptnAt s n
  let s := setPtn s n { x with slotMax := max x.slotMax (inFlight s n) }
  { s with cq := { s.cq with sharedMax := max s.cq.sharedMax (sharedUse s) } }

/-- A command comes into flight with its arrival stamp (R168, R170). -/
def addCmd (s : State) (n : Nat) (sq : Option Nat) (bytes : List Byte) (g : Grain) : State :=
  let c : Cmd := { id := s.cq.nextCmd, pt := n, sq := sq, bytes := bytes, arrive := g, state := .arriving,
                   engine := none, at_ := 0, done := false }
  trackSlots { s with cq := { s.cq with cmds := s.cq.cmds ++ [c], nextCmd := s.cq.nextCmd + 1 } } n

/-- A command changed in place. -/
def modCmd (s : State) (id : Nat) (f : Cmd → Cmd) : State :=
  { s with cq := { s.cq with cmds := s.cq.cmds.map fun c => if c.id = id then f c else c } }

/-- A command leaves its engine (R203). -/
def leaveEngine (s : State) (id : Nat) : State :=
  match (cmdAt s id).bind (·.engine) with
  | some e => setEng s e { engAt s e with cmds := (engAt s e).cmds.filter fun k => decide (k ≠ id) }
  | none => s

/-- A command's slot is freed (R168). -/
def dropCmd (s : State) (id : Nat) : State :=
  let s := leaveEngine s id
  { s with cq := { s.cq with cmds := s.cq.cmds.filter fun c => decide (c.id ≠ id),
                             cpls := s.cq.cpls.filter fun c => decide (c.cmd ≠ id) } }

/-! ## Completions (R172, R174) -/

/-- A command completes: its completion is formed and waits for its CQ; a result goes out only with DONE or DONE_NOTE (R196).
A command carried from the twin peer has no queue here: it ends, and its peer completes it (R615). -/
def completeDup (s : State) (id status : Nat) (dup : Bool) (result : List Byte) : State :=
  match cmdAt s id with
  | none => s
  | some c =>
    if c.done then s
    else
      let s := leaveEngine s id
      match c.sq with
      | none => dropCmd s id
      | some i =>
        let x : Cpl :=
          { cmd := id, pt := c.pt, cq := (sqAt s c.pt i).cq.toNat, tag := BitVec.ofNat 12 (tagOf c),
            sq := BitVec.ofNat 3 i, status := BitVec.ofNat 8 status, dup := dup, fw := isFw (opOf c), arrive := c.arrive,
            done := s.gr.count, result := if status ≤ 1 then padTo 16 result else List.replicate 16 0 }
        let s := modCmd s id fun c => { c with done := true, state := .running }
        { s with cq := { s.cq with cpls := s.cq.cpls ++ [x] } }

/-- A command completes with a status and its result bytes 16-31. -/
def complete (s : State) (id status : Nat) (result : List Byte) : State := completeDup s id status false result

/-- Optional completion: a discarded command completes nothing. -/
def completeOpt (s : State) (id : Option Nat) (status : Nat) (result : List Byte) : State :=
  match id with
  | some i => complete s i status result
  | none => s

/-! ## Order of effect (R205) -/

/-- Two spans of numbers, first and count, have one in common. -/
def spansMeet (a b : Nat × Nat) : Bool := decide (a.1 < b.1 + b.2) && decide (b.1 < a.1 + a.2)

/-- Entries of its block that a CAM command names (R210). -/
def camSpan (c : Cmd) : Nat × Nat := (par c 10 2, if opOf c = 0x10 then 1 else par c 12 2)

/-- Two commands name one object of R205: a CAM entry, an FDB key of one partition, a flow, a radio channel, a PRM line of one
partition, or a partition's transaction. Key slots have an order of their own (R502). -/
def sameObject (a b : Cmd) : Bool :=
  let both := fun (l : List Nat) => l.contains (opOf a) && l.contains (opOf b)
  (both [0x10, 0x11] && decide (parBits a 8 0 5 = parBits b 8 0 5) && spansMeet (camSpan a) (camSpan b)) ||
  (both [0x18, 0x19, 0x1B] && decide (a.pt = b.pt) && decide (par a 8 6 = par b 8 6) && decide (parBits a 14 0 12 = parBits b 14 0 12)) ||
  (both [0x20, 0x21, 0x22, 0x23, 0x44] && decide (a.pt = b.pt)) ||
  (both [0x34, 0x35] && decide (a.pt = b.pt) && spansMeet (par a 8 4, par a 12 2) (par b 8 4, par b 12 2)) ||
  (both [0x5C] && decide (parBits a 10 0 12 = parBits b 10 0 12)) ||
  (both [0x60, 0x61, 0x62, 0x63] && decide (parBits a 8 0 2 = parBits b 8 0 2))

/-- P7 index of a command (R39). -/
def cmdIdx (c : Cmd) : Nat := match c.sq with | some i => 8 * c.pt + i | none => 128

/-- Arrival order (R38, R39, R170). -/
def arrivedBefore (a b : Cmd) : Bool :=
  before a.arrive b.arrive || (decide (a.arrive = b.arrive) &&
    (decide (cmdIdx a < cmdIdx b) || (decide (cmdIdx a = cmdIdx b) && decide (a.id < b.id))))

/-- An earlier command on the same object has not taken effect yet: it waits behind FENCE or for its row, or it is a twin-scoped
FDB command that waits for its pair grain (R205). A commit that waits for its grain has taken its effect on the transaction
(R234). -/
def objectHeld (s : State) (c : Cmd) : Bool :=
  s.cq.cmds.any fun x => !x.done && sameObject x c && arrivedBefore x c &&
    (decide (x.state = .fenced) || decide (x.state = .ready) || (decide (x.state = .running) && [0x18, 0x19].contains (opOf x)))

/-- The effect of an opcode on a command that is ready for it, in the order of R205; in any other case there is no such event (log
entry 2). -/
def runCmd (s : State) (id op : Nat) (f : State → Cmd → State) : State :=
  match cmdAt s id with
  | some c => if c.state = .ready ∧ opOf c = op ∧ !c.done ∧ !objectHeld s c then f s c else s
  | none => s

/-- A command is under way and ends at a later step. -/
def running (s : State) (id : Nat) : State := modCmd s id fun c => { c with state := .running }

/-- Output bytes written into a command's buffer by DMA from `off`, cut to the buffer (R201). -/
def bufWrite (s : State) (c : Cmd) (off : Nat) (bytes : List Byte) : State :=
  emit s (.dma (bufFn c) (bufAddr c + off) bytes)

/-- A command that writes output into its buffer: BUFFER_FAULT where the DMA fails (R201). -/
def bufOut (s : State) (c : Cmd) (ok : Bool) (off : Nat) (bytes : List Byte) (status : Nat) (result : List Byte) : State :=
  if ok then complete (bufWrite s c off bytes) c.id status result else complete s c.id stBUFFER_FAULT []

/-- The live engine that holds the fewest packets and commands, lowest number first (R203). -/
def leastEngine (s : State) : Option Nat :=
  (liveEngines s).foldl (fun best e =>
    let load := fun k => let x := engAt s k; engPkts x + x.cmds.length
    match best with
    | none => some e
    | some b => if load e < load b then some e else some b) none

end Sys2Proof.Machine
end

