-- ==== Sys2Proof/Machine/TwinBase.lean ====
section
/-! DEFINITION. What other blocks need of the twin link (spec/23): the pair grain, frames sent, and the queue of time changes
that both devices apply together. -/

namespace Sys2Proof.Machine

/-! ## CRC -/

/-- One bit of a reflected CRC-32 register (IEEE 802.3). -/
def crc32Bit (c : BitVec 32) : BitVec 32 := if c.getLsbD 0 then (c >>> 1) ^^^ 0xEDB88320 else c >>> 1

/-- One byte of CRC-32. -/
def crc32Byte (c : BitVec 32) (b : Byte) : BitVec 32 :=
  let x := c ^^^ b.setWidth 32
  crc32Bit (crc32Bit (crc32Bit (crc32Bit (crc32Bit (crc32Bit (crc32Bit (crc32Bit x)))))))

/-- IEEE 802.3 CRC-32 of bytes. -/
def crc32 (l : List Byte) : BitVec 32 := ~~~(l.foldl crc32Byte 0xFFFFFFFF)

/-! ## Twin states (R618) -/

/-- Twin state codes of TWN_STS.STATE. -/
def twOFF : BitVec 3 := 0
def twJOINING : BitVec 3 := 1
def twPAIRED : BitVec 3 := 2
def twSEPARATED : BitVec 3 := 3
def twLOST : BitVec 3 := 4
def twSOLO : BitVec 3 := 5

/-- The device is PAIRED. -/
def paired (s : State) : Bool := decide (s.twn.state = twPAIRED)

/-- The device is the senior by its strap (R622). -/
def senior (s : State) : Bool := s.dev.sSenior

/-- The pair grain: the senior's own count; the junior's count plus GOFF (R612). -/
def pairGrain (s : State) : Grain := if senior s then s.gr.count else s.gr.count + s.twn.goff

/-- LAG in grains. -/
def lagOf (s : State) : Grain := s.twn.lag.setWidth 64

/-- A frame goes out on the Torv link (R607). -/
def torvSend (s : State) (type : Nat) (body : List Byte) : State :=
  if s.twn.link then
    let hdr := leBytes 1 type ++ leBytes 1 (b1 (senior s)) ++ leBytes 2 body.length ++ leBytes 4 s.twn.fseqTx.toNat ++
      leBytes 8 (pairGrain s).toNat
    let f := hdr ++ body
    emit { s with twn := { s.twn with fseqTx := s.twn.fseqTx + 1 } } (.torv type (f ++ leBytes 4 (crc32 f).toNat))
  else s

/-! ## Time changes of a pair (R617) -/

/-- Seconds of TB_TIME in 2^-48 ns. -/
def secUnits : Nat := 1000000000 * 2 ^ 48

/-- TB_TIME runs modulo 2^48 s (R55, R56). -/
def tMod : Nat := 2 ^ 48 * secUnits

def tSec (t : Nat) : Nat := t / secUnits
def tNs (t : Nat) : Nat := t / 2 ^ 48 % 1000000000
def tFrac (t : Nat) : Nat := t / 2 ^ 40 % 256

/-- A TB_TIME value from its fields, residue 0. -/
def tMake (sec ns frac : Nat) : Nat := sec * secUnits + ns * 2 ^ 48 + frac * 2 ^ 40

/-- A time moved by a signed amount, modulo 2^48 s. -/
def tAdd (t : Nat) (d : Int) : Nat := (((t : Int) + d) % (tMod : Int)).toNat

/-- Body of a TIME frame (R608). -/
def timeBody (c : TimeChg) : List Byte :=
  let flags := b1 c.setF.isSome + 2 * b1 c.step.isSome + 4 * b1 (c.set.isSome && !c.load) + 8 * b1 (c.set.isSome && c.load) +
    16 * b1 c.trace + 32 * b1 c.est.isSome
  let st := c.step.getD 0
  let ns := st.fdiv (2 ^ 48)
  let fr := (st.fmod (2 ^ 48)).toNat / 2 ^ 40
  let t := c.set.getD 0
  leBytes 8 c.apply.toNat ++ leBytes 1 flags ++ leBytes 5 (c.setF.getD 0).toNat ++ leBytes 4 (c.est.getD 0).toNat ++
    leBytes 4 (ns % 2 ^ 32).toNat ++ leBytes 1 fr ++ [0] ++ leBytes 6 (tSec t) ++ leBytes 4 (tNs t) ++ leBytes 1 (tFrac t) ++
    leBytes 5 (t % 2 ^ 40)

/-- A change of the senior's time: queued for its pair grain and carried to the junior (R617). -/
def timeChange (s : State) (c : TimeChg) : State :=
  torvSend { s with twn := { s.twn with times := s.twn.times ++ [c] } } 0x06 (timeBody c)

/-- A change that only carries TRACEABLE. -/
def noChange (s : State) (g : Grain) : TimeChg :=
  { apply := g, setF := none, step := none, set := none, load := false, trace := s.tb.traceable, est := none }

/-- On the junior of a pair the time is driven from the senior (R617). -/
def juniorPaired (s : State) : Bool := paired s && !senior s

/-- On the senior of a pair the changes are carried (R617). -/
def seniorPaired (s : State) : Bool := paired s && senior s

end Sys2Proof.Machine
end

