-- ==== Sys2Proof/Machine/Cam.lean ====
section
/-! DEFINITION. The CAM and its cascade (spec/12 R314-R327, R336-R338, R345): entries, profiles, lookups, walks, and the
records of the cascade lanes. -/

namespace Sys2Proof.Machine

/-! ## Entries (R314-R317) -/

/-- Entry `e` of block `b`, where valid. -/
def camEnt (s : State) (b e : Nat) : Option CamEnt := tget (fun _ => none) s.cam.ents (4096 * b + e)

/-- An entry written or invalidated. -/
def setCamEnt (s : State) (b e : Nat) (x : Option CamEnt) : State :=
  { s with cam := { s.cam with ents := tset (fun _ => none) s.cam.ents (4096 * b + e) x } }

/-- Block `b` is in range mode. -/
def camRange (s : State) (b : Nat) : Bool := bit (cur0 s sCAM_BLOCK_MODE b) 0

/-- Entries of a block. -/
def camEntries (s : State) (b : Nat) : Nat := if camRange s b then 2048 else 4096

/-- Block `b` is fenced. -/
def camFenced (s : State) (b : Nat) : Bool := s.cam.fenced.toNat.testBit b

/-- Every entry of block `b` invalid (R146, R153, R314, R317). -/
def camClear (s : State) (b : Nat) : State :=
  { s with cam := { s.cam with ents := s.cam.ents.filter fun e => decide (e.1 / 4096 ≠ b) } }

/-- An entry matches a key (R315). -/
def camMatch (x : CamEnt) (key : BitVec 192) : Bool :=
  let tern := decide ((key ^^^ x.key) &&& x.mask = 0)
  if x.range then
    decide (((key ^^^ x.key) &&& x.mask).toNat % 2 ^ 128 = 0) &&
      (List.range 4).all fun i =>
        let op := key.toNat / 2 ^ (128 + 16 * i) % 65536
        let p := x.pairs.getD i (0, 0)
        decide (p.1 ≤ op) && decide (op ≤ p.2)
  else tern

/-! ## Profiles (R318, R319) -/

/-- Owner of a claimed setting in an epoch: CAM profiles and the tables of spec/13. -/
def claimOf (e : Epoch) (sid idx : Nat) : Option Nat := tget (fun _ => none) e.own (skey sid idx)

/-- Profile `p` as partition `n` has it under an epoch; none where it is free or another partition's. -/
def camProfile (s : State) (e : Epoch) (n p : Nat) : Option ProfDef :=
  let v := setVal s e sCAM_PROFILE p
  if bit (wd v 0) 0 && decide (claimOf e sCAM_PROFILE p = some n) then
    some { multi := bit (wd v 0) 1, casc := bit (wd v 0) 2, range := bit (wd v 0) 3, blocks := wd v 1 }
  else none

/-- Blocks of a profile that partition `n` owns. -/
def camOwned (s : State) (n : Nat) (d : ProfDef) : List Nat :=
  (List.range 32).filter fun b => d.blocks.toNat.testBit b && decide (camOwner s b = n)

/-- The search set (R319). -/
def camSet (s : State) (n : Nat) (d : ProfDef) : List Nat :=
  (camOwned s n d).filter fun b => !camFenced s b && (d.range || !camRange s b)

/-- BLOCKS names an owned block that is fenced (R319). -/
def camLfail (s : State) (n : Nat) (d : ProfDef) : Bool := (camOwned s n d).any (camFenced s)

/-- Every owned block of BLOCKS is fenced, and there is one (R319). -/
def camAllFenced (s : State) (n : Nat) (d : ProfDef) : Bool :=
  !(camOwned s n d).isEmpty && (camOwned s n d).all (camFenced s)

/-- Internal indices of the matching entries of the search set, highest priority first (R316). -/
def camMatches (s : State) (n : Nat) (d : ProfDef) (key : BitVec 192) : List Nat :=
  let bs := camSet s n d
  s.cam.ents.filterMap fun e =>
    match e.2 with
    | some x => if bs.contains (e.1 / 4096) && camMatch x key then some e.1 else none
    | none => none

/-- Global index of an internal one on this device (R210, R316). -/
def globalIdx (s : State) (i : Nat) : Nat := s.dev.sCascPos.toNat * 2 ^ 17 + i

/-- What a lookup returns: INDEX where it matched, COUNT, LFAIL (R319). -/
abbrev CamAnswer := Option Nat × Nat × Bool

/-- COUNT (R319). -/
def camCount (d : ProfDef) (n : Nat) : Nat := if d.multi then min 255 n else min 1 n

/-- A lookup of this device's own blocks. -/
def camLocal (s : State) (n : Nat) (d : ProfDef) (key : BitVec 192) : CamAnswer :=
  let m := (camMatches s n d key).map (globalIdx s)
  (m.head?, camCount d m.length, camLfail s n d)

/-- The first match of this device above a global index (R320, R326). -/
def camLocalAfter (s : State) (n : Nat) (d : ProfDef) (key : BitVec 192) (after : Nat) : CamAnswer :=
  let m := ((camMatches s n d key).map (globalIdx s)).filter fun i => decide (after < i)
  (m.head?, camCount d m.length, camLfail s n d)

/-! ## Walk contexts (R212, R320) -/

def walkAt (s : State) (n c : Nat) : Option Walk := tget (fun _ => none) s.cam.walks (16 * n + c)
def setWalk (s : State) (n c : Nat) (w : Option Walk) : State :=
  { s with cam := { s.cam with walks := tset (fun _ => none) s.cam.walks (16 * n + c) w } }

/-- Context `c` is in use. -/
def walkLive (s : State) (n c : Nat) : Bool :=
  match walkAt s n c with
  | some w => w.live
  | none => false

/-- Free contexts of a partition. -/
def freeWalks (s : State) (n : Nat) : List Nat := (List.range 16).filter fun c => !walkLive s n c

/-- A context ends by exhaustion. -/
def walkEnd (s : State) (n c : Nat) : State :=
  match walkAt s n c with
  | some w => setWalk s n c (some { w with live := false, exhausted := true })
  | none => s

/-- Which free context a lookup takes is open: a free value among them (log entry 32). -/
def takeWalk (s : State) (n : Nat) : Option Nat :=
  let l := freeWalks s n
  l[(freeVal s).toNat % l.length]?

/-- Bytes of a KEY as a number: byte 0 holds key bits 7-0 (R314). -/
def keyOf (l : List Byte) : BitVec 192 := BitVec.ofNat 192 (leNat (l.take 24))

/-- Result bytes 16-31 of a CAM_LOOKUP (R210). -/
def lookupResult (a : CamAnswer) (ctx : Nat) : List Byte :=
  [BitVec.ofNat 8 (b1 a.1.isSome), BitVec.ofNat 8 a.2.1, 0, 0] ++ leBytes 4 (a.1.getD 0) ++ leBytes 2 ctx

/-- A CAM_LOOKUP ends with its answer (R210, R212, R319, R325). -/
def lookupDone (s : State) (c : Cmd) (p : Nat) (d : ProfDef) (key : BitVec 192) (a : CamAnswer) : State :=
  let note := if a.2.2 then stNOTE else stDONE
  match a.1 with
  | some i =>
    if d.multi ∧ 1 < a.2.1 then
      match takeWalk s c.pt with
      | some k =>
        let w : Walk := { live := true, exhausted := false, num := p, prof := d, key := key, last := i,
                          remain := a.2.1 - 1, used := s.gr.count }
        complete (freeNext (setWalk s c.pt k (some w))) c.id note (lookupResult a k)
      | none => complete s c.id stNOTE (lookupResult a 0xFFFF)
    else complete s c.id note (lookupResult a 0xFFFF)
  | none => complete s c.id note (lookupResult a 0xFFFF)

/-- A CAM_STEP ends with its answer (R212, R320). -/
def stepDone (s : State) (c : Cmd) (a : CamAnswer) : State :=
  let k := par c 8 2
  match walkAt s c.pt k with
  | some w =>
    match a.1 with
    | some i =>
      let s := setWalk s c.pt k (some { w with last := i, remain := w.remain - 1, used := s.gr.count })
      complete s c.id (if a.2.2 then stNOTE else stDONE) ([0, BitVec.ofNat 8 (w.remain - 1), 0, 0] ++ leBytes 4 i)
    | none => complete (walkEnd s c.pt k) c.id stCAM_STEP_END []
  | none => complete s c.id stCAM_STALE []

/-! ## The cascade's slot queue (R324) -/

/-- A cascaded lookup is used on this device. -/
def cascUp (s : State) : Bool := s.cam.cascEn && s.cam.aligned

/-- A lookup joins the slot queue; false where the queue holds 64. -/
def slotRoom (s : State) : Bool := decide (s.cam.slotQ.length < 64)

/-- A lookup waits for an issue slot (R324, R338). -/
def slotPut (s : State) (r : CascReq) : State :=
  let q := s.cam.slotQ ++ [r]
  { s with cam := { s.cam with slotQ := q, qMax := max s.cam.qMax q.length } }

/-- A cascaded lookup before it is sent. -/
def cascReq (pkt cmd : Option Nat) (n p : Nat) (d : ProfDef) (key : BitVec 192) (walk : Bool) (after : Nat) : CascReq :=
  { walk := walk, pkt := pkt, cmd := cmd, pt := n, prof := p, def_ := d, key := key, after := after, seq := 0, sent := none,
    recs := [] }

/-! ## Commands 0x10-0x13 -/

/-- The entry that a CAM_WRITE gives (R210, R314). -/
def camEntOf (c : Cmd) : CamEnt :=
  if parBits c 12 0 1 = 1 then
    { range := true, key := BitVec.ofNat 192 (par c 32 16), mask := BitVec.ofNat 192 (par c 48 16),
      pairs := (List.range 4).map fun i => (par c (16 + 4 * i) 2, par c (18 + 4 * i) 2) }
  else { range := false, key := BitVec.ofNat 192 (par c 16 24), mask := BitVec.ofNat 192 (par c 40 24), pairs := [] }

/-- CAM_WRITE (R210, R211, R321). -/
def camWrite (s : State) (c : Cmd) : State :=
  let b := parBits c 8 0 5
  let e := par c 10 2
  if decide (parBits c 12 0 1 = 1) ≠ camRange s b then complete s c.id stCAM_BLOCK_MODE []
  else complete (setCamEnt s b e (some (camEntOf c))) c.id (if (camEnt s b e).isSome then stNOTE else stDONE) []

def execCamWrite (id : Nat) (s : State) : Host.Outcome State Fault Refusal := ev true (runCmd s id 0x10 camWrite)

/-- CAM_INVALIDATE (R210, R211, R321). -/
def camInvalidate (s : State) (c : Cmd) : State :=
  let b := parBits c 8 0 5
  let i := par c 10 2
  let n := par c 12 2
  let lo := 4096 * b + i
  let valid := (s.cam.ents.filter fun e => decide (lo ≤ e.1) && decide (e.1 < lo + n)).length
  let s' := { s with cam := { s.cam with ents := s.cam.ents.filter fun e => !(decide (lo ≤ e.1) && decide (e.1 < lo + n)) } }
  complete s' c.id (if valid < n then stNOTE else stDONE) []

def execCamInvalidate (id : Nat) (s : State) : Host.Outcome State Fault Refusal := ev true (runCmd s id 0x11 camInvalidate)

/-- CAM_LOOKUP (R212, R319, R323-R325). -/
def camLookup (s : State) (c : Cmd) : State :=
  let p := parBits c 8 0 6
  let key := keyOf (slice c.bytes 16 24)
  match camProfile s (newest s) c.pt p with
  | none => complete s c.id stNOT_OWNER []
  | some d =>
    if camAllFenced s c.pt d then complete s c.id stUNIT_FENCED []
    else if !d.casc then lookupDone s c p d key (camLocal s c.pt d key)
    else if !cascUp s then
      let a := camLocal s c.pt d key
      lookupDone s c p d key (a.1, a.2.1, true)
    else if slotRoom s then running (slotPut s (cascReq none (some c.id) c.pt p d key false 0)) c.id
    else s

def execCamLookup (id : Nat) (s : State) : Host.Outcome State Fault Refusal := ev true (runCmd s id 0x12 camLookup)

/-- CAM_STEP (R212, R320, R326). -/
def camStep (s : State) (c : Cmd) : State :=
  let k := par c 8 2
  match (if k < 16 then walkAt s c.pt k else none) with
  | none => complete s c.id stCAM_STALE []
  | some w =>
    if !w.live then complete s c.id (if w.exhausted then stCAM_STEP_END else stCAM_STALE) []
    else if w.remain = 0 then complete (walkEnd s c.pt k) c.id stCAM_STEP_END []
    else if !w.prof.casc then stepDone s c (camLocalAfter s c.pt w.prof w.key w.last)
    else if !cascUp s then
      let a := camLocalAfter s c.pt w.prof w.key w.last
      stepDone s c (a.1, a.2.1, true)
    else if slotRoom s then running (slotPut s (cascReq none (some c.id) c.pt w.num w.prof w.key true w.last)) c.id
    else s

def execCamStep (id : Nat) (s : State) : Host.Outcome State Fault Refusal := ev true (runCmd s id 0x13 camStep)

/-- A context idle for 1,000,000 grains is freed (R212). -/
def camContextTimeout (n c : Nat) (s : State) : State :=
  match walkAt s n c with
  | some w => if w.live ∧ 1000000 ≤ since s w.used then setWalk s n c none else s
  | none => s

def execCamContextTimeout (n c : Nat) (s : State) : Host.Outcome State Fault Refusal :=
  ev (decide (n < 16) && decide (c < 16)) (camContextTimeout n c s)

/-! ## Lookups of packets (R290, R319) -/

/-- A packet's CAM lookup returns: G11, HIT, MULTI and LFAIL (R288, R290); G11 keeps its value on a miss (log entry 33). -/
def camReturn (s : State) (p : Pkt) (a : CamAnswer) : State :=
  let g := match a.1 with | some i => p.ctx.g.set 11 (w32 i) | none => p.ctx.g
  setPkt s { p with
    ctx := { p.ctx with
      g := g, hit := a.1.isSome, multi := decide (1 < a.2.1), lfail := a.2.2, wait := none } }

/-- A packet already waits at the cascade. -/
def cascHas (s : State) (id : Nat) : Bool :=
  s.cam.slotQ.any (fun r => decide (r.pkt = some id)) || s.cam.pendCasc.any (fun r => decide (r.pkt = some id))

/-- Key bits 191-0 of a packet (R290). -/
def pktKey (p : Pkt) : BitVec 192 :=
  BitVec.ofNat 192 ((List.range 6).foldl (fun a k => a + (wd p.ctx.key k).toNat * 2 ^ (32 * k)) 0)

/-- The CAM lookup of a packet is served: at once from this device's blocks, or through the slot queue (R319, R324, R325). -/
def camPacket (s : State) (p : Pkt) (prof : Nat) : State :=
  match camProfile s (epochOf s p.epoch) p.part prof with
  | none => camReturn s p (none, 0, false)
  | some d =>
    if !d.casc then camReturn s p (camLocal s p.part d (pktKey p))
    else if cascHas s p.id then s
    else if !cascUp s then
      let a := camLocal s p.part d (pktKey p)
      camReturn s p (a.1, a.2.1, true)
    else if slotRoom s then slotPut s (cascReq (some p.id) none p.part prof d (pktKey p) false 0)
    else s

/-! ## Records of the lanes (R327) -/

/-- One bit of CRC-16, polynomial 0x1021. -/
def crc16Bit (c : BitVec 16) : BitVec 16 := if c.getMsbD 0 then (c <<< 1) ^^^ 0x1021 else c <<< 1

def crc16Byte (c : BitVec 16) (b : Byte) : BitVec 16 :=
  let x := c ^^^ (b.setWidth 16 <<< 8)
  crc16Bit (crc16Bit (crc16Bit (crc16Bit (crc16Bit (crc16Bit (crc16Bit (crc16Bit x)))))))

/-- CRC-16 of a record: initial value 0xFFFF, most significant bit first, no final XOR. -/
def crc16 (l : List Byte) : BitVec 16 := l.foldl crc16Byte 0xFFFF

/-- A record with its CRC. -/
def withCrc16 (l : List Byte) : List Byte := l ++ leBytes 2 (crc16 l).toNat

/-- A request record (R327). -/
def reqBytes (s : State) (r : CascReq) : List Byte :=
  withCrc16 ([if r.walk then 0x02 else 0x01, BitVec.ofNat 8 (s.dev.sCascPos.toNat + 16 * r.pt), BitVec.ofNat 8 r.prof, 0] ++
    leBytes 2 r.seq.toNat ++ [0, 0] ++ leBytes 24 r.key.toNat ++ leBytes 4 (if r.walk then r.after else 0) ++ [0, 0])

/-- A result record (R327). -/
def resBytes (kind : BitVec 8) (pos origin seq index cnt : Nat) : List Byte :=
  withCrc16 ([kind, BitVec.ofNat 8 (pos + 4 * origin)] ++ leBytes 2 seq ++ leBytes 4 index ++ [BitVec.ofNat 8 cnt] ++
    List.replicate 5 0)

/-- CASC_POS of this device. -/
def cpos (s : State) : Nat := s.dev.sCascPos.toNat

/-- CASC_MO_N is low for four grains from a grain (R323). -/
def moDrive (s : State) (g : Grain) : State :=
  { s with cam := { s.cam with moLow := g :: s.cam.moLow.filter fun h => !before (h + 4) s.gr.count } }

/-! ## Rows of the cascade -/

/-- CASC_CTL is written (R322, R338): EN at once, LAST only while EN = 0; ALIGNED falls at the next grain after EN clears. -/
def cascCtlWrite (v : W32) (s : State) : State :=
  let en := bit v 0
  let was := s.cam.cascEn
  let s1 := { s with
    cam := { s.cam with
      cascEn := en
      cascLast := if was then s.cam.cascLast else BitVec.ofNat 2 (fld v 1 2)
      trainAt := if en ∧ !was then some s.gr.count else if en then s.cam.trainAt else none } }
  if was ∧ !en then pendWrite s1 0x07F00000 v else s1

def execCascCtlWrite (m : Master) (v : W32) (s : State) : Host.Outcome State Fault Refusal :=
  ev m.wf (regWr s m 0x07F00000 (cascCtlWrite v))

/-- At the boundary after EN cleared (R338). -/
def cascOff (s : State) : State :=
  if s.cam.cascEn then s else { s with cam := { s.cam with aligned := false, dLock := false, uLock := false } }

/-- Training has locked every lane (R322, R345); the phase of position 0's cycle against this device's grains is open: a free
value (log entry 34). -/
def cascAligned (s : State) : State :=
  if s.cam.cascEn ∧ s.cam.trainAt.isSome ∧ !s.cam.aligned then
    freeNext { s with
      cam := { s.cam with
        aligned := true, dLock := true, uLock := true, trainAt := none
        cycleAt := s.gr.count - BitVec.ofNat 64 ((freeVal s).toNat % 16) } }
  else s

def execCascAligned (s : State) : Host.Outcome State Fault Refusal := ev true (cascAligned s)

/-- Lane U of position 0 and lane D of position LAST lead nowhere (R338). -/
def laneUsed (s : State) (up : Bool) : Bool :=
  if up then decide (cpos s ≠ 0) else decide (cpos s ≠ s.cam.cascLast.toNat)

/-- A lane loses lock (R345). -/
def cascLaneLoss (up : Bool) (s : State) : State :=
  if s.cam.cascEn ∧ laneUsed s up ∧ (if up then s.cam.uLock else s.cam.dLock) then
    fFault { s with
      cam := { s.cam with
        aligned := false
        uLock := s.cam.uLock && !up
        dLock := s.cam.dLock && up
        trainAt := some s.gr.count } } 10 0x0042 (if up then 2 else 1)
  else s

def execCascLaneLoss (up : Bool) (s : State) : Host.Outcome State Fault Refusal := ev true (cascLaneLoss up s)

/-- The cascade cycle is at this device's slot (R324). -/
def inSlot (s : State) : Bool := decide ((s.gr.count - s.cam.cycleAt).toNat % 16 = 4 * cpos s)

/-- This device's answer to a request under a profile, as a result record: kind, first global index, count (R323, R326). -/
def cascAnswer (s : State) (n : Nat) (d : ProfDef) (key : BitVec 192) (walk : Bool) (after : Nat) : CamAnswer :=
  if walk then camLocalAfter s n d key after else camLocal s n d key

/-- The head of the slot queue is sent (R323, R324). `mi` is CASC_MI_N as sampled in this device's window. -/
def cascLookupIssue (mi : Bool) (s : State) : State :=
  match s.cam.slotQ with
  | [] => s
  | r :: q =>
    if cascUp s ∧ inSlot s then
      let a := cascAnswer s r.pt r.def_ r.key r.walk r.after
      let own : List CascRes :=
        match a.1 with
        | some i => [{ pos := cpos s, kind := 0x10, index := i, count := a.2.1 }]
        | none => []
      let r' := { r with seq := s.cam.seq, sent := some s.gr.count, recs := own }
      let b := reqBytes s r'
      let s1 := { s with cam := { s.cam with slotQ := q, seq := s.cam.seq + 1, pendCasc := s.cam.pendCasc ++ [r'] } }
      let s2 := if laneUsed s false then emit s1 (.casc true b) else s1
      let s3 := if laneUsed s true then emit s2 (.casc false b) else s2
      if a.1.isSome ∨ !mi then moDrive s3 (s.gr.count + 56 + BitVec.ofNat 64 (4 * cpos s)) else s3
    else s

def execCascLookupIssue (mi : Bool) (s : State) : Host.Outcome State Fault Refusal := ev true (cascLookupIssue mi s)

/-- A record goes on, away from the lane it came by, where that lane is used. -/
def relay (s : State) (up : Bool) (b : List Byte) : State :=
  if laneUsed s (!up) then emit s (.casc up b) else s

/-- A request record arrives by lane U (`up`) or lane D, `mi` being CASC_MI_N as sampled in its window (R323, R325, R327). -/
def cascRequest (b : List Byte) (up mi : Bool) (s : State) : State :=
  let kind := le b 0 1
  if !(s.cam.cascEn && s.cam.aligned) then s
  else
    let s1 := relay s up b
    let org := le b 1 1 % 4
    let seq := le b 4 2
    let back := fun (s : State) (r : List Byte) => emit s (.casc (!up) r)
    let win := s.gr.count + 20 + BitVec.ofNat 64 (4 * cpos s)
    if b.length ≠ 40 ∨ le b 38 2 ≠ (crc16 (b.take 38)).toNat then
      let s2 := kFault { s1 with cam := { s1.cam with crcErr := satInc s1.cam.crcErr } } 10 0x0041 none seq
      let s3 := moDrive s2 win
      if mi then back s3 (resBytes 0x12 (cpos s) org seq 0 0) else s3
    else if kind ≠ 1 ∧ kind ≠ 2 then s1
    else
      let n := le b 1 1 / 16
      let key := keyOf (slice b 8 24)
      match camProfile s (newest s) n (le b 2 1 % 64) with
      | none => if mi then s1 else moDrive s1 win
      | some d =>
        let a := cascAnswer s n d key (decide (kind = 2)) (le b 32 4)
        let s2 := if a.1.isSome ∨ !mi then moDrive s1 win else s1
        match a.1 with
        | some i =>
          if mi then back s2 (resBytes 0x10 (cpos s) org seq i a.2.1)
          else if d.multi then back s2 (resBytes 0x11 (cpos s) org seq 0 a.2.1)
          else s2
        | none => s2

def execCascRequest (bytes : List Byte) (up mi : Bool) (s : State) : Host.Outcome State Fault Refusal :=
  ev true (cascRequest bytes up mi s)

/-- A result record arrives: relayed, or gathered by its origin; one that fails its CRC counts as an error record (R325,
R327). -/
def cascResult (b : List Byte) (up : Bool) (s : State) : State :=
  let good := decide (b.length = 16) && decide (le b 14 2 = (crc16 (b.take 14)).toNat)
  let kind : BitVec 8 := if good then BitVec.ofNat 8 (le b 0 1) else 0x12
  let pos := le b 1 1 % 4
  let org := le b 1 1 / 4 % 4
  let seq := le b 2 2
  if org ≠ cpos s then relay s up (if good then b else resBytes 0x12 pos org seq 0 0)
  else
    { s with
      cam := { s.cam with
        pendCasc := s.cam.pendCasc.map fun r =>
          if r.seq.toNat = seq then
            { r with
              recs := r.recs ++ [{ pos := pos, kind := kind, index := if kind = 0x10 then le b 4 4 else 0
                                   count := if kind = 0x12 then 0 else le b 8 1 }] }
          else r } }

def execCascResult (bytes : List Byte) (up : Bool) (s : State) : Host.Outcome State Fault Refusal :=
  ev true (cascResult bytes up s)

/-- The record of the lowest position of a kind. -/
def lowestOf (l : List CascRes) (k : BitVec 8) : Option CascRes :=
  (l.filter fun r => decide (r.kind = k)).foldl (fun b r =>
    match b with
    | none => some r
    | some x => if r.pos < x.pos then some r else some x) none

/-- The answer formed from the records (R323, R325): an error record below every winner makes it a miss with LFAIL. -/
def cascForm (r : CascReq) (lfail : Bool) : CamAnswer :=
  let total := (r.recs.map (·.count)).sum
  let cnt := if r.def_.multi then min 255 total else 1
  match lowestOf r.recs 0x10, lowestOf r.recs 0x12 with
  | some w, none => (some w.index, cnt, lfail)
  | some w, some e => if w.pos < e.pos then (some w.index, cnt, lfail) else (none, 0, true)
  | none, some _ => (none, 0, true)
  | none, none => (none, 0, lfail)

/-- At t + 112 the origin forms the result of its oldest lookup (R323). -/
def cascResultForm (s : State) : State :=
  match s.cam.pendCasc with
  | [] => s
  | r :: rest =>
    if (match r.sent with | some t => decide (112 ≤ since s t) | none => false) then
      let s1 := { s with cam := { s.cam with pendCasc := rest } }
      let a := cascForm r (!s.cam.aligned || camLfail s r.pt r.def_)
      match r.pkt, r.cmd with
      | some p, _ => (match pktAt s1 p with | some x => camReturn s1 x a | none => s1)
      | none, some i =>
        (match cmdAt s1 i with
         | some c => if r.walk then stepDone s1 c a else lookupDone s1 c r.prof r.def_ r.key a
         | none => s1)
      | none, none => s1
    else s

def execCascResultForm (s : State) : Host.Outcome State Fault Refusal := ev true (cascResultForm s)

/-! ## Registers (R336-R338) -/

/-- CAM and cascade registers as read. -/
def camRead (s : State) (addr : Nat) : Option W32 :=
  if addr = 0x02800000 then some s.cam.fenced
  else if addr = 0x02800004 then some (w32 (((List.range 32).map fun b => b1 (camRange s b) * 2 ^ b).sum))
  else if 0x02800100 ≤ addr ∧ addr < 0x02800300 then
    let p := (addr - 0x02800100) / 8
    let v := cur s sCAM_PROFILE p
    if addr % 8 = 0 then some (w32 ((wd v 0).toNat % 16 + 2 ^ 24 * (claimOf (newest s) sCAM_PROFILE p).getD 0))
    else some (wd v 1)
  else if addr = 0x07F00000 then some (w32 (b1 s.cam.cascEn + 2 * s.cam.cascLast.toNat))
  else if addr = 0x07F00004 then
    some (w32 (cpos s + 4 * b1 s.cam.aligned + 8 * b1 (s.cam.cascEn && (s.cam.dLock || !laneUsed s false)) +
      16 * b1 (s.cam.cascEn && (s.cam.uLock || !laneUsed s true)) + 256 * s.cam.crcErr.toNat + 65536 * s.cam.qMax))
  else none

/-- A normal read clears CRC_ERR and restarts QMAX (R338, R681). -/
def camTake (s : State) (addr : Nat) : State :=
  if addr = 0x07F00004 then { s with cam := { s.cam with crcErr := 0, qMax := s.cam.slotQ.length } } else s

end Sys2Proof.Machine
end

