-- ==== Sys2Proof/Machine/Time.lean ====
section
/-! DEFINITION. The time base, event capture and time outputs (spec/03). -/

namespace Sys2Proof.Machine

/-! ## TB_TIME -/

/-- A timestamp taken `sub` / 65,536 into the current grain (R57): TB_TIME at the boundary plus the fraction times
(1 + F × 2^-48), rounded to the nearest 1/16 ns, halves up. -/
def stampOf (s : State) (sub : Nat) : Nat :=
  let x : Int := (s.tb.t * 2 ^ 16 : Nat) + (sub : Int) * (2 ^ 48 + s.tb.f.toInt)
  (((x + 2 ^ 59) / 2 ^ 60 * 2 ^ 44) % (tMod : Int)).toNat

/-- Delay compensation in 1/16 ns (R65, R93). -/
def compensate (t : Nat) (dly : Int) : Nat := tAdd t (dly * 2 ^ 44)

/-- TIME_VALID as its conditions stand (R64); low during a shed and after a fatal fault (R557, R581). -/
def validNow (s : State) : Bool :=
  s.tb.traceable && decide (s.tb.errEst.toNat ≤ s.tb.bound.toNat * 16) && s.pwr.shed.isNone && s.fcu.xDue.isNone &&
    !s.fcu.holding && !s.dev.inReset

/-- TIME_VALID follows its conditions, with TB_VALID_CHANGE at a transition (R64, R683). -/
def validUpdate (s : State) : State :=
  let v := validNow s
  if v = s.tb.timeValid then s
  else raise { s with tb := { s.tb with timeValid := v } } 578 (if v then 1 else 2) s.tb.errEst.toNat

/-! ## Holdover (R61, R62) -/

/-- The running mean of F over the span, rounded toward zero; none where no sample counts (R61). -/
def meanF (s : State) : Option (BitVec 40) :=
  let span := 2 ^ s.tb.holdAvg.toNat * 1000000000
  let l := s.tb.means.filter fun m => decide (since s m.1 < span) && before s.tb.meanFloor m.1
  if l.isEmpty then none
  else some (BitVec.ofInt 40 (Int.tdiv ((l.map fun m => m.2.toInt).foldl (· + ·) 0) l.length))

/-- The PPS input that qualifies source A (1) or B (2) (R58, R59). -/
def srcOk (s : State) (src : Nat) : Bool :=
  if src = 1 then s.tb.ppsA.ok else if src = 2 then s.tb.ppsB.ok else true

/-- At a boundary with GR_COUNT mod 2^20 = 0 the word in force during the grain before is sampled, unless HOLDOVER was 1 in
that grain; at most once per boundary (R61). -/
def holdoverSample (s : State) : State :=
  if s.gr.count.toNat % 2 ^ 20 = 0 ∧ s.gr.count ≠ 0 ∧ !s.tb.holdPrev ∧ (s.tb.means.head?.map (·.1)) ≠ some s.gr.count then
    { s with tb := { s.tb with
        means := (s.gr.count, s.tb.fPrev) :: s.tb.means.filter fun m => decide (since s m.1 < 1024 * 1000000000) } }
  else s

/-- The selected source has lost qualification at the boundary of this grain: HOLDOVER, F loaded with the mean, which takes in
the sample of that boundary itself, TB_HOLDOVER (R61). The junior of a pair is driven from the senior (R617). -/
def holdoverEntry (s : State) : State :=
  if s.tb.holdover || juniorPaired s then s
  else
    let s := holdoverSample s
    let m := meanF s
    let s1 := { s with tb := { s.tb with holdover := true } }
    let s2 := match m with
      | none => s1
      | some f =>
        if seniorPaired s then timeChange s1 { noChange s1 (pairGrain s1 + lagOf s1) with setF := some f }
        else { s1 with tb := { s1.tb with f := f } }
    raise s2 577 0 (s.tb.src.toNat + 256 * b1 m.isSome)

def execHoldoverSample (s : State) : Host.Outcome State Fault Refusal := ev true (holdoverSample s)

/-! ## Sampling (R60) -/

/-- Spacing of the sampling boundaries in 2^-48 ns; 0 = off (R77). -/
def smpSpacing (s : State) : Nat :=
  match s.tb.smpInt.toNat with
  | 0 => 1000000 * 2 ^ 48
  | 1 => 10000000 * 2 ^ 48
  | 2 => 100000000 * 2 ^ 48
  | _ => 0

/-- A stamp enters the sample FIFO; a full FIFO discards it and marks the next; TB_SAMPLE when it was empty (R60). -/
def pushSmp (s : State) (src stamp : Nat) : State :=
  if 64 ≤ s.tb.fifo.length then { s with tb := { s.tb with fifoLoss := true } }
  else
    let r : Smp := { stamp := stamp, src := BitVec.ofNat 2 src, loss := s.tb.fifoLoss, grain := s.gr.count + 1 }
    let s1 := { s with tb := { s.tb with fifo := s.tb.fifo ++ [r], fifoLoss := false } }
    if s.tb.fifo.isEmpty then raiseAt s1 576 0 1 (s.gr.count + 1) else s1

/-- Next sampling boundary after a time. -/
def nextBoundary (s : State) (t : Nat) : Nat :=
  let d := smpSpacing s
  if d = 0 then 0 else (t / d + 1) * d

/-! ## Reference inputs (R58-R60) -/

def refIn (s : State) (b : Bool) : RefIn := if b then s.tb.refB else s.tb.refA
def setRef (s : State) (b : Bool) (r : RefIn) : State :=
  if b then { s with tb := { s.tb with refB := r } } else { s with tb := { s.tb with refA := r } }
def ppsIn (s : State) (b : Bool) : PpsIn := if b then s.tb.ppsB else s.tb.ppsA
def setPps (s : State) (b : Bool) (p : PpsIn) : State :=
  if b then { s with tb := { s.tb with ppsB := p } } else { s with tb := { s.tb with ppsA := p } }

/-- Input `b` belongs to the selected source. -/
def selects (s : State) (b : Bool) : Bool := decide (s.tb.src.toNat = if b then 2 else 1)

/-- 256 grains have passed without an edge of a REF input. -/
def refSilent (s : State) (b : Bool) : Bool :=
  match (refIn s b).last with
  | some g => decide (256 ≤ since s g)
  | none => decide (256 ≤ s.gr.count.toNat)

/-- REFx_OK clears and TB_REF_DEGRADED is raised where it was set (R58, R59). -/
def refLost (s : State) (b : Bool) (r : RefIn) : State :=
  let s1 := setRef s b { r with ok := false }
  if r.ok then raise s1 579 (if b then 2 else 1) 0 else s1

/-- End of a 1 ms measurement window (R58): within ±100 ppm and without a gap sets REFx_OK, outside ±100 ppm clears it. -/
def refWindowEnd (b : Bool) (ppb : Int) (s : State) : State :=
  if s.gr.count.toNat % 1000000 = 0 ∧ s.gr.count ≠ 0 then
    let r := refIn s b
    let r' := { r with gap := refSilent s b }
    if ppb < -100000 ∨ 100000 < ppb then refLost s b r'
    else if r.gap then setRef s b r'
    else setRef s b { r' with ok := true }
  else s

def execRefWindowEnd (b : Bool) (ppb : Int) (s : State) : Host.Outcome State Fault Refusal := ev true (refWindowEnd b ppb s)

/-- 256 grains without an edge (R58, R59). -/
def refEdgeTimeout (b : Bool) (s : State) : State :=
  if refSilent s b then refLost s b { refIn s b with gap := true } else s

def execRefEdgeTimeout (b : Bool) (s : State) : Host.Outcome State Fault Refusal := ev true (refEdgeTimeout b s)

/-- A REF edge; of the selected source, the first after a sampling boundary is stamped (R60). -/
def refEdge (b : Bool) (sub : Nat) (s : State) : State :=
  let s1 := setRef s b { refIn s b with last := some s.gr.count }
  let t := stampOf s sub
  if selects s b ∧ smpSpacing s ≠ 0 ∧ s.tb.smpFrom ≤ t then
    pushSmp { s1 with tb := { s1.tb with smpFrom := nextBoundary s t } } (if b then 1 else 0) t
  else s1

def execRefEdge (b : Bool) (sub : Nat) (s : State) : Host.Outcome State Fault Refusal :=
  ev (decide (sub < 65536)) (refEdge b sub s)

/-- A PPS input that qualifies again ends the holdover of its source (R62); the loss is seen at the next boundary
(`tbBoundary`, R36). -/
def ppsJudged (s : State) (b : Bool) : State :=
  if selects s b && (ppsIn s b).ok then { s with tb := { s.tb with holdover := false } } else s

/-- A PPS edge: stamped (R60), its interval judged (R58): ten consecutive intervals within 10^9 ± 100,000 grains qualify, one
outside disqualifies. -/
def ppsEdge (b : Bool) (sub : Nat) (s : State) : State :=
  let p := ppsIn s b
  let s1 := pushSmp s (if b then 3 else 2) (stampOf s sub)
  match p.last with
  | none => setPps s1 b { p with last := some s.gr.count }
  | some g =>
    let d := since s g
    if 999900000 ≤ d ∧ d ≤ 1000100000 then
      let n := min 10 (p.good + 1)
      let s2 := setPps s1 b { ok := p.ok || decide (n = 10), last := some s.gr.count, good := n }
      if !p.ok ∧ n = 10 then ppsJudged s2 b else s2
    else setPps s1 b { ok := false, last := some s.gr.count, good := 0 }

def execPpsEdge (b : Bool) (sub : Nat) (s : State) : Host.Outcome State Fault Refusal :=
  ev (decide (sub < 65536)) (ppsEdge b sub s)

/-- No PPS edge within 1,100,000,000 grains (R58): the boundary of this grain sees it, and a word that it committed is discarded
(R61). -/
def ppsTimeout (b : Bool) (s : State) : State :=
  let p := ppsIn s b
  match p.last with
  | none => s
  | some g =>
    if 1100000000 ≤ since s g then
      let s1 := setPps s b { p with ok := false, good := 0 }
      if p.ok && selects s1 b && !s1.tb.holdover then
        holdoverEntry (if paired s1 then s1 else { s1 with tb := { s1.tb with f := s1.tb.fPrev } })
      else s1
    else s

def execPpsTimeout (b : Bool) (s : State) : Host.Outcome State Fault Refusal := ev true (ppsTimeout b s)

/-! ## Time base registers -/

/-- TB_TIME_NS (R75): NS of this grain; SEC and FRAC are latched. -/
def latchTime (s : State) : State :=
  { s with tb := { s.tb with secLoLatch := w32 (tSec s.tb.t),
                             hiLatch := BitVec.ofNat 24 (tSec s.tb.t / 2 ^ 32 % 65536 + 65536 * tFrac s.tb.t) } }

def execTbTimeNsRead (m : Master) (s : State) : Host.Outcome State Fault Refusal :=
  ev m.wf (regRd s m 0x00200000 (fun s => w32 (tNs s.tb.t)) latchTime)

/-- TB_FREQ_LO written: the staging word (R76); discarded on the junior of a pair (R617). -/
def freqLoWrite (v : W32) (s : State) : State :=
  if juniorPaired s then s else { s with tb := { s.tb with stageLo := v } }

def execTbFreqLoWrite (m : Master) (v : W32) (s : State) : Host.Outcome State Fault Refusal :=
  ev m.wf (regWr s m 0x00200010 (freqLoWrite v))

/-- The word that a write of TB_FREQ_HI commits (R76). -/
def committedF (s : State) (v : W32) : BitVec 40 := BitVec.ofNat 40 (s.tb.stageLo.toNat + 2 ^ 32 * fld v 0 8)

/-- TB_FREQ_HI written (R76): F from the next boundary; on the senior of a pair at LAG on both devices; discarded on the
junior and in SOLO-HOLD (R617, R618). -/
def freqHiWrite (v : W32) (s : State) : State :=
  if juniorPaired s || decide (s.twn.state = twSOLO) then s
  else if seniorPaired s then timeChange s { noChange s (pairGrain s + lagOf s) with setF := some (committedF s v) }
  else { s with tb := { s.tb with pendF := some (committedF s v) } }

def execTbFreqHiWrite (m : Master) (v : W32) (s : State) : Host.Outcome State Fault Refusal :=
  ev m.wf (regWr s m 0x00200014 (freqHiWrite v))

/-- TB_FREQ_LO read: F[31:0] in force; F[39:32] is latched (R76). -/
def latchFreq (s : State) : State :=
  { s with tb := { s.tb with fHiLatch := BitVec.ofNat 8 (s.tb.f.toNat / 2 ^ 32) } }

def execTbFreqLoRead (m : Master) (s : State) : Host.Outcome State Fault Refusal :=
  ev m.wf (regRd s m 0x00200010 (fun s => w32 s.tb.f.toNat) latchFreq)

/-- TB_REF_CTL written: in force from the next boundary (R61, R62). -/
def refCtlWrite (v : W32) (s : State) : State := { s with tb := { s.tb with pRef := some v } }

def execTbRefCtlWrite (m : Master) (v : W32) (s : State) : Host.Outcome State Fault Refusal :=
  ev m.wf (regWr s m 0x00200020 (refCtlWrite v))

/-- A write of TB_REF_CTL takes effect (R61, R62, R77): reserved HOLD_AVG keeps its value; a change of HOLD_AVG empties the
mean; SRC with 0, 3 or a qualified source ends holdover; an unqualified source is judged by `tbBoundary`. -/
def refCtlApply (s : State) (v : W32) : State :=
  let ha := if fld v 8 4 ≤ 10 then BitVec.ofNat 4 (fld v 8 4) else s.tb.holdAvg
  let s1 := { s with tb := { s.tb with
      src := BitVec.ofNat 2 (fld v 0 2), refaFreq := BitVec.ofNat 2 (fld v 2 2), refbFreq := BitVec.ofNat 2 (fld v 4 2),
      holdAvg := ha, smpInt := BitVec.ofNat 2 (fld v 12 2),
      meanFloor := if ha = s.tb.holdAvg then s.tb.meanFloor else s.gr.count } }
  let s2 := { s1 with tb := { s1.tb with smpFrom := nextBoundary s1 s1.tb.t } }
  if srcOk s2 (fld v 0 2) then { s2 with tb := { s2.tb with holdover := false } } else s2

/-- TB_ERR_EST written: in force from the next boundary (R63, R64); carried by the senior of a pair, discarded on the junior
(R617). -/
def errEstWrite (v : W32) (s : State) : State :=
  if juniorPaired s then s
  else if seniorPaired s then timeChange s { noChange s (pairGrain s + lagOf s) with est := some v }
  else { s with tb := { s.tb with pEst := some v } }

def execTbErrEstWrite (m : Master) (v : W32) (s : State) : Host.Outcome State Fault Refusal :=
  ev m.wf (regWr s m 0x00200044 (errEstWrite v))

/-- The growth counter has reached 10^9 grains: HOLD_RATE, in 1/16 ns rounded up, is added (R63). -/
def errEstGrowth (s : State) : State :=
  if 1000000000 ≤ s.tb.growth then
    validUpdate { s with tb := { s.tb with errEst := satAdd s.tb.errEst ((s.tb.holdRate.toNat * 16 + 999) / 1000), growth := 0 } }
  else s

def execErrEstGrowth (s : State) : Host.Outcome State Fault Refusal := ev true (errEstGrowth s)

/-- TB_VALID takes effect (R64, R80): BOUND 0 is refused. -/
def validApply (s : State) (v : W32) : State :=
  { s with tb := { s.tb with bound := if fld v 0 24 = 0 then s.tb.bound else BitVec.ofNat 24 (fld v 0 24),
                             traceable := if juniorPaired s then s.tb.traceable else bit v 31 } }

/-- TB_SMP_W2 read: the grain stamp; the record is popped (R79). -/
def smpPop (s : State) : State := { s with tb := { s.tb with fifo := s.tb.fifo.tail } }

def execTbSmpPop (m : Master) (s : State) : Host.Outcome State Fault Refusal :=
  ev m.wf (regRd s m 0x00200038 (fun s => w32 ((s.tb.fifo.head?.map fun r => r.grain.toNat).getD 0)) smpPop)

/-- Time base registers as read, offsets from 0x0020_0000 (R75-R80). -/
def tbRead (s : State) (off : Nat) : Option W32 :=
  let h := s.tb.fifo.head?
  if off = 0x00 then some (w32 (tNs s.tb.t))
  else if off = 0x04 then some s.tb.secLoLatch
  else if off = 0x08 then some (w32 s.tb.hiLatch.toNat)
  else if off = 0x10 then some (w32 s.tb.f.toNat)
  else if off = 0x14 then some (w32 s.tb.fHiLatch.toNat)
  else if off = 0x20 then
    some (w32 (s.tb.src.toNat + 4 * s.tb.refaFreq.toNat + 16 * s.tb.refbFreq.toNat + 256 * s.tb.holdAvg.toNat + 4096 * s.tb.smpInt.toNat))
  else if off = 0x24 then
    some (w32 (b1 s.tb.timeValid + 2 * b1 s.tb.holdover + 4 * b1 s.tb.adj.isSome + 8 * b1 s.tb.refA.ok + 16 * b1 s.tb.refB.ok +
      32 * b1 s.tb.ppsA.ok + 64 * b1 s.tb.ppsB.ok + 256 * s.tb.src.toNat))
  else if off = 0x30 then some (w32 ((h.map fun r => tNs r.stamp + 2 ^ 30 * r.src.toNat).getD 0))
  else if off = 0x34 then
    some (w32 ((h.map fun r => tFrac r.stamp + 256 * b1 r.loss + 512 * s.tb.fifo.length + 65536 * (tSec r.stamp % 65536)).getD 0))
  else if off = 0x38 then some (w32 ((h.map fun r => r.grain.toNat).getD 0))
  else if off = 0x40 then some (w32 (s.tb.bound.toNat + 2 ^ 31 * b1 s.tb.traceable))
  else if off = 0x44 then some s.tb.errEst
  else if off = 0x48 then some (w32 s.tb.holdRate.toNat)
  else none

/-! ## Capture inputs (R65-R68) -/

/-- An edge on ECAPn: ignored and counted within 8 ns of the last stamped edge (R66); otherwise compensated by DLY, pushed
with the grain stamp of the next boundary, or lost to a full FIFO (R67); the capture event when the level rises to THRESH
(R68). -/
def ecapEdge (n : Nat) (rising : Bool) (sub : Nat) (s : State) : State :=
  let x := evcAt s n
  let dead := match x.lastAt with
    | some (g, p) => decide (since s g * 65536 + sub < p + 8 * 65536)
    | none => false
  if !x.en then s
  else if dead then setEvc s n { x with dead := satInc x.dead }
  else if (rising && !x.edge.getLsbD 0) || (!rising && !x.edge.getLsbD 1) then s
  else
    let x := { x with lastAt := some (s.gr.count, sub) }
    if 64 ≤ x.fifo.length then setEvc s n { x with lost := satInc x.lost, fifoLoss := true }
    else
      let r : EvcRec :=
        { stamp := compensate (stampOf s sub) x.dly.toInt, falling := !rising, loss := x.fifoLoss, grain := s.gr.count + 1 }
      let level := x.fifo.length + 1
      let hit := decide (x.thresh ≠ 0) && !x.raised && decide (x.thresh.toNat ≤ level)
      let s1 := setEvc s n { x with fifo := x.fifo ++ [r], fifoLoss := false, raised := x.raised || hit }
      if hit then raiseAt s1 (608 + n) 0 0 (s.gr.count + 1) else s1

def execEcapEdge (n : Nat) (rising : Bool) (sub : Nat) (s : State) : Host.Outcome State Fault Refusal :=
  ev (decide (n < 32) && decide (sub < 65536)) (ecapEdge n rising sub s)

/-- EVC_REC3 read: the record is popped; the event is rearmed below THRESH (R68, R83). -/
def evcPop (n : Nat) (s : State) : State :=
  let x := evcAt s n
  let l := x.fifo.tail
  setEvc s n { x with fifo := l, raised := x.raised && decide (x.thresh.toNat ≤ l.length) }

def execEvcRecPop (m : Master) (n : Nat) (s : State) : Host.Outcome State Fault Refusal :=
  ev (m.wf && decide (n < 32))
    (regRd s m (0x00400000 + 0x20 * n + 0x1C) (fun s => w32 (((evcAt s n).fifo.head?.map fun r => r.grain.toNat).getD 0)) (evcPop n))

/-- EVC_CTL takes effect (R81): reserved EDGE and THRESH keep their values. -/
def evcCtlApply (s : State) (n : Nat) (v : W32) : State :=
  let x := evcAt s n
  setEvc s n { x with
    en := bit v 0, edge := if fld v 1 2 = 0 then x.edge else BitVec.ofNat 2 (fld v 1 2),
    thresh := if fld v 3 7 ≤ 64 then BitVec.ofNat 7 (fld v 3 7) else x.thresh, dly := BitVec.ofNat 16 (fld v 16 16) }

/-- Capture registers as read, offset within input n (R81-R83). -/
def evcRead (s : State) (n off : Nat) : Option W32 :=
  let x := evcAt s n
  let h := x.fifo.head?
  if off = 0x00 then some (w32 (b1 x.en + 2 * x.edge.toNat + 8 * x.thresh.toNat + 65536 * x.dly.toNat))
  else if off = 0x08 then some (w32 (x.fifo.length + 256 * x.dead.toNat + 65536 * x.lost.toNat))
  else if off = 0x10 then some (w32 ((h.map fun r => tNs r.stamp + 2 ^ 30 * b1 r.falling + 2 ^ 31 * b1 r.loss).getD 0))
  else if off = 0x14 then some (w32 ((h.map fun r => tFrac r.stamp + 65536 * (tSec r.stamp % 65536)).getD 0))
  else if off = 0x18 then some (w32 ((h.map fun r => tSec r.stamp / 65536).getD 0))
  else if off = 0x1C then some (w32 ((h.map fun r => r.grain.toNat).getD 0))
  else none

/-- A normal read of EVC_STS clears its counters (R82). -/
def evcStsTake (s : State) (n : Nat) : State := setEvc s n { evcAt s n with dead := 0, lost := 0 }

/-! ## Time outputs (R69, R84, R88-R90) -/

/-- PERIOD in 2^-48 ns. -/
def touPeriod (x : Tou) : Nat := x.period.toNat * 2 ^ 48 + x.pfrac.toNat * 2 ^ 40

/-- First scheduled rising edge at or after an instant (R69); none where the mode has none. -/
def nextRise (s : State) (x : Tou) (t : Nat) : Option Nat :=
  match x.mode.toNat with
  | 1 => some ((t + secUnits - 1) / secUnits * secUnits)
  | 2 =>
    let st := (tSec s.tb.t / 2 ^ 32 * 2 ^ 32 + x.startSec.toNat) * secUnits + x.startNs.toNat * 2 ^ 48
    let p := touPeriod x
    some (if t ≤ st ∨ p = 0 then st else st + (t - st + p - 1) / p * p)
  | 3 => if x.irigIdx < x.irigBits.length then some ((t + 10000000 * 2 ^ 48 - 1) / (10000000 * 2 ^ 48) * (10000000 * 2 ^ 48)) else none
  | _ => none

/-- High time of the pulse that a rising edge starts (R69). -/
def highTime (x : Tou) : Nat :=
  if x.mode.toNat = 3 then
    (match x.irigBits.getD x.irigIdx 0 with | 0 => 2000000 | 1 => 5000000 | _ => 8000000) * 2 ^ 48
  else x.high.toNat * 2 ^ 48

/-- Level at the ball: mode 0, or SQUELCH while TIME_VALID is low, drives low; otherwise the schedule under POL (R84, R90). -/
def ballLevel (s : State) (x : Tou) : Bool :=
  if x.mode = 0 || (x.squelch && !s.tb.timeValid) then false else x.level != x.pol

/-- The values written take effect at a rising edge (R84). -/
def touLoad (x : Tou) : Tou :=
  { x with pfrac := x.pPfrac.getD x.pfrac, startSec := x.pStartSec.getD x.startSec, startNs := x.pStartNs.getD x.startNs,
           period := x.pPeriod.getD x.period, high := x.pHigh.getD x.high,
           pPfrac := none, pStartSec := none, pStartNs := none, pPeriod := none, pHigh := none }

/-- An instant shifted by the output's DLY lies in the current grain or before it (R69). -/
def touDue (s : State) (x : Tou) (t : Nat) : Bool :=
  decide ((t : Int) + x.dly.toInt * 2 ^ 44 < (s.tb.t : Int) + 2 ^ 48)

/-- An output reaches its next scheduled edge and toggles (R69, R84). -/
def toutEdge (k : Nat) (s : State) : State :=
  let x := touAt s k
  if x.level then
    let e := x.riseAt + highTime x
    if touDue s x e then
      let y := { x with level := false, seekFrom := x.riseAt + 1,
                        irigIdx := if x.mode.toNat = 3 then x.irigIdx + 1 else x.irigIdx }
      emit (setTou s k y) (.tout k (ballLevel s y))
    else s
  else
    match nextRise s x x.seekFrom with
    | none => s
    | some r =>
      if touDue s x r then
        let y := { touLoad x with level := true, riseAt := r }
        emit (setTou s k y) (.tout k (ballLevel s y))
      else s

def execToutEdge (k : Nat) (s : State) : Host.Outcome State Fault Refusal := ev (decide (k < 8)) (toutEdge k s)

/-- HIGH lies in the range of a mode (R69). -/
def highOk (mode high period : Nat) : Bool :=
  match mode with
  | 1 => decide (100 ≤ high) && decide (high ≤ 900000000)
  | 2 => decide (4 ≤ high) && decide (high + 4 ≤ period)
  | _ => true

/-- A register of output k written (R84, R89). A change of MODE drives the output low and seeks its first edge after this
grain. In mode 0, which has no schedule, START, PERIOD, PFRAC and HIGH are in force at once (log entry 26). -/
def touWrite (k off : Nat) (v : W32) (s : State) : State :=
  let x := touAt s k
  let high := (x.pHigh.getD x.high).toNat
  let period := (x.pPeriod.getD x.period).toNat
  let m := x.mode.toNat
  let y : Tou :=
    match off with
    | 0 =>
      let m' := if highOk (fld v 0 2) high period then fld v 0 2 else m
      let z := { x with pol := bit v 2, squelch := bit v 3, pPfrac := some (BitVec.ofNat 8 (fld v 8 8)) }
      if m' = m then z
      else { z with mode := BitVec.ofNat 2 m', level := false, seekFrom := s.tb.t + 2 ^ 48, irigBits := [], irigIdx := 0 }
    | 1 => { x with pStartSec := some v }
    | 2 => if fld v 0 30 < 1000000000 then { x with pStartNs := some (BitVec.ofNat 30 (fld v 0 30)) } else x
    | 3 => if 20 ≤ fld v 0 30 ∧ fld v 0 30 ≤ 1000000000 ∧ highOk m high (fld v 0 30) then
        { x with pPeriod := some (BitVec.ofNat 30 (fld v 0 30)) } else x
    | 4 => if highOk m (fld v 0 30) period then { x with pHigh := some (BitVec.ofNat 30 (fld v 0 30)) } else x
    | _ => { x with dly := BitVec.ofNat 16 (fld v 0 16) }
  let y := if m = 0 then touLoad y else y
  let s1 := setTou s k y
  if ballLevel s x = ballLevel s1 y then s1 else emit s1 (.tout k (ballLevel s1 y))

def execTouWrite (m : Master) (k off : Nat) (v : W32) (s : State) : Host.Outcome State Fault Refusal :=
  ev (m.wf && decide (k < 8) && decide (off < 6)) (regWr s m (0x00401000 + 0x20 * k + 4 * off) (touWrite k off v))

/-- Output registers as read: the value last written (R84). -/
def touRead (s : State) (k off : Nat) : Option W32 :=
  let x := touAt s k
  if off = 0x00 then
    some (w32 (x.mode.toNat + 4 * b1 x.pol + 8 * b1 x.squelch + 256 * (x.pPfrac.getD x.pfrac).toNat))
  else if off = 0x04 then some (x.pStartSec.getD x.startSec)
  else if off = 0x08 then some (w32 (x.pStartNs.getD x.startNs).toNat)
  else if off = 0x0C then some (w32 (x.pPeriod.getD x.period).toNat)
  else if off = 0x10 then some (w32 (x.pHigh.getD x.high).toNat)
  else if off = 0x14 then some (w32 x.dly.toNat)
  else none

/-! ## IRIG-B (R70-R72) -/

/-- Seconds, minute, hour, day of year and year that a count of seconds from 1970-01-01 shows (log entry 27). -/
def civil (n : Nat) : Nat × Nat × Nat × Nat × Nat :=
  let z := n / 86400 + 719468
  let doe := z % 146097
  let yoe := (doe - doe / 1460 + doe / 36524 - doe / 146096) / 365
  let y := yoe + z / 146097 * 400
  let doy := doe - (365 * yoe + yoe / 4 - yoe / 100)
  let leap := fun (y : Nat) => decide (y % 4 = 0) && (decide (y % 100 ≠ 0) || decide (y % 400 = 0))
  let (yr, d) := if doy < 306 then (y, doy + 60 + b1 (leap y)) else (y + 1, doy - 305)
  (n % 60, n / 60 % 60, n / 3600 % 24, d, yr)

/-- Time quality of the estimate (R71). -/
def irigQuality (s : State) : Nat :=
  if !s.tb.traceable then 0xF
  else
    let e := s.tb.errEst.toNat
    match (List.range 10).find? fun k => decide (e < 16 * 10 ^ k) with
    | some k => 1 + k
    | none => 0xB

/-- `n` bits, least significant first, as symbols. -/
def symBits (v n : Nat) : List Nat := (List.range n).map fun i => b1 (v.testBit i)

/-- The 100 symbols of the frame that describes TAI second `sec` (R70, R72): B004 with the extension bits of IEEE 1344 at
positions 60-75 (positions and parity from IEEE C37.118.1: log entry 27). -/
def irigFrame (s : State) (sec : Nat) : List Nat :=
  let ls := s.irig.leapSec.toNat
  let here := decide (sec % 2 ^ 32 = ls) && s.irig.leapArm
  let utc : Int := (sec : Int) - s.irig.taiUtc.toNat
  let utc := if here then (if s.irig.leapDel then utc + 1 else utc - 1) else utc
  let loc := (utc + s.irig.local_.toInt * 1800).toNat
  let (sc, mi, hr, dy, yr) := civil loc
  let sc := if here && !s.irig.leapDel then sc + 1 else sc
  let sbs := loc % 86400 + b1 (here && !s.irig.leapDel)
  let lsp := s.irig.leapArm && decide (sec % 2 ^ 32 < ls) && decide (ls ≤ sec % 2 ^ 32 + 59)
  let off := s.irig.local_.toInt.natAbs
  let q := irigQuality s
  let body := [2] ++ symBits (sc % 10) 4 ++ [0] ++ symBits (sc / 10) 3 ++ [2] ++
    symBits (mi % 10) 4 ++ [0] ++ symBits (mi / 10) 3 ++ [0, 2] ++
    symBits (hr % 10) 4 ++ [0] ++ symBits (hr / 10) 2 ++ [0, 0, 2] ++
    symBits (dy % 10) 4 ++ [0] ++ symBits (dy / 10 % 10) 4 ++ [2] ++
    symBits (dy / 100) 2 ++ List.replicate 7 0 ++ [2] ++
    symBits (yr % 10) 4 ++ [0] ++ symBits (yr / 10 % 10) 4 ++ [2] ++
    [b1 lsp, b1 s.irig.leapDel, b1 s.irig.dsp, b1 s.irig.dst, b1 (decide (s.irig.local_.toInt < 0))] ++ symBits (off / 2) 4 ++ [2] ++
    [off % 2] ++ symBits q 4
  let parity := (body.filter (· = 1)).length % 2
  body ++ [parity, 0, 0, 0, 2] ++ symBits sbs 9 ++ [2] ++ symBits (sbs / 512) 8 ++ [0, 2]

/-- The frame of a second starts on a mode 3 output (R70): within 2,048 ns of a second boundary, once per second. -/
def irigFrameStart (k : Nat) (s : State) : State :=
  let x := touAt s k
  let t := s.tb.t + 2048 * 2 ^ 48
  let at_ := t / secUnits * secUnits
  if x.mode.toNat = 3 ∧ t % secUnits < 4096 * 2 ^ 48 ∧ !x.level ∧ (x.irigBits.isEmpty ∨ x.seekFrom ≠ at_) then
    setTou s k { x with irigBits := irigFrame s (tSec at_), irigIdx := 0, seekFrom := at_ }
  else s

def execIrigFrameStart (k : Nat) (s : State) : Host.Outcome State Fault Refusal := ev (decide (k < 8)) (irigFrameStart k s)

/-- The arming is judged: a LEAP_SEC at or before the current TAI second clears LEAP_ARM and raises TB_LEAP_REFUSED (R72). -/
def leapJudge (s : State) : State :=
  if s.irig.leapArm ∧ s.irig.leapSec.toNat ≤ tSec s.tb.t % 2 ^ 32 then
    raise { s with irig := { s.irig with leapArm := false } } 580 0 s.irig.leapSec.toNat
  else s

/-- TOU_IRIG or TOU_LEAP written (R72, R85): LOCAL −32 is refused (R17). -/
def irigWrite (leap : Bool) (v : W32) (s : State) : State :=
  if leap then leapJudge { s with irig := { s.irig with leapSec := v } }
  else
    let s1 := { s with irig := { s.irig with
        taiUtc := BitVec.ofNat 16 (fld v 0 16), local_ := if fld v 16 6 = 32 then s.irig.local_ else BitVec.ofNat 6 (fld v 16 6),
        dst := bit v 22, dsp := bit v 23, leapArm := bit v 24, leapDel := bit v 25 } }
    if bit v 24 && !s.irig.leapArm then leapJudge s1 else s1

def execTouIrigWrite (m : Master) (leap : Bool) (v : W32) (s : State) : Host.Outcome State Fault Refusal :=
  ev m.wf (regWr s m (if leap then 0x00401104 else 0x00401100) (irigWrite leap v))

/-- TOU_IRIG and TOU_LEAP as read (R85). -/
def irigRead (s : State) (off : Nat) : Option W32 :=
  if off = 0x00 then
    some (w32 (s.irig.taiUtc.toNat + 2 ^ 16 * s.irig.local_.toNat + 2 ^ 22 * b1 s.irig.dst + 2 ^ 23 * b1 s.irig.dsp +
      2 ^ 24 * b1 s.irig.leapArm + 2 ^ 25 * b1 s.irig.leapDel))
  else if off = 0x04 then some s.irig.leapSec
  else none

/-- The armed leap second has ended: TAI_UTC changes by one and LEAP_ARM clears (R72). -/
def leapSecondEnd (s : State) : State :=
  if s.irig.leapArm ∧ s.irig.leapSec.toNat < tSec s.tb.t % 2 ^ 32 then
    { s with irig := { s.irig with
        leapArm := false,
        taiUtc := if s.irig.leapDel then s.irig.taiUtc - 1 else s.irig.taiUtc + 1 } }
  else s

def execLeapSecondEnd (s : State) : Host.Outcome State Fault Refusal := ev true (leapSecondEnd s)

/-! ## Adjustments (R73, R74, R86-R88) -/

/-- Outputs after an adjustment: a high output goes low, each seeks its next edge from the new time, an IRIG-B frame cut short
waits for the next second (R88). -/
def touAdjusted (s : State) (t : Nat) : State :=
  (List.range 8).foldl (fun s k =>
    let x := touAt s k
    let y := { x with level := false, seekFrom := t, irigBits := [], irigIdx := 0 }
    let s1 := setTou s k y
    if ballLevel s x && !ballLevel s1 y then emit s1 (.tout k false) else s1) s

/-- TB_TIME takes a new value; the plain signed difference is logged for the residence of packets (R87, R101). -/
def adjustTo (s : State) (t : Nat) (delta : Int) : State :=
  let s1 := { s with tb := { s.tb with t := t, adjLog := (s.gr.count, delta) :: s.tb.adjLog } }
  touAdjusted { s1 with tb := { s1.tb with smpFrom := nextBoundary s1 t } } t

/-- A STEP keeps the residue; a SET loads the value and clears TRACEABLE (R64, R73). -/
def applyStep (s : State) (d : Int) : State := adjustTo s (tAdd s.tb.t d) d
def applySet (s : State) (v : Nat) : State :=
  let s1 := adjustTo s v ((v : Int) - s.tb.t)
  validUpdate { s1 with tb := { s1.tb with traceable := false } }

/-- Grain AT has come: the adjustment is applied and its command completes (R73). -/
def adjustApply (s : State) : State :=
  match s.tb.adj with
  | some a =>
    if reached s a.at_ then
      let s1 := { s with tb := { s.tb with adj := none } }
      let s2 := if a.set then applySet s1 a.value else applyStep s1 a.step
      completeOpt s2 a.cmd stDONE (leBytes 8 a.at_.toNat)
    else s
  | none => s

def execTbAdjustApply (s : State) : Host.Outcome State Fault Refusal := ev true (adjustApply s)

/-- The STEP of a TB_ADJUST in 2^-48 ns (R208). -/
def stepOf (c : Cmd) : Int := signed 32 (par c 24 4) * 2 ^ 48 + (par c 28 1 * 2 ^ 40 : Nat)

/-- TB_ADJUST is scheduled; a pending one is cancelled (R73, R74). NOT_OWNER on the junior of a pair and in SOLO-HOLD, and on
the senior an AT earlier than LAG ahead is BAD_PARAM (R617, R618). -/
def tbAdjust (s : State) (c : Cmd) : State :=
  let at_ : Grain := BitVec.ofNat 64 (par c 16 8)
  if juniorPaired s || decide (s.twn.state = twSOLO) then complete s c.id stNOT_OWNER []
  else if !future s at_ || (seniorPaired s && before at_ (s.gr.count + lagOf s)) then complete s c.id stBAD_PARAM []
  else
    let s1 := match s.tb.adj with
      | some a => completeOpt s a.cmd stADJUST_CANCELLED []
      | none => s
    let set := decide (parBits c 8 0 1 = 1)
    let val := tMake (par c 24 6) (par c 32 4) (par c 36 1)
    let a : Adj :=
      { set := set, at_ := at_, step := if set then 0 else stepOf c, value := if set then val else 0, cmd := some c.id }
    let s2 := running { s1 with tb := { s1.tb with adj := some a } } c.id
    if seniorPaired s then
      torvSend s2 0x06 (timeBody { noChange s2 at_ with
        step := if set then none else some (stepOf c), set := if set then some val else none })
    else s2

def execTbAdjust (id : Nat) (s : State) : Host.Outcome State Fault Refusal := ev true (runCmd s id 0x08 tbAdjust)

/-- A carried change of the senior's time reaches its pair grain (R617). -/
def timeChgApply (s : State) (c : TimeChg) : State :=
  let s := match c.setF with | some f => { s with tb := { s.tb with f := f } } | none => s
  let s := match c.step with | some d => applyStep s d | none => s
  let s := match c.set with | some v => applySet s v | none => s
  let s := match c.est with | some e => { s with tb := { s.tb with errEst := e, growth := 0 } } | none => s
  if juniorPaired s || c.load then { s with tb := { s.tb with traceable := c.trace } } else s

/-! ## The boundary (R56) -/

/-- The selected source is of type A or B and not qualified, outside holdover (R61). -/
def sourceLost (s : State) : Bool := !srcOk s s.tb.src.toNat && !s.tb.holdover && !juniorPaired s

/-- TB_TIME over one boundary (R56): the word in force advances it; one carried for this grain is in force from here; staged
writes of TB_ERR_EST and TB_REF_CTL take effect; then the loss of the selected source, which discards the word written, or else
the word written is in force (R61); the growth counter counts. -/
def tbBoundary (s : State) : State :=
  let t := (((s.tb.t : Int) + 2 ^ 48 + s.tb.f.toInt) % (tMod : Int)).toNat
  let f := s.tb.pendF
  let s := { s with tb := { s.tb with
      t := t, fPrev := s.tb.f, holdPrev := s.tb.holdover, pendF := none,
      growth := if s.tb.pEst.isSome then 0 else s.tb.growth + 1, errEst := s.tb.pEst.getD s.tb.errEst, pEst := none } }
  let due := s.twn.times.filter fun c => !c.load && !before (pairGrain s) c.apply
  let s := { s with twn := { s.twn with times := s.twn.times.filter fun c => c.load || before (pairGrain s) c.apply } }
  let s := due.foldl timeChgApply s
  let s := match s.tb.pRef with
    | some v => refCtlApply { s with tb := { s.tb with pRef := none } } v
    | none => s
  if sourceLost s then holdoverEntry s else { s with tb := { s.tb with f := f.getD s.tb.f } }

end Sys2Proof.Machine
end

