-- ==== Sys2Proof/Machine/Ports.lean ====
section
/-! DEFINITION. Ethernet ports (spec/10): modes, link-state machine, registers. -/

namespace Sys2Proof.Machine

/-! ## PORT_MODE (R257) -/

def portMode (s : State) (p : Nat) : Nat := fld (cur0 s sPORT_MODE p) 0 4
def portFec (s : State) (p : Nat) : Nat := fld (cur0 s sPORT_MODE p) 4 2
def portAn (s : State) (p : Nat) : Bool := bit (cur0 s sPORT_MODE p) 6
def portPreempt (s : State) (p : Nat) : Bool := bit (cur0 s sPORT_MODE p) 9

/-- Data rate of a mode in kb/s (R256). -/
def modeRate : Nat → Nat
  | 1 => 100000
  | 2 => 1000000
  | 3 => 1000000
  | 4 => 2500000
  | 5 => 10000000
  | 6 => 25000000
  | _ => 0

/-! ## Conditions (R262) -/

/-- Where auto-negotiation applies: MODE 3, and MODE 2 with AN = 1 (R259, R260). -/
def anApplies (s : State) (p : Nat) : Bool := decide (portMode s p = 3) || (decide (portMode s p = 2) && portAn s p)

/-- The bad conditions of a port as down-cause codes, lowest first (R262, R263, R273). -/
def badConds (s : State) (p : Nat) (x : Port) : List Nat :=
  let m := portMode s p
  let r := decide (m = 5) || decide (m = 6)
  (if x.sig then [] else [2]) ++ (if x.cdr then [] else [3]) ++ (if x.sync then [] else [4]) ++
    (if r && decide (portFec s p ≠ 0) && !x.fec then [5] else []) ++ (if r && x.hiBer then [6] else []) ++
    (if r && x.lf then [7] else []) ++ (if (r || decide (m = 1)) && x.rf then [8] else []) ++
    (if anApplies s p && !x.an then [9] else [])

/-- A P4 input of a port (R39, R261). -/
def presentLink (s : State) (p : Nat) (up : Bool) (cause : Nat) : State :=
  see s 4 p (.link p up (BitVec.ofNat 4 cause))

/-! ## Link-state machine (R261) -/

/-- UP_WAIT ends where the good conditions have held for UP_HOLD × 1,000 grains. -/
def upHold (s : State) (p : Nat) : State :=
  let x := portAt s p
  if x.state = 2 ∧ x.upHold.toNat * 1000 ≤ since s x.upSince then
    presentLink (setPort s p { x with state := 3 }) p true 0
  else s

/-- DOWN_WAIT ends where the bad condition has persisted for DN_HOLD × 1,000 grains. -/
def downHold (s : State) (p : Nat) : State :=
  let x := portAt s p
  if x.state = 4 ∧ x.dnHold.toNat * 1000 ≤ since s x.badSince then
    presentLink (setPort s p { x with state := 1 }) p false x.badCause.toNat
  else s

def execUpHoldExpiry (port : Nat) (s : State) : Host.Outcome State Fault Refusal := ev (decide (port < 96)) (upHold s port)

def execDownHoldExpiry (port : Nat) (s : State) : Host.Outcome State Fault Refusal := ev (decide (port < 96)) (downHold s port)

/-- The machine judges the conditions last seen (R261, R279). The boundary that ends this grain sees the change, so an event of
the change carries that boundary's grain (R36). -/
def linkJudge (s : State) (p : Nat) : State :=
  let x := portAt s p
  let bad := badConds s p x
  match x.state.toNat, bad with
  | 1, [] => upHold (setPort s p { x with state := 2, upSince := s.gr.count }) p
  | 2, _ :: _ => setPort s p { x with state := 1 }
  | 3, c :: _ =>
    if x.dnHold = 0 then presentLink (setPort s p { x with state := 1 }) p false c
    else setPort s p { x with state := 4, badSince := s.gr.count, badCause := BitVec.ofNat 4 c }
  | 4, [] => raiseAt (setPort s p { x with state := 3, hits := satInc x.hits }) (4 * p + 3) 2 0 (s.gr.count + 1)
  | _, _ => s

/-- The conditions of a port change at a boundary (R259-R263, R272, R276); an SGMII PHY that reports link down while the port is UP
is a fault with cause AN (R260). A port in OFF has its receive path off. -/
def linkConditionChange (p : Nat) (c : LinkCond) (s : State) : State :=
  let x := portAt s p
  if x.state = 0 then s
  else
    let y := { x with sig := c.sig, cdr := c.cdr, sync := c.sync, fec := c.fec || decide (portFec s p = 0),
                      an := c.an || !anApplies s p, lf := c.lf, rf := c.rf, hiBer := c.hiBer }
    let s1 := linkJudge (setPort s p y) p
    let s1 := if portMode s p = 3 ∧ x.state = 3 ∧ x.an ∧ !c.an ∧ !c.anRefused then cFault s1 (256 + p) 0xD0 0 else s1
    if c.anRefused && anApplies s p then raiseAt s1 (4 * p + 3) 4 0 (s.gr.count + 1) else s1

def execLinkConditionChange (port : Nat) (cond : LinkCond) (s : State) : Host.Outcome State Fault Refusal :=
  ev (decide (port < 96)) (linkConditionChange port cond s)

/-- A port whose receiver holds no lock (R269). -/
def dropLocks (x : Port) : Port :=
  { x with sig := false, cdr := false, sync := false, fec := false, an := false, lf := false, rf := false, hiBer := false }

/-- The P4 input of a port that waits for the next boundary. -/
def linkSeen (s : State) (p : Nat) : Option Decision :=
  (s.gr.seen.find? fun x => decide (x.cls = 4) && decide (x.idx = p)).map (·.what)

/-- That input is withdrawn. -/
def linkUnsee (s : State) (p : Nat) : State :=
  { s with gr := { s.gr with seen := s.gr.seen.filter fun x => !(decide (x.cls = 4) && decide (x.idx = p)) } }

/-- ADMIN_DOWN takes effect on a port whose state was `st`: one P4 input at most, a down decision from UP or DOWN_WAIT, with the
lowest of the causes of its grain; a port whose up decision is of the same grain was not up (R261, R263). -/
def adminDecision (s : State) (p : Nat) (st : Nat) : State :=
  match linkSeen s p with
  | some (.link _ true _) => linkUnsee s p
  | some _ => presentLink (linkUnsee s p) p false 1
  | none => if 3 ≤ st then presentLink s p false 1 else s

/-- A change of PORT_MODE is a down decision from UP or DOWN_WAIT, stamped with the quiesce end (R261, R269). -/
def modeDecision (s : State) (p : Nat) (st : Nat) : State := if 3 ≤ st then seeNow s 4 p (.link p false 10) else s

/-- A port enters OFF: electrical idle, no lock (R261, R269). -/
def portOff (s : State) (p : Nat) : State := setPort s p { dropLocks (portAt s p) with state := 0, squelched := true }

/-- Every transmitter is in electrical idle (R268). -/
def squelchAll (s : State) : State :=
  (List.range 96).foldl (fun s p => setPort s p { portAt s p with squelched := true }) s

/-- A port leaves OFF, or retrains, into ACQUIRE (R261, R269); after a fatal fault or in a shed it stays as it is (R268, R581). -/
def portAcquire (s : State) (p : Nat) : State :=
  if s.fcu.xDue.isSome || s.fcu.holding || s.pwr.shed.isSome then s
  else
    let x := portAt s p
    modeDecision (setPort s p { dropLocks x with state := 1, squelched := false }) p x.state.toNat

/-- PRT_CTL takes effect (R261, R271): ADMIN_DOWN, and holds that have already reached the new value. -/
def portCtlApply (s : State) (p : Nat) (v : W32) : State :=
  let x := portAt s p
  let s1 := setPort s p { x with adminDown := bit v 0, dnHold := BitVec.ofNat 8 (fld v 8 8), upHold := BitVec.ofNat 16 (fld v 16 16) }
  if bit v 0 then (if x.state = 0 then s1 else adminDecision (portOff s1 p) p x.state.toNat)
  else if x.state = 0 ∧ portMode s p ≠ 0 ∧ x.adminDown then portAcquire s1 p
  else downHold (upHold s1 p) p

/-- PORT_MODE takes effect at the quiesce end (R261, R269, R277). -/
def portModeApply (s : State) (p : Nat) : State :=
  let x := portAt s p
  if x.adminDown then s
  else if portMode s p = 0 then (if x.state = 0 then s else modeDecision (portOff s p) p x.state.toNat)
  else portAcquire s p

/-- Address of a port register. -/
def portReg (p off : Nat) : Nat := 0x01000000 + p * 0x10000 + off

def execPrtCtlWrite (m : Master) (port : Nat) (v : W32) (s : State) : Host.Outcome State Fault Refusal :=
  ev (m.wf && decide (port < 96)) (regWr s m (portReg port 0) fun s => pendWrite s (portReg port 0) v)

/-! ## Registers (R271-R275) -/

/-- Port registers as read, offset within the port. -/
def prtRead (s : State) (p off : Nat) : Option W32 :=
  let x := portAt s p
  if off = 0x0000 then some (w32 (b1 x.adminDown + 256 * x.dnHold.toNat + 65536 * x.upHold.toNat))
  else if off = 0x0004 then
    some (w32 (x.state.toNat + 8 * b1 x.sig + 16 * b1 x.cdr + 32 * b1 x.sync + 64 * b1 x.fec + 128 * b1 x.an + 256 * b1 x.lf +
      512 * b1 x.rf + 1024 * b1 x.hiBer + 65536 * x.cause.toNat))
  else if off = 0x0008 then some x.flush
  else if off = 0x000C then some (w32 (x.hits.toNat + 256 * x.downs.toNat + 65536 * x.rxNotUp.toNat))
  else if off = 0x0010 then some (w32 (x.corr.toNat + 65536 * x.uncorr.toNat))
  else if off = 0x8000 then some (w32 (x.pre.toNat + 16 * x.main.toNat + 1024 * x.post.toNat))
  else none

/-- SDS_TXEQ takes effect; a sum above 63 is refused (R275). -/
def txeqApply (s : State) (p : Nat) (v : W32) : State :=
  if fld v 0 4 + fld v 4 6 + fld v 10 5 ≤ 63 then
    setPort s p { portAt s p with
      pre := BitVec.ofNat 4 (fld v 0 4), main := BitVec.ofNat 6 (fld v 4 6), post := BitVec.ofNat 5 (fld v 10 5) }
  else s

/-- A normal read clears the port's counters (R274). -/
def prtTake (s : State) (p off : Nat) : State :=
  let x := portAt s p
  if off = 0x0008 then setPort s p { x with flush := 0 }
  else if off = 0x000C then setPort s p { x with hits := 0, downs := 0, rxNotUp := 0 }
  else if off = 0x0010 then setPort s p { x with corr := 0, uncorr := 0 }
  else s

/-- FEC results of the lane (R274, R276): the first uncorrectable codeword of each latency window raises the port error
event. -/
def fecCount (s : State) (p corr uncorr : Nat) : State :=
  let x := portAt s p
  let y := { x with corr := satAdd x.corr corr, uncorr := satAdd x.uncorr uncorr }
  let s1 := setPort s p y
  if uncorr = 0 then s1 else raiseOnce s1 0 p (4 * p + 3) 1 y.uncorr.toNat

/-- Whether port `p` accepts a frame whose start is stamped in grain `g` (R265, R278). -/
def accepts (s : State) (p : Nat) (g : Grain) : Bool :=
  let x := portAt s p
  if x.up then !before g x.decAt else x.down && before g x.decAt

end Sys2Proof.Machine
end

