-- ==== Sys2Proof/Machine/Fdb.lean ====
section
/-! DEFINITION. The forwarding database (spec/12 R328-R335, R339-R344; spec/08 R213, R214; spec/23 R613-R615, R620): lookups,
touches, learning decisions, the ageing sweep and the FDB commands. -/

namespace Sys2Proof.Machine

/-! ## Hash (R147, R300, R328) -/

/-- One bit into CRC-32C, most significant bit first. -/
def crc32cBit (c : BitVec 32) (b : Bool) : BitVec 32 :=
  if c.getMsbD 0 != b then (c <<< 1) ^^^ 0x1EDC6F41 else c <<< 1

/-- CRC-32C over bits, no final XOR (R300). -/
def crc32c (seed : BitVec 32) (bits : List Bool) : BitVec 32 := bits.foldl crc32cBit seed

/-- The low `n` bits of a number, most significant first. -/
def msbBits (n v : Nat) : List Bool := (List.range n).map fun i => v.testBit (n - 1 - i)

/-- h of a key (R328). -/
def fdbHash (mac : BitVec 48) (vid : BitVec 12) : Nat :=
  (crc32c 0xFFFFFFFF (msbBits 48 mac.toNat ++ msbBits 16 vid.toNat)).toNat

/-- Bucket of a key in partition `n`'s region; none where SIZE = 0 (R147). -/
def fdbBucket (s : State) (n : Nat) (mac : BitVec 48) (vid : BitVec 12) : Option Nat :=
  let sz := fdbSize s n
  if sz = 0 then none else some (fdbBase s n * 1024 + fdbHash mac vid % (sz * 1024))

/-- The partition whose region holds a bucket (R334). -/
def bucketOwner (s : State) (b : Nat) : Option Nat :=
  (List.range 16).find? fun n => decide (fdbBase s n ≤ b / 1024) && decide (b / 1024 < fdbBase s n + fdbSize s n)

/-- A bucket lies in the fenced T1 bank 0 (R342, R426). -/
def fdbFenced (s : State) (b : Nat) : Bool := s.mt.fencedBanks.toNat.testBit 0 && decide (b < 36864)

/-! ## Entries -/

def fdbEnt (s : State) (b w : Nat) : Option FdbEnt := tget (fun _ => none) s.fdb.ents (4 * b + w)
/-- Two states of a way differ in a touch only, which is no change of its bucket for a transfer (R614, R622). -/
def touchOnly : Option FdbEnt → Option FdbEnt → Bool
  | some a, some b => decide ({ a with touch := b.touch } = b)
  | a, b => decide (a = b)

def setFdbEnt (s : State) (b w : Nat) (x : Option FdbEnt) : State :=
  let same := touchOnly (fdbEnt s b w) x
  { s with
    fdb := { s.fdb with ents := tset (fun _ => none) s.fdb.ents (4 * b + w) x }
    twn := { s.twn with sentBuckets := if same then s.twn.sentBuckets else s.twn.sentBuckets.filter fun k => decide (k ≠ b) } }

/-- Way and entry of a key in a bucket; all 60 bits are compared (R328). -/
def fdbFind (s : State) (b : Nat) (mac : BitVec 48) (vid : BitVec 12) : Option (Nat × FdbEnt) :=
  (List.range 4).findSome? fun w =>
    match fdbEnt s b w with
    | some x => if x.mac = mac ∧ x.vid = vid then some (w, x) else none
    | none => none

/-- An index of the table holds an entry that satisfies `f`. -/
def fdbHolds (f : Nat → FdbEnt → Bool) (e : Nat × Option FdbEnt) : Bool :=
  match e.2 with | some x => f (e.1 / 4) x | none => false

/-- Entries that satisfy `f` go. -/
def fdbRemove (s : State) (f : Nat → FdbEnt → Bool) : State :=
  let gone := (s.fdb.ents.filter (fdbHolds f)).map fun e => e.1 / 4
  { s with
    fdb := { s.fdb with ents := s.fdb.ents.filter fun e => !fdbHolds f e }
    twn := { s.twn with sentBuckets := s.twn.sentBuckets.filter fun b => !gone.contains b } }

/-- A bucket lies in partition `n`'s region. -/
def inRegion (s : State) (n b : Nat) : Bool :=
  decide (fdbBase s n ≤ b / 1024) && decide (b / 1024 < fdbBase s n + fdbSize s n)

/-- Entries of partition `n`'s region that satisfy `f`. -/
def fdbCount (s : State) (n : Nat) (f : FdbEnt → Bool) : Nat :=
  (s.fdb.ents.filter fun e => match e.2 with | some x => inRegion s n (e.1 / 4) && f x | none => false).length

/-! ## Pairs of ports (R331, R364) -/

/-- Node of a port under FWD_RED of the newest live epoch: ROLE and NODE. -/
def redNode (s : State) (e : Epoch) (p : Nat) : Option (Nat × Nat) :=
  if p < 96 then
    let w := wd (setVal s e sFWD_RED p) 0
    if fld w 0 2 = 1 ∨ fld w 0 2 = 2 then some (fld w 0 2, fld w 2 6) else none
  else none

/-- Two ports are the two ports of one PRP node or HSR ring. -/
def partners (s : State) (p q : Nat) : Bool :=
  decide (p ≠ q) && (match redNode s (newest s) p with | some k => decide (redNode s (newest s) q = some k) | none => false)

/-- An entry is held on port `q`, or on the other port of its pair (R330). -/
def heldOn (s : State) (x : FdbEnt) (q : Nat) : Bool := decide (x.port = q) || (x.pair && partners s x.port q)

/-! ## Pair grains of TOUCH and WSTART (R612, R614) -/

/-- A local grain as a pair grain. -/
def toPair (s : State) (g : Grain) : Grain := if senior s then g else g + s.twn.goff

/-- A pair grain as a local one. -/
def fromPair (s : State) (g : Grain) : Grain := if senior s then g else g - s.twn.goff

/-- The partitions that TWN_SHARE names. -/
def shareParts (s : State) : List Nat := (List.range 16).filter fun n => s.twn.share.toNat.testBit n

/-- Partition `n` shares its learning with the partner now: while PAIRED, and from grain a of a rejoin (R613, R622). -/
def shares (s : State) (n : Nat) : Bool :=
  (paired s || (decide (s.twn.state = twJOINING) && decide (s.twn.joinStep = 4))) && s.twn.share.toNat.testBit n

/-! ## Lookups and touches -/

/-- An FDB_DST lookup: HIT with PORT, LFAIL (R147, R329, R342). -/
def fdbLookup (s : State) (n : Nat) (mac : BitVec 48) (vid : BitVec 12) : Option FdbEnt × Bool :=
  match fdbBucket s n mac vid with
  | none => (none, false)
  | some b => if fdbFenced s b then (none, true) else ((fdbFind s b mac vid).map (·.2), false)

/-- A grain later than another, modulo 2^64. -/
def later (a b : Grain) : Grain := if before a b then b else a

/-- A TOUCH frame for an entry, at most once in 65,536 grains (R614). -/
def carryTouch (s : State) (n i : Nat) (x : FdbEnt) : State :=
  let t := tget (fun _ => (0 : BitVec 64)) s.twn.touchAt i
  if shares s n ∧ (t = 0 ∨ 65536 ≤ (s.gr.count + 1 - t).toNat) then
    torvSend { s with twn := { s.twn with touchAt := tset (fun _ => 0) s.twn.touchAt i (s.gr.count + 1) } } 0x03
      (beBytes 6 x.mac.toNat ++ leBytes 2 x.vid.toNat ++ [BitVec.ofNat 8 n] ++ List.replicate 7 0 ++
        leBytes 8 (toPair s x.touch).toNat)
  else s

/-- A frame's key is already held on its port: TOUCH becomes the later of TOUCH and the stamp's grain, unless it comes more
than 65,536 grains after the stamp (R330); a pinned entry takes touches only from its own port (R332). -/
def fdbTouch (s : State) (n b w : Nat) (x : FdbEnt) (g : Grain) : State :=
  if 65536 < since s g then s
  else
    let x' := { x with touch := later x.touch g }
    carryTouch (setFdbEnt s b w (some x')) n (4 * b + w) x'

/-! ## Learning (R330) -/

/-- An event is dropped (R330, R331, R339, R340). -/
def learnDrop (s : State) (n : Nat) (g : Grain) : State :=
  let x := ptnAt s n
  raiseOnceAt (setPtn s n { x with learnDrop := satInc x.learnDrop }) 1 0 662 0 (n * 65536) g

/-- FDB_LEARN of a packet: a touch, or a learning event into the learn queue (R330, R342). -/
def fdbLearn (s : State) (e : LearnEv) (g : Grain) : State :=
  match fdbBucket s e.pt e.mac e.vid with
  | none => s
  | some b =>
    if fdbFenced s b then s
    else
      let held := match fdbFind s b e.mac e.vid with
        | some (w, x) => if heldOn s x e.port then some (w, x) else none
        | none => none
      match held with
      | some (w, x) => if x.flapping && decide (x.port ≠ e.port) then s else fdbTouch s e.pt b w x g
      | none =>
        if s.fdb.learnQ.contains e then s
        else if 8192 ≤ s.fdb.learnQ.length then learnDrop s e.pt s.gr.count
        else { s with fdb := { s.fdb with learnQ := s.fdb.learnQ ++ [e] } }

/-- Partition `n` holds port `q` for its learning of a VID (R344). -/
def learnsOn (s : State) (n q : Nat) (vid : BitVec 12) : Bool :=
  decide (100 ≤ q) || decide (portOwner s q = n) ||
    (portShared s q && decide (vlanOwner s (newest s) vid.toNat = some n))

/-- The port went down by a decision stamped in the same grain (R53, R457). -/
def lateLearn (s : State) (q : Nat) (g : Grain) : Bool :=
  if q < 96 then (portAt s q).down && decide ((portAt s q).decAt = g)
  else if q < 100 then !(radioAt s (q - 96)).up && decide ((radioAt s (q - 96)).decAt = g)
  else false

/-- The way that displacement takes: the entry with the oldest TOUCH among those that satisfy `f`, lower way on a tie. -/
def oldestWay (s : State) (b : Nat) (f : FdbEnt → Bool) : Option Nat :=
  ((List.range 4).foldl (fun (best : Option (Nat × Grain)) w =>
    match fdbEnt s b w with
    | some x =>
      if f x then
        match best with
        | some (_, t) => if before x.touch t then some (w, x.touch) else best
        | none => some (w, x.touch)
      else best
    | none => best) none).map (·.1)

/-- The lowest free way of a bucket. -/
def freeWay (s : State) (b : Nat) : Option Nat := (List.range 4).find? fun w => (fdbEnt s b w).isNone

/-- A dynamic entry as it is installed (R331). -/
def newEnt (e : LearnEv) (g : Grain) (remote : Bool) : FdbEnt :=
  { mac := e.mac, vid := e.vid, port := e.port, static := false, flapping := false, pair := false, twin := remote, moves := 0,
    wstart := g, touch := g, chg := some g }

/-- An entry moved to another port (R331); a pair ends with the move (log entry 35). -/
def movedEnt (x : FdbEnt) (q moves : Nat) (w g : Grain) (remote : Bool) : FdbEnt :=
  { x with port := q, moves := moves, wstart := w, touch := g, twin := remote, pair := false, chg := some g }

/-- One move is counted (R331). -/
def countMove (s : State) (n : Nat) : State :=
  let x := ptnAt s n
  setPtn s n { x with moves := satInc x.moves }

/-- DATA of events 660 and 661: the port kept, the port refused, the partition (R340). -/
def moveData (p q n : Nat) : Nat := p + 256 * q + 65536 * n

/-- The event meets an entry of its key on another port (the last five rows of the table of R331). -/
def learnMove (s : State) (e : LearnEv) (g : Grain) (remote : Bool) (b w : Nat) (x : FdbEnt) : State :=
  let v := cur s sFDB_AGE e.pt
  let window := fld (wd v 1) 0 24
  let limit := fld (wd v 1) 24 8
  let pin := bit (wd v 2) 1
  if x.static || x.flapping then s
  else if window * 1000 ≤ (g - x.wstart).toNat then
    countMove (setFdbEnt s b w (some (movedEnt x e.port 1 g g remote))) e.pt
  else if x.moves < limit then
    countMove (setFdbEnt s b w (some (movedEnt x e.port (x.moves + 1) x.wstart g remote))) e.pt
  else if pin then
    raiseAt (setFdbEnt s b w (some { x with flapping := true })) 661 0 (moveData x.port e.port e.pt) g
  else countMove (setFdbEnt s b w (some (movedEnt x e.port x.moves x.wstart g remote))) e.pt

/-- A learning decision at grain `g` (R331, R332, R342, R344); `remote`: it originated on the twin partner. -/
def learnApply (s : State) (e : LearnEv) (g : Grain) (remote : Bool) : State :=
  if (ptnAt s e.pt).resetting then s
  else if !learnsOn s e.pt e.port e.vid then learnDrop s e.pt g
  else if !remote && lateLearn s e.port g then
    learnDrop { s with fdb := { s.fdb with lateLearn := satInc s.fdb.lateLearn } } e.pt g
  else if !bit (wd (cur s sFDB_AGE e.pt) 2) 0 then s
  else
    match fdbBucket s e.pt e.mac e.vid with
    | none => s
    | some b =>
      if fdbFenced s b then s
      else
        match fdbFind s b e.mac e.vid with
        | none =>
          (match (freeWay s b).orElse fun _ => oldestWay s b fun x => !x.static && !x.flapping with
           | some w => count (setFdbEnt s b w (some (newEnt e g remote))) 166 1 1 e.pt
           | none => learnDrop s e.pt g)
        | some (w, x) =>
          if x.chg = some g ∧ x.port ≠ e.port ∧ !partners s x.port e.port then
            let y := ptnAt s e.pt
            raiseAt (setPtn s e.pt { y with conflicts := satInc y.conflicts }) 660 0 (moveData x.port e.port e.pt) g
          else if heldOn s x e.port then
            (if x.flapping && decide (x.port ≠ e.port) then s
             else setFdbEnt s b w (some { x with touch := later x.touch g }))
          else if partners s x.port e.port then
            setFdbEnt s b w (some { x with pair := true, port := min x.port e.port, touch := g, twin := remote })
          else learnMove s e g remote b w x

/-! ## Ageing (R334, R614, R620) -/

/-- A port is down for the sweep (R334, R457). -/
def sweepDown (s : State) (p : Nat) : Bool :=
  if p < 96 then decide ((portAt s p).state ≠ 3) && decide ((portAt s p).state ≠ 4)
  else if p < 100 then !(radioAt s (p - 96)).up
  else false

/-- The other port of a pair entry: the sweep looks at both ports of the node (R334). -/
def pairDown (s : State) (x : FdbEnt) : Bool :=
  sweepDown s x.port &&
    (!x.pair || (List.range 96).all fun q => !partners s x.port q || sweepDown s q)

/-- The time condition of an entry under AGE (R334, R620): twin-learned entries age eight times faster while apart. -/
def agedOut (s : State) (x : FdbEnt) (age : Nat) (g : Grain) : Bool :=
  let d := (g - 65536 - x.touch).toNat
  let apart := decide (s.twn.state = twSEPARATED) || decide (s.twn.state = twJOINING) || decide (s.twn.state = twSOLO)
  let unit := if x.twin && apart then 8192 else 65536
  decide (age ≠ 0) && decide (d < 2 ^ 63) && decide (age * unit ≤ d)

/-- A sweep step of a bucket at grain `g` (R334). On the junior of a pair the port condition is the senior's, which the link
does not carry: a free value (log entry 36). -/
def sweepApply (s : State) (b : Nat) (g : Grain) (remote : Bool) : State :=
  match bucketOwner s b with
  | none => s
  | some n =>
    let age := (cur0 s sFDB_AGE n).toNat
    let s0 := if remote then freeNext s else s
    (List.range 4).foldl (fun t w =>
      match fdbEnt t b w with
      | some x =>
        let down := if remote then (freeVal s).toNat.testBit w else pairDown s x
        if !x.static && (agedOut s x age g || down) then
          let y := ptnAt t n
          setPtn (setFdbEnt t b w none) n { y with aged := satInc y.aged }
        else t
      | none => t) s0

/-- The bucket that is due at a grain (R334). -/
def sweepDue (g : Grain) : Option Nat := if g.toNat % 256 = 0 then some (g.toNat % 2 ^ 24 / 256) else none

/-! ## Commands 0x18-0x1B (R213, R214, R332, R335) -/

/-- MAC and VID of an FDB command. -/
def fdbMac (l : List Byte) : BitVec 48 := BitVec.ofNat 48 (be l 8 6)
def fdbVid (l : List Byte) : BitVec 12 := BitVec.ofNat 12 (le l 14 2)

/-- A write installs an entry with TOUCH and WSTART at its grain, MOVES 0 (log entry 37). -/
def writtenEnt (l : List Byte) (g : Grain) (remote : Bool) : FdbEnt :=
  { mac := fdbMac l, vid := fdbVid l, port := le l 16 1, static := (le l 17 1).testBit 0, flapping := false, pair := false,
    twin := remote, moves := 0, wstart := g, touch := g, chg := none }

/-- FDB_WRITE (R213, R214); a region of no units has no free way (log entry 37). -/
def fdbWriteEff (s : State) (n : Nat) (l : List Byte) (g : Grain) (remote : Bool) : State × Nat × List Byte :=
  match fdbBucket s n (fdbMac l) (fdbVid l) with
  | none => (s, stFDB_FULL, [])
  | some b =>
    let put := fun (w : Nat) (st : Nat) =>
      (setFdbEnt s b w (some (writtenEnt l g remote)), st, leBytes 4 b ++ [BitVec.ofNat 8 w])
    match fdbFind s b (fdbMac l) (fdbVid l) with
    | some (w, _) => put w stNOTE
    | none =>
      match (freeWay s b).orElse fun _ => oldestWay s b fun x => !x.static with
      | some w =>
        let r := put w stDONE
        (count r.1 166 1 1 0, r.2)
      | none => (s, stFDB_FULL, [])

/-- FDB_DELETE (R214). -/
def fdbDeleteEff (s : State) (n : Nat) (l : List Byte) : State × Nat × List Byte :=
  match (fdbBucket s n (fdbMac l) (fdbVid l)).bind fun b => (fdbFind s b (fdbMac l) (fdbVid l)).map fun x => (b, x.1) with
  | some (b, w) => (setFdbEnt s b w none, stDONE, [])
  | none => (s, stNOTE, [])

/-- An entry is selected by FDB_FLUSH (R213). -/
def flushSel (s : State) (n : Nat) (l : List Byte) (b : Nat) (x : FdbEnt) : Bool :=
  let sel := le l 8 1
  inRegion s n b && !fdbFenced s b && (!sel.testBit 0 || decide (x.port = le l 9 1)) &&
    (!sel.testBit 1 || decide (x.vid.toNat = le l 10 2 % 4096)) && (!sel.testBit 2 || !x.static)

/-- FDB_FLUSH (R213). -/
def fdbFlushEff (s : State) (n : Nat) (l : List Byte) : State × Nat × List Byte :=
  let s' := fdbRemove s (flushSel s n l)
  (s', stDONE, leBytes 4 (s.fdb.ents.length - s'.fdb.ents.length))

/-- The change of an FDB command of partition `n`, its status and result. -/
def fdbEff (s : State) (n : Nat) (l : List Byte) (g : Grain) (remote : Bool) : State × Nat × List Byte :=
  let op := le l 0 1
  if op = 0x18 then fdbWriteEff s n l g remote
  else if op = 0x19 then fdbDeleteEff s n l
  else fdbFlushEff s n l

/-- A twin-scoped command is carried to the partner and waits for its application grain, arrival + LAG (R613, R615); it waits
unfetched while 16,384 shared decisions are held. -/
def carry (s : State) (c : Cmd) : State :=
  if 16384 ≤ s.twn.shared.length then s
  else
    let g := toPair s c.arrive + lagOf s
    let d : Shared := { apply := g, remote := false, index := 8 * c.pt + c.sq.getD 0, learn := none, bucket := none, cmd := some c.id,
                        carried := none, ok := false }
    let s1 := running { s with twn := { s.twn with shared := s.twn.shared ++ [d] } } c.id
    torvSend s1 0x04 (leBytes 8 g.toNat ++ [BitVec.ofNat 8 c.pt] ++ List.replicate 7 0 ++ c.bytes)

/-- FDB_WRITE, FDB_DELETE or FDB_FLUSH: at once, or twin-scoped through the partner (R200, R613). -/
def fdbCommand (s : State) (c : Cmd) : State :=
  if twinOf c then
    (if paired s then carry s c
     else complete s c.id (if s.twn.state = twSEPARATED then stTWIN_SEPARATED else stTWIN_ABSENT) [])
  else
    let r := fdbEff s c.pt c.bytes c.arrive false
    complete r.1 c.id r.2.1 r.2.2

def execFdbWrite (id : Nat) (s : State) : Host.Outcome State Fault Refusal := ev true (runCmd s id 0x18 fdbCommand)

def execFdbDelete (id : Nat) (s : State) : Host.Outcome State Fault Refusal := ev true (runCmd s id 0x19 fdbCommand)

def execFdbFlush (id : Nat) (s : State) : Host.Outcome State Fault Refusal := ev true (runCmd s id 0x1A fdbCommand)

/-- FDB_READ (R213, R214). -/
def fdbRead (s : State) (c : Cmd) : State :=
  match (fdbLookup s c.pt (fdbMac c.bytes) (fdbVid c.bytes)).1 with
  | some x =>
    complete s c.id stDONE
      ([BitVec.ofNat 8 (1 + 2 * b1 x.static + 4 * b1 x.flapping + 8 * b1 x.twin), BitVec.ofNat 8 x.port] ++ leBytes 2 x.moves ++
        leBytes 8 x.touch.toNat)
  | none => complete s c.id stDONE []

def execFdbRead (id : Nat) (s : State) : Host.Outcome State Fault Refusal := ev true (runCmd s id 0x1B fdbRead)

/-! ## Lookups of packets -/

/-- An FDB lookup of a packet returns: G11, HIT, LFAIL (R290); hits and misses are counted (R592). -/
def fdbReturn (s : State) (p : Pkt) : State :=
  let mac := BitVec.ofNat 48 ((wd p.ctx.key 0).toNat + 2 ^ 32 * (wd p.ctx.key 1).toNat)
  let vid := BitVec.ofNat 12 (wd p.ctx.key 2).toNat
  let a := fdbLookup s p.part mac vid
  let g := match a.1 with | some x => p.ctx.g.set 11 (w32 x.port) | none => p.ctx.g
  count (setPkt s { p with ctx := { p.ctx with g := g, hit := a.1.isSome, lfail := a.2, wait := none } })
    166 (if a.1.isSome then 2 else 3) 1 p.part

/-! ## Registers (R339) -/

/-- FDB_STS of partition `n`. -/
def fdbRegRead (s : State) (n off : Nat) : Option W32 :=
  let x := ptnAt s n
  if off = 0x0 then some (w32 (fdbCount s n fun _ => true))
  else if off = 0x4 then some x.learnDrop
  else if off = 0x8 then some (w32 (x.moves.toNat + 65536 * x.conflicts.toNat))
  else if off = 0xC then some (w32 (fdbCount s n (·.flapping) % 65536 + 65536 * x.aged.toNat))
  else none

/-- A normal read clears the counters of its word. -/
def fdbRegTake (s : State) (n off : Nat) : State :=
  let x := ptnAt s n
  if off = 0x4 then setPtn s n { x with learnDrop := 0 }
  else if off = 0x8 then setPtn s n { x with moves := 0, conflicts := 0 }
  else if off = 0xC then setPtn s n { x with aged := 0 }
  else s

/-! ## Fenced tables (R53, R228) -/

/-- Every bucket of a partition's region is in the fenced bank. -/
def regionFenced (s : State) (n : Nat) : Bool :=
  decide (0 < fdbSize s n) && fdbFenced s (fdbBase s n * 1024) && fdbFenced s ((fdbBase s n + fdbSize s n) * 1024 - 1)

/-- A table command names a CAM block, or an FDB bucket or region, that is fenced (R53, R218, R319, R342). -/
def tableFenced (s : State) (c : Cmd) : Bool :=
  let op := opOf c
  if op = 0x10 ∨ op = 0x11 then camFenced s (par c 8 1)
  else if op = 0x12 then
    (match camProfile s (newest s) c.pt (par c 8 1) with | some d => camAllFenced s c.pt d | none => false)
  else if op = 0x18 ∨ op = 0x19 ∨ op = 0x1B then
    (match fdbBucket s c.pt (fdbMac c.bytes) (fdbVid c.bytes) with | some b => fdbFenced s b | none => false)
  else if op = 0x1A then regionFenced s c.pt
  else false

/-- Table commands that wait for their row when the unit they name is fenced end with UNIT_FENCED at the fence grain (R53, R228). -/
def tableEnds (s : State) : State :=
  ((s.cq.cmds.filter fun c => decide (c.state = .ready) && !c.done && tableFenced s c).map (·.id)).foldl
    (fun s i => complete s i stUNIT_FENCED []) s

end Sys2Proof.Machine
end

