-- ==== Sys2Proof/Machine/Frames.lean ====
section
/-! DEFINITION. Frames as the front parser, the base program and the timestamp units read them: tags, IP headers, the spread
hash (spec/11 R294, R299-R301), PTP messages (spec/04 R95, R102, R103). A frame is its bytes from DA to before the FCS. -/

namespace Sys2Proof.Machine

/-! ## Layer 2 -/

/-- 16-bit value at an offset. -/
def u16 (f : List Byte) (i : Nat) : Nat := be f i 2

/-- An Ethertype at an offset is a tag's. -/
def isTag (f : List Byte) (i : Nat) : Bool := decide (u16 f i = 0x8100) || decide (u16 f i = 0x88A8)

/-- Walk over at most two tags and one HSR tag: outer tag offset, HSR tag offset, offset of the innermost Ethertype (R294,
R299). -/
def l2Walk (f : List Byte) : Nat → Nat → Option Nat → Option Nat → Nat → Option Nat × Option Nat × Nat
  | 0, _, o, h, i => (o, h, i)
  | n + 1, tags, o, h, i =>
    if isTag f i && decide (tags < 2) then l2Walk f n (tags + 1) (some (o.getD i)) h (i + 4)
    else if u16 f i = 0x892F ∧ h = none then l2Walk f n tags o (some i) (i + 6)
    else (o, h, i)

/-- The layer 2 headers of a frame. -/
def l2 (f : List Byte) : Option Nat × Option Nat × Nat := l2Walk f 3 0 none none 12

def frameDA (f : List Byte) : BitVec 48 := BitVec.ofNat 48 (be f 0 6)
def frameSA (f : List Byte) : BitVec 48 := BitVec.ofNat 48 (be f 6 6)

/-- A group address: the first bit on the wire of octet 0. -/
def isGroup (mac : BitVec 48) : Bool := mac.toNat.testBit 40

/-- VID of the outer tag (R142, R299). -/
def outerVid (f : List Byte) : Option Nat := (l2 f).1.map fun i => u16 f (i + 2) % 4096

/-- Innermost Ethertype. -/
def etherType (f : List Byte) : Nat := u16 f (l2 f).2.2

/-- Offset of the payload after the innermost Ethertype. -/
def l3Off (f : List Byte) : Nat := (l2 f).2.2 + 2

/-! ## IP (R294, R299) -/

def isIp4 (f : List Byte) : Bool := decide (etherType f = 0x0800)
def isIp6 (f : List Byte) : Bool := decide (etherType f = 0x86DD)

/-- IPv6 extension headers that the base program steps over: hop-by-hop, routing, destination options, fragment; at most two
(R294). Next header and offset of what follows. -/
def ip6Walk (f : List Byte) : Nat → Nat → Nat → Nat × Nat
  | 0, nh, i => (nh, i)
  | n + 1, nh, i =>
    if nh = 0 ∨ nh = 43 ∨ nh = 60 then ip6Walk f n (be f i 1) (i + 8 * (be f (i + 1) 1 + 1))
    else if nh = 44 then (if u16 f (i + 2) / 8 = 0 then ip6Walk f n (be f i 1) (i + 8) else (be f i 1, i + 8))
    else (nh, i)

/-- The walk meets the fragment header of a fragment that is not the first. -/
def ip6Frag (f : List Byte) : Nat → Nat → Nat → Bool
  | 0, _, _ => false
  | n + 1, nh, i =>
    if nh = 0 ∨ nh = 43 ∨ nh = 60 then ip6Frag f n (be f i 1) (i + 8 * (be f (i + 1) 1 + 1))
    else if nh = 44 then (if u16 f (i + 2) / 8 = 0 then ip6Frag f n (be f i 1) (i + 8) else true)
    else false

/-- A fragment that is not the first, as a parser that steps over `ext` IPv6 extension headers sees it. -/
def laterFragment (f : List Byte) (ext : Nat) : Bool :=
  let i := l3Off f
  (isIp4 f && decide (u16 f (i + 6) % 8192 ≠ 0)) || (isIp6 f && ip6Frag f ext (be f (i + 6) 1) (i + 40))

/-- Protocol and offset of the layer 4 header; `ext` is how many IPv6 extension headers are stepped over. None for a frame
without an IP header or for a fragment that is not the first. -/
def l4 (f : List Byte) (ext : Nat) : Option (Nat × Nat) :=
  let i := l3Off f
  if isIp4 f then
    (if laterFragment f ext then none else some (be f (i + 9) 1, i + 4 * (be f i 1 % 16)))
  else if isIp6 f then (if laterFragment f ext then none else some (ip6Walk f ext (be f (i + 6) 1) (i + 40)))
  else none

/-- Layer 4 source and destination ports of UDP and TCP. -/
def ports (f : List Byte) (ext : Nat) : Nat × Nat :=
  match l4 f ext with
  | some (p, i) => if p = 17 ∨ p = 6 then (u16 f i, u16 f (i + 2)) else (0, 0)
  | none => (0, 0)

/-- Protocol of the packet: that of the IP header, or the next header where the walk over IPv6 extension headers ends. -/
def lastProto (f : List Byte) (ext : Nat) : Nat :=
  if isIp4 f then be f (l3Off f + 9) 1
  else if isIp6 f then (ip6Walk f ext (be f (l3Off f + 6) 1) (l3Off f + 40)).1
  else 0

/-- Protocol or next header of the IP header. -/
def ipProto (f : List Byte) : Nat :=
  if isIp4 f then be f (l3Off f + 9) 1 else if isIp6 f then be f (l3Off f + 6) 1 else 0

/-! ## Spread hash (R299-R301) -/

/-- The bits of the fields that FIELDS selects; a frame without an IP header contributes 32 zero bits for each address (log
entry 41). -/
def spreadBits (f : List Byte) (port fields : Nat) : List Bool :=
  let i := l3Off f
  let on := fun k (b : List Bool) => if fields.testBit k then b else []
  let pp := ports f 0
  on 0 (msbBits 48 (be f 0 6)) ++ on 1 (msbBits 48 (be f 6 6)) ++ on 2 (msbBits 12 ((outerVid f).getD 0)) ++
    on 3 (msbBits 16 (etherType f)) ++
    on 4 (if isIp4 f then msbBits 32 (be f (i + 12) 4) else if isIp6 f then msbBits 128 (be f (i + 8) 16) else msbBits 32 0) ++
    on 5 (if isIp4 f then msbBits 32 (be f (i + 16) 4) else if isIp6 f then msbBits 128 (be f (i + 24) 16) else msbBits 32 0) ++
    on 6 (msbBits 8 (ipProto f)) ++ on 7 (msbBits 16 pp.1) ++ on 8 (msbBits 16 pp.2) ++
    on 9 (msbBits 20 (if isIp6 f then be f i 4 % 2 ^ 20 else 0)) ++ on 10 (msbBits 7 port)

/-- The spread hash of a frame under an epoch (R300). -/
def spreadHash (s : State) (e : Epoch) (port : Nat) (f : List Byte) : BitVec 32 :=
  let prof := fld (wd (setVal s e sCLS_SPREAD (512 + port)) 0) 0 3
  let v := setVal s e sCLS_SPREAD prof
  crc32c (wd v 1) (spreadBits f port (fld (wd v 0) 0 11))

/-- Bucket of a packet (R301). -/
def bucketOf (s : State) (e : Epoch) (port seq : Nat) (f : List Byte) : Nat :=
  let h := (spreadHash s e port f).toNat % 1024
  if bit (wd (setVal s e sCLS_SPREAD (512 + port)) 0) 3 then (h + seq) % 1024 else h

/-- Configured engine of a bucket. -/
def cfgEngine (s : State) (e : Epoch) (b : Nat) : Nat := fld (wd (setVal s e sCLS_SPREAD (1024 + b)) 0) 0 6

/-- Effective engine of a bucket (R302); none while no engine is live. -/
def effEngine (s : State) (e : Epoch) (b : Nat) : Option Nat :=
  let k := cfgEngine s e b
  if !engFenced s k then some k
  else
    let l := liveEngines s
    l[b % l.length]?

/-! ## Partition of a frame (R142) -/

def framePart (s : State) (e : Epoch) (port : Nat) (f : List Byte) : Nat :=
  if portShared s port then
    match (outerVid f).bind (vlanOwner s e) with
    | some n => n
    | none => portOwner s port
  else portOwner s port

/-! ## PTP messages (R95) -/

/-- TSU_CTL as read. -/
def tsuCtl (x : Tsu) : BitVec 7 :=
  BitVec.ofNat 7 (b1 x.en + 2 * x.tc.toNat + 8 * b1 x.tcOne + 16 * b1 x.l2 + 32 * b1 x.udp4 + 64 * b1 x.udp6)

/-- A PTP message on a transport that `ctl` enables: offset of its header, offset of its UDP header; `udpPort` is 319 for
event and 320 for general messages. -/
def ptpAt (ctl : BitVec 7) (f : List Byte) (udpPort : Nat) : Option (Nat × Option Nat) :=
  if !ctl.toNat.testBit 0 then none
  else if etherType f = 0x88F7 then (if ctl.toNat.testBit 4 then some (l3Off f, none) else none)
  else
    match l4 f 0 with
    | some (17, i) =>
      if u16 f (i + 2) = udpPort ∧ ((isIp4 f ∧ ctl.toNat.testBit 5) ∨ (isIp6 f ∧ ctl.toNat.testBit 6)) then
        some (i + 8, some i)
      else none
    | _ => none

/-- messageType of a PTP header. -/
def ptpType (f : List Byte) (i : Nat) : Nat := be f i 1 % 16

/-- An event message recognised under `ctl` (R95). -/
def ptpEvent (ctl : BitVec 7) (f : List Byte) : Option (Nat × Option Nat) :=
  match ptpAt ctl f 319 with
  | some (i, u) => if ptpType f i ≤ 3 then some (i, u) else none
  | none => none

/-- A general message recognised under `ctl`. -/
def ptpGeneral (ctl : BitVec 7) (f : List Byte) : Option (Nat × Option Nat) :=
  match ptpAt ctl f 320 with
  | some (i, u) => if 8 ≤ ptpType f i then some (i, u) else none
  | none => none

def ptpDomain (f : List Byte) (i : Nat) : Nat := be f (i + 4) 1
def ptpSeq (f : List Byte) (i : Nat) : Nat := be f (i + 30) 2
def ptpSource (f : List Byte) (i : Nat) : Nat := be f (i + 20) 10
def ptpRequester (f : List Byte) (i : Nat) : Nat := be f (i + 44) 10

/-! ## Changing a message (R103) -/

/-- Bytes replaced at an offset. -/
def putBytes (f : List Byte) (i : Nat) (b : List Byte) : List Byte := f.take i ++ b ++ f.drop (i + b.length)

/-- Sum of the 16-bit words of bytes of even length. -/
def sum16 (l : List Byte) : Nat := ((List.range (l.length / 2)).map fun k => be l (2 * k) 2).sum

/-- Fold a sum into 16 bits. -/
def fold16 (n : Nat) : Nat := if n = 0 then 0 else (n - 1) % 65535 + 1

/-- An incremental checksum update (RFC 1624) for bytes of even length at an even offset. -/
def csUpdate (cs : Nat) (old new : List Byte) : Nat :=
  let k := old.length / 2
  65535 - fold16 ((65535 - cs) + (65535 * k - sum16 old) + sum16 new)

/-- A PTP message with bytes replaced; the UDP checksum of a UDP-carried message follows, an IPv4 checksum of 0 stays 0. -/
def ptpPut (f : List Byte) (u : Option Nat) (i : Nat) (b : List Byte) : List Byte :=
  let g := putBytes f i b
  match u with
  | none => g
  | some j =>
    let cs := u16 f (j + 6)
    if cs = 0 ∧ isIp4 f then g
    else
      let c := csUpdate cs (slice f i b.length) b
      putBytes g (j + 6) (beBytes 2 (if c = 0 then 0xFFFF else c))

/-- correctionField, signed, in 2^-16 ns. -/
def corrField (f : List Byte) (i : Nat) : Int := signed 64 (be f (i + 8) 8)

/-- correctionField plus an amount; none where it leaves the signed 64-bit range (R118). -/
def addCorr (f : List Byte) (u : Option Nat) (i : Nat) (c : Int) : Option (List Byte) :=
  let v := corrField f i + c
  if -(2 ^ 63 : Int) ≤ v ∧ v < 2 ^ 63 then some (ptpPut f u (i + 8) (beBytes 8 (v % 2 ^ 64).toNat)) else none

end Sys2Proof.Machine
end

