-- ==== Sys2Proof/Machine/Mt.lean ====
section
/-! DEFINITION. Memory tiers (spec/15; spec/13 R366): T2 tables and their staging, the DDR5 interface, the pool of state tiles,
their single home, floors and eviction, flow records and redundancy windows. -/

namespace Sys2Proof.Machine

/-! ## T2 (R414-R416, R420) -/

/-- Side that a table reads under an epoch: false A, true B. -/
def t2Side (s : State) (e : Epoch) (t : Nat) : Bool := bit (wd (setVal s e sT2_SWAP t) 0) 0

/-- First tile of a side. -/
def t2Base (s : State) (t : Nat) (side : Bool) : Nat := fld (wd (cur s sT2_BASE t) (if side then 1 else 0)) 0 25

/-- Tiles of each side. -/
def t2Size (s : State) (t : Nat) : Nat := fld (wd (cur s sT2_BASE t) 2) 0 25

/-- A staging side exists under the newest live epoch (R218, R420). -/
def t2Stages (s : State) (t : Nat) : Bool := t2Side s (newest s) t || bit (wd (cur s sT2_BASE t) 3) 0

/-- Both channels are trained (R427). -/
def ddrOk (s : State) : Bool := s.t2.aOk && s.t2.bOk

/-- Physical tile of a word address of a table under an epoch; none where the read sets LFAIL (R414, R427). -/
def t2Tile (s : State) (e : Epoch) (t w : Nat) : Option Nat :=
  if ddrOk s ∧ w < t2Size s t * 512 then some (t2Base s t (t2Side s e t) + w / 512) else none

/-- The word that a tile holds (R414). -/
def t2Word (s : State) (tile w : Nat) : W32 := tget (fun _ => (0 : W32)) s.t2.mem (512 * tile + w % 512)

/-- DDR_ERR_ADDR of a tile: bit 31 names the channel of odd tiles (R424). -/
def ddrErr (tile : Nat) : W32 := w32 (tile + 2 ^ 31 * (tile % 2))

/-- A burst was corrected (R418). -/
def ddrCorr (s : State) (tile : Nat) : State :=
  cFault { s with t2 := { s.t2 with corr := satInc s.t2.corr } } 8 0x0060 tile

/-- A burst is uncorrectable (R418, R424). -/
def ddrUncorr (s : State) (tile : Nat) (pt : Option Nat) : State :=
  let s := { s with t2 := { s.t2 with uncorr := satInc s.t2.uncorr, errAddr := ddrErr tile } }
  raise (kFault s 8 0x0061 pt tile) 665 0 (ddrErr tile).toNat

/-- A T2 read of a packet: word and LFAIL, `ddr` saying how the burst read went (0 good, 1 corrected, 2 uncorrectable; R414,
R418). -/
def t2Read (s : State) (e : Epoch) (t w pt : Nat) (ddr : BitVec 2) : State × W32 × Bool :=
  match t2Tile s e t w with
  | none => (s, 0, true)
  | some tile =>
    if ddr = 1 then (ddrCorr s tile, t2Word s tile w, false)
    else if ddr = 2 then (ddrUncorr s tile (some pt), 0, true)
    else (s, t2Word s tile w, false)

/-- The patrol scrub reads a burst of 64 bytes (R418). -/
def ddrPatrolScrub (addr : Nat) (status : BitVec 2) (s : State) : State :=
  if !ddrOk s then s
  else if status = 1 then ddrCorr s (addr / 32)
  else if status = 2 then ddrUncorr s (addr / 32) none
  else s

def execDdrPatrolScrub (addr : Nat) (status : BitVec 2) (s : State) : Host.Outcome State Fault Refusal :=
  ev true (ddrPatrolScrub addr status s)

/-- Training ends (R417, R427, R640): a failure of either channel leaves both bits 0. -/
def ddrTrainingComplete (aOk bOk : Bool) (rate : BitVec 2) (gib : BitVec 8) (s : State) : State :=
  if s.dev.inReset ∨ s.dev.t2Done ∨ !s.dev.dirOk then s
  else
    let s := { s with dev := { s.dev with t2Done := true } }
    if aOk ∧ bOk then { s with t2 := { s.t2 with aOk := true, bOk := true, rate := rate, gib := gib } } else s

def execDdrTrainingComplete (aOk bOk : Bool) (rate : BitVec 2) (gib : BitVec 8) (s : State) : Host.Outcome State Fault Refusal :=
  ev true (ddrTrainingComplete aOk bOk rate gib s)

/-- The components report a case temperature above 85 degrees C, or below it again (R419). -/
def ddrCaseTemperatureChange (hot : Bool) (s : State) : State := { s with t2 := { s.t2 with hot := hot } }

def execDdrCaseTemperatureChange (hot : Bool) (s : State) : Host.Outcome State Fault Refusal :=
  ev true (ddrCaseTemperatureChange hot s)

/-! ## T2_STAGE (R215, R218, R415) -/

/-- The older live epoch still reads a side as its live side. -/
def sideLive (s : State) (t : Nat) (side : Bool) : Bool :=
  decide (2 ≤ s.cfg.epochs.length) && decide (t2Side s (oldest s) t = side)

/-- A stage may write: no earlier stage of its table is before it, and no live epoch reads its side. -/
def stageFree (s : State) (g : Stage) : Bool :=
  (match s.t2.stages.find? (fun x => decide (x.table = g.table)) with
   | some x => decide (x.cmd = g.cmd)
   | none => true) && !sideLive s g.table g.side

/-- T2_STAGE reads its buffer and waits or writes. -/
def t2Stage (data : List Byte) (ok : Bool) (s : State) (c : Cmd) : State :=
  let t := parBits c 8 0 2
  let tile := par c 12 4
  if !ddrOk s then complete s c.id stUNIT_FENCED []
  else if !t2Stages s t ∨ t2Size s t < tile + bufLen c / 2048 then complete s c.id stT2_NO_STAGE []
  else if !ok then complete s c.id stBUFFER_FAULT []
  else
    let g : Stage := { cmd := some c.id, pt := c.pt, table := t, side := !t2Side s (newest s) t, tile := tile,
                       words := wordsLE (bufLen c / 4) (padTo (bufLen c) data) 0, writing := false }
    let g := { g with writing := stageFree s g }
    running { s with t2 := { s.t2 with stages := s.t2.stages ++ [g] } } c.id

def execT2Stage (id : Nat) (data : List Byte) (ok : Bool) (s : State) : Host.Outcome State Fault Refusal :=
  ev true (runCmd s id 0x28 (t2Stage data ok))

/-- A waiting stage begins to write. -/
def t2StageWriteStart (id : Nat) (s : State) : State :=
  { s with
    t2 := { s.t2 with
      stages := s.t2.stages.map fun g =>
        if g.cmd = some id ∧ stageFree s g then { g with writing := true } else g } }

def execT2StageWriteStart (id : Nat) (s : State) : Host.Outcome State Fault Refusal := ev true (t2StageWriteStart id s)

/-- Every byte of a stage is written and readable. -/
def t2StageComplete (id : Nat) (s : State) : State :=
  match s.t2.stages.find? fun g => decide (g.cmd = some id) && g.writing with
  | some g =>
    let a := 512 * (t2Base s g.table g.side + g.tile)
    let s := { s with
      t2 := { s.t2 with
        mem := tputs (fun _ => 0) s.t2.mem a g.words, stages := s.t2.stages.filter fun x => decide (x.cmd ≠ some id) } }
    complete s id stDONE []
  | none => s

def execT2StageComplete (id : Nat) (s : State) : Host.Outcome State Fault Refusal := ev true (t2StageComplete id s)

/-! ## The pool (R408, R412, R426) -/

def tileAt (s : State) (t : Nat) : Option Tile := tget (fun _ => none) s.mt.tiles t
def setTile (s : State) (t : Nat) (x : Option Tile) : State :=
  { s with mt := { s.mt with tiles := tset (fun _ => none) s.mt.tiles t x } }

/-- T1 state bank of a pool tile. -/
def tileBank (t : Nat) : Nat := 2 + t / 1024

/-- A pool tile's bank is live. -/
def tileLive (s : State) (t : Nat) : Bool := !s.mt.fencedBanks.toNat.testBit (tileBank t)

/-- Tiles of the pool that remain (R426). -/
def poolSize (s : State) : Nat :=
  1024 * ((List.range 14).filter fun k => !s.mt.fencedBanks.toNat.testBit (k + 2)).length

/-- The tiles of a list of entries. -/
def tilesOf (l : Tab (Option Tile)) : List (Nat × Tile) := l.filterMap fun e => e.2.map fun x => (e.1, x)

/-- USED(n) (R412). -/
def usedTiles (s : State) (n : Nat) : Nat := ((tilesOf s.mt.tiles).filter fun e => decide (e.2.pt = n)).length

/-- FLOOR(n) in force (R426). -/
def floorNow (s : State) (n : Nat) : Nat :=
  let total := ((List.range 16).map (floorOf s)).sum
  if poolSize s < total then floorOf s n * poolSize s / total else floorOf s n

/-- Records of a tile. -/
def tileRecords (x : Tile) : Nat := x.flows.length + x.reds.length

/-- The lowest free tile from `t` on, beside tiles listed in rising order. -/
def freeFrom (s : State) : Nat → List (Nat × Tile) → Nat → Option Nat
  | 0, _, _ => none
  | n + 1, l, t =>
    if 14336 ≤ t then none
    else if !tileLive s t then freeFrom s n (l.filter fun e => decide ((t / 1024 + 1) * 1024 ≤ e.1)) ((t / 1024 + 1) * 1024)
    else
      match l with
      | (k, _) :: r => if k = t then freeFrom s n r (t + 1) else some t
      | [] => some t

/-- A free tile of the pool. -/
def freeTile (s : State) : Option Nat :=
  let l := tilesOf s.mt.tiles
  freeFrom s (l.length + 16) l 0

/-- A packet uses a tile: it is on the move or a request waits for it. -/
def tileBusy (s : State) (t : Nat) (x : Tile) : Bool := x.moving.isSome || s.mt.reqs.any fun r => decide (r.tile = some t)

/-- The tile of oldest TOUCH among candidates, lower number on a tie. -/
def oldestTile (l : List (Nat × Tile)) : Option (Nat × Tile) :=
  l.foldl (fun b e =>
    match b with
    | none => some e
    | some x => if before e.2.touch x.2.touch then some e else b) none

/-- The tile that an allocation for partition `n` evicts (R412). -/
def evictee (s : State) (n : Nat) : Option (Nat × Tile) :=
  oldestTile ((tilesOf s.mt.tiles).filter fun e =>
    !tileBusy s e.1 e.2 && (decide (e.2.pt = n) || decide (floorNow s e.2.pt < usedTiles s e.2.pt)))

/-- A tile is evicted: its records are counted in EVICTED of its partition (R412). -/
def evict (s : State) (t : Nat) (x : Tile) : State :=
  let p := ptnAt s x.pt
  setTile (setPtn s x.pt { p with evicted := satAdd p.evicted (tileRecords x) }) t none

/-- A new tile of partition `n` and the tile number, by a free tile or by eviction. -/
def allocTile (s : State) (n : Nat) (red : Bool) (home : Option Nat) : Option (State × Nat) :=
  let x : Tile := { red := red, pt := n, touch := s.gr.count, home := home, moving := none, flows := [], reds := [] }
  match freeTile s with
  | some t => some (setTile s t (some x), t)
  | none =>
    match evictee s n with
    | some (t, y) => some (setTile (evict s t y) t (some x), t)
    | none => none

/-- An engine that needs a 33rd tile returns the one of oldest TOUCH to T1 (R411). -/
def makeRoom (s : State) (e : Nat) : State :=
  let l := (tilesOf s.mt.tiles).filter fun x => decide (x.2.home = some e)
  if l.length < 32 then s
  else
    match oldestTile (l.filter fun x => !tileBusy s x.1 x.2) with
    | some (t, x) => count (setTile s t (some { x with home := none })) 167 2 1 x.pt
    | none => s

/-! ## Keys and slots (R408-R410) -/

/-- Key of a record: a flow, or a node and a source MAC. -/
abbrev StateKey := Nat ⊕ (Nat × BitVec 48)

/-- A tile holds the record of a key. -/
def tileHolds (x : Tile) (n : Nat) : StateKey → Bool
  | .inl f => !x.red && decide (x.pt = n) && x.flows.any fun r => decide (r.2.flow.toNat = f)
  | .inr (k, m) => x.red && decide (x.pt = n) && x.reds.any fun r => decide (r.2.node = k) && decide (r.2.mac = m)

/-- A tile has a free slot for a key of partition `n`. -/
def tileRoom (x : Tile) (n : Nat) : StateKey → Bool
  | .inl _ => !x.red && decide (x.pt = n) && decide (x.flows.length < 15)
  | .inr _ => x.red && decide (x.pt = n) && decide (x.reds.length < 28)

/-- The tile that serves a key: the one that holds it, else one with a free slot. -/
def tileFor (s : State) (n : Nat) (k : StateKey) : Option (Nat × Tile) :=
  let l := tilesOf s.mt.tiles
  (l.find? fun e => tileHolds e.2 n k).orElse fun _ => l.find? fun e => tileRoom e.2 n k

/-- A request of a packet waits, for a tile or for any tile. -/
def stateWait (s : State) (pkt : Nat) (t : Option Nat) : State :=
  let old := (s.mt.reqs.find? fun r => decide (r.pkt = pkt)).map (·.since)
  let r : TileReq := { pkt := pkt, tile := t, since := old.getD s.gr.count }
  { s with mt := { s.mt with reqs := s.mt.reqs.filter (fun x => decide (x.pkt ≠ pkt)) ++ [r] } }

/-- A packet's request is served: the next request for the tile may move it on (R409). -/
def stateServed (s : State) (pkt : Nat) : State :=
  { s with mt := { s.mt with reqs := s.mt.reqs.filter fun x => decide (x.pkt ≠ pkt) } }

/-- The first request for a tile is this packet's, or none waits. -/
def firstFor (s : State) (t pkt : Nat) : Bool :=
  match s.mt.reqs.find? fun r => decide (r.tile = some t) with
  | some r => decide (r.pkt = pkt)
  | none => true

/-- Access of a packet in engine `e` to a key of partition `n` (R409, R412): the state and the tile that may be used now, or
the state in which the request waits. -/
def stateAccess (s : State) (e pkt n : Nat) (k : StateKey) : State × Option Nat :=
  match tileFor s n k with
  | some (t, x) =>
    if x.moving.isNone && decide (x.home = some e) && firstFor s t pkt then (stateServed s pkt, some t)
    else
      let s := if (s.mt.reqs.any fun r => decide (r.pkt = pkt) && decide (r.tile = some t)) then s else stateWait s pkt (some t)
      if x.moving.isNone && firstFor s t pkt then (setTile s t (some { x with moving := some e }), none) else (s, none)
  | none =>
    match allocTile (makeRoom s e) n (match k with | .inl _ => false | .inr _ => true) (some e) with
    | some (s', t) => (stateServed s' pkt, some t)
    | none => (if s.mt.reqs.any (fun r => decide (r.pkt = pkt)) then s else stateWait s pkt none, none)

/-- A transfer of a tile ends: its home is the engine it moved to (R409, R411). -/
def tileTransferComplete (t : Nat) (s : State) : State :=
  match tileAt s t with
  | some x =>
    match x.moving with
    | some e => count (setTile (makeRoom s e) t (some { x with home := some e, moving := none })) 167 2 1 x.pt
    | none => s
  | none => s

def execTileTransferComplete (tile : Nat) (s : State) : Host.Outcome State Fault Refusal :=
  ev (decide (tile < 14336)) (tileTransferComplete tile s)

/-! ## Records -/

/-- Flow record of a flow in a tile, created with words 0 where there is none (R410). -/
def flowWords (x : Tile) (f : Nat) : List W32 :=
  match x.flows.find? fun r => decide (r.2.flow.toNat = f) with
  | some r => r.2.words
  | none => List.replicate 32 0

/-- The lowest slot that no record of a list holds. -/
def freeSlot (used : List Nat) (n : Nat) : Nat := ((List.range n).find? fun k => !used.contains k).getD 0

/-- A flow record put into its slot. -/
def putFlow (x : Tile) (f : Nat) (w : List W32) (g : Grain) : Tile :=
  let r : FlowRec := { flow := BitVec.ofNat 16 f, words := w }
  if x.flows.any fun e => decide (e.2.flow.toNat = f) then
    { x with flows := x.flows.map (fun e => if e.2.flow.toNat = f then (e.1, r) else e), touch := g }
  else { x with flows := x.flows ++ [(freeSlot (x.flows.map (·.1)) 15, r)], touch := g }

/-- A redundancy window put into its slot. -/
def putRed (x : Tile) (r : RedRec) (g : Grain) : Tile :=
  let same := fun (e : Nat × RedRec) => decide (e.2.node = r.node) && decide (e.2.mac = r.mac)
  if x.reds.any same then { x with reds := x.reds.map (fun e => if same e then (e.1, r) else e), touch := g }
  else { x with reds := x.reds ++ [(freeSlot (x.reds.map (·.1)) 28, r)], touch := g }

/-- The window of a source in a tile. -/
def redOf (x : Tile) (node : Nat) (mac : BitVec 48) : Option RedRec :=
  (x.reds.find? fun e => decide (e.2.node = node) && decide (e.2.mac = mac)).map (·.2)

/-! ## The window test (R366) -/

/-- One test of a sequence number against DELIVER (`pass` false) or PASS: the window after it, whether it is accepted, whether it
lies out of the window. -/
def redTest (r : RedRec) (sq : BitVec 16) (pass : Bool) : RedRec × Bool × Bool :=
  let e := (sq - r.top).toNat
  if 1 ≤ e ∧ e ≤ 32767 then
    let d := if e < 64 then r.deliver <<< e else 0
    let p := if e < 64 then r.pass <<< e else 0
    ({ r with top := sq, deliver := if pass then d else d ||| 1, pass := if pass then p ||| 1 else p }, true, false)
  else
    let d := (r.top - sq).toNat
    if d < 64 then
      let m := if pass then r.pass else r.deliver
      if m.toNat.testBit d then (r, false, false)
      else
        let m' := m ||| BitVec.ofNat 64 (2 ^ d)
        (if pass then { r with pass := m' } else { r with deliver := m' }, true, false)
    else (r, true, true)

/-- The window that the first frame of a source creates; that frame is accepted. -/
def redNew (node : Nat) (mac : BitVec 48) (sq : BitVec 16) (pass : Bool) (g : Grain) : RedRec :=
  { node := node, mac := mac, top := sq, deliver := if pass then 0 else 1, pass := if pass then 1 else 0, last := g }

/-- FORGET of a node in ms (R364). -/
def forgetOf (s : State) (node : Nat) : Nat :=
  match (List.range 96).find? (fun p => (redNode s (newest s) p).any fun k => decide (k.2 = node)) with
  | some p => fld (wd (cur s sFWD_RED p) 1) 0 16
  | none => 0

/-- A window that has seen no frame for FORGET ms goes (R366). -/
def redWindowForget (node : Nat) (mac : BitVec 48) (s : State) : State :=
  let old := fun (r : RedRec) => decide (r.node = node) && decide (r.mac = mac) &&
    decide (forgetOf s node * 1000000 ≤ since s r.last)
  { s with
    mt := { s.mt with
      tiles := (s.mt.tiles.map fun e =>
        (e.1, e.2.bind fun x =>
          let y := { x with reds := x.reds.filter fun r => !old r.2 }
          if tileRecords y = 0 ∧ tileRecords x ≠ 0 then none else some y)).filter fun e => e.2.isSome } }

def execRedWindowForget (node : Nat) (mac : BitVec 48) (s : State) : Host.Outcome State Fault Refusal :=
  ev true (redWindowForget node mac s)

/-! ## Losses (R153, R425, R426) -/

/-- Tiles that satisfy `f` are lost, their records counted in LOST of their partitions. -/
def loseTiles (s : State) (f : Nat → Tile → Bool) : State :=
  (tilesOf s.mt.tiles).foldl (fun s e =>
    if f e.1 e.2 then
      let p := ptnAt s e.2.pt
      setTile (setPtn s e.2.pt { p with lostRecs := satAdd p.lostRecs (tileRecords e.2) }) e.1 none
    else s) s

/-- A partition's tiles are freed (R153, R428). -/
def freeTiles (s : State) (n : Nat) : State :=
  { s with
    mt := { s.mt with
      tiles := s.mt.tiles.filter fun e => match e.2 with | some x => decide (x.pt ≠ n) | none => true } }

/-! ## Registers (R421-R424) -/

/-- MT and DDR registers as read. -/
def mtRead (s : State) (addr : Nat) : Option W32 :=
  if addr = 0x04800000 then
    let l := tilesOf s.mt.tiles
    some (w32 (poolSize s - l.length + 65536 * (l.filter fun e => e.2.home.isSome).length))
  else if 0x04800100 ≤ addr ∧ addr < 0x04800200 then
    let n := (addr - 0x04800100) / 16
    let p := ptnAt s n
    if addr % 16 = 0 then some (w32 (usedTiles s n + 65536 * floorNow s n))
    else if addr % 16 = 4 then some p.evicted
    else if addr % 16 = 8 then some p.noState
    else some p.lostRecs
  else if 0x04800200 ≤ addr ∧ addr < 0x04800210 then
    let t := (addr - 0x04800200) / 4
    some (w32 (b1 (t2Side s (newest s) t) + 2 * b1 (s.t2.stages.any fun g => decide (g.table = t) && !g.writing)))
  else if addr = 0x04C00000 then
    some (w32 (b1 s.t2.aOk + 2 * b1 s.t2.bOk + 4 * s.t2.rate.toNat + 256 * s.t2.gib.toNat + 65536 * b1 s.t2.hot))
  else if addr = 0x04C00004 then some (w32 (s.t2.corr.toNat + 65536 * s.t2.uncorr.toNat))
  else if addr = 0x04C00008 then some s.t2.errAddr
  else none

/-- A normal read clears the counters of its word. -/
def mtTake (s : State) (addr : Nat) : State :=
  if 0x04800100 ≤ addr ∧ addr < 0x04800200 then
    let n := (addr - 0x04800100) / 16
    let p := ptnAt s n
    if addr % 16 = 4 then setPtn s n { p with evicted := 0 }
    else if addr % 16 = 8 then setPtn s n { p with noState := 0 }
    else if addr % 16 = 12 then setPtn s n { p with lostRecs := 0 }
    else s
  else if addr = 0x04C00004 then { s with t2 := { s.t2 with corr := 0, uncorr := 0 } }
  else s

end Sys2Proof.Machine
end

