-- ==== Sys2Proof/Machine/Fwd.lean ====
section
/-! DEFINITION. Forwarding results (spec/13 R346-R359, R364, R365): the destination word, tables of an epoch, membership, rewrite,
and the frame of each copy. -/

namespace Sys2Proof.Machine

/-! ## Tables of an epoch (R348-R351) -/

/-- Group, VLAN entry, port defaults and partition entry. -/
def mcast (s : State) (e : Epoch) (i : Nat) : List W32 := setVal s e sFWD_MCAST i
def portDef (s : State) (e : Epoch) (p : Nat) : W32 := wd (mcast s e (8192 + p)) 0
def ptnEntry (s : State) (e : Epoch) (n : Nat) : List W32 := mcast s e (8320 + n)

/-- A claimed entry is valid and partition `n`'s (R349). -/
def claimed (s : State) (e : Epoch) (n sid i : Nat) : Bool :=
  bit (wd (setVal s e sid i) 0) 0 && decide (claimOf e sid i = some n)

/-- Ports of a bitmap in words 1-4. -/
def bitmap (v : List W32) : List Nat := (List.range 128).filter fun p => bit (wd v (1 + p / 32)) (p % 32)

def pvid (s : State) (e : Epoch) (p : Nat) : Nat := fld (portDef s e p) 0 12
def defPcp (s : State) (e : Epoch) (p : Nat) : Nat := fld (portDef s e p) 12 3
def accept (s : State) (e : Epoch) (p : Nat) : Nat := fld (portDef s e p) 15 2
def defRoute (s : State) (e : Epoch) (p : Nat) : Bool := bit (portDef s e p) 17
/-- MTU of a port; the reset value 0x9000_0001 holds 9,216 in bits 31-18 (R350). -/
def mtu (s : State) (e : Epoch) (p : Nat) : Nat := fld (portDef s e p) 18 14

/-- VID of a packet: its outer tag's, else PVID of the ingress port (R352). -/
def pktVid (s : State) (e : Epoch) (p : Pkt) : Nat :=
  match outerVid p.bytes with
  | some v => if v = 0 then pvid s e p.port else v
  | none => pvid s e p.port

/-- A frame is untagged or priority-tagged. -/
def untagged (f : List Byte) : Bool := match outerVid f with | some v => decide (v = 0) | none => true

/-- Router MAC of a partition: octet 0 at bits 7-0 (R351). -/
def macOf (lo hi : W32) : BitVec 48 := BitVec.ofNat 48 (beNat (leBytes 4 lo.toNat ++ leBytes 2 (fld hi 0 16)))

/-! ## Destinations (R143, R346, R347, R353) -/

/-- Partition `n` may send to port `p` for a packet of a VID (R143). -/
def portReach (s : State) (e : Epoch) (n p vid : Nat) : Bool :=
  decide (p = 100) || decide (p = 101) ||
    (decide (p < 100) && (decide (portOwner s p = n) || (portShared s p && decide (vlanOwner s e vid = some n))))

/-- The two ports of a port's redundancy node; the port alone where it has none. -/
def nodePorts (s : State) (e : Epoch) (p : Nat) : List Nat :=
  match redNode s e p with
  | some k => (List.range 96).filter fun q => decide (redNode s e q = some k)
  | none => [p]

/-- What a destination word names: none for NO_DEST, `some none` for a cross-partition drop, else the ports. -/
def destPorts (s : State) (e : Epoch) (p : Pkt) (w : W32) : Option (Option (List Nat)) :=
  let id := fld w 0 12
  let vid := pktVid s e p
  if fld w 12 18 ≠ 0 ∨ fld w 30 2 = 3 then none
  else if fld w 30 2 = 0 then
    (if 128 ≤ id then none
     else if portReach s e p.part id vid then
       some (some (if p.single then [id] else nodePorts s e id))
     else some none)
  else
    let g := if fld w 30 2 = 1 then some id
      else if claimed s e p.part sFWD_MCAST (4096 + id) ∧ 1 ≤ id ∧ id ≤ 4094 then
        some (fld (wd (mcast s e (4096 + id)) 0) 16 12)
      else none
    match g with
    | none => some none
    | some g =>
      if claimed s e p.part sFWD_MCAST g then
        let out := (bitmap (mcast s e g)).filter fun q => decide (q ≤ 100)
        let all := (out.flatMap (nodePorts s e)).dedup
        some (some (all.filter fun q => !(nodePorts s e p.port).contains q))
      else some none

/-! ## Rewrite (R358, R359) -/

/-- The rewrite entry a packet names, under its epoch. -/
def rewriteOf (s : State) (e : Epoch) (p : Pkt) : Option (List W32) := p.rw.map fun i => setVal s e sFWD_REWRITE i.toNat

/-- The entry is valid and the partition's. -/
def rewriteOk (s : State) (e : Epoch) (p : Pkt) : Bool :=
  match p.rw with
  | some i => decide (i.toNat < 4096) && claimed s e p.part sFWD_REWRITE i.toNat
  | none => true

/-- TTL or hop limit of a frame. -/
def ttlOf (f : List Byte) : Option Nat :=
  let i := l3Off f
  if isIp4 f then some (be f (i + 8) 1) else if isIp6 f then some (be f (i + 7) 1) else none

/-- A 16-bit word of an IPv4 header replaced, with its checksum. -/
def ip4Put (f : List Byte) (i off : Nat) (b : List Byte) : List Byte :=
  let g := putBytes f (i + off) b
  putBytes g (i + 10) (beBytes 2 (csUpdate (u16 f (i + 10)) (slice f (i + off) 2) b))

/-- TTL or hop limit decremented (R359); a packet without an IP header is unchanged (log entry 45). -/
def decTtl (f : List Byte) : List Byte :=
  let i := l3Off f
  if isIp4 f then ip4Put f i 8 (beBytes 2 (u16 f (i + 8) - 256))
  else if isIp6 f then putBytes f (i + 7) (beBytes 1 (be f (i + 7) 1 - 1))
  else f

/-- DSCP set. -/
def setDscp (f : List Byte) (d : Nat) : List Byte :=
  let i := l3Off f
  if isIp4 f then ip4Put f i 0 (beBytes 2 (u16 f i / 256 * 256 + d * 4 + u16 f i % 4))
  else if isIp6 f then
    let w := u16 f i
    putBytes f i (beBytes 2 (w / 4096 * 4096 + d * 64 + w % 64))
  else f

/-- A tag: TPID, PCP, VID. -/
def tagBytes (tpid pcp vid : Nat) : List Byte := beBytes 2 tpid ++ beBytes 2 (pcp * 8192 + vid)

/-- A tag added behind the addresses. -/
def pushTag (f : List Byte) (t : List Byte) : List Byte := f.take 12 ++ t ++ f.drop 12

/-- The outer tag removed. -/
def popTag (f : List Byte) : List Byte :=
  match (l2 f).1 with
  | some i => f.take i ++ f.drop (i + 4)
  | none => f

/-- VID of the outer tag replaced, DEI and PCP kept. -/
def setVid (f : List Byte) (v : Nat) : List Byte :=
  match (l2 f).1 with
  | some i => putBytes f (i + 2) (beBytes 2 (u16 f (i + 2) / 4096 * 4096 + v))
  | none => f

/-- PCP of the outer tag replaced. -/
def setPcp (f : List Byte) (c : Nat) : List Byte :=
  match (l2 f).1 with
  | some i => putBytes f (i + 2) (beBytes 2 (c * 8192 + u16 f (i + 2) % 8192))
  | none => f

/-- A rewrite entry applied in the order of R358. -/
def applyRewrite (w : List W32) (f : List Byte) : List Byte :=
  let w0 := wd w 0
  let tpid := if bit (wd w 5) 16 then 0x88A8 else 0x8100
  let vid := fld (wd w 5) 0 12
  let mac := fun (i : Nat) => leBytes 4 (wd w i).toNat ++ leBytes 2 (fld (wd w (i + 1)) 0 16)
  let f := match fld w0 3 2 with
    | 1 => setVid f vid
    | 2 => pushTag f (tagBytes tpid 0 vid)
    | 3 => popTag f
    | _ => f
  let f := if bit w0 1 then putBytes f 0 (mac 1) else f
  let f := if bit w0 2 then putBytes f 6 (mac 3) else f
  let f := if bit w0 5 then setPcp f (fld w0 13 3) else f
  let f := if bit w0 6 then setDscp f (fld w0 7 6) else f
  if bit w0 16 then decTtl f else f

/-- Membership at an egress port (R353): the outer tag goes where UNTAG holds the port; otherwise the copy carries the VID. -/
def membership (s : State) (e : Epoch) (p : Pkt) (q : Nat) (f : List Byte) : List Byte :=
  let v := pktVid s e p
  let i := 4096 + v
  if 1 ≤ v ∧ v ≤ 4094 ∧ claimed s e p.part sFWD_MCAST i then
    if (bitmap (mcast s e i)).contains q then popTag f
    else if (outerVid f).isNone then pushTag f (tagBytes 0x8100 (defPcp s e p.port) v)
    else if untagged f then setVid f v
    else f
  else f

/-- The frame of a copy at egress port `q`, before its redundancy tag or trailer (R353, R358; log entry 44). -/
def egressFrame (s : State) (e : Epoch) (p : Pkt) (q : Nat) : List Byte :=
  if p.direct.isSome ∨ 100 ≤ q then p.bytes
  else
    let f := membership s e p q p.bytes
    match rewriteOf s e p with
    | some w => applyRewrite w f
    | none => f

/-! ## Redundancy framing (R365) -/

/-- LSDUsize of a frame with its tag or trailer. -/
def lsdu (f : List Byte) : Nat := f.length - 14 - (if (l2 f).1.isSome then 4 else 0)

/-- RCT appended: SeqNr, LanId and LSDUsize, suffix. -/
def addRct (f : List Byte) (sq side : Nat) : List Byte :=
  f ++ beBytes 2 sq ++ beBytes 2 ((0xA + side) * 4096 + (lsdu f + 6) % 4096) ++ beBytes 2 0x88FB

/-- HSR tag inserted behind the VLAN tags. -/
def addHsr (f : List Byte) (sq path : Nat) : List Byte :=
  let i := (l2 f).2.2
  f.take i ++ beBytes 2 0x892F ++ beBytes 2 (path * 4096 + (lsdu f + 6) % 4096) ++ beBytes 2 sq ++ f.drop i

/-- Bytes that a copy to a node port grows by. -/
def redGrow (s : State) (e : Epoch) (p : Pkt) (q : Nat) : Nat :=
  if p.direct.isNone ∧ (redNode s e q).isSome then 6 else 0

end Sys2Proof.Machine
end

