-- ==== Sys2Proof/Machine/Tsu.lean ====
section
/-! DEFINITION. The timestamp units (spec/04): egress stamps, one-step and two-step transmission, transparent clock correction,
the match table and the registers. -/

namespace Sys2Proof.Machine

/-! ## Corrections (R101) -/

/-- Sum of the adjustments applied after grain `g` (R87, R101), in 2^-48 ns. -/
def adjSince (s : State) (g : Grain) : Int :=
  (s.tb.adjLog.filter fun a => before g a.1).foldl (fun x a => x + a.2) 0

/-- C of a packet that leaves now, in 2^-16 ns; fractions below 1/16 ns are zero (R101). -/
def residence (s : State) (p : Pkt) : Int :=
  let c := (s.tb.t : Int) - (p.stamp : Int) - adjSince s p.grain
  c.fdiv (2 ^ 44) * 2 ^ 12

/-- TSU_CTL.TC in a TSU_CTL value. -/
def ctlTc (c : BitVec 7) : Nat := c.toNat / 2 % 4

/-- The link delay and asymmetry of the ingress port, for Sync on a P2P port (R101), in 2^-16 ns. -/
def linkCorr (s : State) (p : Pkt) (type : Nat) : Int :=
  if ctlTc p.ctl = 2 ∧ type = 0 then
    let x := tsuAt s p.port
    (((x.link.toNat : Int) + x.asym.toInt) * 2 ^ 12)
  else 0

/-- A correction added, or FUP_MISS counted where it leaves the range (R118). -/
def corrOr (s : State) (port : Nat) (f : List Byte) (u : Option Nat) (i : Nat) (c : Int) : State × List Byte :=
  match addCorr f u i c with
  | some g => (s, g)
  | none =>
    let x := tsuAt s port
    (setTsu s port { x with fupMiss := satInc x.fupMiss }, f)

/-- A transiting Sync or Delay_Req: corrected on the fly, or its C kept in the match table of the egress port (R101, R102).
What decides that a message is corrected is the ingress port's setting at its stamp and the egress port's at its release
(R116, log entry 39). -/
def transitEvent (s : State) (port : Nat) (p : Pkt) (f : List Byte) : State × List Byte :=
  match ptpEvent p.ctl f, ptpEvent (tsuCtl (tsuAt s port)) f with
  | some (i, u), some _ =>
    let ty := ptpType f i
    if ctlTc p.ctl = 0 ∨ 1 < ty then (s, f)
    else
      let c := residence s p + linkCorr s p ty
      let x := tsuAt s port
      if x.tcOne then corrOr s port f u i c
      else
        let m : Match := { domain := BitVec.ofNat 8 (ptpDomain f i), srcPort := BitVec.ofNat 80 (ptpSource f i),
                           seq := BitVec.ofNat 16 (ptpSeq f i), forType := if ty = 0 then 8 else 9, corr := c, made := s.gr.count }
        let t := if 64 ≤ x.table.length then x.table.tail else x.table
        (setTsu s port { x with table := t ++ [m] }, f)
  | _, _ => (s, f)

/-- A general message that passes: the entry of its key is added and freed; a miss is counted in FUP_MISS (R102). Follow_Up
looks in the table of the port it leaves by, Delay_Resp in that of the port it came by (log entry 39). -/
def transitGeneral (s : State) (port : Nat) (p : Pkt) (f : List Byte) : State × List Byte :=
  match ptpGeneral p.ctl f, ptpGeneral (tsuCtl (tsuAt s port)) f with
  | some (i, u), some _ =>
    let ty := ptpType f i
    if ctlTc p.ctl = 0 ∨ (ty ≠ 8 ∧ ty ≠ 9) then (s, f)
    else
      let q := if ty = 8 then port else p.port
      let x := tsuAt s q
      let src := if ty = 8 then ptpSource f i else ptpRequester f i
      let hit := fun (m : Match) => decide (m.domain.toNat = ptpDomain f i) && decide (m.srcPort.toNat = src) &&
        decide (m.seq.toNat = ptpSeq f i) && decide (m.forType.toNat = ty)
      match x.table.find? hit with
      | some m => corrOr (setTsu s q { x with table := x.table.erase m }) q f u i m.corr
      | none => if x.tcOne then (s, f) else (setTsu s q { x with fupMiss := satInc x.fupMiss }, f)
  | _, _ => (s, f)

/-! ## Messages of the host (R99, R100) -/

/-- One-step transmission: the predicted egress instant goes into originTimestamp of a Sync, its fraction into correctionField;
a Pdelay_Resp carries the turnaround from the time in its timestamp field (log entry 40). -/
def oneStep (s : State) (f : List Byte) (i : Nat) (u : Option Nat) : List Byte :=
  let t := s.tb.t
  if ptpType f i = 0 then
    let g := ptpPut f u (i + 34) (beBytes 6 (tSec t) ++ beBytes 4 (tNs t))
    (addCorr g u i (t % 2 ^ 48 / 2 ^ 44 * 2 ^ 12 : Nat)).getD g
  else if ptpType f i = 3 then
    let t2 := tMake (be f (i + 34) 6) (be f (i + 40) 4) 0
    let g := ptpPut f u (i + 34) (List.replicate 10 0)
    (addCorr g u i (((t : Int) - (t2 : Int)).fdiv (2 ^ 44) * 2 ^ 12)).getD g
  else f

/-- A two-step record (R99, R100); the event is raised on loss and when the level leaves 0. -/
def twoStep (s : State) (port stamp : Nat) (f : List Byte) (i : Nat) : State :=
  let x := tsuAt s port
  if 64 ≤ x.txs.length then raise (setTsu s port { x with lost := satInc x.lost }) (4 * port + 1) 0 0
  else
    let r : Txs := { stamp := stamp, seq := BitVec.ofNat 16 (ptpSeq f i), msgType := BitVec.ofNat 4 (ptpType f i),
                     domain := BitVec.ofNat 8 (ptpDomain f i) }
    let s := setTsu s port { x with txs := x.txs ++ [r] }
    if x.txs.isEmpty then raise s (4 * port + 1) 0 0 else s

/-! ## Egress (R98) -/

/-- The measured egress stamp: the prediction, which is the boundary, and the deviation in 1/16 ns. -/
def egressStamp (s : State) (dev : Int) : Nat := tAdd s.tb.t (dev * 2 ^ 44)

/-- The prediction is checked (R98). -/
def predCheck (s : State) (port : Nat) (dev : Int) : State :=
  if 8 < dev.natAbs then
    let x := tsuAt s port
    raise (setTsu s port { x with predErr := satInc x.predErr }) (4 * port + 1) 0 0
  else s

/-- A frame starts on an Ethernet port: corrected, stamped and checked (R98-R103). -/
def tsuEgress (s : State) (port : Nat) (p : Pkt) (f : List Byte) (dev : Int) : State × List Byte :=
  let s := predCheck s port dev
  if p.port < 96 then
    let r := transitEvent s port p f
    transitGeneral r.1 port p r.2
  else
    match ptpEvent (tsuCtl (tsuAt s port)) f with
    | some (i, u) =>
      let g := if p.oneStep then oneStep s f i u else f
      (if p.twoStep then twoStep s port (egressStamp s dev) f i else s, g)
    | none => (s, f)

/-! ## Rows -/

/-- Address of register `off` of port `p`'s TSU. -/
def tsuReg (p off : Nat) : Nat := 0x00300000 + p * 0x1000 + off

/-- Entries unmatched after 10^9 grains are freed (R102). -/
def matchEntryTimeout (port : Nat) (s : State) : State :=
  let x := tsuAt s port
  setTsu s port { x with table := x.table.filter fun m => decide (since s m.made < 1000000000) }

def execMatchEntryTimeout (port : Nat) (s : State) : Host.Outcome State Fault Refusal :=
  ev (decide (port < 96)) (matchEntryTimeout port s)

/-- The head record is popped (R110). -/
def txsPop (port : Nat) (s : State) : State :=
  let x := tsuAt s port
  setTsu s port { x with txs := x.txs.tail }

/-- SEC_HI of the head record; 0 where the FIFO is empty. -/
def txsW3 (s : State) (port : Nat) : W32 :=
  match (tsuAt s port).txs with
  | r :: _ => w32 (tSec r.stamp / 65536)
  | [] => 0

def execTsuTxsPop (m : Master) (port : Nat) (s : State) : Host.Outcome State Fault Refusal :=
  ev (m.wf && decide (port < 96)) (regRd s m (tsuReg port 0x1C) (fun s => txsW3 s port) (txsPop port))

/-! ## Registers (R108-R112) -/

/-- TSU registers as read; W3 is refused to a peek and read by its own row. -/
def tsuRead (s : State) (p off : Nat) : Option W32 :=
  let x := tsuAt s p
  let h := x.txs.head?
  if off = 0x000 then some (w32 (tsuCtl x).toNat)
  else if off = 0x004 then some (w32 (x.ing.toNat + 65536 * x.egr.toNat))
  else if off = 0x008 then some x.asym
  else if off = 0x00C then some x.link
  else if off = 0x010 then some (w32 (match h with | some r => tNs r.stamp | none => 0))
  else if off = 0x014 then some (w32 (match h with | some r => tFrac r.stamp + 65536 * (tSec r.stamp % 65536) | none => 0))
  else if off = 0x018 then
    some (w32 (match h with | some r => r.seq.toNat + 65536 * r.msgType.toNat + 2 ^ 20 * r.domain.toNat | none => 0))
  else if off = 0x01C then some (txsW3 s p)
  else if off = 0x020 then
    some (w32 (x.txs.length + 256 * x.lost.toNat + 65536 * x.predErr.toNat + 2 ^ 24 * x.fupMiss.toNat))
  else none

/-- A write of a TSU register (R108, R109); TC 3 is reserved and leaves the field as it is (R17). -/
def tsuWrite (s : State) (p off : Nat) (v : W32) : State :=
  let x := tsuAt s p
  if off = 0x000 then
    setTsu s p { x with
      en := bit v 0
      tc := if fld v 1 2 = 3 then x.tc else BitVec.ofNat 2 (fld v 1 2)
      tcOne := bit v 3, l2 := bit v 4, udp4 := bit v 5, udp6 := bit v 6 }
  else if off = 0x004 then setTsu s p { x with ing := BitVec.ofNat 16 (fld v 0 16), egr := BitVec.ofNat 16 (fld v 16 16) }
  else if off = 0x008 then setTsu s p { x with asym := v }
  else if off = 0x00C then setTsu s p { x with link := v }
  else s

/-- A normal read with its side effect: W3 pops, TSU_STS clears its counters. -/
def tsuTake (s : State) (p off : Nat) : State :=
  if off = 0x01C then txsPop p s
  else if off = 0x020 then setTsu s p { tsuAt s p with lost := 0, predErr := 0, fupMiss := 0 }
  else s

/-- FIFO, match table and counters cleared (R117). -/
def tsuClear (s : State) (p : Nat) : State :=
  setTsu s p { tsuAt s p with txs := [], table := [], lost := 0, predErr := 0, fupMiss := 0 }

end Sys2Proof.Machine
end

