-- ==== Sys2Proof/Machine/Egress.lean ====
section
/-! DEFINITION. The queue manager (spec/14; spec/05 R124-R128): cells and admission, egress queues, the resequencer, timed
release, gates, credit shaping and preemption. -/

namespace Sys2Proof.Machine

/-! ## Cells (R376, R377, R578) -/

/-- C: cells of the live buffer banks (R578). -/
def liveCells (s : State) : Nat :=
  8192 * ((List.range 48).filter fun k => !s.qm.bufFenced.toNat.testBit k).length

/-- GUAR(n) in force (R578). -/
def guarNow (s : State) (n : Nat) : Nat :=
  let total := ((List.range 16).map (guarOf s)).sum
  if liveCells s < total then guarOf s n * liveCells s / total else guarOf s n

/-- CEIL(n) in force (R578). -/
def ceilNow (s : State) (n : Nat) : Nat := min (ceilOf s n) (liveCells s)

/-- FREE: cells of the shared pool that no partition uses above its guarantee (R377, R396). -/
def freeCells (s : State) : Nat :=
  liveCells s - ((List.range 16).map (guarNow s)).sum -
    ((List.range 16).map fun n => (ptnAt s n).usedCells - guarNow s n).sum

/-- Cells of a frame as received, its FCS included (R376). -/
def cellsOf (f : List Byte) : Nat := (f.length + 4 + 255) / 256

/-- Limit of a queue in cells (R393). -/
def queueLimit (s : State) (p q : Nat) : Nat := 64 * 2 ^ fld (cur0 s sBUF_CARVE p) (4 * q) 4

/-- Cells charged to a partition; the tracked maximum follows (R376, R396, R681). -/
def charge (s : State) (n c : Nat) : State :=
  let x := ptnAt s n
  setPtn s n { x with usedCells := x.usedCells + c, maxCells := max x.maxCells (x.usedCells + c) }

/-- One reference of a stored packet goes; with the last its cells are freed (R376). -/
def unref (s : State) (id : Nat) : State :=
  match pktAt s id with
  | some p =>
    if p.refs ≤ 1 then
      let x := ptnAt s p.part
      delPkt (setPtn s p.part { x with usedCells := x.usedCells - p.cells }) id
    else setPkt s { p with refs := p.refs - 1 }
  | none => s

/-! ## Sequence numbers and the resequencer (R387-R391) -/

/-- Number `a` is earlier than `b` (R387). -/
def seqEarlier (a b : BitVec 16) : Bool :=
  let d := (b - a).toNat
  decide (0 < d) && decide (d ≤ 32767)

/-- A released copy takes its place: after those released in earlier grains, in order of ingress port and number among those of
this grain (R389). -/
def insReleased (g : Grain) (c : Copy) : List Copy → List Copy
  | [] => [c]
  | x :: r =>
    if x.relG = some g ∧ (c.port < x.port ∨ (c.port = x.port ∧ seqEarlier c.seq x.seq)) then c :: x :: r
    else x :: insReleased g c r

/-- A queue's copies after the prompt copies of ingress `i` before `d` are released (R389). -/
def releaseCopies (g : Grain) (i : Nat) (d : BitVec 16) (l : List Copy) : List Copy :=
  let rdy := fun (c : Copy) => c.relAt.isNone && c.relG.isNone && decide (c.port = i) && seqEarlier c.seq d
  let go := l.filter rdy
  if go.isEmpty then l
  else
    go.foldl (fun a c => insReleased g { c with relG := some g } a) (l.filter fun c => c.relG.isSome) ++
      l.filter fun c => c.relG.isNone && !rdy c

/-- Prompt packets of ingress `i` whose numbers precede DONE are released to their queues. -/
def reseqRelease (s : State) (i : Nat) : State :=
  let d := (rsqAt s i).doneTo
  { s with
    qm := { s.qm with
      queues := s.qm.queues.map fun e => (e.1, { e.2 with copies := releaseCopies s.gr.count i d e.2.copies }) } }

/-- DONE advances over the numbers that are done. -/
def doneAdvance : Nat → BitVec 16 → List (BitVec 16) → BitVec 16 × List (BitVec 16)
  | 0, d, l => (d, l)
  | n + 1, d, l => if l.contains d then doneAdvance n (d + 1) (l.filter fun k => decide (k ≠ d)) else (d, l)

/-- A number is done (R387, R388): earlier numbers that are not done get their open grain; a number declared lost leaves the
list of those that may still appear. -/
def doneMark (s : State) (i : Nat) (q : BitVec 16) : State :=
  let x := rsqAt s i
  if x.lostSet.contains q then setRsq s i { x with lostSet := x.lostSet.filter fun k => decide (k ≠ q) }
  else if seqEarlier q x.doneTo then reseqRelease s i
  else
    let holes := ((List.range (q - x.doneTo).toNat).map fun k => x.doneTo + BitVec.ofNat 16 k).filter fun k =>
      !x.doneSet.contains k && !x.missing.any fun m => decide (m.1 = k)
    let miss := (x.missing ++ holes.map fun k => (k, s.gr.count)).filter fun m => decide (m.1 ≠ q)
    let a := doneAdvance (x.doneSet.length + 1) x.doneTo (q :: x.doneSet)
    reseqRelease (setRsq s i { x with doneTo := a.1, doneSet := a.2, missing := miss }) i

/-- A packet is discarded before any queue holds it: it is done (R387). -/
def discardPkt (s : State) (p : Pkt) : State := doneMark (delPkt s p.id) p.port p.seq

/-- A packet number may still appear after it is declared lost. -/
def stillComing (s : State) (i : Nat) (q : BitVec 16) : Bool :=
  s.qm.pkts.any fun p => decide (p.port = i) && decide (p.seq = q) && decide (p.stage ≠ .stored)

/-- A missing number is declared lost GAP µs after its open grain (R388, R399, R400). -/
def reseqGapTimeout (i : Nat) (q : BitVec 16) (s : State) : State :=
  let x := rsqAt s i
  match x.missing.find? fun m => decide (m.1 = q) with
  | some m =>
    if s.qm.gap.toNat * 1000 ≤ since s m.2 then
      let s := setRsq s i { x with lost := satInc x.lost }
      let s := doneMark s i q
      let y := rsqAt s i
      let s := if stillComing s i q then setRsq s i { y with lostSet := q :: y.lostSet } else s
      raiseOnce s 2 0 663 0 (i + 65536 * q.toNat)
    else s
  | none => s

def execReseqGapTimeout (port : Nat) (seq : BitVec 16) (s : State) : Host.Outcome State Fault Refusal :=
  ev (decide (port < 102)) (reseqGapTimeout port seq s)

/-! ## Discards on the way to the queues -/

/-- PTN_XDROP of a partition (R143). -/
def xdrop (s : State) (n k : Nat) : State := setPtn s n { ptnAt s n with xdrop := satAdd (ptnAt s n).xdrop k }

/-- PTN_RST_DROP of a partition (R152). -/
def rstDrop (s : State) (n : Nat) : State := setPtn s n { ptnAt s n with rstDrop := satInc (ptnAt s n).rstDrop }

/-- A drain in progress has the packet in scope whatever its destination (R242, R243). -/
def drainAll (x : Quiesce) (p : Pkt) : Bool := x.all || x.parts.contains p.part || x.ingress.contains p.port

/-- LOST of each drain that satisfies `f` counts a packet (R243). -/
def drainLost (s : State) (f : Quiesce → Bool) : State :=
  { s with cfg := { s.cfg with quiesces := s.cfg.quiesces.map fun x => if f x then { x with lost := x.lost + 1 } else x } }

/-- A packet leaves its engine; packets and work are counted (R120, R592). -/
def engineDone (s : State) (p : Pkt) : State :=
  match p.engine with
  | some e =>
    let x := engAt s e
    let s := setEng s e { x with held := x.held.filter (fun k => decide (k ≠ p.id)), stepped := true }
    count (count s (100 + e) 1 1 p.part) (100 + e) 2 p.work p.part
  | none => s

/-- The latency monitor sees a packet that is ready in its egress queue (R124, R125). -/
def latencySeen (s : State) (p : Pkt) : State :=
  match p.engine with
  | some e =>
    let x := engAt s e
    setEng s e { x with curWorst := max x.curWorst (since s p.core), curPkts := x.curPkts + 1 }
  | none => s

/-! ## Placing copies (R376-R378) -/

/-- Queue settings QM_SHAPE under an epoch (R395). -/
def cbsEn (s : State) (e : Epoch) (p q : Nat) : Bool := decide (p < 96) && bit (wd (setVal s e sQM_SHAPE (8 * p + q)) 0) 0
def idleSlope (s : State) (e : Epoch) (p q : Nat) : Nat := fld (wd (setVal s e sQM_SHAPE (8 * p + q)) 1) 0 25

/-- A PTP event message under the settings of its ingress or egress port (R95, R97). -/
def isPtpEvent (s : State) (p : Pkt) (q : Nat) : Bool :=
  (ptpEvent p.ctl p.bytes).isSome || (decide (q < 96) && (ptpEvent (tsuCtl (tsuAt s q)) p.bytes).isSome)

/-- Express: EXPRESS of its queue, and every PTP event message (R97, R385). -/
def isExpress (s : State) (e : Epoch) (p : Pkt) (q : Nat) : Bool :=
  decide (96 ≤ q) || bit (wd (setVal s e sQM_SHAPE (8 * q + p.tc.toNat)) 0) 1 || isPtpEvent s p q

/-- The copy of a packet for port `q` (R126, R135, R365, R378). -/
def mkCopy (s : State) (e : Epoch) (p : Pkt) (q : Nat) (frame : List Byte) (toNode : Bool) : Copy :=
  { pkt := p.id, port := p.port, seq := p.seq, cells := cellsOf p.bytes, frame := frame,
    relAt := if qTimed s e q p.tc.toNat then some (tAdd p.stamp (qTarget s e q p.tc.toNat * 2 ^ 48 : Nat)) else none,
    relG := none, held := false, express := isExpress s e p q, epoch := p.epoch,
    node := if toNode then (redNode s e q).map fun k => 64 * k.1 + k.2 else none,
    rseq := none, queue := p.tc.toNat, stamp := p.stamp, grain := p.grain, part := p.part }

/-- A copy that is longer than 9,216 bytes at its port (R359, R365). -/
def oversize (c : Copy) : Bool := decide (9216 < c.frame.length + 4 + (if c.node.isSome then 6 else 0))

/-- Why a copy never reaches its queue: a drain of its port (R243), the port down since a P4 decision (R266), a fenced radio
channel (R456). -/
def copyBarred (s : State) (q : Nat) : Bool :=
  (s.cfg.quiesces.any fun x => x.egress.contains q) || (decide (q < 96) && (portAt s q).down) ||
    (decide (96 ≤ q) && decide (q < 100) && (radioAt s (q - 96)).fenced)

/-- PRT_FLUSH of a port counts packets (R266). -/
def prtFlush (s : State) (q k : Nat) : State :=
  if q < 96 then setPort s q { portAt s q with flush := satAdd (portAt s q).flush k } else s

/-- The copies of a packet sorted out: those too long are OVERSIZE, those for a port that is down are counted in PRT_FLUSH, those
in a drain's scope in LOST. -/
def sortCopies (s : State) (p : Pkt) (l : List (Nat × Copy)) : State × List (Nat × Copy) :=
  let big := l.filter fun c => oversize c.2
  let ok := l.filter fun c => !oversize c.2
  let s := if big.isEmpty then s else count s 164 6 big.length p.part
  let s := drainLost s fun x => ok.any fun c => x.egress.contains c.1
  let dn := ok.filter fun c => decide (c.1 < 96) && (portAt s c.1).down && !s.cfg.quiesces.any fun x => x.egress.contains c.1
  (dn.foldl (fun s c => prtFlush s c.1 1) s, ok.filter fun c => !copyBarred s c.1)

/-- A queue of a port refuses a packet (R377). -/
def queueDrop (s : State) (p q : Nat) : State :=
  let x := queueAt s p q
  setQueue s p q { x with drop := satInc x.drop }

/-- A copy is placed at the end of its queue. -/
def placeCopy (s : State) (c : Nat × Copy) : State :=
  let x := queueAt s c.1 c.2.queue
  setQueue s c.1 c.2.queue { x with copies := x.copies ++ [c.2], cells := x.cells + c.2.cells }

/-- Admission (R377): the copies that are admitted. -/
def admitted (s : State) (p : Pkt) (l : List (Nat × Copy)) : List (Nat × Copy) :=
  let c := cellsOf p.bytes
  let used := (ptnAt s p.part).usedCells
  let g := guarNow s p.part
  if used + c ≤ g then l
  else if used + c ≤ ceilNow s p.part ∧ used + c - max used g ≤ freeCells s then
    l.filter fun x => decide ((queueAt s x.1 x.2.queue).cells + c ≤ queueLimit s x.1 x.2.queue)
  else []

/-- A drain in progress has a port in scope that the result of a frame names (R243). -/
def drainNames (l : List (Nat × Copy)) (x : Quiesce) : Bool := l.any fun c => x.ingress.contains c.1

/-- The queue manager takes the copies of a packet (R377, R387): a frame whose result names a port in a drain's scope is discarded
whole (R243); otherwise it is charged once and placed in each queue that admits it, each refusal counted in DROP of its queue; then
the packet is done. -/
def takeCopies (s : State) (p : Pkt) (l : List (Nat × Copy)) : State :=
  if s.cfg.quiesces.any (drainNames l) then discardPkt (drainLost s (drainNames l)) p else
  match sortCopies s p l with
  | (s, []) => discardPkt s p
  | (s, c) =>
    let ok := admitted s p c
    let s := (c.filter fun x => !ok.contains x).foldl (fun s x => queueDrop s x.1 x.2.queue) s
    if ok.isEmpty then discardPkt (count s 165 2 1 p.part) p
    else
      let s := setPkt s { p with stage := .stored, cells := cellsOf p.bytes, refs := ok.length }
      let s := charge s p.part (cellsOf p.bytes)
      let s := count (ok.foldl placeCopy s) 165 1 1 p.part
      doneMark (latencySeen s p) p.port p.seq

/-! ## Destinations of a finished packet -/

/-- The destination word: that of the rewrite entry where DEST_EN is set (R358). -/
def destWord (s : State) (e : Epoch) (p : Pkt) : Option W32 :=
  match rewriteOf s e p with
  | some w => if bit (wd w 0) 17 then some (wd w 6) else p.dest
  | none => p.dest

/-- DEC_TTL punts a packet whose TTL or hop limit is 1 or less (R359). -/
def ttlPunt (s : State) (e : Epoch) (p : Pkt) : Bool :=
  match rewriteOf s e p, ttlOf p.bytes with
  | some w, some t => rewriteOk s e p && bit (wd w 0) 16 && decide (t ≤ 1)
  | _, _ => false

/-- The copy of a frame that an HSR ring port passes on unchanged (R368). -/
def passCopies (s : State) (e : Epoch) (p : Pkt) : List (Nat × Copy) :=
  match p.pass with
  | some f => ((nodePorts s e p.port).filter fun q => decide (q ≠ p.port)).map fun q => (q, mkCopy s e p q f false)
  | none => []

/-- Logical port that takes a punted packet: 101 where its destination word names it, else 100 (R290, R360). -/
def puntPort (p : Pkt) : Nat := if p.dest = some 101 then 101 else 100

/-- A packet goes to the punt ring or the cluster, logical port `q` (R360). -/
def puntTo (s : State) (e : Epoch) (p : Pkt) (reason q : Nat) : State :=
  let p := { p with punt := some (BitVec.ofNat 8 reason) }
  takeCopies (setPkt s p) p ((q, mkCopy s e p q p.bytes false) :: passCopies s e p)

/-- A packet without a destination: its pass copy goes out; without one it is discarded as NO_DEST (R291, R346). -/
def noDest (s : State) (e : Epoch) (p : Pkt) (named : Bool) : State :=
  if named ∨ p.pass.isNone then
    let s := match p.engine with | some k => count s (100 + k) 3 1 p.part | none => s
    (if p.pass.isSome then takeCopies s p (passCopies s e p) else discardPkt s p)
  else takeCopies s p (passCopies s e p)

/-- Copies to the ports a result names: each port the partition may reach gets its frame, each other one counts in PTN_XDROP
(R143, R353); a routed frame longer than a port's MTU is punted (R359). -/
def sendTo (s : State) (e : Epoch) (p : Pkt) (ports : List Nat) : State :=
  let vid := pktVid s e p
  let ok := ports.filter fun q => portReach s e p.part q vid
  let s := if ok.length < ports.length then xdrop s p.part (ports.length - ok.length) else s
  let copies := ok.map fun q => (q, mkCopy s e p q (egressFrame s e p q) true)
  if p.routed && copies.any (fun c => decide (c.1 < 100) && decide (mtu s e c.1 < c.2.frame.length + 4)) then puntTo s e p 7 100
  else takeCopies s p (copies ++ passCopies s e p)

/-- The forwarding result of a finished packet. -/
def forwardPkt (s : State) (e : Epoch) (p : Pkt) : State :=
  match p.direct with
  | some q =>
    if portOwner s q = p.part ∧ q < 100 then takeCopies s p [(q, mkCopy s e p q p.bytes false)]
    else discardPkt (xdrop s p.part 1) p
  | none =>
    match p.punt with
    | some r => puntTo s e p r.toNat (puntPort p)
    | none =>
      if !rewriteOk s e p then discardPkt (xdrop s p.part 1) p
      else if ttlPunt s e p then puntTo s e p 6 100
      else
        match destWord s e p with
        | none => noDest s e p false
        | some w =>
          match destPorts s e p w with
          | none => noDest s e p true
          | some none => discardPkt (xdrop s p.part 1) p
          | some (some l) => sendTo s e p l

/-- No packet of the same engine and ingress port that was received before it is still on its way (R303). -/
def firstOfEngine (s : State) (p : Pkt) : Bool :=
  match s.qm.pkts.find? fun x => decide (x.port = p.port) && decide (x.engine = p.engine) &&
      (decide (x.stage = .dispatched) || decide (x.stage = .inEngine) || decide (x.stage = .finished)) with
  | some x => decide (x.id = p.id)
  | none => true

/-- An engine passes a finished packet to the queue manager: a straggler is discarded (R391), a resetting partition's packet
too (R152), and one in the scope of a drain (R243). -/
def packetEnqueue (id : Nat) (s : State) : State :=
  match pktAt s id with
  | some p =>
    if p.stage = .finished ∧ firstOfEngine s p then
      let s := engineDone s p
      let x := rsqAt s p.port
      if x.lostSet.contains p.seq then
        discardPkt (setRsq s p.port { x with stray := satInc x.stray }) p
      else if (ptnAt s p.part).resetting then discardPkt (rstDrop s p.part) p
      else if s.cfg.quiesces.any (fun x => drainAll x p) then discardPkt (drainLost s fun x => drainAll x p) p
      else forwardPkt s (epochOf s p.epoch) p
    else s
  | none => s

def execPacketEnqueue (pkt : Nat) (s : State) : Host.Outcome State Fault Refusal :=
  ev true (powered s (packetEnqueue pkt s))

/-! ## Flush (R266, R392) -/

/-- Every copy of a queue that satisfies `f` goes; the state and how many went. -/
def flushQueue (s : State) (p q : Nat) (f : Copy → Bool) : State × Nat :=
  let x := queueAt s p q
  let gone := x.copies.filter f
  let s := setQueue s p q
    { x with copies := x.copies.filter (fun c => !f c), cells := x.cells - (gone.map (·.cells)).sum }
  (gone.foldl (fun s c => count (unref s c.pkt) 165 3 1 c.part) s, gone.length)

/-- A preempted frame whose remainder waits goes. -/
def dropPaused (s : State) (p : Nat) (f : Copy → Bool) : State × Nat :=
  let y := schedAt s p
  match y.paused with
  | some t =>
    if f t.copy then
      let x := queueAt s p t.queue
      let s := setQueue (setSched s p { y with paused := none }) p t.queue { x with cells := x.cells - t.copy.cells }
      (count (unref s t.copy.pkt) 165 3 1 t.copy.part, 1)
    else (s, 0)
  | none => (s, 0)

/-- Every copy of a port's queues that satisfies `f` goes; how many went. -/
def flushCopies (s : State) (p : Nat) (f : Copy → Bool) : State × Nat :=
  (List.range 8).foldl (fun a q => let r := flushQueue a.1 p q f; (r.1, a.2 + r.2)) (dropPaused s p f)

/-- Credits of a port's queues become 0. -/
def zeroCredits (s : State) (p : Nat) : State :=
  (List.range 8).foldl (fun s q => setQueue s p q { queueAt s p q with credit := 0 }) s

/-- All eight queues of a port are flushed and counted in PRT_FLUSH. -/
def flushPort (s : State) (p : Nat) : State :=
  let r := flushCopies s p fun _ => true
  prtFlush (zeroCredits r.1 p) p r.2

/-! ## Gate lists (R381-R383, R394, R402) -/

def gateWord (s : State) (e : Epoch) (p k : Nat) : List W32 := setVal s e sQM_GATE (128 * p + k)
def gateEn (s : State) (e : Epoch) (p : Nat) : Bool := bit (wd (gateWord s e p 0) 0) 0

/-- BASE in TB_TIME units; SEC[47:32] is TB_TIME's (R394). -/
def gateBase (s : State) (e : Epoch) (p : Nat) : Nat :=
  let v := gateWord s e p 0
  tMake (tSec s.tb.t / 2 ^ 32 * 2 ^ 32 + (wd v 1).toNat) (fld (wd v 2) 0 30) 0

/-- CYCLE in ns. -/
def gateCycle (s : State) (e : Epoch) (p : Nat) : Nat := fld (wd (gateWord s e p 0) 3) 0 30

/-- Entries that start before the cycle's end, with their start in ns. -/
def gateWalk (cycle : Nat) : Nat → List W32 → List (Nat × W32)
  | _, [] => []
  | t, w :: r => if t < cycle then (t, w) :: gateWalk cycle (t + fld w 10 22) r else []

/-- The entries of a list that are started. -/
def gateEnts (s : State) (e : Epoch) (p : Nat) : List (Nat × W32) :=
  gateWalk (gateCycle s e p) 0
    ((List.range (fld (wd (gateWord s e p 0) 0) 1 7)).map fun j => wd (gateWord s e p (64 + j)) 0)

/-- The list is active (R381). -/
def gateActive (s : State) (e : Epoch) (p : Nat) : Bool := gateEn s e p && decide (gateBase s e p ≤ s.tb.t)

/-- Position in the cycle, 2^-48 ns. -/
def gatePos (s : State) (e : Epoch) (p : Nat) : Nat := (s.tb.t - gateBase s e p) % (gateCycle s e p * 2 ^ 48)

/-- Index of the entry in force at a position. -/
def gateIdx (l : List (Nat × W32)) (pos : Nat) : Nat := (l.filter fun x => decide (x.1 * 2 ^ 48 ≤ pos)).length - 1

/-- Gate states of a port under an epoch: ENTRY and GATES. -/
def gateNow (s : State) (e : Epoch) (p : Nat) : Nat × Nat :=
  let l := gateEnts s e p
  if gateActive s e p then
    let i := gateIdx l (gatePos s e p)
    (i, fld (l.getD i (0, 0xFF)).2 0 8)
  else (0, fld (wd (gateWord s e p 0) 0) 8 8)

/-- Set-And-Hold-MAC in force: the last entry with OP 1 or 2, back into the cycle before (R382, R394). -/
def gateHold (s : State) (e : Epoch) (p : Nat) : Bool :=
  if gateActive s e p && portPreempt s p then
    let l := gateEnts s e p
    let i := gateIdx l (gatePos s e p)
    let past := (l.take (i + 1)).reverse ++
      (if gateCycle s e p * 2 ^ 48 ≤ s.tb.t - gateBase s e p then l.reverse else [])
    match past.find? fun x => decide (fld x.2 8 2 ≠ 0) with
    | some x => decide (fld x.2 8 2 = 1)
    | none => false
  else false

/-- Time from a position of the cycle until queue `q`'s gate closes, 2^-48 ns; none where it never does. -/
def spanFrom (l : List (Nat × W32)) (cycle pos q : Nat) : Option Nat :=
  let shut := l.filter fun x => !(fld x.2 0 8).testBit q
  let cyc := cycle * 2 ^ 48
  if !(fld (l.getD (gateIdx l pos) (0, 0xFF)).2 0 8).testBit q then some 0
  else
    shut.foldl (fun m x =>
      let d := (x.1 * 2 ^ 48 + cyc - pos) % cyc
      some (match m with | some k => min k d | none => d)) none

/-- Time for which queue `q`'s gate stays open from now, 2^-48 ns; none where no end is in sight. -/
def openFor (s : State) (e : Epoch) (p q : Nat) : Option Nat :=
  let off := (fld (wd (gateWord s e p 0) 0) 8 8).testBit q
  if !gateEn s e p then (if off then none else some 0)
  else if gateActive s e p then spanFrom (gateEnts s e p) (gateCycle s e p) (gatePos s e p) q
  else if !off then some 0
  else (spanFrom (gateEnts s e p) (gateCycle s e p) 0 q).map fun d => gateBase s e p - s.tb.t + d

/-- Longest continuous open span of queue `q` in an epoch's list, ns (R383); none where the gate is open for the whole cycle. -/
def longestSpan (s : State) (e : Epoch) (p q : Nat) : Option Nat :=
  let l := gateEnts s e p
  let spans := (l.filter fun x => (fld x.2 0 8).testBit q).map fun x => spanFrom l (gateCycle s e p) (x.1 * 2 ^ 48) q
  if spans.isEmpty then some 0
  else if spans.all (·.isNone) then none
  else some (spans.foldl (fun m d => max m (d.getD 0 / 2 ^ 48)) 0)

/-! ## Time on the wire -/

/-- Bits of a copy from preamble to end of gap (R384). -/
def copyBits (c : Copy) : Nat := 8 * (c.frame.length + 24 + (if c.node.isSome then 6 else 0))

/-- Rate of a port in kb/s. -/
def portRate (s : State) (p : Nat) : Nat := modeRate (portMode s p)

/-- Length of a grain in TB_TIME, 2^-48 ns, under the word in force. -/
def grainLen (s : State) : Nat := (2 ^ 48 + s.tb.f.toInt).toNat

/-- Bits leave within a TB_TIME span, which ends at the first boundary at or after its end. -/
def fits (s : State) (p bits d : Nat) : Bool := decide (bits * 1000000 ≤ portRate s p * ((d + grainLen s - 1) / grainLen s))

/-- Bits that have left since a grain. -/
def sentBits (s : State) (p : Nat) (x : Tx) : Nat := min x.bits (since s x.start * portRate s p / 1000000)

/-! ## Timed release (R126-R128, R386, R390) -/

/-- The release instant of a copy, with the adjustments applied since its stamp (R87). -/
def relInstant (s : State) (c : Copy) (r : Nat) : Nat := tAdd r (adjSince s c.grain)

/-- TB_TIME since an instant, modulo 2^48 s. -/
def timeSince (s : State) (r : Nat) : Nat := (s.tb.t + tMod - r) % tMod

/-- A timed copy has reached its release boundary. -/
def dueCopy (s : State) (c : Copy) : Bool :=
  match c.relAt with
  | some r => decide (timeSince s (relInstant s c r) < tMod / 2)
  | none => false

/-- This boundary is the copy's release boundary: its instant lies within the grain that ends here (R32). -/
def onTime (s : State) (c : Copy) : Bool :=
  match c.relAt with
  | some r => decide (timeSince s (relInstant s c r) < (2 ^ 48 + s.tb.fPrev.toInt).toNat)
  | none => false

/-- Its queue still holds an earlier-numbered packet of the same ingress (R390). -/
def heldBack (s : State) (p : Nat) (c : Copy) : Bool :=
  (queueAt s p c.queue).copies.any fun d => decide (d.port = c.port) && seqEarlier d.seq c.seq

/-- The order of R127. -/
def timedBefore (a b : Copy) : Bool :=
  decide (b.queue < a.queue) ||
    (decide (a.queue = b.queue) &&
      (decide (a.stamp < b.stamp) ||
        (decide (a.stamp = b.stamp) && (decide (a.port < b.port) || (decide (a.port = b.port) && seqEarlier a.seq b.seq)))))

/-- All copies of a port. -/
def portCopies (s : State) (p : Nat) : List Copy := (List.range 8).flatMap fun q => (queueAt s p q).copies

/-- The timed copy that a port serves next: due, and not held behind another. -/
def nextTimed (s : State) (p : Nat) : Option Copy :=
  ((portCopies s p).filter fun c => dueCopy s c && !heldBack s p c).foldl (fun m c =>
    match m with
    | none => some c
    | some x => if timedBefore c x then some c else some x) none

/-- Copies that are due and held behind another are marked, and counted in HELD once (R390). -/
def markHeld (s : State) (p : Nat) : State :=
  (List.range 8).foldl (fun s q =>
    let x := queueAt s p q
    let new := fun (c : Copy) => dueCopy s c && heldBack s p c && !c.held
    setQueue s p q
      { x with
        held := satAdd x.held (x.copies.filter new).length
        copies := x.copies.map fun c => if new c then { c with held := true } else c }) s

/-- A port may transmit: UP or DOWN_WAIT (R265), its transmitter not squelched (R268). -/
def portSends (s : State) (p : Nat) : Bool :=
  decide (p < 96) && decide (3 ≤ (portAt s p).state.toNat) && !(portAt s p).squelched

/-- Preemption is active on a port (R385). -/
def preempts (s : State) (p : Nat) : Bool := portPreempt s p && decide ((schedAt s p).verify = 2)

/-- Credit of a queue pays for bits that left (R384). -/
def payCredit (s : State) (p q : Nat) (e : Epoch) (bits : Nat) : State :=
  if cbsEn s e p q then
    let x := queueAt s p q
    let r := portRate s p
    setQueue s p q { x with credit := x.credit - ((bits * 1000000 * (r - idleSlope s e p q) / r : Nat) : Int) }
  else s

/-- The preemptable frame on the wire is preempted: its remainder waits (R382, R385; log entry 48). -/
def preempt (s : State) (p : Nat) : State :=
  let y := schedAt s p
  match y.tx, y.paused with
  | some x, none =>
    if preempts s p && !x.copy.express then
      let b := sentBits s p x
      let s := setSched s p { y with tx := none, paused := some { x with bits := x.bits - b + 192 }, preempts := satInc y.preempts }
      if x.copy.relAt.isNone then payCredit s p x.queue (epochOf s x.copy.epoch) (b + 128) else s
    else s
  | _, _ => s

/-- SeqNr of a copy sent toward a node: the node's counter gives it once, for both ports (R365). -/
def giveSeq (s : State) (c : Copy) : State × BitVec 16 :=
  match c.node, c.rseq with
  | some k, none =>
    let v := tget (fun _ => (0 : BitVec 16)) s.fwd.nodeSeq k
    let mark := fun (d : Copy) => if d.pkt = c.pkt ∧ d.node = c.node then { d with rseq := some v } else d
    ({ s with
       fwd := { s.fwd with nodeSeq := tset (fun _ => 0) s.fwd.nodeSeq k (v + 1) }
       qm := { s.qm with queues := s.qm.queues.map fun e => (e.1, { e.2 with copies := e.2.copies.map mark }) } }, v)
  | _, some v => (s, v)
  | none, none => (s, 0)

/-- The frame with the trailer or tag of its node (R365). -/
def redFrame (s : State) (c : Copy) (p : Nat) (sq : BitVec 16) : List Byte :=
  match c.node with
  | some k =>
    let w := wd (setVal s (epochOf s c.epoch) sFWD_RED p) 0
    if k / 64 = 1 then addRct c.frame sq.toNat (fld w 8 1) else addHsr c.frame sq.toNat (fld w 12 4)
  | none => c.frame

/-- A copy starts on an Ethernet port (R98, R365, R376): it leaves its queue, gets its tag or trailer, is corrected and stamped,
and occupies the wire. -/
def startCopy (s : State) (p : Nat) (c : Copy) (dev : Int) : State :=
  let a := giveSeq s c
  let x := queueAt a.1 p c.queue
  let same := fun (d : Copy) => decide (d.pkt = c.pkt)
  let s := setQueue a.1 p c.queue { x with copies := x.copies.filter fun d => !same d }
  let f := redFrame s c p a.2
  let r := match pktAt s c.pkt with | some k => tsuEgress s p k f dev | none => (s, f)
  let s := emit r.1 (.frame p (egressStamp s dev) r.2)
  let s := count (count s p 3 1 c.part) p 4 (r.2.length + 4) c.part
  setSched s p { schedAt s p with tx := some { copy := { c with rseq := some a.2 }, queue := c.queue, start := s.gr.count,
                                               bits := 8 * (r.2.length + 24) } }

/-- The release event of a port: once in a window, CODE 1 sent late, 2 dropped (R128, R178). -/
def lateEvent (s : State) (p : Nat) (c : Copy) (code : Nat) : State :=
  raiseOnce s 4 p (4 * p + 2) code (c.queue + 256 * c.port + 65536 * c.seq.toNat)

/-- A late copy under LATE_ACT 1 is discarded (R128). -/
def lateDropCopy (s : State) (p : Nat) (c : Copy) : State :=
  let x := queueAt s p c.queue
  let s := setQueue s p c.queue
    { x with copies := x.copies.filter (fun d => decide (d.pkt ≠ c.pkt)), cells := x.cells - c.cells,
             lateDrop := satInc x.lateDrop }
  lateEvent (unref s c.pkt) p c 2

/-- A late copy is counted as it leaves (R128). -/
def lateSentCount (s : State) (p : Nat) (c : Copy) : State :=
  let x := queueAt s p c.queue
  lateEvent (setQueue s p c.queue { x with lateSent := satInc x.lateSent }) p c 1

/-- The gate serves the timed copies of a port (R126-R128, R386, R390). -/
def timedRelease (p : Nat) (dev : Int) (s : State) : State :=
  if !portSends s p then s
  else
    let s := markHeld s p
    match nextTimed s p with
    | none => s
    | some c =>
      let late := !onTime s c && !c.held
      if late && qLateDrop s (epochOf s c.epoch) p c.queue then lateDropCopy s p c
      else
        let s := if (schedAt s p).tx.isSome && c.express then preempt s p else s
        if (schedAt s p).tx.isSome then s
        else startCopy (if late then lateSentCount s p c else s) p c dev

def execTimedRelease (port : Nat) (dev : Int) (s : State) : Host.Outcome State Fault Refusal :=
  ev (decide (port < 102)) (powered s (timedRelease port dev s))

/-! ## Prompt transmission (R379, R380, R382, R383) -/

/-- The prompt copy at the head of a queue: the first that the resequencer has released. -/
def promptHead (s : State) (p q : Nat) : Option Copy :=
  match (queueAt s p q).copies.find? fun c => c.relAt.isNone with
  | some c => if c.relG.isSome then some c else none
  | none => none

/-- The frame can never pass its gate (R383). -/
def tooLong (s : State) (p : Nat) (c : Copy) : Bool :=
  let e := epochOf s c.epoch
  gateEn s e p && !(preempts s p && !c.express) &&
    (match longestSpan s e p c.queue with
     | some d => decide (portRate s p * d < copyBits c * 1000000)
     | none => false)

/-- Heads that R383 discards are discarded, counted in DROP. -/
def dropTooLong (s : State) (p q : Nat) : Nat → State
  | 0 => s
  | n + 1 =>
    match promptHead s p q with
    | some c =>
      if tooLong s p c then
        let x := queueAt s p q
        let s := setQueue s p q
          { x with copies := x.copies.filter (fun d => decide (d.pkt ≠ c.pkt)), cells := x.cells - c.cells, drop := satInc x.drop }
        dropTooLong (unref s c.pkt) p q n
      else s
    | none => s

/-- No timed copy that is ready would find the wire held at its release boundary (R127, R386). -/
def wireClear (s : State) (p : Nat) (c : Copy) : Bool :=
  (portCopies s p).all fun d =>
    match d.relAt with
    | some r =>
      dueCopy s d || (preempts s p && d.express && !c.express) ||
        fits s p (copyBits c) (tMod - timeSince s (relInstant s d r))
    | none => true

/-- A head may start now (R379, R382, R384-R386). -/
def eligible (s : State) (p : Nat) (c : Copy) : Bool :=
  let e := epochOf s c.epoch
  let gate :=
    if preempts s p && !c.express then
      (gateNow s e p).2.testBit c.queue && !gateHold s e p && (schedAt s p).paused.isNone && (schedAt s p).tx.isNone
    else match openFor s e p c.queue with
      | some d => decide (0 < d) && fits s p (copyBits c) d
      | none => true
  gate && (!cbsEn s e p c.queue || decide (0 ≤ (queueAt s p c.queue).credit)) && wireClear s p c

/-- The head of the highest-numbered queue that holds an eligible packet. -/
def nextPrompt (s : State) (p : Nat) : Option Copy :=
  [7, 6, 5, 4, 3, 2, 1, 0].findSome? fun q =>
    match promptHead s p q with
    | some c => if eligible s p c then some c else none
    | none => none

/-- The remainder of a preempted frame follows when its gate is open and hold is released (R382). -/
def resumePaused (s : State) (p : Nat) : State :=
  let y := schedAt s p
  match y.paused with
  | some x =>
    let e := epochOf s x.copy.epoch
    if (x.copy.relAt.isSome || (gateNow s e p).2.testBit x.queue) && !gateHold s e p then
      setSched s p { y with tx := some { x with start := s.gr.count }, paused := none }
    else s
  | none => s

/-- A free Ethernet port starts its next prompt frame; an express frame preempts a preemptable one (R379-R386). Timed copies
that are due go first: there the row has no event. -/
def portStart (s : State) (p : Nat) (dev : Int) : State :=
  if (nextTimed s p).isSome then s
  else
    let s := (List.range 8).foldl (fun s q => dropTooLong s p q (queueAt s p q).copies.length) s
    match nextPrompt s p with
    | some c =>
      if c.express ∧ (schedAt s p).tx.isSome then
        let t := preempt s p
        if (schedAt t p).tx.isNone then startCopy t p c dev else s
      else if (schedAt s p).tx.isSome then s
      else startCopy s p c dev
    | none => if (schedAt s p).tx.isNone then resumePaused s p else s

/-- The head of a port without gates, by strict priority (R380). -/
def plainHead (s : State) (p : Nat) : Option Copy := [7, 6, 5, 4, 3, 2, 1, 0].findSome? (promptHead s p)

/-- A copy leaves its queue and the device: its cells go with the last reference. -/
def takeOut (s : State) (p : Nat) (c : Copy) : State :=
  let x := queueAt s p c.queue
  unref (setQueue s p c.queue
    { x with copies := x.copies.filter (fun d => decide (d.pkt ≠ c.pkt)), cells := x.cells - c.cells }) c.pkt

/-- Port 101 delivers to the control cluster (R380). -/
def portTransmitStart (p : Nat) (dev : Int) (s : State) : State :=
  if portSends s p then portStart s p dev
  else if p = 101 then
    match plainHead s 101 with
    | some c => takeOut (emit s (.frame 101 c.stamp c.frame)) 101 c
    | none => s
  else s

def execPortTransmitStart (port : Nat) (dev : Int) (s : State) : Host.Outcome State Fault Refusal :=
  ev (decide (port < 102)) (powered s (portTransmitStart port dev s))

/-- The last bit of a frame and its gap have left: cells are freed, credit is paid (R376, R384). -/
def frameTxEnd (p : Nat) (s : State) : State :=
  let y := schedAt s p
  match y.tx with
  | some x =>
    if x.bits * 1000000 ≤ since s x.start * portRate s p ∨ portRate s p = 0 then
      let q := queueAt s p x.queue
      let s := setQueue (setSched s p { y with tx := none }) p x.queue { q with cells := q.cells - x.copy.cells }
      let s := if x.copy.relAt.isNone then payCredit s p x.queue (epochOf s x.copy.epoch) x.bits else s
      unref s x.copy.pkt
    else s
  | none => s

def execFrameTxEnd (port : Nat) (s : State) : Host.Outcome State Fault Refusal :=
  ev (decide (port < 102)) (frameTxEnd port s)

/-- Gate states of the newest epoch take effect; a preemptable frame whose gate closes, or over which hold is set, is preempted
(R381, R382, R398). -/
def gateEntryStart (p : Nat) (s : State) : State :=
  if p < 96 then
    let e := newest s
    let g := gateNow s e p
    let s := setSched s p { schedAt s p with
      entry := BitVec.ofNat 6 g.1
      gates := BitVec.ofNat 8 g.2
      active := gateActive s e p
      hold := gateHold s e p }
    match (schedAt s p).tx with
    | some x =>
      let k := epochOf s x.copy.epoch
      if x.copy.relAt.isNone && (!(gateNow s k p).2.testBit x.queue || gateHold s k p) then preempt s p else s
    | none => s
  else s

def execGateEntryStart (port : Nat) (s : State) : Host.Outcome State Fault Refusal :=
  ev (decide (port < 102)) (gateEntryStart port s)

/-- The verify procedure ends (R385). -/
def preemptVerify (p : Nat) (ok : Bool) (s : State) : State :=
  let y := schedAt s p
  if y.verify = 1 then
    if ok then setSched s p { y with verify := 2 }
    else raise (setSched s p { y with verify := 3 }) (4 * p + 3) 8 0
  else s

def execPreemptVerify (port : Nat) (ok : Bool) (s : State) : Host.Outcome State Fault Refusal :=
  ev (decide (port < 96)) (preemptVerify port ok s)

/-! ## Credit at a grain boundary (R384) -/

/-- Credit of one queue for a grain in which no bit of it was on the wire. -/
def creditTick (s : State) (p q : Nat) (x : Queue) : Queue :=
  let e := match promptHead s p q with | some c => epochOf s c.epoch | none => newest s
  let onWire := match (schedAt s p).tx with | some t => decide (t.queue = q) | none => false
  if !cbsEn s e p q || onWire then x
  else if !(gateNow s e p).2.testBit q then x
  else
    let idle : Int := (idleSlope s e p q : Nat)
    let c := if !x.copies.isEmpty then x.credit + idle else if 0 < x.credit then 0 else min 0 (x.credit + idle)
    { x with credit := if x.hiclamp = 0 then c else min c ((x.hiclamp.toNat * 8000000 : Nat) : Int) }

/-- Credits of every queue at a grain boundary; a queue at its reset values has none to change. -/
def creditBoundary (s : State) : State :=
  s.qm.queues.foldl (fun s e =>
    if e.1 < 768 then setQueue s (e.1 / 8) (e.1 % 8) (creditTick s (e.1 / 8) (e.1 % 8) (queueAt s (e.1 / 8) (e.1 % 8))) else s) s

/-! ## Registers (R396-R399) -/

/-- QM and RSQ registers as read. -/
def qmRead (s : State) (addr : Nat) : Option W32 :=
  if addr = 0x03800000 then some (w32 (freeCells s))
  else if 0x03800100 ≤ addr ∧ addr < 0x03800180 then
    let x := ptnAt s ((addr - 0x03800100) / 8)
    some (w32 (if addr % 8 = 0 then x.usedCells else max x.usedCells x.maxCells))
  else if 0x03810000 ≤ addr ∧ addr < 0x03810000 + 102 * 0x100 ∧ addr % 0x100 < 0x80 then
    let x := queueAt s ((addr - 0x03810000) / 0x100) (addr % 0x100 / 0x10)
    match addr % 0x10 with
    | 0 => some (w32 x.cells)
    | 4 => some x.drop
    | 8 => some (w32 ((x.credit.tdiv 1000000 % 2 ^ 32).toNat))
    | _ => some (w32 (x.held.toNat + 65536 * x.hiclamp.toNat))
  else if 0x03820000 ≤ addr ∧ addr < 0x03820000 + 96 * 0x10 ∧ addr % 0x10 < 8 then
    let y := schedAt s ((addr - 0x03820000) / 0x10)
    some (if addr % 0x10 = 0 then
        w32 (y.entry.toNat + 64 * y.gates.toNat + 2 ^ 14 * b1 y.active + 2 ^ 15 * b1 y.hold + 2 ^ 16 * y.verify.toNat)
      else y.preempts)
  else if addr = 0x03C00000 then some (w32 s.qm.gap.toNat)
  else if 0x03C01000 ≤ addr ∧ addr < 0x03C01000 + 102 * 0x10 ∧ addr % 0x10 < 0xC then
    let x := rsqAt s ((addr - 0x03C01000) / 0x10)
    some (if addr % 0x10 = 0 then w32 (x.doneTo.toNat + 65536 * x.next.toNat)
      else if addr % 0x10 = 4 then x.lost else w32 x.stray.toNat)
  else none

/-- A write of HICLAMP (R395, R397). -/
def qmWrite (s : State) (addr : Nat) (v : W32) : State :=
  if 0x03810000 ≤ addr ∧ addr < 0x03810000 + 102 * 0x100 ∧ addr % 0x100 < 0x80 ∧ addr % 0x10 = 0xC then
    let p := (addr - 0x03810000) / 0x100
    let q := addr % 0x100 / 0x10
    setQueue s p q { queueAt s p q with hiclamp := BitVec.ofNat 16 (fld v 16 16) }
  else s

/-- RSQ_CTL takes effect at the next grain; a GAP of 0 or above 64 is refused (R17, R399). -/
def rsqCtlApply (s : State) (v : W32) : State :=
  if 1 ≤ fld v 0 7 ∧ fld v 0 7 ≤ 64 then { s with qm := { s.qm with gap := BitVec.ofNat 7 (fld v 0 7) } } else s

/-- A normal read clears the counters of its word and restarts a maximum (R9, R681). -/
def qmTake (s : State) (addr : Nat) : State :=
  if 0x03800100 ≤ addr ∧ addr < 0x03800180 ∧ addr % 8 = 4 then
    let n := (addr - 0x03800100) / 8
    setPtn s n { ptnAt s n with maxCells := (ptnAt s n).usedCells }
  else if 0x03810000 ≤ addr ∧ addr < 0x03810000 + 102 * 0x100 ∧ addr % 0x100 < 0x80 then
    let p := (addr - 0x03810000) / 0x100
    let q := addr % 0x100 / 0x10
    if addr % 0x10 = 4 then setQueue s p q { queueAt s p q with drop := 0 }
    else if addr % 0x10 = 0xC then setQueue s p q { queueAt s p q with held := 0 }
    else s
  else if 0x03820000 ≤ addr ∧ addr < 0x03820000 + 96 * 0x10 ∧ addr % 0x10 = 4 then
    let p := (addr - 0x03820000) / 0x10
    setSched s p { schedAt s p with preempts := 0 }
  else if 0x03C01000 ≤ addr ∧ addr < 0x03C01000 + 102 * 0x10 then
    let i := (addr - 0x03C01000) / 0x10
    if addr % 0x10 = 4 then setRsq s i { rsqAt s i with lost := 0 }
    else if addr % 0x10 = 8 then setRsq s i { rsqAt s i with stray := 0 }
    else s
  else s

end Sys2Proof.Machine
end

