-- ==== Sys2Proof/Machine/Ingress.lean ====
section
/-! DEFINITION. Ingress (spec/01 R31; spec/05 R120-R123; spec/06 R148; spec/10 R256, R265; spec/11 R301-R303; spec/21 R577): start of
frame, MAC, policing, dispatch. -/

namespace Sys2Proof.Machine

/-! ## Capacity (R121-R123) -/

/-- Per engine, all Tj, of a setpoint row, in 0.1 Mpps (R121). -/
def rowCap (r : Nat) : Nat := [300, 365, 430, 495, 560, 590, 620].getD r 0

/-- ENGINE_CAPACITY in 0.1 Mpps: live engines times the confirmed row (R122, R541). -/
def capacity (s : State) : Nat := (liveEngines s).length * rowCap s.pwr.conf.toNat

/-- LOAD_CAP in per cent (R132). -/
def loadPct (s : State) : Nat := [50, 75, 90].getD s.core.loadCap.toNat 90

/-- L of a policing interval of 1 µs, in 1/96,000 packets (R123, R148). -/
def policeLimit (s : State) : Nat := loadPct s * capacity s * 96

/-! ## Policing (R148) -/

/-- Work of a packet as it counts for the policer, in 1/96 packets. -/
def policeWork (work : Nat) : Nat := max 96 work

/-- One round of the weighted division: grants of the partitions that are still active. -/
def maxMin (s : State) : Nat → Nat → List Nat → List (Nat × Nat)
  | 0, _, _ => []
  | k + 1, left, active =>
    let sum := (active.map fun n => (ptnAt s n).polW).sum
    let share := fun n => left * (ptnAt s n).polW / sum
    let sat := active.filter fun n => decide ((ptnAt s n).offered * 1000 ≤ share n)
    if sat.isEmpty then active.map fun n => (n, share n)
    else
      (sat.map fun n => (n, (ptnAt s n).offered * 1000)) ++
        maxMin s k (left - (sat.map fun n => (ptnAt s n).offered * 1000).sum) (active.filter fun n => !sat.contains n)

/-- Grant of a partition under the offers so far, in 1/96,000 packets. -/
def grantNow (s : State) (n : Nat) : Nat :=
  let active := (List.range 16).filter fun k => decide (0 < (ptnAt s k).offered)
  match (maxMin s 17 (policeLimit s) active).find? fun g => decide (g.1 = n) with
  | some g => g.2
  | none => 0

/-- The share that a partition has whatever the others offer, in 1/96,000 packets. -/
def surePart (s : State) (n : Nat) : Nat :=
  policeLimit s * (ptnAt s n).polW / ((List.range 16).map fun k => (ptnAt s k).polW).sum

/-- The policer decides a packet of partition `n`: it passes within the sure share, is dropped above the grant of the offers so
far, and is between them decided by a free value (log entry 51). -/
def police (s : State) (n work : Nat) : State × Bool :=
  let w := policeWork work
  let x := ptnAt s n
  let s := { s with pwr := { s.pwr with offered := s.pwr.offered + w } }
  let s := setPtn s n { x with offered := x.offered + w }
  let y := ptnAt s n
  let pass := setPtn s n { y with admitted := y.admitted + w }
  let drop := setPtn s n { y with pdrop := satInc y.pdrop }
  if (y.admitted + w) * 1000 ≤ surePart s n then (pass, true)
  else if grantNow s n ≤ y.admitted * 1000 ∧ grantNow s n < (y.admitted + w) * 1000 then (drop, false)
  else if (freeVal s).toNat.testBit 0 then (freeNext pass, true)
  else (freeNext drop, false)

/-- A policing interval begins: nothing is offered yet, and the weights of the newest epoch are in force. -/
def policingIntervalStart (s : State) : State :=
  if s.gr.count.toNat % 1000 = 0 then
    (List.range 16).foldl (fun s n => setPtn s n { ptnAt s n with offered := 0, admitted := 0, polW := weightOf s n }) s
  else s

def execPolicingIntervalStart (s : State) : Host.Outcome State Fault Refusal := ev true (policingIntervalStart s)

/-! ## Packets -/

/-- The context of a packet that no engine has begun. -/
def ctxZero : EngCtx :=
  { g := List.replicate 16 0, cursor := 0, stack := [], pc := 0, z := false, n := false, c := false, hit := false, multi := false,
    lfail := false, end_ := false, key := List.replicate 6 0, steps := 0, wait := none }

/-- A packet that enters on a logical port now, with the next number of that port (R31, R387). -/
def newPkt (s : State) (port part stamp : Nat) (ctl : BitVec 7) (bytes : List Byte) (stage : PktStage) : Pkt :=
  { id := s.qm.nextPkt, port := port, part := part, seq := (rsqAt s port).next, stamp := stamp, grain := s.gr.count,
    epoch := (newest s).num, bytes := bytes, stage := stage, engine := none, moved := false, ctx := ctxZero, tc := 0, flow := 0,
    rw := none, dest := none, punt := none, direct := none, oneStep := false, twoStep := false, pass := none, ctl := ctl,
    work := 0, single := false, routed := false, core := s.gr.count, cells := 0, refs := 0 }

/-- A packet comes into the device. -/
def addPkt (s : State) (p : Pkt) : State :=
  let x := rsqAt s p.port
  let s := setRsq s p.port { x with next := x.next + 1 }
  { s with qm := { s.qm with pkts := s.qm.pkts ++ [p], nextPkt := s.qm.nextPkt + 1 } }

/-- The frame that is arriving on a port. -/
def arrivingOn (s : State) (port : Nat) : Option Pkt :=
  s.qm.pkts.find? fun p => decide (p.port = port) && decide (p.stage = .arriving)

/-- A frame that the MAC does not accept goes, and its number is given to the next (R387). -/
def rejectPkt (s : State) (p : Pkt) : State :=
  let s := delPkt s p.id
  setRsq s p.port { rsqAt s p.port with next := p.seq }

/-- A start of frame on a port whose receive path is on: stamped, numbered, and of the epoch in force (R31, R57, R93, R387). -/
def frameStart (port sub : Nat) (s : State) : State :=
  if (portAt s port).state = 0 then s
  else
    let s := match arrivingOn s port with | some p => rejectPkt s p | none => s
    let x := tsuAt s port
    let stamp := compensate (stampOf s sub) (-(x.ing.toNat : Int))
    addPkt s (newPkt s port 0 stamp (tsuCtl x) [] .arriving)

def execFrameStart (port sub : Nat) (s : State) : Host.Outcome State Fault Refusal :=
  ev (decide (port < 96) && decide (sub < 65536)) (powered s (frameStart port sub s))

/-! ## Dispatch (R301-R303, R577) -/

/-- Engine of the last packet of a bucket and port. -/
def lastEngine (s : State) (b port : Nat) : Option Nat :=
  (s.qm.lastEng.find? fun x => decide (x.1 = b) && decide (x.2.1 = port)).map fun x => x.2.2

/-- A packet that enters the core: policed, then hashed to its engine's dispatch queue; without a live engine there is no
capacity and the policer drops it (R123, R577). -/
def dispatch (s : State) (p : Pkt) : State :=
  let a := police s p.part p.work
  if !a.2 then discardPkt a.1 p
  else
    let s := a.1
    let e := epochOf s p.epoch
    let b := bucketOf s e p.port p.seq.toNat p.bytes
    match effEngine s e b with
    | none => discardPkt (setPtn s p.part { ptnAt s p.part with pdrop := satInc (ptnAt s p.part).pdrop }) p
    | some k =>
      let x := engAt s k
      if 256 ≤ engDepth x then
        let s := setEng s k { x with dispDrop := satInc x.dispDrop }
        discardPkt (setPtn s p.part { ptnAt s p.part with pdrop := satInc (ptnAt s p.part).pdrop }) p
      else
        let moved := match lastEngine s b p.port with | some j => decide (j ≠ k) | none => false
        let s := { s with
          qm := { s.qm with
            lastEng := (b, p.port, k) :: s.qm.lastEng.filter fun y => !(decide (y.1 = b) && decide (y.2.1 = p.port)) } }
        let s := setEng s k { x with disp := x.disp ++ [p.id] }
        setPkt s { p with stage := .dispatched, engine := some k, moved := moved, core := s.gr.count }

/-! ## The MAC (R256, R265) -/

/-- SEL of the counter of a frame that the MAC discards; none for one it accepts. -/
def macReject (f : List Byte) (fcsOk : Bool) : Option Nat :=
  if f.length + 4 < 64 then some 6
  else if 9216 < f.length + 4 then some 7
  else if !fcsOk then some 5
  else if u16 f 12 = 0x8808 then some 8
  else none

/-- A frame is complete: link, MAC, partition, reset, drain, policing, dispatch (R142, R152, R243, R256, R265). -/
def frameReceived (port : Nat) (bytes : List Byte) (fcsOk : Bool) (work corr uncorr : Nat) (s : State) : State :=
  let s := fecCount s port corr uncorr
  match arrivingOn s port with
  | none => s
  | some p =>
    let x := portAt s port
    if !accepts s port p.grain then
      rejectPkt (setPort s port { x with rxNotUp := satInc x.rxNotUp }) p
    else
      match macReject bytes fcsOk with
      | some sel => rejectPkt (count s port sel 1 (portOwner s port)) p
      | none =>
        let n := framePart s (epochOf s p.epoch) port bytes
        let p := { p with bytes := bytes, part := n, work := work }
        let s := count (count (setPkt s p) port 1 1 n) port 2 (bytes.length + 4) n
        if (ptnAt s n).resetting then discardPkt (rstDrop s n) p
        else if s.cfg.quiesces.any (fun q => q.ingress.contains port) then
          discardPkt (drainLost s fun q => q.ingress.contains port) p
        else dispatch s p

def execFrameReceived (port : Nat) (bytes : List Byte) (fcsOk : Bool) (work corr uncorr : Nat) (s : State) :
    Host.Outcome State Fault Refusal :=
  ev (decide (port < 96)) (powered s (frameReceived port bytes fcsOk work corr uncorr s))

end Sys2Proof.Machine
end

