-- ==== Sys2Proof/Machine/Backlog.lean ====
section
/-! DEFINITION. The head of the decision backlog (spec/02 R41-R43) and how packets are removed from the device. -/

namespace Sys2Proof.Machine

/-! ## The head of the backlog -/

/-- Class of a shared decision (R39). -/
def sharedCls (d : Shared) : Nat := if d.learn.isSome || d.bucket.isSome then 6 else 7

/-- A shared decision has reached its pair grain; a command of this device waits for the partner's verdict while the pair stands
(R613, R615). -/
def sharedDue (s : State) (d : Shared) : Bool :=
  !before (pairGrain s) d.apply && (d.remote || d.cmd.isNone || d.ok || !paired s)

/-- A due shared decision precedes a backlog entry in the order of R38 and R40. -/
def sharedAhead (s : State) (d : Shared) (e : Entry) : Bool :=
  let g := fromPair s d.apply
  before g e.stamp || (decide (g = e.stamp) &&
    (decide (sharedCls d < e.inp.cls) || (decide (sharedCls d = e.inp.cls) && decide (d.index < e.inp.idx))))

/-- The state in which the head entry is taken, and the entry, where the head satisfies `f` and no shared decision precedes it
(R40, log entry 6). -/
def takeHead (s : State) (f : Decision → Bool) : Option (State × Entry) :=
  match s.gr.backlog with
  | e :: r => if f e.inp.what ∧ !s.twn.shared.any (fun d => sharedDue s d && sharedAhead s d e) then some ({ s with gr := { s.gr with backlog := r } }, e) else none
  | [] => none

/-! ## Packets that go -/

/-- Copies of a packet leave every queue and every preempted frame; a frame on the wire is completed. -/
def dropCopies (s : State) (id : Nat) : State :=
  let keep := fun (c : Copy) => decide (c.pkt ≠ id)
  let s : State := { s with
    qm := { s.qm with
      queues := s.qm.queues.map fun e =>
        (e.1, { e.2 with
          copies := e.2.copies.filter keep
          cells := e.2.cells - ((e.2.copies.filter fun c => !keep c).map (·.cells)).sum }) } }
  s.qm.sched.foldl (fun (s : State) e => (dropPaused s e.1 fun c => !keep c).1) s

/-- A packet leaves its engine, the requests and the lookups that wait for it. -/
def leaveCore (s : State) (p : Pkt) : State :=
  let s := match p.engine with
    | some e =>
      let x := engAt s e
      setEng s e { x with held := x.held.filter (fun k => decide (k ≠ p.id)), disp := x.disp.filter fun k => decide (k ≠ p.id) }
    | none => s
  let s := { s with cam := { s.cam with slotQ := s.cam.slotQ.filter fun r => decide (r.pkt ≠ some p.id) } }
  stateServed s p.id

/-- A packet is discarded wherever it stands (R153, R243): its copies leave the queues, its cells are freed, its number is done. -/
def purgePkt (s : State) (p : Pkt) : State :=
  if p.stage = .stored then
    let s := dropCopies s p.id
    match pktAt s p.id with
    | some q =>
      let x := ptnAt s q.part
      delPkt (setPtn s q.part { x with usedCells := x.usedCells - q.cells }) q.id
    | none => s
  else discardPkt (leaveCore s p) p

/-- Every packet that satisfies `f` is discarded, and `k` counts each. -/
def purgeAll (s : State) (f : Pkt → Bool) (k : State → Pkt → State) : State :=
  (s.qm.pkts.filter f).foldl (fun s p => k (purgePkt s p) p) s

/-- A packet is known to belong to partition `n`; of a frame that is still arriving nothing is known. -/
def pktOf (n : Nat) (p : Pkt) : Bool := decide (p.part = n) && decide (p.stage ≠ .arriving)

end Sys2Proof.Machine
end

