-- ==== Sys2Proof/Machine/Hash.lean ====
section
/-! DEFINITION. The hashes and the block cipher that the spec names by their standards: SHA-2 (FIPS 180-4), HMAC (FIPS 198-1),
AES-256 (FIPS 197) and its GCM mode (SP 800-38D). -/

namespace Sys2Proof.Machine

/-! ## SHA-2 -/

/-- Round constants of SHA-512; SHA-256 uses the upper halves of the first 64. -/
def shaK : List Nat :=
  [0x428A2F98D728AE22, 0x7137449123EF65CD, 0xB5C0FBCFEC4D3B2F, 0xE9B5DBA58189DBBC] ++
  [0x3956C25BF348B538, 0x59F111F1B605D019, 0x923F82A4AF194F9B, 0xAB1C5ED5DA6D8118] ++
  [0xD807AA98A3030242, 0x12835B0145706FBE, 0x243185BE4EE4B28C, 0x550C7DC3D5FFB4E2] ++
  [0x72BE5D74F27B896F, 0x80DEB1FE3B1696B1, 0x9BDC06A725C71235, 0xC19BF174CF692694] ++
  [0xE49B69C19EF14AD2, 0xEFBE4786384F25E3, 0x0FC19DC68B8CD5B5, 0x240CA1CC77AC9C65] ++
  [0x2DE92C6F592B0275, 0x4A7484AA6EA6E483, 0x5CB0A9DCBD41FBD4, 0x76F988DA831153B5] ++
  [0x983E5152EE66DFAB, 0xA831C66D2DB43210, 0xB00327C898FB213F, 0xBF597FC7BEEF0EE4] ++
  [0xC6E00BF33DA88FC2, 0xD5A79147930AA725, 0x06CA6351E003826F, 0x142929670A0E6E70] ++
  [0x27B70A8546D22FFC, 0x2E1B21385C26C926, 0x4D2C6DFC5AC42AED, 0x53380D139D95B3DF] ++
  [0x650A73548BAF63DE, 0x766A0ABB3C77B2A8, 0x81C2C92E47EDAEE6, 0x92722C851482353B] ++
  [0xA2BFE8A14CF10364, 0xA81A664BBC423001, 0xC24B8B70D0F89791, 0xC76C51A30654BE30] ++
  [0xD192E819D6EF5218, 0xD69906245565A910, 0xF40E35855771202A, 0x106AA07032BBD1B8] ++
  [0x19A4C116B8D2D0C8, 0x1E376C085141AB53, 0x2748774CDF8EEB99, 0x34B0BCB5E19B48A8] ++
  [0x391C0CB3C5C95A63, 0x4ED8AA4AE3418ACB, 0x5B9CCA4F7763E373, 0x682E6FF3D6B2B8A3] ++
  [0x748F82EE5DEFB2FC, 0x78A5636F43172F60, 0x84C87814A1F0AB72, 0x8CC702081A6439EC] ++
  [0x90BEFFFA23631E28, 0xA4506CEBDE82BDE9, 0xBEF9A3F7B2C67915, 0xC67178F2E372532B] ++
  [0xCA273ECEEA26619C, 0xD186B8C721C0C207, 0xEADA7DD6CDE0EB1E, 0xF57D4F7FEE6ED178] ++
  [0x06F067AA72176FBA, 0x0A637DC5A2C898A6, 0x113F9804BEF90DAE, 0x1B710B35131C471B] ++
  [0x28DB77F523047D84, 0x32CAAB7B40C72493, 0x3C9EBE0A15C9BEBC, 0x431D67C49C100D4C] ++
  [0x4CC5D4BECB3E42B6, 0x597F299CFC657E2A, 0x5FCB6FAB3AD6FAEC, 0x6C44198C4A475817]

/-- Initial values of SHA-512, then of SHA-384; SHA-256 starts from the upper halves of the first eight. -/
def shaIv : List Nat :=
  [0x6A09E667F3BCC908, 0xBB67AE8584CAA73B, 0x3C6EF372FE94F82B, 0xA54FF53A5F1D36F1] ++
  [0x510E527FADE682D1, 0x9B05688C2B3E6C1F, 0x1F83D9ABFB41BD6B, 0x5BE0CD19137E2179] ++
  [0xCBBB9D5DC1059ED8, 0x629A292A367CD507, 0x9159015A3070DD17, 0x152FECD8F70E5939] ++
  [0x67332667FFC00B31, 0x8EB44A8768581511, 0xDB0C2E0D64F98FA7, 0x47B5481DBEFA4FA4]

section Sha
variable {w : Nat}

/-- Exclusive or of two rotations and of a third, or of a shift where `sh` is set. -/
def shaSig (sh : Bool) (r : Nat × Nat × Nat) (x : BitVec w) : BitVec w :=
  x.rotateRight r.1 ^^^ x.rotateRight r.2.1 ^^^ (if sh then x >>> r.2.2 else x.rotateRight r.2.2)

/-- Rotations of a SHA-2 function: the two small sigmas, the two large ones. -/
def shaRot (w : Nat) : List (Nat × Nat × Nat) :=
  if w = 32 then [(7, 18, 3), (17, 19, 10), (2, 13, 22), (6, 11, 25)]
  else [(1, 8, 7), (19, 61, 6), (28, 34, 39), (14, 18, 41)]

/-- Rotation set `i`. -/
def shaR (w i : Nat) : Nat × Nat × Nat := (shaRot w).getD i (0, 0, 0)

/-- The schedule extended by `n` words, newest first. -/
def shaSched : Nat → List (BitVec w) → List (BitVec w)
  | 0, l => l
  | n + 1, l =>
    let at_ := fun k => l.getD k 0
    shaSched n ((shaSig true (shaR w 1) (at_ 1) + at_ 6 + shaSig true (shaR w 0) (at_ 14) + at_ 15) :: l)

/-- One round on a state of eight words. -/
def shaRound (s : List (BitVec w)) (kw : BitVec w) : List (BitVec w) :=
  match s with
  | [a, b, c, d, e, f, g, h] =>
    let t1 := h + shaSig false (shaR w 3) e + ((e &&& f) ^^^ (~~~e &&& g)) + kw
    let t2 := shaSig false (shaR w 2) a + ((a &&& b) ^^^ (a &&& c) ^^^ (b &&& c))
    [t1 + t2, a, b, c, d + t1, e, f, g]
  | l => l

/-- Word `i` of the constants at width `w`. -/
def shaWord (w n : Nat) : BitVec w := BitVec.ofNat w (n / 2 ^ (64 - w))

/-- One block. -/
def shaBlock (s : List (BitVec w)) (m : List Byte) : List (BitVec w) :=
  let n := if w = 32 then 64 else 80
  let first := (List.range 16).map fun i => BitVec.ofNat w (be m (w / 8 * i) (w / 8))
  let sched := (shaSched (n - 16) first.reverse).reverse
  let r := ((shaK.take n).zip sched).foldl (fun s x => shaRound s (shaWord w x.1 + x.2)) s
  (s.zip r).map fun x => x.1 + x.2

/-- Blocks of `len` bytes, `n` of them. -/
def shaBlocks (len : Nat) : Nat → List Byte → List (BitVec w) → List (BitVec w)
  | 0, _, s => s
  | n + 1, m, s => shaBlocks len n (m.drop len) (shaBlock s (m.take len))

/-- A message hashed from initial values. -/
def shaRun (iv : List Nat) (m : List Byte) : List Byte :=
  let len := w / 2 * 4
  let pad := (2 * len - 1 - w / 4 - m.length % len) % len
  let f := m ++ [0x80] ++ List.replicate pad 0 ++ beBytes (w / 4) (8 * m.length)
  (shaBlocks len (f.length / len) f (iv.map (shaWord w))).flatMap fun x => beBytes (w / 8) x.toNat

end Sha

def sha256 (m : List Byte) : List Byte := shaRun (w := 32) (shaIv.take 8) m
def sha384 (m : List Byte) : List Byte := (shaRun (w := 64) (shaIv.drop 8) m).take 48
def sha512 (m : List Byte) : List Byte := shaRun (w := 64) (shaIv.take 8) m

/-- The hash of a digest length in bytes (R485). -/
def shaOf (len : Nat) (m : List Byte) : List Byte := if len = 32 then sha256 m else if len = 48 then sha384 m else sha512 m

/-- HMAC-SHA-256. -/
def hmac256 (key m : List Byte) : List Byte :=
  let k := padTo 64 (if 64 < key.length then sha256 key else key)
  sha256 (k.map (· ^^^ 0x5C) ++ sha256 (k.map (· ^^^ 0x36) ++ m))

/-! ## AES-256 -/

/-- The substitution box, entry `i` in byte `i`. -/
def aesBox : Nat :=
  0x16BB54B00F2D99416842E6BF0D89A18CDF2855CEE9871E9B948ED9691198F8E1 * 2 ^ 1792 +
  0x9E1DC186B95735610EF6034866B53E708A8BBD4B1F74DDE8C6B4A61C2E2578BA * 2 ^ 1536 +
  0x08AE7A65EAF4566CA94ED58D6D37C8E779E4959162ACD3C25C2406490A3A32E0 * 2 ^ 1280 +
  0xDB0B5EDE14B8EE4688902A22DC4F816073195D643D7EA7C41744975FEC130CCD * 2 ^ 1024 +
  0xD2F3FF1021DAB6BCF5389D928F40A351A89F3C507F02F94585334D43FBAAEFD0 * 2 ^ 768 +
  0xCF584C4A39BECB6A5BB1FC20ED00D153842FE329B3D63B52A05A6E1B1A2C8309 * 2 ^ 512 +
  0x75B227EBE28012079A059618C323C7041531D871F1E5A534CCF73F362693FDB7 * 2 ^ 256 +
  0xC072A49CAFA2D4ADF04759FA7DC982CA76ABD7FE2B670130C56F6BF27B777C63 * 2 ^ 0

/-- A byte substituted. -/
def aesSub (b : Byte) : Byte := BitVec.ofNat 8 (aesBox / 2 ^ (8 * b.toNat))

/-- Doubling in the field of AES. -/
def aesDbl (b : Byte) : Byte := if b.msb then (b <<< 1) ^^^ 0x1B else b <<< 1

/-- Exclusive or of byte lists. -/
def xorBytes (a b : List Byte) : List Byte := (a.zip b).map fun x => x.1 ^^^ x.2

/-- Key words: `n` more after the ones given, newest first; `i` is the number of the next word, `rc` its round constant. -/
def aesExpand : Nat → Nat → Byte → List (List Byte) → List (List Byte)
  | 0, _, _, l => l
  | n + 1, i, rc, l =>
    let t := l.headD []
    let u := if i % 8 = 0 then xorBytes ((t.drop 1 ++ t.take 1).map aesSub) [rc, 0, 0, 0]
      else if i % 8 = 4 then t.map aesSub else t
    aesExpand n (i + 1) (if i % 8 = 0 then aesDbl rc else rc) (xorBytes u (l.getD 7 []) :: l)

/-- The fifteen round keys of a 32-byte key. -/
def aesKeys (key : List Byte) : List (List Byte) :=
  let w := (aesExpand 52 8 1 (((List.range 8).map fun i => slice key (4 * i) 4).reverse)).reverse
  (List.range 15).map fun i => (w.drop (4 * i)).take 4 |>.flatten

/-- Substitution and the shift of the rows. -/
def aesShift (s : List Byte) : List Byte := (List.range 16).map fun i => aesSub (s.getD ((5 * i) % 16) 0)

/-- The columns mixed. -/
def aesMix (s : List Byte) : List Byte :=
  (List.range 16).map fun i =>
    let at_ := fun k => s.getD (i / 4 * 4 + (i + k) % 4) 0
    aesDbl (at_ 0) ^^^ aesDbl (at_ 1) ^^^ at_ 1 ^^^ at_ 2 ^^^ at_ 3

/-- One block enciphered. -/
def aesBlock (keys : List (List Byte)) (b : List Byte) : List Byte :=
  let s := ((keys.drop 1).take 13).foldl (fun s k => xorBytes (aesMix (aesShift s)) k) (xorBytes b (keys.headD []))
  xorBytes (aesShift s) (keys.getLastD [])

/-! ## GCM -/

/-- Product in the field of GHASH; bit 0 of the standard is the most significant. -/
def ghMul (x y : BitVec 128) : BitVec 128 :=
  ((List.range 128).foldl (fun (a : BitVec 128 × BitVec 128) i =>
    (if x.getMsbD i then a.1 ^^^ a.2 else a.1,
      if a.2.getLsbD 0 then (a.2 >>> 1) ^^^ (0xE1 <<< 120) else a.2 >>> 1)) (0, y)).1

/-- Bytes padded with zeros to a multiple of 16. -/
def pad16 (l : List Byte) : List Byte := l ++ List.replicate ((16 - l.length % 16) % 16) 0

/-- GHASH of bytes that are a multiple of 16. -/
def ghash (h : BitVec 128) (l : List Byte) : BitVec 128 :=
  (List.range (l.length / 16)).foldl (fun y i => ghMul (y ^^^ BitVec.ofNat 128 (be l (16 * i) 16)) h) 0

/-- Counter block `i` of a 12-byte IV. -/
def gcmCtr (iv : List Byte) (i : Nat) : List Byte := iv ++ beBytes 4 i

/-- The text enciphered, or deciphered, in counter mode. -/
def gcmText (keys : List (List Byte)) (iv t : List Byte) : List Byte :=
  xorBytes t ((List.range ((t.length + 15) / 16)).flatMap fun i => aesBlock keys (gcmCtr iv (i + 2)))

/-- The tag of a ciphertext. -/
def gcmTag (keys : List (List Byte)) (iv aad c : List Byte) : List Byte :=
  let h := BitVec.ofNat 128 (beNat (aesBlock keys (List.replicate 16 0)))
  let g := ghash h (pad16 aad ++ pad16 c ++ beBytes 8 (8 * aad.length) ++ beBytes 8 (8 * c.length))
  xorBytes (beBytes 16 g.toNat) (aesBlock keys (gcmCtr iv 1))

/-- AES-256-GCM: ciphertext and tag. -/
def gcmSeal (key iv aad t : List Byte) : List Byte :=
  let k := aesKeys key
  let c := gcmText k iv t
  c ++ gcmTag k iv aad c

/-- AES-256-GCM: the text where the tag holds. -/
def gcmOpen (key iv aad c tag : List Byte) : Option (List Byte) :=
  let k := aesKeys key
  if gcmTag k iv aad c = tag then some (gcmText k iv c) else none

end Sys2Proof.Machine
end

