-- ==== Sys2Proof/Machine/Curves.lean ====
section
/-! DEFINITION. The public-key arithmetic that spec/18 names by its standards: the curves P-256, P-384 and P-521 (FIPS 186-5,
SP 800-186), Ed25519 (RFC 8032), X25519 (RFC 7748), RSA (RFC 8017), and the hedged nonce of RFC 6979. -/

namespace Sys2Proof.Machine

/-! ## Numbers -/

/-- `b` to the `e` modulo `m`. -/
def powMod (b e m : Nat) : Nat :=
  (List.range (Nat.log2 e + 1)).foldr (fun i r => let r := r * r % m; if e.testBit i then r * b % m else r) (1 % m) |> fun r =>
    if e = 0 then 1 % m else r

/-- `a` minus `b` modulo `p`. -/
def subMod (p a b : Nat) : Nat := (a % p + p - b % p) % p

/-- The inverse modulo a prime. -/
def invMod (p a : Nat) : Nat := powMod a (p - 2) p

/-- Length in bits. -/
def bitLen (n : Nat) : Nat := if n = 0 then 0 else Nat.log2 n + 1

/-! ## Weierstrass curves -/

/-- A prime curve with a = −3: field, b, order, base point, bytes of the field. -/
structure Curve where
  p : Nat
  b : Nat
  n : Nat
  gx : Nat
  gy : Nat
  len : Nat
deriving DecidableEq, Repr

def curve256 : Curve :=
  { p := 0xFFFFFFFF00000001000000000000000000000000FFFFFFFFFFFFFFFFFFFFFFFF
    b := 0x5AC635D8AA3A93E7B3EBBD55769886BC651D06B0CC53B0F63BCE3C3E27D2604B
    n := 0xFFFFFFFF00000000FFFFFFFFFFFFFFFFBCE6FAADA7179E84F3B9CAC2FC632551
    gx := 0x6B17D1F2E12C4247F8BCE6E563A440F277037D812DEB33A0F4A13945D898C296
    gy := 0x4FE342E2FE1A7F9B8EE7EB4A7C0F9E162BCE33576B315ECECBB6406837BF51F5
    len := 32 }

def curve384 : Curve :=
  { p := 2 ^ 384 - 2 ^ 128 - 2 ^ 96 + 2 ^ 32 - 1
    b := 0xB3312FA7E23EE7E4988E056BE3F82D19181D9C6EFE8141120314088F5013875AC656398D8A2ED19D2A85C8EDD3EC2AEF
    n := 0xFFFFFFFFFFFFFFFFFFFFFFFFFFFFFFFFFFFFFFFFFFFFFFFFC7634D81F4372DDF581A0DB248B0A77AECEC196ACCC52973
    gx := 0xAA87CA22BE8B05378EB1C71EF320AD746E1D3B628BA79B9859F741E082542A385502F25DBF55296C3A545E3872760AB7
    gy := 0x3617DE4A96262C6F5D9E98BF9292DC29F8F41DBD289A147CE9DA3113B5F0B8C00A60B1CE1D7E819D7A431D7C90EA0E5F
    len := 48 }

def curve521 : Curve :=
  { p := 2 ^ 521 - 1
    b := 0x51953EB9618E1C9A1F929A21A0B68540EEA2DA725B99B315F3B8B489918EF109E156193951EC7E937B1652C0BD3BB1BF073573DF883D2C34F1EF451FD46B503F00
    n := 0x1FFFFFFFFFFFFFFFFFFFFFFFFFFFFFFFFFFFFFFFFFFFFFFFFFFFFFFFFFFFFFFFFFA51868783BF2F966B7FCC0148F709A5D03BB5C9B8899C47AEBB6FB71E91386409
    gx := 0xC6858E06B70404E9CD9E3ECB662395B4429C648139053FB521F828AF606B4D3DBAA14B5E77EFE75928FE1DC127A2FFA8DE3348B3C1856A429BF97E7E31C2E5BD66
    gy := 0x11839296A789A3BC0045C8A5FB42C7D1BD998F54449579B446817AFBD17273E662C97EE72995EF42640C550B9013FAD0761353C7086A272C24088BE94769FD16650
    len := 66 }

/-- The curve of ALG 1, 2 or 3. -/
def curveOf (alg : Nat) : Curve := if alg = 1 then curve256 else if alg = 2 then curve384 else curve521

/-- An affine point; none is the point at infinity. -/
abbrev EcPoint := Option (Nat × Nat)

/-- The sum of two points. -/
def ecAdd (c : Curve) : EcPoint → EcPoint → EcPoint
  | none, q => q
  | p, none => p
  | some (x, y), some (u, v) =>
    if x = u ∧ (y + v) % c.p = 0 then none
    else
      let l := if x = u then subMod c.p (3 * x * x) 3 * invMod c.p (2 * y) % c.p
        else subMod c.p v y * invMod c.p (subMod c.p u x) % c.p
      let r := subMod c.p (l * l) (x + u)
      some (r, subMod c.p (l * subMod c.p x r) y)

/-- A multiple of a point. -/
def ecMul (c : Curve) (k : Nat) (q : EcPoint) : EcPoint :=
  (List.range (bitLen k)).foldr (fun i r => let r := ecAdd c r r; if k.testBit i then ecAdd c r q else r) none

def ecBase (c : Curve) : EcPoint := some (c.gx, c.gy)

/-- The right side of the curve equation. -/
def ecRhs (c : Curve) (x : Nat) : Nat := (x * x * x + subMod c.p c.b (3 * x)) % c.p

/-- A point from its encoding where it passes the checks of R486. -/
def ecDecode (c : Curve) (l : List Byte) : EcPoint :=
  let x := be l 1 c.len
  let tag := le l 0 1
  if tag = 4 ∧ l.length = 1 + 2 * c.len then
    let y := be l (1 + c.len) c.len
    if x < c.p ∧ y < c.p ∧ y * y % c.p = ecRhs c x then some (x, y) else none
  else if (tag = 2 ∨ tag = 3) ∧ l.length = 1 + c.len then
    let r := powMod (ecRhs c x) ((c.p + 1) / 4) c.p
    if x < c.p ∧ r * r % c.p = ecRhs c x then some (x, if r % 2 = tag % 2 then r else subMod c.p 0 r) else none
  else none

/-- The uncompressed encoding. -/
def ecEncode (c : Curve) : EcPoint → List Byte
  | some (x, y) => 4 :: (beBytes c.len x ++ beBytes c.len y)
  | none => [0]

/-- The public form of a scalar. -/
def ecPublic (c : Curve) (d : Nat) : List Byte := ecEncode c (ecMul c d (ecBase c))

/-- A digest as a number, its leftmost bits where it is longer than the order (FIPS 186-5). -/
def ecHash (c : Curve) (h : List Byte) : Nat := beNat h / 2 ^ (8 * h.length - bitLen c.n)

/-- An ECDSA signature of a digest holds under a point. -/
def ecdsaVerify (c : Curve) (q : EcPoint) (h sig : List Byte) : Bool :=
  let r := be sig 0 c.len
  let s := be sig c.len c.len
  let w := invMod c.n s
  let x := ecAdd c (ecMul c (ecHash c h * w % c.n) (ecBase c)) (ecMul c (r * w % c.n) q)
  decide (sig.length = 2 * c.len) && decide (0 < r) && decide (r < c.n) && decide (0 < s) && decide (s < c.n) &&
    (match x with | some (u, _) => decide (u % c.n = r) | none => false)

/-! ## Deterministic nonces with additional data (RFC 6979 3.2, 3.6) -/

/-- HMAC with the hash of a digest length. -/
def hmacOf (len : Nat) (key m : List Byte) : List Byte :=
  let bl := if len = 32 then 64 else 128
  let k := padTo bl (if bl < key.length then shaOf len key else key)
  shaOf len (k.map (· ^^^ 0x5C) ++ shaOf len (k.map (· ^^^ 0x36) ++ m))

/-- Octets of one candidate: V chained until long enough; the bytes and the last V. -/
def rfc6979T (len : Nat) (key : List Byte) (need : Nat) : Nat → List Byte → List Byte → List Byte × List Byte
  | 0, v, t => (t, v)
  | n + 1, v, t =>
    if need ≤ t.length then (t, v)
    else let v := hmacOf len key v; rfc6979T len key need n v (t ++ v)

/-- The leftmost bits of octets, as many as the order has (bits2int). -/
def bits2int (c : Curve) (l : List Byte) : Nat := beNat l / 2 ^ (8 * l.length - bitLen c.n)

/-- Candidates are drawn until one lies in 1 to n − 1. -/
def rfc6979Loop (c : Curve) (len : Nat) : Nat → List Byte → List Byte → Nat
  | 0, _, _ => 1
  | n + 1, key, v =>
    let t := rfc6979T len key c.len 4 v []
    let k := bits2int c (t.1.take c.len)
    if 0 < k ∧ k < c.n then k
    else
      let key := hmacOf len key (t.2 ++ [0])
      rfc6979Loop c len n key (hmacOf len key t.2)

/-- The nonce of a digest, hedged with additional data. -/
def rfc6979 (c : Curve) (d : Nat) (h extra : List Byte) : Nat :=
  let len := h.length
  let seed := beBytes c.len d ++ beBytes c.len (bits2int c h % c.n) ++ extra
  let v := List.replicate len (1 : Byte)
  let key := hmacOf len (List.replicate len 0) (v ++ [0] ++ seed)
  let v := hmacOf len key v
  let key := hmacOf len key (v ++ [1] ++ seed)
  rfc6979Loop c len 64 key (hmacOf len key v)

/-- An ECDSA signature of a digest, hedged with DRBG output (R485). -/
def ecdsaSign (c : Curve) (d : Nat) (h extra : List Byte) : List Byte :=
  let k := rfc6979 c d h extra
  match ecMul c k (ecBase c) with
  | some (x, _) =>
    let r := x % c.n
    beBytes c.len r ++ beBytes c.len (invMod c.n k * (ecHash c h + r * d) % c.n)
  | none => List.replicate (2 * c.len) 0

/-! ## Ed25519 and X25519 -/

def edP : Nat := 2 ^ 255 - 19
def edL : Nat := 2 ^ 252 + 27742317777372353535851937790883648493
def edD : Nat := 0x52036CEE2B6FFE738CC740797779E89800700A4D4141D8AB75EB4DCA135978A3

/-- The sum of two points. -/
def edAdd (a b : Nat × Nat) : Nat × Nat :=
  let t := edD * (a.1 * b.1 % edP) % edP * (a.2 * b.2 % edP) % edP
  ((a.1 * b.2 + b.1 * a.2) * invMod edP (1 + t) % edP, (a.2 * b.2 + a.1 * b.1) * invMod edP (subMod edP 1 t) % edP)

/-- A multiple of a point. -/
def edMul (k : Nat) (q : Nat × Nat) : Nat × Nat :=
  (List.range (bitLen k)).foldr (fun i r => let r := edAdd r r; if k.testBit i then edAdd r q else r) (0, 1)

/-- A point from its encoding (RFC 8032 5.1.3; R486). -/
def edDecode (l : List Byte) : Option (Nat × Nat) :=
  let n := leNat l
  let y := n % 2 ^ 255
  let sign := n / 2 ^ 255
  let u := subMod edP (y * y) 1
  let v := (edD * y * y + 1) % edP
  let w := u * invMod edP v % edP
  let r := powMod w ((edP + 3) / 8) edP
  let x := if r * r % edP = w then r else r * powMod 2 ((edP - 1) / 4) edP % edP
  if l.length ≠ 32 ∨ edP ≤ y ∨ x * x % edP ≠ w ∨ (x = 0 ∧ sign = 1) then none
  else some (if x % 2 = sign then x else edP - x, y)

def edEncode (a : Nat × Nat) : List Byte := leBytes 32 (a.2 + 2 ^ 255 * (a.1 % 2))

/-- The base point. -/
def edBase : Nat × Nat := (edDecode (leBytes 32 (4 * invMod edP 5 % edP))).getD (0, 1)

/-- A public key has an order that divides 8. -/
def edSmall (a : Nat × Nat) : Bool := decide (edMul 8 a = (0, 1))

/-- Scalar and prefix of a seed. -/
def edSecret (seed : List Byte) : Nat × List Byte :=
  let h := sha512 seed
  ((leNat (h.take 32) % 2 ^ 254) / 8 * 8 + 2 ^ 254, h.drop 32)

def edPublic (seed : List Byte) : List Byte := edEncode (edMul (edSecret seed).1 edBase)

/-- A PureEdDSA signature. -/
def edSign (seed m : List Byte) : List Byte :=
  let s := edSecret seed
  let r := leNat (sha512 (s.2 ++ m)) % edL
  let re := edEncode (edMul r edBase)
  let k := leNat (sha512 (re ++ edPublic seed ++ m))
  re ++ leBytes 32 ((r + k * s.1) % edL)

/-- The cofactored check (R486). -/
def edVerify (pub : Nat × Nat) (pubBytes m sig : List Byte) : Bool :=
  let s := leNat (sig.drop 32)
  let k := leNat (sha512 (sig.take 32 ++ pubBytes ++ m))
  match edDecode (sig.take 32) with
  | some r => decide (sig.length = 64) && decide (s < edL) &&
      decide (edMul 8 (edMul s edBase) = edAdd (edMul 8 r) (edMul 8 (edMul k pub)))
  | none => false

/-- One step of the Montgomery ladder on (x2, z2, x3, z3). -/
def xStep (u : Nat) (s : Nat × Nat × Nat × Nat) : Nat × Nat × Nat × Nat :=
  let p := edP
  let a := (s.1 + s.2.1) % p
  let b := subMod p s.1 s.2.1
  let c := (s.2.2.1 + s.2.2.2) % p
  let d := subMod p s.2.2.1 s.2.2.2
  let aa := a * a % p
  let bb := b * b % p
  let e := subMod p aa bb
  let da := d * a % p
  let cb := c * b % p
  let x3 := (da + cb) * (da + cb) % p
  let dm := subMod p da cb
  (aa * bb % p, e * (aa + 121665 * e) % p, x3, u * (dm * dm) % p)

/-- X25519 (RFC 7748). -/
def x25519 (k u : List Byte) : List Byte :=
  let n := leNat (k.take 32) % 2 ^ 254 / 8 * 8 + 2 ^ 254
  let x := leNat (u.take 32) % 2 ^ 255 % edP
  let r := (List.range 255).foldr (fun i s =>
    let sw := fun (t : Nat × Nat × Nat × Nat) => if n.testBit i then (t.2.2.1, t.2.2.2, t.1, t.2.1) else t
    sw (xStep x (sw s))) (1, 0, x, 1)
  leBytes 32 (r.1 * invMod edP r.2.1 % edP)

/-! ## RSA -/

/-- MGF1 with the hash of a length. -/
def mgf1 (h : Nat) (seed : List Byte) (n : Nat) : List Byte :=
  ((List.range ((n + h - 1) / h)).flatMap fun i => shaOf h (seed ++ beBytes 4 i)).take n

/-- EMSA-PSS with a salt of the digest length, for a modulus of `bits` bits. -/
def pssEncode (bits : Nat) (digest salt : List Byte) : List Byte :=
  let h := digest.length
  let len := (bits - 1 + 7) / 8
  let hh := shaOf h (List.replicate 8 0 ++ digest ++ salt)
  let db := List.replicate (len - 2 * h - 2) 0 ++ [1] ++ salt
  let masked := xorBytes db (mgf1 h hh db.length)
  let keep := 8 - (8 * len - (bits - 1))
  (masked.take 1).map (fun b => BitVec.ofNat 8 (b.toNat % 2 ^ keep)) ++ masked.drop 1 ++ hh ++ [0xBC]

/-- The check of EMSA-PSS: the salt is read from the encoded message and the encoding is formed again. -/
def pssVerify (bits : Nat) (digest em : List Byte) : Bool :=
  let h := digest.length
  let len := (bits - 1 + 7) / 8
  let masked := em.take (len - h - 1)
  let hh := slice em (len - h - 1) h
  let db := xorBytes masked (mgf1 h hh masked.length)
  let salt := db.drop (db.length - h)
  decide (2 * h + 2 ≤ len) && decide (em = pssEncode bits digest salt)

/-- DigestInfo of a digest length (RFC 8017 9.2). -/
def digestInfo (h : Nat) : List Byte :=
  [0x30, BitVec.ofNat 8 (h + 17), 0x30, 0x0D, 0x06, 0x09, 0x60, 0x86, 0x48, 0x01, 0x65, 0x03, 0x04, 0x02,
    (if h = 32 then 1 else if h = 48 then 2 else 3), 0x05, 0x00, 0x04, BitVec.ofNat 8 h]

/-- EMSA-PKCS1-v1_5 for a modulus of `len` bytes. -/
def pkcs1 (len : Nat) (digest : List Byte) : List Byte :=
  let t := digestInfo digest.length ++ digest
  [0, 1] ++ List.replicate (len - t.length - 3) 0xFF ++ [0] ++ t

/-- The encoded message of a digest as a number. -/
def rsaEncode (n scheme : Nat) (digest salt : List Byte) : Nat :=
  if scheme = 0 then beNat (pssEncode (bitLen n) digest salt) else beNat (pkcs1 ((bitLen n + 7) / 8) digest)

/-- An RSA signature of a digest holds. -/
def rsaVerify (n e scheme : Nat) (digest sig : List Byte) : Bool :=
  let s := beNat sig
  let m := powMod s e n
  decide (s < n) &&
    (if scheme = 0 then
      decide (m < 2 ^ (8 * ((bitLen n - 1 + 7) / 8))) && pssVerify (bitLen n) digest (beBytes ((bitLen n - 1 + 7) / 8) m)
     else decide (m = rsaEncode n 1 digest []))

/-- The private operation from the CRT parts. -/
def rsaPrivate (p q dp dq qinv m : Nat) : Nat :=
  let a := powMod m dp p
  let b := powMod m dq q
  b + q * (qinv * subMod p a b % p)

end Sys2Proof.Machine
end

