-- ==== Sys2Proof/Machine/Engine.lean ====
section
/-! DEFINITION. Engines (spec/11 R280-R296, R307; spec/13 R352-R357, R366-R370): entry, microwords, lookups, machine checks, and
the base program as the spec describes it. -/

namespace Sys2Proof.Machine

/-! ## Ends of a microprogram -/

/-- A packet is finished: it goes to the queue manager (R290). -/
def finishPkt (s : State) (p : Pkt) : State :=
  setPkt s { p with stage := .finished, ctx := { p.ctx with wait := none } }

/-- A packet is discarded by its program: it leaves its engine and is done (R387). -/
def engineDiscard (s : State) (p : Pkt) : State := discardPkt (engineDone s p) p

/-- The base program discards a frame under a selection of the FWD unit (0 = none, R592); a frame that an HSR port passes on goes
out all the same (R368). -/
def baseDrop (s : State) (p : Pkt) (sel : Nat) : State :=
  let s := if sel = 0 then s else count s 164 sel 1 p.part
  if p.pass.isSome then finishPkt s { p with dest := none, punt := none, rw := none } else engineDiscard s p

/-- The base program punts a frame (R360): reasons 4 and 5 to the cluster, the rest to the host. -/
def basePunt (s : State) (p : Pkt) (reason : Nat) : State :=
  finishPkt s { p with
    punt := some (BitVec.ofNat 8 reason), dest := some (if reason = 4 ∨ reason = 5 then 101 else 100) }

/-! ## Entry (R285) -/

/-- The registers at entry. -/
def entryRegs (s : State) (p : Pkt) : List W32 :=
  let f := p.bytes
  let n := f.length
  [0, 0, 0, 0, 0, 0, w32 (be f (n - 2) 2), w32 (be f (n - 6) 4), 0, 0, 0, 0,
    w32 (p.port + 256 * p.part + 65536 * p.epoch.toNat), w32 (n % 2 ^ 14 + 65536 * p.seq.toNat),
    spreadHash s (epochOf s p.epoch) p.port f, 0]

/-- The head of an engine's dispatch queue enters the engine where fewer than 8 packets are in flight (R120). -/
def enterEngine (s : State) (e : Nat) (p : Pkt) : Option State :=
  let x := engAt s e
  if p.stage = .dispatched ∧ x.disp.head? = some p.id ∧ x.held.length < 8 then
    some (setPkt (setEng s e { x with disp := x.disp.tail, held := x.held ++ [p.id] })
      { p with stage := .inEngine, ctx := { ctxZero with g := entryRegs s p } })
  else none

/-! ## Machine checks (R292, R293) -/

/-- A machine check ends a packet's microprogram. -/
def machineCheck (s : State) (e : Nat) (p : Pkt) (cause addr : Nat) : State :=
  let x := engAt s e
  let s := setEng s e { x with
    mCause := BitVec.ofNat 3 cause
    mAddr := BitVec.ofNat 12 addr
    mCount := satInc x.mCount }
  let s := kFault s (64 + e) (0x30 + cause) (some p.part) (addr + 2 ^ 16 * p.port + 2 ^ 32 * p.seq.toNat)
  engineDiscard s p

/-- A fetched word fails its parity: a machine check; a second failure of the word within 10^6 grains fences the engine. -/
def parityCheck (s : State) (e : Nat) (p : Pkt) (base rel : Nat) : State :=
  let x := engAt s e
  let w := base + rel
  let again := x.parityAt.any fun a => decide (a.1 = w) && decide (since s a.2 < 1000000)
  let y := { x with
    badWords := if x.badWords.contains w then x.badWords else w :: x.badWords
    parityAt := if again then x.parityAt else (w, s.gr.count) :: x.parityAt.filter fun a => decide (a.1 ≠ w) }
  let s := machineCheck (setEng s e y) e p 1 rel
  if again then fFault s (64 + e) 0x21 w else s

/-- The word is rewritten from the lowest-numbered live engine whose copy passes; without one the engine is fenced (R293). -/
def ucodeParityRewrite (e w : Nat) (s : State) : State :=
  let x := engAt s e
  if x.badWords.contains w then
    if (liveEngines s).any fun k => decide (k ≠ e) && !(engAt s k).badWords.contains w then
      setEng s e { x with badWords := x.badWords.filter fun k => decide (k ≠ w) }
    else fFault s (64 + e) 0x21 w
  else s

def execUcodeParityRewrite (e addr : Nat) (s : State) : Host.Outcome State Fault Refusal :=
  ev (decide (e < 64) && decide (addr < 4096)) (ucodeParityRewrite e addr s)

/-! ## Microwords (R282-R290) -/

/-- Microword at a physical address: as last written, else the base program's, which boot loads into both regions (R281). -/
def ucodeWord (s : State) (a : Nat) : BitVec 128 :=
  (tget (fun _ => none) s.cfg.ucode a).getD (Config.baseWord (a % 2048))

/-- Field of a microword: `len` bits from bit `lo`. -/
def mf (w : BitVec 128) (lo len : Nat) : Nat := w.toNat / 2 ^ lo % 2 ^ len

/-- Register of a context. -/
def reg (c : EngCtx) (k : Nat) : W32 := if k = 0 then 0 else wd c.g k

/-- Write of a register; G0 discards it. -/
def setReg (c : EngCtx) (k : Nat) (v : W32) : EngCtx := if k = 0 then c else { c with g := c.g.set k v }

/-- Bits of a frame's window as a number, most significant first (R286). -/
def bitsAt (f : List Byte) (start width : Nat) : Nat :=
  be f (start / 8) 4 * 2 ^ (start % 8) / 2 ^ (32 - width) % 2 ^ width

/-- Phase 1: the extract (R286). -/
def mwExtract (p : Pkt) (w : BitVec 128) (c : EngCtx) : EngCtx :=
  if mf w 59 1 = 1 then
    let start := (c.cursor + mf w 53 6) * 8 + mf w 50 3
    let width := mf w 46 4 + 1
    let f := p.bytes.take 256
    if f.length * 8 < start + width then setReg { c with end_ := true } (mf w 42 4) 0
    else setReg c (mf w 42 4) (w32 (bitsAt (f ++ [0, 0, 0]) start width))
  else c

/-- Phase 2: the ALU (R287). -/
def mwAlu (w : BitVec 128) (c : EngCtx) : EngCtx :=
  let a := reg c (mf w 81 4)
  let b := if mf w 76 1 = 1 then w32 (mf w 60 16) else reg c (mf w 77 4)
  let d := mf w 85 4
  let flags := fun (c : EngCtx) (r : W32) (cy : Bool) => { c with z := decide (r = 0), n := r.getLsbD 31, c := cy }
  let put := fun (r : W32) (cy : Bool) => flags (setReg c d r) r cy
  match mf w 89 4 with
  | 1 => setReg c d b
  | 2 => put (a + b) (decide (2 ^ 32 ≤ a.toNat + b.toNat))
  | 3 => put (a - b) (decide (a.toNat < b.toNat))
  | 4 => put (a &&& b) false
  | 5 => put (a ||| b) false
  | 6 => put (a ^^^ b) false
  | 7 => put (a <<< (b.toNat % 32)) false
  | 8 => put (a >>> (b.toNat % 32)) false
  | 9 => flags c (a - b) (decide (a.toNat < b.toNat))
  | 10 => flags c (a &&& b) false
  | 11 => setReg c d (w32 (b.toNat % 65536 * 65536 + (reg c d).toNat % 65536))
  | 12 => put (if a.toNat ≤ b.toNat then a else b) false
  | 13 => put (if a.toNat ≤ b.toNat then b else a) false
  | 14 => setReg c d (w32 c.cursor)
  | 15 => { c with cursor := min 256 (b.toNat % 512) }
  | _ => c

/-- The class rule that matches (R296): the lowest of the partition's rules in the bank of the epoch. -/
def clsMatch (s : State) (e : Epoch) (n : Nat) (key : BitVec 64) : Option (List W32) :=
  (List.range 64).findSome? fun r =>
    let v := setVal s e sCLS_RULE (64 * n + r)
    let k : BitVec 64 := BitVec.ofNat 64 ((wd v 0).toNat + 2 ^ 32 * (wd v 1).toNat)
    let m : BitVec 64 := BitVec.ofNat 64 ((wd v 2).toNat + 2 ^ 32 * (wd v 3).toNat)
    if bit (wd v 4) 0 && decide (k &&& m = key &&& m) then some v else none

/-- A lookup is issued: the engine counts it and the packet waits (R290, R592). -/
def issue (s : State) (e : Nat) (p : Pkt) (l : Lookup) : State × Pkt :=
  (count s (100 + e) 4 1 p.part, { p with ctx := { p.ctx with wait := some l } })

/-- The learning event of a packet for a key. -/
def pktLearn (s : State) (p : Pkt) (mac : BitVec 48) (vid : BitVec 12) : State :=
  fdbLearn s { pt := p.part, mac := mac, vid := vid, port := p.port } p.grain

/-- Phase 3: the action (R290, R291). -/
def mwAct (s : State) (e : Nat) (w : BitVec 128) (p : Pkt) : State × Pkt :=
  let c := p.ctx
  let arg := mf w 29 8
  let gk := reg c (arg / 16)
  match mf w 37 5 with
  | 1 => (s, if arg % 8 < 6 then { p with ctx := { c with key := c.key.set (arg % 8) gk } } else p)
  | 2 =>
    let key : BitVec 64 := BitVec.ofNat 64 ((wd c.key 0).toNat + 2 ^ 32 * (wd c.key 1).toNat)
    (match clsMatch s (epochOf s p.epoch) p.part key with
     | some v => (s, { p with ctx := { setReg (setReg c 10 (wd v 4)) 9 (wd v 5) with hit := true } })
     | none => (s, { p with ctx := { setReg (setReg c 10 0) 9 0 with hit := false } }))
  | 3 => issue s e p (.cam (arg % 64))
  | 4 => issue s e p .fdb
  | 5 =>
    let mac := BitVec.ofNat 48 ((wd c.key 0).toNat + 2 ^ 32 * (wd c.key 1).toNat)
    (count (pktLearn s p mac (BitVec.ofNat 12 (wd c.key 2).toNat)) (100 + e) 4 1 p.part, p)
  | 6 => issue s e p (.t2 (arg % 4) gk.toNat)
  | 7 => issue s e p (.stateLd (gk.toNat % 32))
  | 8 => issue s e p (.stateSt (gk.toNat % 32) (reg c 11))
  | 9 => (s, { p with tc := BitVec.ofNat 3 arg })
  | 10 => (s, { p with dest := some gk, punt := none })
  | 11 => (s, { p with flow := BitVec.ofNat 16 gk.toNat })
  | 12 => (s, { p with rw := some (BitVec.ofNat 16 gk.toNat) })
  | 13 => (s, { p with dest := some 100, punt := some (BitVec.ofNat 8 arg) })
  | _ => (s, p)

/-- A condition bit (R288). -/
def condBit (s : State) (p : Pkt) (k : Nat) : Bool :=
  let c := p.ctx
  match k with
  | 0 => false
  | 1 => true
  | 2 => c.z
  | 3 => c.n
  | 4 => c.c
  | 5 => c.hit
  | 6 => c.multi
  | 7 => c.lfail
  | 8 => c.end_
  | 9 => (outerVid p.bytes).isSome
  | 10 => portShared s p.port
  | 11 => decide (96 ≤ p.port) && decide (p.port < 100)
  | 12 => decide (100 ≤ p.port)
  | 13 => (ptpEvent p.ctl p.bytes).isSome
  | 14 => (redNode s (epochOf s p.epoch) p.port).isSome
  | 15 => c.stack.isEmpty
  | n => bit (reg c 15) (n - 16)

/-- Phase 5: the next address, or the machine check it raises (R289, R292). -/
def mwNext (s : State) (w : BitVec 128) (p : Pkt) (len : Nat) : EngCtx × Option Nat :=
  let c := p.ctx
  let t := mf w 114 12
  let go := fun (c : EngCtx) (a : Nat) => ({ c with pc := a }, if len ≤ a then some 2 else none)
  match mf w 126 2 with
  | 0 => go c (c.pc + 1)
  | 1 => go c t
  | 2 =>
    let sel := fun (lo : Nat) => b1 (condBit s p (mf w lo 5))
    go c (t ||| (sel 109 + 2 * sel 104 + 4 * sel 99 + 8 * sel 94))
  | _ =>
    if mf w 93 1 = 0 then
      (if 8 ≤ c.stack.length then (c, some 3) else go { c with stack := (c.pc + 1) :: c.stack } t)
    else
      match c.stack with
      | a :: r => go { c with stack := r } a
      | [] => (c, some 4)

/-- One microword of a packet in its five phases (R284). -/
def microword (s : State) (e : Nat) (p : Pkt) (base len : Nat) : State :=
  let pc := p.ctx.pc
  if 1024 ≤ p.ctx.steps then machineCheck s e p 5 pc
  else
    let w := ucodeWord s (base + pc)
    let c := mwAlu w (mwExtract p w { p.ctx with steps := p.ctx.steps + 1 })
    let a := mwAct s e w { p with ctx := c }
    let s := a.1
    let p := a.2
    let p := { p with ctx := { p.ctx with cursor := min 256 (p.ctx.cursor + mf w 21 8) } }
    if mf w 37 5 = 14 then
      if mf w 29 1 = 1 then engineDiscard s p
      else if p.dest.isNone && p.punt.isNone && p.pass.isNone && (rewriteOf s (epochOf s p.epoch) p).isNone then
        engineDiscard (count s (100 + e) 3 1 p.part) p
      else finishPkt s p
    else
      let r := mwNext s w p len
      match r.2 with
      | some cause => machineCheck s e p cause pc
      | none => setPkt s { p with ctx := r.1 }

/-! ## The base program (R294-R296, R352-R370)

The program's own words are not in the spec; what it does is. Where the region of a packet's epoch holds them unchanged, a packet
runs the program in stages, each up to a lookup; `pc` is then the stage. -/

/-- The region of an epoch holds the base program as boot loaded it. -/
def runsBase (s : State) (e : Epoch) : Bool :=
  let b := ucodeBase s e
  (decide (b = 0) || decide (b = 2048)) && decide (ucodeLen s = 2048) &&
    s.cfg.ucode.all fun x => decide (x.1 < b) || decide (b + 2048 ≤ x.1)

/-- Stage and waits of a base run. -/
def stageAt (p : Pkt) (k : Nat) : Pkt := { p with ctx := { p.ctx with pc := k } }

/-- RCT of a frame: SeqNr and LanId where it is valid (R367; log entry 43). -/
def rctOf (f : List Byte) : Option (BitVec 16 × Nat) :=
  let i := f.length - 6
  let ls := u16 f (i + 2)
  if 20 ≤ f.length ∧ u16 f (i + 4) = 0x88FB ∧ (ls / 4096 = 0xA ∨ ls / 4096 = 0xB) ∧ ls % 4096 = lsdu f % 4096 then
    some (BitVec.ofNat 16 (u16 f i), ls / 4096 - 0xA)
  else none

/-- The frame without its RCT or HSR tag. -/
def stripRed (role : Nat) (f : List Byte) : List Byte :=
  if role = 1 then f.take (f.length - 6)
  else match (l2 f).2.1 with | some i => f.take i ++ f.drop (i + 6) | none => f

/-- Sequence number of a redundant frame. -/
def redSeq (role : Nat) (f : List Byte) : Option (BitVec 16) :=
  if role = 1 then (rctOf f).map (·.1)
  else (l2 f).2.1.map fun i => BitVec.ofNat 16 (u16 f (i + 4))

/-- An address is held in the partition's FDB on a port outside the node of the ingress port (R368). -/
def outsideNode (s : State) (p : Pkt) (mac : BitVec 48) : Bool :=
  let e := epochOf s p.epoch
  match (fdbLookup s p.part mac (BitVec.ofNat 12 (pktVid s e p))).1 with
  | some x => !(nodePorts s e p.port).contains x.port
  | none => false

/-- Stage 0: supervision frames are punted; a redundant frame asks for its window (R366-R368; log entry 56). -/
def baseRed (s : State) (e : Nat) (p : Pkt) : State :=
  let f := p.bytes
  if etherType f = 0x88FB then basePunt s p 5
  else
    match redNode s (epochOf s p.epoch) p.port with
    | none => setPkt s (stageAt p 1)
    | some (role, _) =>
      match redSeq role f with
      | none => if role = 2 then baseDrop s p 13 else setPkt s (stageAt p 1)
      | some _ =>
        if role = 2 ∧ outsideNode s p (frameSA f) then baseDrop s p 14
        else
          let side := fld (wd (setVal s (epochOf s p.epoch) sFWD_RED p.port) 0) 8 1
          let s := match rctOf f with
            | some (_, lan) => if role = 1 ∧ lan ≠ side then count s 164 10 1 p.part else s
            | none => s
          setPkt (count s (100 + e) 4 1 p.part) { p with ctx := { p.ctx with wait := some .base, pc := 1 } }

/-- The outcome of a redundancy test (R366-R368): whether the frame is forwarded, and whether it is passed on. -/
def redOutcome (s : State) (p : Pkt) (role : Nat) (deliver pass : Bool) : State :=
  let f := p.bytes
  let out := if role = 2 ∧ pass ∧ (isGroup (frameDA f) ∨ !outsideNode s p (frameDA f)) then some f else none
  let p := { p with pass := out, ctx := { p.ctx with wait := none } }
  if deliver then setPkt s { p with bytes := stripRed role f } else baseDrop s p 9

/-- The window is at the engine: the frame is tested against DELIVER and, on an HSR port, against PASS. -/
def redServe (s : State) (p : Pkt) (t : Nat) : State :=
  match redNode s (epochOf s p.epoch) p.port, tileAt s t with
  | some (role, node), some x =>
    match redSeq role p.bytes with
    | some sq =>
      let mac := frameSA p.bytes
      let r1 := match redOf x node mac with
        | some r => redTest r sq false
        | none => (redNew node mac sq false s.gr.count, true, false)
      let r2 := if role = 2 then redTest r1.1 sq true else (r1.1, false, false)
      let s := setTile s t (some (putRed x { r2.1 with last := s.gr.count } s.gr.count))
      let s := count s 167 1 1 p.part
      let s := if r1.2.2 || r2.2.2 then count s 164 12 1 p.part else s
      redOutcome s p role r1.2.1 r2.2.1
    | none => s
  | _, _ => s

/-- The window test of a packet in engine `e`: served, or waiting for its tile. -/
def redLookup (s : State) (e : Nat) (p : Pkt) : State :=
  match redNode s (epochOf s p.epoch) p.port with
  | some (_, node) =>
    match stateAccess s e p.id p.part (.inr (node, frameSA p.bytes)) with
    | (s, some t) => redServe s p t
    | (s, none) => s
  | none => setPkt s { p with ctx := { p.ctx with wait := none } }

/-- The frame as the base program parses it: its window (R286, R294). -/
def win (p : Pkt) : List Byte := p.bytes.take 256

/-- ICMPv6 type of a frame, none where it is no ICMPv6 message. -/
def icmp6 (f : List Byte) : Option Nat :=
  match l4 f 2 with
  | some (58, i) => if isIp6 f ∧ i < f.length then some (be f i 1) else none
  | _ => none

/-- IGMP, MLD, or none (R360). -/
def groupMgmt (f : List Byte) : Option Nat :=
  if isIp4 f ∧ ipProto f = 2 then some 1
  else match icmp6 f with
    | some t => if t = 130 ∨ t = 131 ∨ t = 132 ∨ t = 143 then some 2 else none
    | none => none

/-- PTP header of a frame on any transport (R294). -/
def ptpAny (f : List Byte) : Option Nat :=
  if etherType f = 0x88F7 then some (l3Off f)
  else match l4 f 2 with
    | some (17, i) => if u16 f (i + 2) = 319 ∨ u16 f (i + 2) = 320 then some (i + 8) else none
    | _ => none

/-- A PTP instance takes a message: its domain, on a port that takes part (R105, R222). -/
def ptpInstanceTakes (s : State) (port domain : Nat) : Bool :=
  !ccFenced s && s.cc.ptp.any fun e =>
    decide (le e.2 1 1 ≠ 0) && decide (le e.2 0 1 = domain) && (le e.2 7 12).testBit port

/-- PTP messages for the cluster: of an instance, and Pdelay on a P2P port (R104, R360). -/
def ptpPunt (s : State) (p : Pkt) : Bool :=
  match ptpAny (win p) with
  | some i =>
    let ty := ptpType (win p) i
    decide (p.port < 96) &&
      ((decide (ctlTc p.ctl = 2) && (decide (ty = 2) || decide (ty = 3) || decide (ty = 10))) ||
        ptpInstanceTakes s p.port (ptpDomain (win p) i))
  | none => false

/-- VLAN entry of a packet's VID, where it is valid and its partition's. -/
def vlanEnt (s : State) (e : Epoch) (p : Pkt) : Option (List W32) :=
  let v := pktVid s e p
  if 1 ≤ v ∧ v ≤ 4094 ∧ claimed s e p.part sFWD_MCAST (4096 + v) then some (mcast s e (4096 + v)) else none

/-- Router MAC of the packet's partition. -/
def rmac (s : State) (e : Epoch) (n : Nat) : BitVec 48 := macOf (wd (ptnEntry s e n) 0) (wd (ptnEntry s e n) 1)

/-- ARP and Neighbour Discovery addressed to RMAC or broadcast on a ROUTE VLAN (R360; log entry 57). -/
def arpPunt (s : State) (e : Epoch) (p : Pkt) : Bool :=
  let f := win p
  let da := frameDA f
  let me := decide (da = rmac s e p.part)
  let nd := match icmp6 f with | some t => decide (133 ≤ t) && decide (t ≤ 137) | none => false
  (match vlanEnt s e p with | some v => bit (wd v 0) 2 | none => false) &&
    ((decide (etherType f = 0x0806) && (me || decide (da = 0xFFFFFFFFFFFF))) || (nd && (me || isGroup da)))

/-- A GOOSE or SV frame (R294). -/
def isGooseSv (f : List Byte) : Bool := decide (etherType f = 0x88B8) || decide (etherType f = 0x88BA)

/-- The class key: the Ethertype in [47:32], the APPID of GOOSE and SV in [15:0]; the spec gives no other bit (R296, log entry
58). -/
def classKey (p : Pkt) : BitVec 64 :=
  let f := win p
  let o := (Config.classKeyBits f p.port).toNat
  let low := if isGooseSv f then u16 f (l3Off f) else o % 65536
  BitVec.ofNat 64 (o / 2 ^ 48 * 2 ^ 48 + etherType f * 2 ^ 32 + o / 65536 % 65536 * 65536 + low)

/-- The check of a frame's security extension (R369, R370): none where the flow is not checked. -/
def tagFails (s : State) (p : Pkt) : Bool :=
  let w := tget (fun _ => (0 : BitVec 16)) s.fwd.tagFlows p.flow.toNat
  let mode := w.toNat % 4
  let slot := w.toNat / 4 % 64
  if p.flow.toNat < 4096 ∧ mode ≠ 0 ∧ w.toNat / 256 = p.part ∧ isGooseSv (win p) then
    s.pka.fenced ||
      (match tget (fun _ => none) s.pka.slots slot with
       | some k => !Config.tagOk mode k.priv p.bytes
       | none => true)
  else false

/-- The ACL key (R357). -/
def aclKey (p : Pkt) (tc : Nat) : BitVec 192 :=
  let f := win p
  let i := l3Off f
  let v4 := isIp4 f
  let v6 := isIp6 f
  let low := if v4 then be f (i + 16) 4 + 2 ^ 32 * be f (i + 12) 4
    else if v6 then be f (i + 28) 4 + 2 ^ 32 * be f (i + 24) 4
    else be f 0 6 + 2 ^ 48 * (if isGooseSv f then u16 f i else 0)
  let dscp := if v4 then be f (i + 1) 1 / 4 else if v6 then u16 f i / 64 % 64 else 0
  let frag := laterFragment f 2
  let pp := ports f 2
  let proto := lastProto f 2
  BitVec.ofNat 192
    (low + 2 ^ 64 * proto + 2 ^ 72 * dscp + 2 ^ 78 * p.port + 2 ^ 85 * b1 v4 + 2 ^ 86 * b1 v6 + 2 ^ 87 * b1 frag + 2 ^ 88 * tc +
      2 ^ 128 * pp.1 + 2 ^ 144 * pp.2 + 2 ^ 160 * ((outerVid p.bytes).getD 0) + 2 ^ 176 * etherType f)

/-- Key words of a key. -/
def keyWords (k : BitVec 192) : List W32 := (List.range 6).map fun i => w32 (k.toNat / 2 ^ (32 * i))

/-- A CAM lookup of the base program under a profile; the packet waits, and goes on at a stage. -/
def baseCam (s : State) (e : Nat) (p : Pkt) (key : BitVec 192) (prof stage : Nat) : State :=
  let a := issue s e p (.cam prof)
  setPkt a.1 { a.2 with ctx := { a.2.ctx with key := keyWords key, pc := stage } }

/-- Stage 1: punts, classification, the tag check, the ACL lookup (R294, R296, R357, R360, R370). -/
def baseClass (s : State) (e : Nat) (p : Pkt) : State :=
  let ep := epochOf s p.epoch
  match groupMgmt (win p) with
  | some r => basePunt s p r
  | none =>
    if ptpPunt s p then basePunt s p 4
    else if arpPunt s ep p then basePunt s p 3
    else
      match clsMatch s ep p.part (classKey p) with
      | none => if tagFails s p then baseDrop s p 7 else setPkt s (stageAt p 3)
      | some v =>
        let w := wd v 4
        let p := { p with tc := BitVec.ofNat 3 (fld w 1 3), flow := BitVec.ofNat 16 (fld (wd v 5) 0 16) }
        if bit w 4 then baseDrop s p 0
        else if bit w 5 then basePunt s p 9
        else if tagFails s p then baseDrop s p 7
        else if fld w 8 6 = 0 then setPkt s (stageAt p 3)
        else baseCam s e p (aclKey p p.tc.toNat) (fld w 8 6) 2

/-- The action word of a CAM entry by global index (R356); the table is this device's, whichever device matched. -/
def aclWord (s : State) (e : Epoch) (i : Nat) : W32 :=
  wd (setVal s e sFWD_ACL (i % 2 ^ 17 / 2)) (i % 2)

/-- TC_EN and RW_EN of an action word. -/
def aclSets (p : Pkt) (w : W32) : Pkt :=
  { p with
    tc := if bit w 2 then BitVec.ofNat 3 (fld w 3 3) else p.tc
    rw := if bit w 6 then some (BitVec.ofNat 16 (fld w 20 12)) else p.rw }

/-- The destination that REDIRECT names: KIND 0 or 1. -/
def aclDest (w : W32) : W32 := if bit w 19 then w32 (2 ^ 30 + fld w 7 12) else w32 (fld w 7 7)

/-- Stage 2: the ACL verb (R357). -/
def baseAcl (s : State) (p : Pkt) : State :=
  if p.ctx.lfail then baseDrop s p 5
  else if !p.ctx.hit then setPkt s (stageAt p 3)
  else
    let w := aclWord s (epochOf s p.epoch) (reg p.ctx 11).toNat
    let p := aclSets p w
    match fld w 0 2 with
    | 0 => setPkt s (stageAt p 3)
    | 1 => baseDrop s p 0
    | 2 => basePunt s p (fld w 7 8)
    | _ => finishPkt s { p with dest := some (aclDest w) }

/-- The destination of a bridged frame (R352, R353). -/
def baseDest (s : State) (e : Nat) (p : Pkt) : State :=
  let ep := epochOf s p.epoch
  let vid := pktVid s ep p
  let da := frameDA p.bytes
  let a := if isGroup da then (none, false) else fdbLookup s p.part da (BitVec.ofNat 12 vid)
  let s := if isGroup da then s else count (count s (100 + e) 4 1 p.part) 166 (if a.1.isSome then 2 else 3) 1 p.part
  match a.1 with
  | some x =>
    if (nodePorts s ep p.port).contains x.port then baseDrop s p 2
    else
      let prp := match redNode s ep x.port with | some (1, _) => true | _ => false
      finishPkt s { p with dest := some (w32 x.port), single := prp && !x.pair }
  | none => finishPkt s { p with dest := some (w32 (2 ^ 31 + vid)) }

/-- No route: NR_PUNT decides (R354). -/
def noRoute (s : State) (p : Pkt) : State :=
  if bit (wd (ptnEntry s (epochOf s p.epoch) p.part) 1) 30 then basePunt s p 8 else baseDrop s p 4

/-- A route through a rewrite entry (R355, R358, R359). -/
def routeVia (s : State) (p : Pkt) (i : Nat) : State :=
  let ep := epochOf s p.epoch
  let p := { p with rw := some (BitVec.ofNat 16 i), routed := true }
  if rewriteOk s ep p && !bit (wd (setVal s ep sFWD_REWRITE i) 0) 17 then baseDrop s p 4
  else finishPkt s p

/-- Destination address of an IP frame as a number. -/
def ipDst (f : List Byte) : Nat := if isIp4 f then be f (l3Off f + 16) 4 else be f (l3Off f + 24) 16

/-- Index of a FIB level: 24 bits, then 8 bits at a time (R355). -/
def fibIndex (f : List Byte) (level : Nat) : Nat :=
  let width := if isIp4 f then 32 else 128
  if level = 0 then ipDst f / 2 ^ (width - 24) else ipDst f / 2 ^ (width - 24 - 8 * level) % 256

/-- Levels of a FIB walk: 2 for IPv4, 6 for IPv6. -/
def fibLevels (f : List Byte) : Nat := if isIp4 f then 2 else 6

/-- A FIB word is read; the level is kept in G1 of the run. -/
def fibRead (s : State) (e : Nat) (p : Pkt) (block level : Nat) : State :=
  let a := issue s e p (.t2 0 (block + fibIndex (win p) level))
  setPkt a.1 { a.2 with ctx := { setReg a.2.ctx 1 (w32 level) with pc := 5 } }

/-- The walk of the T2 FIB begins at its root (R354, R355). -/
def fibStart (s : State) (e : Nat) (p : Pkt) : State :=
  let root := wd (ptnEntry s (epochOf s p.epoch) p.part) (if isIp4 (win p) then 2 else 3)
  if root = 0 then noRoute s p else fibRead s e p root.toNat 0

/-- Stage 5: a FIB word has come (R355). -/
def baseFib (s : State) (e : Nat) (p : Pkt) : State :=
  if p.ctx.lfail then baseDrop s p 4
  else
    let w := reg p.ctx 11
    let level := (reg p.ctx 1).toNat
    match fld w 30 2 with
    | 0 => noRoute s p
    | 1 => routeVia s p (fld w 0 12)
    | 2 => if level + 1 < fibLevels (win p) then fibRead s e p (fld w 0 28) (level + 1) else noRoute s p
    | _ => basePunt s p (fld w 0 8)

/-- Stage 4: the CAM route lookup has come (R354, R356). -/
def baseRouteCam (s : State) (e : Nat) (p : Pkt) : State :=
  if p.ctx.lfail || !p.ctx.hit then fibStart s e p
  else
    let w := aclWord s (epochOf s p.epoch) (reg p.ctx 11).toNat
    let p := { p with tc := if bit w 2 then BitVec.ofNat 3 (fld w 3 3) else p.tc }
    match fld w 0 2 with
    | 0 => if bit w 6 then routeVia s p (fld w 20 12) else baseDrop s p 4
    | 1 => baseDrop s p 0
    | 2 => basePunt s p (fld w 7 8)
    | _ => finishPkt s { p with dest := some (aclDest w) }

/-- The IP header is valid (R354). -/
def ipValid (f : List Byte) : Bool :=
  let i := l3Off f
  if isIp4 f then
    decide (be f i 1 / 16 = 4) && decide (5 ≤ be f i 1 % 16) && decide (fold16 (sum16 (slice f i (4 * (be f i 1 % 16)))) = 65535)
  else decide (be f i 1 / 16 = 6)

/-- A routed frame (R354). -/
def baseRoute (s : State) (e : Nat) (p : Pkt) : State :=
  let f := win p
  if !ipValid f then baseDrop s p 3
  else
    let w := wd (ptnEntry s (epochOf s p.epoch) p.part) 1
    let o := if isIp4 f then 16 else 23
    if bit w (o + 6) then
      baseCam s e p (BitVec.ofNat 192 (ipDst f + (if isIp4 f then 0 else 2 ^ 128))) (fld w o 6) 4
    else fibStart s e p

/-- Stage 3: bridging (R352). -/
def baseBridge (s : State) (e : Nat) (p : Pkt) : State :=
  let ep := epochOf s p.epoch
  let un := untagged p.bytes
  if (accept s ep p.port = 1 ∧ un) ∨ (accept s ep p.port = 2 ∧ !un) then baseDrop s p 16
  else
    match vlanEnt s ep p with
    | none => baseDrop s p 1
    | some v =>
      let g := fld (wd v 0) 16 12
      if !(bit (wd (mcast s ep g) 0) 0 && (bitmap (mcast s ep g)).contains p.port) then baseDrop s p 1
      else if defRoute s ep p.port ∧ bit (wd v 0) 2 ∧ frameDA p.bytes = rmac s ep p.part ∧ (isIp4 (win p) ∨ isIp6 (win p)) then
        baseRoute s e p
      else
        let s := if bit (wd v 0) 1 then pktLearn s p (frameSA p.bytes) (BitVec.ofNat 12 (pktVid s ep p)) else s
        baseDest s e p

/-- One stage of the base program. -/
def baseStage (s : State) (e : Nat) (p : Pkt) : State :=
  match p.ctx.pc with
  | 0 => baseRed s e p
  | 1 => baseClass s e p
  | 2 => baseAcl s p
  | 3 => baseBridge s e p
  | 4 => baseRouteCam s e p
  | _ => baseFib s e p

/-- Stages until the packet waits or leaves the engine; no run passes more than six between two lookups. -/
def baseRun (e id : Nat) : Nat → State → State
  | 0, s => s
  | k + 1, s =>
    match pktAt s id with
    | some p => if p.stage = .inEngine ∧ p.ctx.wait = none then baseRun e id k (baseStage s e p) else s
    | none => s

/-- An engine executes a packet: its next microword, or the base program up to its next lookup. `bad`: a word that it fetches
fails its parity. -/
def microwordExecute (e id : Nat) (bad : Bool) (s : State) : State :=
  match pktAt s id with
  | some p0 =>
    if p0.engine ≠ some e ∨ engFenced s e then s
    else
      let s0 := setEng s e { engAt s e with stepped := true }
      let s1 := if p0.stage = .dispatched then enterEngine s0 e p0 else some s0
      match s1 with
      | none => s
      | some s1 =>
        match pktAt s1 id with
        | some p =>
          let ep := epochOf s1 p.epoch
          let base := ucodeBase s1 ep
          let len := ucodeLen s1
          if p.stage ≠ .inEngine ∨ p.ctx.wait ≠ none then s
          else if runsBase s1 ep then
            if (engAt s1 e).badWords.any (fun w => decide (base ≤ w) && decide (w < base + len)) then s1
            else if bad then parityCheck (freeNext s1) e p base ((freeVal s1).toNat % len)
            else baseRun e id 6 s1
          else if (engAt s1 e).badWords.contains (base + p.ctx.pc) then s1
          else if bad then parityCheck s1 e p base p.ctx.pc
          else microword s1 e p base len
        | none => s
  | none => s

def execMicrowordExecute (e pkt : Nat) (bad : Bool) (s : State) : Host.Outcome State Fault Refusal :=
  ev (decide (e < 64)) (powered s (microwordExecute e pkt bad s))

/-! ## Lookup results (R290, R409-R414) -/

/-- A T2 word comes back. -/
def t2Return (s : State) (p : Pkt) (t a : Nat) (ddr : BitVec 2) : State :=
  let r := t2Read s (epochOf s p.epoch) t a p.part ddr
  setPkt r.1 { p with ctx := { setReg p.ctx 11 r.2.1 with lfail := r.2.2, wait := none } }

/-- A state access of a flow comes back: flow 0 has no record (R410). -/
def flowReturn (s : State) (e : Nat) (p : Pkt) (word : Nat) (store : Option W32) : State :=
  let back := fun (s : State) (c : EngCtx) => setPkt s { p with ctx := { c with wait := none } }
  if p.flow = 0 then back s (if store.isNone then setReg p.ctx 11 0 else p.ctx)
  else
    match stateAccess s e p.id p.part (.inl p.flow.toNat) with
    | (s, none) => s
    | (s, some t) =>
      match tileAt s t with
      | none => s
      | some x =>
        let w := flowWords x p.flow.toNat
        let w' := match store with | some v => w.set word v | none => w
        let s := count (setTile s t (some (putFlow x p.flow.toNat w' s.gr.count))) 167 1 1 p.part
        back s (if store.isNone then setReg p.ctx 11 (wd w word) else p.ctx)

/-- The result of the lookup a packet waits for returns, where it can be served now. -/
def lookupReturn (id : Nat) (ddr : BitVec 2) (s : State) : State :=
  match pktAt s id with
  | some p =>
    (match p.ctx.wait, p.engine with
     | some (.cam prof), some _ => camPacket s p prof
     | some .fdb, some _ => fdbReturn s p
     | some (.t2 t a), some _ => t2Return s p t a ddr
     | some (.stateLd w), some e => flowReturn s e p w none
     | some (.stateSt w v), some e => flowReturn s e p w (some v)
     | some .base, some e => redLookup s e p
     | _, _ => s)
  | none => s

def execLookupReturn (pkt : Nat) (ddr : BitVec 2) (s : State) : Host.Outcome State Fault Refusal :=
  ev true (powered s (lookupReturn pkt ddr s))

/-- A state request that found no candidate for 2,000 grains fails (R413). -/
def stateRequestTimeout (id : Nat) (s : State) : State :=
  match s.mt.reqs.find? fun r => decide (r.pkt = id) && r.tile.isNone, pktAt s id with
  | some r, some p =>
    if 2000 ≤ since s r.since then
      let s := stateServed s id
      let s := setPtn s p.part { ptnAt s p.part with noState := satInc (ptnAt s p.part).noState }
      match p.ctx.wait with
      | some (.stateLd _) => setPkt s { p with ctx := { setReg p.ctx 11 0 with wait := none } }
      | some .base =>
        let role := match redNode s (epochOf s p.epoch) p.port with | some (k, _) => k | none => 0
        redOutcome (count s 164 11 1 p.part) p role true true
      | _ => setPkt s { p with ctx := { p.ctx with wait := none } }
    else s
  | _, _ => s

def execStateRequestTimeout (pkt : Nat) (s : State) : Host.Outcome State Fault Refusal := ev true (stateRequestTimeout pkt s)

/-- A DDR5 read without a response returns LFAIL and records a fault (R427). -/
def ddrTimeout (id : Nat) (s : State) : State :=
  match pktAt s id with
  | some p =>
    (match p.ctx.wait with
     | some (.t2 t a) =>
       let s := setPkt s { p with ctx := { setReg p.ctx 11 0 with lfail := true, wait := none } }
       (match t2Tile s (epochOf s p.epoch) t a with
        | some tile => kFault s 8 0x0062 (some p.part) tile
        | none => s)
     | _ => s)
  | none => s

def execDdrTimeout (pkt : Nat) (s : State) : Host.Outcome State Fault Refusal := ev true (ddrTimeout pkt s)

/-! ## Registers (R304-R307, R584) -/

/-- FE registers as read that this file adds: FE_STS, FE_LAT, FE_MCHK, FE_DISP by offset in the engine's window. -/
def feRead (s : State) (e off : Nat) : Option W32 :=
  let x := engAt s e
  if off = 0x0000 then
    let st := if x.fence ≠ 0 then x.fence.toNat else if decide (engPkts x = 0) && x.cmds.isEmpty then 0 else 1
    some (w32 (st + 4 * engInFlight x + 64 * x.watch.toNat))
  else if off = 0x0004 then some (w32 (x.worst.toNat + 65536 * x.pkts.toNat))
  else none

end Sys2Proof.Machine
end

