-- ==== Sys2Proof/Machine/Queues.lean ====
section
/-! DEFINITION. Command queues, completion queues and event rings (spec/07): doorbells, enables, fetch, completion writes,
interrupts, and the queue area of a partition window. -/

namespace Sys2Proof.Machine

/-! ## Submission queues -/

/-- Entries of an SQ (R165). -/
def sqSize (q : Sq) : Nat := ringSize q.loc q.size 32

/-- Address of register `off` of SQ `i`, CQ or ER `i` of a window (R184). -/
def queueReg (n : Nat) (k : QKind) (i off : Nat) : Nat :=
  winBase n + (match k with | .sq => 0x1000 | .cq => 0x1100 | .er => 0x2000) + 0x20 * i + off

/-- The host writes an SQ tail (R166); a value not below the entries is ignored with ERR 3 (R191); a resetting partition's
doorbells are discarded (R152). -/
def sqDoorbell (s : State) (n i : Nat) (v : W32) : State :=
  let q := sqAt s n i
  if (ptnAt s n).resetting then s
  else if sqSize q ≤ fld v 0 12 then ringError (setSq s n i { q with err := 3 }) n i 0 3
  else setSq s n i { q with tail := fld v 0 12 }

def execSqDoorbell (m : Master) (n i : Nat) (v : W32) (s : State) : Host.Outcome State Fault Refusal :=
  ev (m.wf && decide (n < 16) && decide (i < 8)) (regWr s m (queueReg n .sq i 0x0C) fun s => sqDoorbell s n i v)

/-! ## Completion queues and event rings -/

/-- A CQ is unable to take a completion: disabled (R190) or full (R176). -/
def cqNoRoom (s : State) (n j : Nat) : Bool :=
  let r := cqAt s n j
  !r.en || ringFull r (ringSize r.loc r.size 32)

/-- A completion waits for CQ `j` of partition `n`. -/
def cqWaits (s : State) (n j : Nat) : Bool := s.cq.cpls.any fun c => decide (c.pt = n) && decide (c.cq = j)

/-- A ring after its head doorbell: entries consumed, rearmed (R166, R181). -/
def headMoved (r : Ring) (v : Nat) : Ring :=
  { r with head := v, armed := true, stalled := false, oldest := if v = r.tail then none else r.oldest }

/-- The host writes a CQ or ER head (R166, R181, R191). -/
def headDoorbell (s : State) (n : Nat) (er : Bool) (i : Nat) (v : W32) : State :=
  if (ptnAt s n).resetting then s
  else if er then
    let r := erAt s n i
    if ringSize r.loc r.size 64 ≤ fld v 0 12 then ringError (setEr s n i { r with err := 3 }) n i 2 3
    else erSignal (setEr s n i (headMoved r (fld v 0 12))) n i
  else
    let r := cqAt s n i
    if ringSize r.loc r.size 32 ≤ fld v 0 12 then ringError (setCq s n i { r with err := 3 }) n i 1 3
    else cqSignal (setCq s n i (headMoved r (fld v 0 12))) n i

def execHeadDoorbell (m : Master) (n : Nat) (er : Bool) (i : Nat) (v : W32) (s : State) : Host.Outcome State Fault Refusal :=
  ev (m.wf && decide (n < 16) && decide (i < if er then 4 else 8))
    (regWr s m (queueReg n (if er then .er else .cq) i 0x0C) fun s => headDoorbell s n er i v)

/-! ## Enables (R189, R190) -/

/-- The cause that refuses an enable: 1 a second LOC = 1 queue of the kind, 2 a function not bound to the partition (checked
for a queue in a function's memory only, log entry 24). -/
def enableRefused (s : State) (n : Nat) (loc : Bool) (fn : BitVec 4) (otherLoc : Bool) : Option (BitVec 4) :=
  if loc then (if otherLoc then some 1 else none)
  else if (bindAt s fn.toNat).pt.toNat ≠ n then some 2 else none

/-- SIZE keeps its value where the written one is not 2-12 (R8, R17). -/
def newSize (old : BitVec 4) (v : W32) : BitVec 4 :=
  if 2 ≤ fld v 0 4 ∧ fld v 0 4 ≤ 12 then BitVec.ofNat 4 (fld v 0 4) else old

/-- A write of the +0x08 word of an SQ (R185, R189, R190). -/
def sqEnWrite (s : State) (n i : Nat) (v : W32) : State :=
  let q := sqAt s n i
  let q' := if q.en then q else { q with size := newSize q.size v, cq := BitVec.ofNat 3 (fld v 4 3) }
  if q.en then setSq s n i { q' with en := bit v 7 }
  else if bit v 7 then
    match enableRefused s n q.loc q.fn
        ((List.range 8).any fun k => decide (k ≠ i) && (sqAt s n k).en && (sqAt s n k).loc) with
    | some e => ringError (setSq s n i { q' with err := e }) n i 0 e.toNat
    | none => setSq s n i { q' with en := true, head := 0, tail := 0 }
  else setSq s n i q'

/-- The +0x08 word of a CQ or ER taken into a ring (R186). -/
def ringWrite (r : Ring) (v : W32) : Ring :=
  let r := { r with coalCnt := BitVec.ofNat 8 (fld v 16 8), coalTime := BitVec.ofNat 8 (fld v 24 8) }
  if r.en then r else { r with size := newSize r.size v, vec := BitVec.ofNat 6 (fld v 4 6) }

/-- A ring that is enabled: both indices 0, PHASE 1, armed (R181, R189). -/
def ringEnabled (r : Ring) : Ring :=
  { r with en := true, head := 0, tail := 0, phase := true, armed := true, stalled := false, oldest := none }

/-- A write of the +0x08 word of a CQ or ER (R186, R189, R190). -/
def ringEnWrite (s : State) (n : Nat) (er : Bool) (i : Nat) (v : W32) : State :=
  let r := if er then erAt s n i else cqAt s n i
  let put := fun (s : State) (x : Ring) => if er then setEr s n i x else setCq s n i x
  let r' := ringWrite r v
  let other := if er then (List.range 4).any fun k => decide (k ≠ i) && (erAt s n k).en && (erAt s n k).loc
    else (List.range 8).any fun k => decide (k ≠ i) && (cqAt s n k).en && (cqAt s n k).loc
  if r.en then put s { r' with en := bit v 10 }
  else if bit v 10 then
    match enableRefused s n r.loc r.fn other with
    | some e => ringError (put s { r' with err := e }) n i (if er then 2 else 1) e.toNat
    | none => put s (ringEnabled r')
  else put s r'

/-- The write of a queue's control word (R189). -/
def queueEnWrite (s : State) (n : Nat) (k : QKind) (i : Nat) (v : W32) : State :=
  match k with
  | .sq => sqEnWrite s n i v
  | .cq => ringEnWrite s n false i v
  | .er => ringEnWrite s n true i v

def execQueueEnWrite (m : Master) (n : Nat) (kind : QKind) (i : Nat) (v : W32) (s : State) : Host.Outcome State Fault Refusal :=
  ev (m.wf && decide (n < 16) && decide (i < kind.count))
    (regWr s m (queueReg n kind i 0x08) fun s => queueEnWrite s n kind i v)

/-! ## Fetch (R169, R170) -/

/-- Commands may be fetched at all: boot is done (R641), no shed, fatal hold or reset is in progress, and P7 inputs are not
held (R43). -/
def fetchOn (s : State) : Bool :=
  s.dev.bootDone && !s.dev.inReset && !s.gr.holding && !s.fcu.holding && s.pwr.shed.isNone

/-- SQ `i` of partition `n` has a command to fetch and may fetch it (R145, R152, R169, R176, R190). -/
def sqFetchable (s : State) (n i : Nat) : Bool :=
  let q := sqAt s n i
  q.en && decide (q.head ≠ q.tail) && !(ptnAt s n).resetting && slotFree s n &&
    (q.loc || (s.dev.perst && (bindAt s q.fn.toNat).en)) &&
    !(cqWaits s n q.cq.toNat && cqNoRoom s n q.cq.toNat)

/-- The round robin's next SQ (R170). -/
def nextSq (s : State) : Option (Nat × Nat) :=
  (List.range 16).findSome? fun a =>
    let n := (s.cq.rrPt + a) % 16
    (List.range 8).findSome? fun b =>
      let i := (tget (fun _ => 0) s.cq.rrSq n + b) % 8
      if sqFetchable s n i then some (n, i) else none

/-- Consecutive entries of a burst: at most 8, not past the end of the ring (log entry 25). -/
def burstLen (q : Sq) : Nat :=
  min 8 (if q.head ≤ q.tail then q.tail - q.head else sqSize q - q.head)

/-- Commands of a burst taken one by one while a slot is free; each is a P7 input of its SQ's index (R39, R169, R170). -/
def takeBurst (s : State) (n i : Nat) : List (List Byte) → State
  | [] => s
  | b :: bs =>
    if slotFree s n then
      let id := s.cq.nextCmd
      let q := sqAt s n i
      let s := see (addCmd s n (some i) b (now s)) 7 (8 * n + i) (.command id)
      takeBurst (setSq s n i { q with head := (q.head + 1) % sqSize q }) n i bs
    else s

/-- `k` chunks of 64 bytes. -/
def chunks64 : Nat → List Byte → List (List Byte)
  | 0, _ => []
  | k + 1, l => padTo 64 l :: chunks64 k (l.drop 64)

/-- The CQ unit fetches the next burst of the round robin; the entries come from the on-die area or, by DMA, from the
operand (R165, R170, R191). -/
def commandFetch (data : List Byte) (ok : Bool) (s : State) : State :=
  match fetchOn s, nextSq s with
  | true, some (n, i) =>
    let q := sqAt s n i
    let s := { s with cq := { s.cq with rrPt := (n + 1) % 16, rrSq := tset (fun _ => 0) s.cq.rrSq n ((i + 1) % 8) } }
    if !q.loc && !ok then ringError (setSq s n i { q with en := false, err := 4 }) n i 0 4
    else
      let src := if q.loc then tgets (fun _ => 0) s.cq.onSq (2048 * n + 64 * q.head) (64 * burstLen q) else data
      takeBurst s n i (chunks64 (burstLen q) src)
  | _, _ => s

def execCommandFetch (data : List Byte) (ok : Bool) (s : State) : Host.Outcome State Fault Refusal :=
  ev true (commandFetch data ok s)

/-! ## Completion writes (R174-R176, R191) -/

/-- The 32 bytes of a completion (R174). -/
def cplBytes (s : State) (c : Cpl) (phase : Bool) : List Byte :=
  leBytes 2 (c.tag.toNat + 2 ^ 12 * c.sq.toNat + 2 ^ 15 * b1 phase) ++ [c.status] ++
    [BitVec.ofNat 8 (b1 c.dup + 2 * b1 c.fw)] ++ leBytes 2 (sqAt s c.pt c.sq.toNat).head ++
    [BitVec.ofNat 8 c.pt, 0] ++ leBytes 4 c.arrive.toNat ++ leBytes 4 c.done.toNat ++ padTo 16 c.result

/-- Where a CQ entry goes (R165). -/
def cqStore (s : State) (n : Nat) (r : Ring) (bytes : List Byte) : State :=
  if r.loc then { s with cq := { s.cq with onCq := tputs (fun _ => 0) s.cq.onCq (1024 * n + 32 * r.tail) bytes } }
  else emit s (.dma r.fn.toNat (2 ^ 32 * r.baseHi.toNat + 4096 * r.baseLo.toNat + 32 * r.tail) bytes)

/-- The next completion of a CQ is written where there is room and its command's slot is freed; without room the stall is
raised once (R176); a failed write stops the CQ with ERR 5 (R191). -/
def completionWrite (n j : Nat) (ok : Bool) (s : State) : State :=
  match s.cq.cpls.find? fun c => decide (c.pt = n) && decide (c.cq = j) with
  | none => s
  | some c =>
    let r := cqAt s n j
    if cqNoRoom s n j then
      (if r.stalled then s else raise (setCq s n j { r with stalled := true }) (448 + 8 * n + 2) 0 j)
    else if !r.loc && !(ok && s.dev.perst) then
      ringError (setCq (dropCmd s c.cmd) n j { r with en := false, err := 5 }) n j 1 5
    else
      let s := cqStore s n r (cplBytes s c r.phase)
      cqSignal (setCq (dropCmd s c.cmd) n j (ringAdvance r (ringSize r.loc r.size 32) (now s))) n j

def execCompletionWrite (n j : Nat) (ok : Bool) (s : State) : Host.Outcome State Fault Refusal :=
  ev (decide (n < 16) && decide (j < 8)) (completionWrite n j ok s)

/-- The oldest unsignalled entry has waited COAL_TIME: the queue signals (R181). -/
def execInterruptCoalesceTimeout (n : Nat) (er : Bool) (i : Nat) (s : State) : Host.Outcome State Fault Refusal :=
  ev (decide (n < 16) && decide (i < if er then 4 else 8)) (if er then erSignal s n i else cqSignal s n i)

/-- Level of INT_N[k] (R183): low while an enabled queue of a partition routed to it holds unconsumed entries. -/
def intN (s : State) (k : Nat) : Bool :=
  !((List.range 16).any fun n =>
    s.cq.intEn.toNat.testBit n && decide ((ptnAt s n).intPin.toNat = k) &&
      ((List.range 8).any (fun j => (cqAt s n j).en && decide ((cqAt s n j).head ≠ (cqAt s n j).tail)) ||
       (List.range 4).any (fun j => (erAt s n j).en && decide ((erAt s n j).head ≠ (erAt s n j).tail))))

/-! ## PCIe functions -/

/-- Words of a function's MSI-X table and pending bits at their reset values (R194). -/
def fnReset (s : State) (f : Nat) : State :=
  { s with cq := { s.cq with msix := s.cq.msix.filter (fun e => decide (e.1 / 256 ≠ f)), pba := tset (fun _ => 0) s.cq.pba f 0 } }

def execPcieFunctionReset (f : Nat) (s : State) : Host.Outcome State Fault Refusal :=
  ev (decide (f < 16)) (fnReset s f)

/-- PTN_BIND(f) (R145, R156): PT changes only while EN was 0 before the write; PT 0 is reserved; function 0 is fixed. -/
def bindWrite (s : State) (f : Nat) (v : W32) : State :=
  let b := bindAt s f
  if f = 0 then s
  else setBind s f { pt := if b.en ∨ fld v 0 4 = 0 then b.pt else BitVec.ofNat 4 (fld v 0 4), en := bit v 4 }

def execPtnBindWrite (m : Master) (f : Nat) (v : W32) (s : State) : Host.Outcome State Fault Refusal :=
  ev (m.wf && decide (f < 16)) (regWr s m (0x05400000 + 4 * f) fun s => bindWrite s f v)

/-! ## The queue area of a window (R184-R187) -/

/-- Words +0x00 and +0x04 as read. -/
def baseWord (fn : BitVec 4) (loc : Bool) (lo : BitVec 20) : W32 := w32 (fn.toNat + 16 * b1 loc + 4096 * lo.toNat)

/-- SQ register word (R185). -/
def sqRead (q : Sq) (off : Nat) : Option W32 :=
  match off with
  | 0x00 => some (baseWord q.fn q.loc q.baseLo)
  | 0x04 => some q.baseHi
  | 0x08 => some (w32 (q.size.toNat + 16 * q.cq.toNat + 128 * b1 q.en))
  | 0x0C => some 0
  | 0x10 => some (w32 (q.head + 4096 * q.err.toNat))
  | _ => none

/-- CQ or ER register word (R186). -/
def ringRead (r : Ring) (er : Bool) (off : Nat) : Option W32 :=
  match off with
  | 0x00 => some (baseWord r.fn r.loc r.baseLo)
  | 0x04 => some r.baseHi
  | 0x08 => some (w32 (r.size.toNat + 16 * r.vec.toNat + 1024 * b1 r.en + 2 ^ 16 * r.coalCnt.toNat + 2 ^ 24 * r.coalTime.toNat))
  | 0x0C => some 0
  | 0x10 => some (w32 (r.tail + 4096 * r.err.toNat))
  | 0x14 => if er then some r.lost else none
  | _ => none

/-- The MSI-X table an access reaches (R182). -/
def msixFn (s : State) (m : Master) (n : Nat) : Nat :=
  match m with
  | .pf f => if (bindAt s f).pt.toNat = n then f else (lowestFn s n fun _ => true).getD 0
  | _ => (lowestFn s n fun _ => true).getD 0

/-- EV_SEL(r) as read: nibbles of sources not routed to the partition read 0 (R187). -/
def evSelRead (s : State) (n r : Nat) : Nat :=
  ((List.range 8).map fun i =>
    if routed s n (8 * r + i) then 16 ^ i * (tget (fun _ => (0 : BitVec 3)) (ptnAt s n).evSel (8 * r + i)).toNat else 0).sum

/-- EV_SEL(r) written (R187). -/
def evSelWrite (s : State) (n r : Nat) (v : W32) : State :=
  let x := ptnAt s n
  setPtn s n { x with evSel := (List.range 8).foldl (fun t i =>
    if routed s n (8 * r + i) then tset (fun _ => 0) t (8 * r + i) (BitVec.ofNat 3 (fld v (4 * i) 3)) else t) x.evSel }

/-- A word of a byte area. -/
def areaRead (t : Tab Byte) (a : Nat) : W32 := w32 (leNat (tgets (fun _ => 0) t a 4))

/-- A word of the queue area, none where no register lies (R184). -/
def queueAreaRead (s : State) (m : Master) (n off : Nat) : Option W32 :=
  if 0x1000 ≤ off ∧ off < 0x1100 then sqRead (sqAt s n ((off - 0x1000) / 0x20)) (off % 0x20)
  else if 0x1100 ≤ off ∧ off < 0x1200 then ringRead (cqAt s n ((off - 0x1100) / 0x20)) false (off % 0x20)
  else if off = 0x1200 then some (w32 (inFlight s n + 2 ^ 16 * max (inFlight s n) (ptnAt s n).slotMax))
  else if 0x1400 ≤ off ∧ off < 0x1C00 then some (areaRead s.cq.onSq (2048 * n + (off - 0x1400)))
  else if 0x1C00 ≤ off ∧ off < 0x2000 then some (areaRead s.cq.onCq (1024 * n + (off - 0x1C00)))
  else if 0x2000 ≤ off ∧ off < 0x2080 then ringRead (erAt s n ((off - 0x2000) / 0x20)) true (off % 0x20)
  else if 0x2100 ≤ off ∧ off < 0x2280 then some (w32 (evSelRead s n ((off - 0x2100) / 4)))
  else if 0x2400 ≤ off ∧ off < 0x2800 then some (areaRead s.cq.onEr (1024 * n + (off - 0x2400)))
  else if 0x2800 ≤ off ∧ off < 0x2C00 then some (tget msixReset s.cq.msix (256 * msixFn s m n + (off - 0x2800) / 4))
  else if off = 0x2C00 ∨ off = 0x2C04 then
    some (w32 ((tget (fun _ => (0 : BitVec 64)) s.cq.pba (msixFn s m n)).toNat / 2 ^ (8 * (off - 0x2C00))))
  else none

/-- A write of the base words of a ring, ignored while it is enabled (R185, R186). -/
def ringBase (r : Ring) (off : Nat) (v : W32) : Ring :=
  if r.en then r
  else if off = 0 then { r with fn := BitVec.ofNat 4 (fld v 0 4), loc := bit v 4, baseLo := BitVec.ofNat 20 (fld v 12 20) }
  else { r with baseHi := v }

/-- A write of the base words of an SQ, ignored while it is enabled (R185, log entry 24). -/
def sqBase (q : Sq) (off : Nat) (v : W32) : Sq :=
  if q.en then q
  else if off = 0 then { q with fn := BitVec.ofNat 4 (fld v 0 4), loc := bit v 4, baseLo := BitVec.ofNat 20 (fld v 12 20) }
  else { q with baseHi := v }

/-- An unmasked vector whose pending bit is set is sent and the bit cleared (PCIe Base Specification, R181). -/
def msixFlush (s : State) (f v : Nat) : State :=
  if (tget (fun _ => (0 : BitVec 64)) s.cq.pba f).toNat.testBit v && s.cq.msixEn.toNat.testBit f && !vecMasked s f v then
    emit (setPba s f v false) (.msix f v)
  else s

/-- A word of the queue area written (R185-R187). -/
def queueAreaWrite (s : State) (m : Master) (n off : Nat) (v : W32) : State :=
  if 0x1000 ≤ off ∧ off < 0x1100 then
    let i := (off - 0x1000) / 0x20
    match off % 0x20 with
    | 0x08 => sqEnWrite s n i v
    | 0x0C => sqDoorbell s n i v
    | 0x10 => s
    | o => setSq s n i (sqBase (sqAt s n i) o v)
  else if 0x1100 ≤ off ∧ off < 0x1200 then
    let j := (off - 0x1100) / 0x20
    match off % 0x20 with
    | 0x08 => ringEnWrite s n false j v
    | 0x0C => headDoorbell s n false j v
    | 0x10 => s
    | o => setCq s n j (ringBase (cqAt s n j) o v)
  else if 0x2000 ≤ off ∧ off < 0x2080 then
    let k := (off - 0x2000) / 0x20
    match off % 0x20 with
    | 0x08 => ringEnWrite s n true k v
    | 0x0C => headDoorbell s n true k v
    | 0x10 => s
    | 0x14 => s
    | o => setEr s n k (ringBase (erAt s n k) o v)
  else if 0x1400 ≤ off ∧ off < 0x1C00 then
    { s with cq := { s.cq with onSq := tputs (fun _ => 0) s.cq.onSq (2048 * n + (off - 0x1400)) (leBytes 4 v.toNat) } }
  else if 0x1C00 ≤ off ∧ off < 0x2000 then
    { s with cq := { s.cq with onCq := tputs (fun _ => 0) s.cq.onCq (1024 * n + (off - 0x1C00)) (leBytes 4 v.toNat) } }
  else if 0x2400 ≤ off ∧ off < 0x2800 then
    { s with cq := { s.cq with onEr := tputs (fun _ => 0) s.cq.onEr (1024 * n + (off - 0x2400)) (leBytes 4 v.toNat) } }
  else if 0x2100 ≤ off ∧ off < 0x2280 then evSelWrite s n ((off - 0x2100) / 4) v
  else if 0x2800 ≤ off ∧ off < 0x2C00 then
    let f := msixFn s m n
    let i := (off - 0x2800) / 4
    let w := if i % 4 = 3 then w32 (fld v 0 1) else v
    msixFlush { s with cq := { s.cq with msix := tset msixReset s.cq.msix (256 * f + i) w } } f (i / 4)
  else s

/-- What a normal read of the queue area clears or restarts (R9, R681). -/
def queueAreaTake (s : State) (n off : Nat) : State :=
  if off = 0x1200 then setPtn s n { ptnAt s n with slotMax := inFlight s n }
  else if 0x2000 ≤ off ∧ off < 0x2080 ∧ off % 0x20 = 0x14 then
    setEr s n ((off - 0x2000) / 0x20) { erAt s n ((off - 0x2000) / 0x20) with lost := 0 }
  else s

/-- CQ_INT_PIN(n) and CQ_SHARED as read (R188); offsets from 0x0500_0000. -/
def cqCtlRead (s : State) (off : Nat) : Option W32 :=
  if off < 0x40 ∧ off % 4 = 0 then
    some (w32 ((ptnAt s (off / 4)).intPin.toNat + 4 * b1 (s.cq.intEn.toNat.testBit (off / 4))))
  else if off = 0x40 then some (w32 (sharedUse s + 2 ^ 16 * max (sharedUse s) s.cq.sharedMax))
  else none

/-- CQ_INT_PIN(n) written (R188, R195). -/
def cqCtlWrite (s : State) (off : Nat) (v : W32) : State :=
  if off < 0x40 then
    let n := off / 4
    let m : BitVec 16 := BitVec.ofNat 16 (2 ^ n)
    let s := setPtn s n { ptnAt s n with intPin := BitVec.ofNat 2 (fld v 0 2) }
    { s with cq := { s.cq with intEn := if bit v 2 then s.cq.intEn ||| m else s.cq.intEn &&& ~~~m } }
  else s

/-- A normal read of CQ_SHARED restarts its MAX (R188, R681). -/
def cqCtlTake (s : State) (off : Nat) : State :=
  if off = 0x40 then { s with cq := { s.cq with sharedMax := sharedUse s } } else s

end Sys2Proof.Machine
end

