-- ==== Sys2Proof/Machine/Rings.lean ====
section
/-! DEFINITION. The punt ring and the send ring of a partition (spec/13 R361-R363). -/

namespace Sys2Proof.Machine

/-! ## Ring settings (R351): word 4 the punt ring, word 7 the send ring -/

def ringWord (s : State) (n : Nat) (send : Bool) : W32 := wd (ptnEntry s (newest s) n) (if send then 7 else 4)
def ringFn (s : State) (n : Nat) (send : Bool) : Nat := fld (ringWord s n send) 0 4
def ringLen (s : State) (n : Nat) (send : Bool) : Nat := 2 ^ fld (ringWord s n send) 4 4
def ringVec (s : State) (n : Nat) : Nat := fld (ringWord s n false) 8 6
def ringOn (s : State) (n : Nat) (send : Bool) : Bool := bit (ringWord s n send) 31

/-- Address of descriptor `i`. -/
def ringDesc (s : State) (n : Nat) (send : Bool) (i : Nat) : Nat :=
  let v := ptnEntry s (newest s) n
  let o := if send then 8 else 5
  (wd v o).toNat + 2 ^ 32 * (wd v (o + 1)).toNat + 32 * i

/-- DMA of a function may succeed: the endpoint is out of reset and the function enabled (R145, R652). -/
def fnDma (s : State) (f : Nat) : Bool := s.dev.perst && (bindAt s f).en

/-- A DMA error stops a ring: RING_ERROR with kind 3 and cause 5 (R363). -/
def ringStop (s : State) (n : Nat) (send : Bool) : State :=
  let x := ptnAt s n
  ringError (setPtn s n (if send then { x with sendStop := true, sendDesc := none } else { x with puntStop := true })) n (b1 send) 3 5

/-! ## Punt ring (R361, R362) -/

/-- REASON of a punted packet: its punt reason, FLOOD for a copy of a group, else 0 (log entry 64). -/
def puntReason (s : State) (p : Pkt) : Nat :=
  match p.punt with
  | some r => r.toNat
  | none =>
    match destWord s (epochOf s p.epoch) p with
    | some w => if fld w 30 2 = 0 then 0 else 10
    | none => 0

/-- Bytes 12-31 of a descriptor as the device writes them. -/
def puntDesc (s : State) (p : Pkt) (len : Nat) (trunc : Bool) : List Byte :=
  leBytes 2 len ++ [BitVec.ofNat 8 (puntReason s p), BitVec.ofNat 8 (2 * b1 trunc)] ++ leBytes 6 (tSec p.stamp) ++
    leBytes 4 (tNs p.stamp) ++ [BitVec.ofNat 8 (tFrac p.stamp), BitVec.ofNat 8 p.port] ++ leBytes 2 p.seq.toNat ++
    [p.tc.setWidth 8, 0]

/-- A vector of the punt ring: at once, or at the end of the interval of 1,024 grains that the last one began. -/
def puntVector (s : State) (n : Nat) : State :=
  let x := ptnAt s n
  let quiet := match x.puntVecAt with | some g => decide (1024 ≤ since s g) | none => true
  if quiet then msixSend (setPtn s n { x with puntVecAt := some s.gr.count }) (ringFn s n false) (ringVec s n)
  else setPtn s n { x with puntDefer := true }

/-- The frame at the head of logical port 100 is written into its partition's ring. -/
def puntRingWrite (n id : Nat) (desc : List Byte) (ok : Bool) (s : State) : State :=
  match plainHead s 100, pktAt s id with
  | some c, some p =>
    if c.pkt ≠ id ∨ c.part ≠ n then s
    else
      let x := ptnAt s n
      if !ringOn s n false || x.puntStop || !(le desc 15 1).testBit 0 then count (takeOut s 100 c) 164 8 1 n
      else if !ok || !fnDma s (ringFn s n false) then ringStop (takeOut s 100 c) n false
      else
        let buf := le desc 8 4
        let f := c.frame
        let fn := ringFn s n false
        let d := ringDesc s n false x.puntHead
        let out := puntDesc s p f.length (decide (buf < f.length))
        let s := emit s (.dma fn (le desc 0 8) (f.take buf))
        let s := emit s (.dma fn (d + 12) (out.take 3))
        let s := emit s (.dma fn (d + 16) (out.drop 4))
        let s := emit s (.dma fn (d + 15) (slice out 3 1))
        let s := setPtn s n { x with puntHead := (x.puntHead + 1) % ringLen s n false }
        puntVector (count (takeOut s 100 c) 164 15 1 n) n
  | _, _ => s

def execPuntRingWrite (n pkt : Nat) (desc : List Byte) (ok : Bool) (s : State) : Host.Outcome State Fault Refusal :=
  ev (decide (n < 16)) (powered s (puntRingWrite n pkt desc ok s))

/-- The vector that waited for the end of its interval is sent. -/
def puntVectorDeferred (n : Nat) (s : State) : State :=
  let x := ptnAt s n
  let due := match x.puntVecAt with | some g => decide (1024 ≤ since s g) | none => true
  if x.puntDefer && due then puntVector (setPtn s n { x with puntDefer := false }) n else s

def execPuntVectorDeferred (n : Nat) (s : State) : Host.Outcome State Fault Refusal :=
  ev (decide (n < 16)) (puntVectorDeferred n s)

/-! ## Send ring (R363) -/

/-- The send ring works: enabled, not stopped, its partition not in reset. -/
def sendOn (s : State) (n : Nat) : Bool :=
  ringOn s n true && !(ptnAt s n).sendStop && !(ptnAt s n).resetting

/-- The descriptor at the head is read: every 1,024 grains while OWN = 0, without a pause while OWN = 1. -/
def sendRingPoll (n : Nat) (desc : List Byte) (ok : Bool) (s : State) : State :=
  let x := ptnAt s n
  let due := match x.sendPollAt with | some g => decide (1024 ≤ since s g) | none => true
  if !sendOn s n || x.sendDesc.isSome || !due then s
  else if !ok || !fnDma s (ringFn s n true) then ringStop s n true
  else if (le desc 15 1).testBit 0 then setPtn s n { x with sendDesc := some (padTo 32 desc), sendPollAt := none }
  else setPtn s n { x with sendPollAt := some s.gr.count }

def execSendRingPoll (n : Nat) (desc : List Byte) (ok : Bool) (s : State) : Host.Outcome State Fault Refusal :=
  ev (decide (n < 16)) (powered s (sendRingPoll n desc ok s))

/-- The packet of a descriptor: entered on logical port 100 with the current grain as its stamp. -/
def sendPkt (s : State) (n : Nat) (d frame : List Byte) (work : Nat) : Pkt :=
  let flags := le d 12 2
  let p := newPkt s 100 n (stampOf s 0) 0 frame .arriving
  let direct := flags.testBit 0
  { p with
    work := work, oneStep := flags.testBit 1, twoStep := flags.testBit 2
    tc := if direct then BitVec.ofNat 3 (flags / 8) else 0
    direct := if direct then some (le d 14 1 % 128) else none
    stage := if direct then .finished else .arriving }

/-- The frame of the descriptor is read: it enters the device, OWN is cleared, the ring goes on (R363). A LEN outside 60-9,212
sends nothing (log entry 65). -/
def sendRingRead (n : Nat) (frame : List Byte) (ok : Bool) (work : Nat) (s : State) : State :=
  let x := ptnAt s n
  match x.sendDesc with
  | some d =>
    if !sendOn s n then s
    else if !ok || !fnDma s (ringFn s n true) then ringStop s n true
    else
      let len := le d 8 2 % 2 ^ 14
      let s := emit s (.dma (ringFn s n true) (ringDesc s n true x.sendHead + 15) [0])
      let s := setPtn s n { x with sendDesc := none, sendHead := (x.sendHead + 1) % ringLen s n true }
      if 60 ≤ len ∧ len ≤ 9212 then
        let p := sendPkt s n d (padTo len frame) work
        let s := addPkt s p
        if p.direct.isSome then s else dispatch s p
      else s
  | none => s

def execSendRingRead (n : Nat) (frame : List Byte) (ok : Bool) (work : Nat) (s : State) : Host.Outcome State Fault Refusal :=
  ev (decide (n < 16)) (powered s (sendRingRead n frame ok work s))

/-- Both rings of a partition restart at descriptor 0 (R363, R373). -/
def ringsRestart (s : State) (n : Nat) : State :=
  setPtn s n { ptnAt s n with
    puntHead := 0, puntStop := false, sendHead := 0, sendStop := false, sendPollAt := none, sendDesc := none }

end Sys2Proof.Machine
end

