-- ==== Sys2Proof/Machine/Partitions.lean ====
section
/-! DEFINITION. Partition reset (spec/06 R152-R164; spec/07 R194; spec/08 R208, R229; spec/09 R251; spec/13 R373; spec/14 R404)
and the partition registers. -/

namespace Sys2Proof.Machine

/-! ## Requests -/

/-- A reset of partition `n` is a P2 input (R39, R152). -/
def askReset (s : State) (n : Nat) : State := see s 2 (2 + n) (.ptnReset n)

/-- PTN_RESET (R155): a partition other than PT0 names itself only; a reset in progress takes the command in. -/
def ptnReset (s : State) (c : Cmd) : State :=
  let n := parBits c 8 0 4
  if c.pt ≠ 0 ∧ n ≠ c.pt then complete s c.id stNOT_OWNER []
  else
    let x := ptnAt s n
    let s1 := running (setPtn s n { x with rstCmds := x.rstCmds ++ [(c.id, x.resetting)] }) c.id
    if x.resetting then s1 else askReset s1 n

def execPtnReset (id : Nat) (s : State) : Host.Outcome State Fault Refusal := ev true (runCmd s id 0x05 ptnReset)

/-- A write of the reset key into a window (R160). -/
def winReset (n : Nat) (v : W32) (s : State) : State := if fld v 0 16 = 0xC1EA then askReset s n else s

def execPtnWinResetWrite (m : Master) (n : Nat) (v : W32) (s : State) : Host.Outcome State Fault Refusal :=
  ev (m.wf && decide (n < 16)) (regWr s m (winBase n + 4) (winReset n v))

/-! ## Entry into RESETTING (R152, R229, R251) -/

/-- Work that waits for a discarded command of partition `n` goes with it: a pending TB_ADJUST, commits, its transaction, stages
not yet writing, waiters of a census or a semaphore. -/
def discardPending (s : State) (n : Nat) : State :=
  let mine := fun (id : Nat) => match cmdAt s id with | some c => decide (c.pt = n) | none => false
  let adj := match s.tb.adj with
    | some a => if (match a.cmd with | some id => mine id | none => false) then none else some a
    | none => none
  let waiters := s.pmc.pendCmds.filter fun w => !mine w.1
  let sems := s.cc.sems.map fun e =>
    (e.1, e.2.map fun x => { x with waiters := x.waiters.filter fun w => match w.cmd with | some id => !mine id | none => true })
  { s with
    tb := { s.tb with adj := adj }
    cfg := { s.cfg with
      commits := s.cfg.commits.filter fun c => !(match c.cmd with | some id => mine id | none => false)
      txns := s.cfg.txns.filter fun t => t.remote || decide (t.pt ≠ n) }
    t2 := { s.t2 with
      stages := s.t2.stages.filter fun g => g.writing || !(match g.cmd with | some id => mine id | none => false) }
    prm := { s.prm with wait := s.prm.wait.filter fun w => !mine w.1 }
    pmc := { s.pmc with pendCmds := waiters, pend := if waiters.isEmpty then none else s.pmc.pend }
    cc := { s.cc with sems := sems } }

/-- Commands of partition `n` go: those that have begun run on without a completion (R152). -/
def dropCommands (s : State) (n : Nat) : State :=
  ((s.cq.cmds.filter fun c => decide (c.pt = n) && c.sq.isSome).map (·.id)).foldl dropCmd s

/-- The P2 decision at grain `g`: PT n enters RESETTING; a reset in progress takes it in. -/
def ptnResetApply (s : State) (n : Nat) (g : Grain) : State :=
  let x := ptnAt s n
  if x.resetting then s
  else
    let s := discardPending s n
    let s := dropCommands s n
    let s := { s with fdb := { s.fdb with learnQ := s.fdb.learnQ.filter fun e => decide (e.pt ≠ n) } }
    setPtn s n { ptnAt s n with
      resetting := true
      rstEnd := false
      rstAt := g
      rstT := tMaxOf s fun p => decide (portOwner s p = n) }

def partitionReset (n : Nat) (s : State) : State :=
  match takeHead s fun d => decide (d = .ptnReset n) with
  | some (s, e) => ptnResetApply s n e.stamp
  | none => s

def execPartitionReset (n : Nat) (s : State) : Host.Outcome State Fault Refusal := ev (decide (n < 16)) (partitionReset n s)

/-! ## Completion (R153) -/

/-- Indices of the bits of a partition's ports. -/
def portsOf (s : State) (n : Nat) : List Nat := (List.range 100).filter fun p => decide (portOwner s p = n)

/-- Credits 0 and the gate list at its current point, TSU and resequencer contexts cleared on one port (R153, R404). -/
def portCleared (s : State) (p : Nat) : State :=
  let s := gateEntryStart p (zeroCredits s p)
  let s := if p < 96 then tsuClear s p else s
  let x := rsqAt s p
  let first := (s.qm.pkts.find? fun k => decide (k.port = p) && decide (k.stage ≠ .stored)).map (·.seq)
  reseqRelease (setRsq s p { x with doneTo := first.getD x.next, doneSet := [], missing := [], lostSet := [] }) p

/-- A capture input's FIFO and counters (R91). -/
def evcClear (s : State) (k : Nat) : State :=
  setEvc s k { evcAt s k with fifo := [], fifoLoss := false, dead := 0, lost := 0, raised := false }

/-- Claimed settings of partition `n` that R373 frees: groups, VLAN entries and rewrite entries. -/
def freedKey (n : Nat) (e : Epoch) (k : Nat) : Bool :=
  ((decide (k / 65536 = sFWD_MCAST) && decide (k % 65536 < 8192)) || decide (k / 65536 = sFWD_REWRITE)) &&
    decide (tget (fun _ => none) e.own k = some n)

/-- FWD_ACL words of the blocks of partition `n`. -/
def aclKeyOf (s : State) (n k : Nat) : Bool :=
  decide (k / 65536 = sFWD_ACL) && decide (camOwner s (k % 65536 / 2048) = n)

/-- An epoch after the forwarding entries of partition `n` are cleared (R373). -/
def epochCleared (s : State) (n : Nat) (e : Epoch) : Epoch :=
  { e with
    vals := e.vals.filter fun x => !(freedKey n e x.1 || aclKeyOf s n x.1)
    own := e.own.filter fun x => !freedKey n e x.1 }

/-- The queue area of a window at its reset values, but for the MSI-X table and pending bits (R153, R194). -/
def queuesCleared (s : State) (n : Nat) : State :=
  let s := (List.range 8).foldl (fun s i => setCq (setSq s n i Sq.reset) n i Ring.reset) s
  let s := (List.range 4).foldl (fun s k => setEr s n k Ring.reset) s
  let s : State := { s with
    cq := { s.cq with
      onSq := s.cq.onSq.filter fun e => decide (e.1 / 2048 ≠ n)
      onCq := s.cq.onCq.filter fun e => decide (e.1 / 1024 ≠ n)
      onEr := s.cq.onEr.filter fun e => decide (e.1 / 1024 ≠ n) } }
  setPtn s n { ptnAt s n with evSel := [], slotMax := 0 }

/-- What the completion of a reset clears (R153). -/
def ptnCleared (s : State) (n : Nat) : State :=
  let s := (portsOf s n).foldl portCleared s
  let s := ((List.range 32).filter fun b => decide (camOwner s b = n)).foldl camClear s
  let s := fdbRemove s fun b _ => inRegion s n b
  let s : State := { s with
    cfg := { s.cfg with epochs := s.cfg.epochs.map (epochCleared s n) }
    fwd := { s.fwd with tagFlows := s.fwd.tagFlows.filter fun f => !(decide (f.2.toNat % 4 ≠ 0) && decide (f.2.toNat / 256 = n)) } }
  let s := freeTiles s n
  let s := ((List.range 32).filter fun k => decide (ecapOwner s k = n)).foldl evcClear s
  ringsRestart (queuesCleared s n) n

/-- The reset completes: everything is cleared, the commands that asked for it complete, PTN_RESET_DONE is raised; RESETTING
falls at the next boundary. The reset of a shared partition while PAIRED asks the partner for the region with a BULK_END of
PASS 0 that names it, and its learning is held until the transfer ends (R624, log entry 126). -/
def ptnComplete (s : State) (n : Nat) : State :=
  let x := ptnAt s n
  let took := since s x.rstAt
  let s := ptnCleared s n
  let s := setPtn s n { ptnAt s n with rstEnd := true, rstCmds := [] }
  let s := x.rstCmds.foldl (fun s c => complete s c.1 (if c.2 then stNOTE else stDONE) (leBytes 4 took)) s
  let s := raise s (448 + 8 * n + 1) 0 took
  if shares s n then
    torvSend { s with twn := { s.twn with holdLearn := n :: s.twn.holdLearn } } 0x0B (leBytes 4 0 ++ leBytes 4 n)
  else s

/-- No packet of the partition remains (R153). -/
def partitionResetComplete (n : Nat) (s : State) : State :=
  let x := ptnAt s n
  if x.resetting && !x.rstEnd && !s.qm.pkts.any (pktOf n) then ptnComplete s n else s

def execPartitionResetComplete (n : Nat) (s : State) : Host.Outcome State Fault Refusal :=
  ev (decide (n < 16)) (partitionResetComplete n s)

/-- At the deadline what remains is discarded and counted in RST_DROP, and the reset completes (R153). -/
def partitionResetDeadline (n : Nat) (s : State) : State :=
  let x := ptnAt s n
  if x.resetting && !x.rstEnd && decide (x.rstT + 64000 ≤ since s x.rstAt) then
    ptnComplete (purgeAll s (pktOf n) fun s _ => rstDrop s n) n
  else s

def execPartitionResetDeadline (n : Nat) (s : State) : Host.Outcome State Fault Refusal :=
  ev (decide (n < 16)) (partitionResetDeadline n s)

/-- RESETTING falls at the boundary after the completion grain. -/
def resetsEnded (s : State) : State :=
  (List.range 16).foldl (fun s n =>
    let x := ptnAt s n
    if x.rstEnd then setPtn s n { x with resetting := false, rstEnd := false } else s) s

/-! ## Registers (R156-R160) -/

/-- A sum of fields of `w` bits. -/
def packBits (w n : Nat) (f : Nat → Nat) : W32 := w32 ((List.range n).map fun i => f i * 2 ^ (w * i)).sum

/-- PTN registers as read, offset from 0x0540_0000. -/
def ptnRead (s : State) (off : Nat) : Option W32 :=
  if off % 4 ≠ 0 then none
  else if off < 0x40 then
    let b := bindAt s (off / 4)
    some (w32 (b.pt.toNat + 16 * b1 b.en))
  else if 0x100 ≤ off ∧ off < 0x140 then
    let n := (off - 0x100) / 4
    let x := ptnAt s n
    some (w32 (b1 x.resetting + 2 * b1 x.timeSub + 4 * weightOf s n))
  else if 0x200 ≤ off ∧ off < 0x230 then some (packBits 4 8 fun i => portOwner s (8 * ((off - 0x200) / 4) + i))
  else if 0x240 ≤ off ∧ off < 0x24C then some (packBits 1 32 fun i => b1 (portShared s (32 * ((off - 0x240) / 4) + i)))
  else if 0x260 ≤ off ∧ off < 0x270 then some (packBits 4 8 fun i => camOwner s (8 * ((off - 0x260) / 4) + i))
  else if 0x280 ≤ off ∧ off < 0x2A0 then some (packBits 4 8 fun i => keyOwner s (8 * ((off - 0x280) / 4) + i))
  else if 0x2A0 ≤ off ∧ off < 0x2B0 then some (packBits 4 8 fun i => ecapOwner s (8 * ((off - 0x2A0) / 4) + i))
  else if off = 0x2C0 then some (packBits 4 4 fun i => radioOwner s i)
  else if 0x300 ≤ off ∧ off < 0x340 then
    let n := (off - 0x300) / 4
    some (w32 (fdbBase s n + 256 * fdbSize s n))
  else if 0x400 ≤ off ∧ off < 0x480 then
    let n := (off - 0x400) / 8
    some (w32 (if off % 8 = 0 then guarOf s n else ceilOf s n))
  else if 0x500 ≤ off ∧ off < 0x540 then some (w32 (floorOf s ((off - 0x500) / 4)))
  else if 0x600 ≤ off ∧ off < 0x800 then
    some (cur0 s sVLAN_RANGE (8 * ((off - 0x600) / 0x20) + off % 0x20 / 4) &&& 0x8FFF0FFF)
  else none

/-- PTN_STS(n).TIME_SUB written (R157). -/
def ptnStsWrite (s : State) (n : Nat) (v : W32) : State := setPtn s n { ptnAt s n with timeSub := bit v 1 }

/-- Window registers below the queue area (R160); the drop counters have no peek. -/
def winRead (s : State) (n off : Nat) : Option W32 :=
  let x := ptnAt s n
  if off = 0x0 then some (w32 (n + 16 * b1 x.resetting))
  else if off = 0x4 then some 0
  else if off = 0x8 then some (w32 (x.xdrop.toNat + 65536 * x.rstDrop.toNat))
  else if off = 0xC then some x.pdrop
  else none

/-- A normal read clears the drop counters of its word. -/
def winTake (s : State) (n off : Nat) : State :=
  let x := ptnAt s n
  if off = 0x8 then setPtn s n { x with xdrop := 0, rstDrop := 0 }
  else if off = 0xC then setPtn s n { x with pdrop := 0 }
  else s

end Sys2Proof.Machine
end

