-- ==== Sys2Proof/Machine/Sems.lean ====
section
/-! DEFINITION. The hardware semaphores and their leases (spec/19 R515-R517, R523, R532). -/

namespace Sys2Proof.Machine

/-- A semaphore; none = free. -/
def semAt (s : State) (k : Nat) : Option Sem := tget (fun _ => none) s.cc.sems k
def setSem (s : State) (k : Nat) (x : Option Sem) : State :=
  { s with cc := { s.cc with sems := tset (fun _ => none) s.cc.sems k x } }

/-- Bit `k` of LOST or QFULL. -/
def semBit (k : Nat) : BitVec 64 := BitVec.ofNat 64 (2 ^ k)

/-- Length of a lease in grains; the HCU always takes 100 us (R516). -/
def leaseLen (x : Lease) : Nat := if x.hcu then 100000 else x.lease * 1000

/-- The cluster's leases stand still (R523). -/
def leasesFrozen (s : State) : Bool := s.dbg.halted && s.dbg.freeze

/-- A semaphore that a holder has just been granted, with the waiters that remain. -/
def semGranted (s : State) (x : Lease) (w : List Lease) : Sem :=
  { holder := x
    until_ := s.gr.count + BitVec.ofNat 64 (leaseLen x)
    frozen := if !x.hcu && leasesFrozen s then some (BitVec.ofNat 64 (leaseLen x)) else none
    waiters := w }

/-- The head waiter receives the semaphore at this grain, or it is free. -/
def semPass (s : State) (k : Nat) : List Lease → State
  | [] => setSem s k none
  | x :: r => setSem s k (some (semGranted s x r))

/-- The holder releases. -/
def semFree (s : State) (k : Nat) : State :=
  match semAt s k with
  | some x => semPass s k x.waiters
  | none => s

/-- A lease is revoked: LOST is set where the cluster held it (R517). -/
def semRevoke (s : State) (k : Nat) : State :=
  match semAt s k with
  | some x =>
    let s : State := if x.holder.hcu then s else { s with cc := { s.cc with semLost := s.cc.semLost ||| semBit k } }
    semPass s k x.waiters
  | none => s

/-- Acquire (R516). -/
def semAcquire (s : State) (k : Nat) (x : Lease) : State :=
  match semAt s k with
  | none => setSem s k (some (semGranted s x []))
  | some y =>
    if y.waiters.length < 8 then setSem s k (some { y with waiters := y.waiters ++ [x] })
    else { s with cc := { s.cc with semFull := s.cc.semFull ||| semBit k } }

/-- The cluster holds the semaphore under a token. -/
def semMine (s : State) (k tok : Nat) : Bool :=
  match semAt s k with | some x => !x.holder.hcu && decide (x.holder.token.toNat = tok) | none => false

/-- A write of ACQ (+0), REL (+4) or RENEW (+8) as the boundary sees it; LEASE 0 is ignored (R516, R526). -/
def semApply (s : State) (k off : Nat) (v : W32) : State :=
  let tok := fld v 0 16
  let lease := fld v 16 16
  if off = 0 then
    (if lease = 0 then s else semAcquire s k { hcu := false, token := BitVec.ofNat 16 tok, lease := lease, cmd := none })
  else if off = 4 then (if semMine s k tok then semFree s k else s)
  else if off = 8 then
    match semAt s k with
    | some x =>
      if semMine s k tok ∧ lease ≠ 0 then
        setSem s k (some { x with
          until_ := s.gr.count + BitVec.ofNat 64 (lease * 1000)
          frozen := if x.frozen.isSome then some (BitVec.ofNat 64 (lease * 1000)) else none })
      else s
    | none => s
  else s

/-- Address of register `off` of CC_SEM(k) (R526). -/
def semReg (k off : Nat) : Nat := 0x07010000 + 0x10 * k + off

def execSemAcq (m : Master) (sem : Nat) (v : BitVec 32) (s : State) : Host.Outcome State Fault Refusal :=
  ev (m.wf && decide (sem < 64)) (regWr s m (semReg sem 0) fun s => pendWrite s (semReg sem 0) v)

def execSemRel (m : Master) (sem : Nat) (v : BitVec 32) (s : State) : Host.Outcome State Fault Refusal :=
  ev (m.wf && decide (sem < 64)) (regWr s m (semReg sem 4) fun s => pendWrite s (semReg sem 4) v)

def execSemRenew (m : Master) (sem : Nat) (v : BitVec 32) (s : State) : Host.Outcome State Fault Refusal :=
  ev (m.wf && decide (sem < 64)) (regWr s m (semReg sem 8) fun s => pendWrite s (semReg sem 8) v)

/-- A lease ends without release (R517); a frozen one does not run (R523). -/
def semExpiry (k : Nat) (s : State) : State :=
  match semAt s k with
  | some x => if x.frozen.isNone && reached s x.until_ then semRevoke s k else s
  | none => s

def execSemLeaseExpiry (sem : Nat) (s : State) : Host.Outcome State Fault Refusal := ev (decide (sem < 64)) (semExpiry sem s)

/-- The cluster's leases stop, at a halt with FREEZE_LEASES = 1 (R523). -/
def semFreeze (s : State) : State :=
  { s with cc := { s.cc with sems := s.cc.sems.map fun e => (e.1, e.2.map fun x =>
      if x.holder.hcu then x else { x with frozen := some (x.until_ - s.gr.count) }) } }

/-- The cluster's leases go on from RESUME (R523). -/
def semThaw (s : State) : State :=
  { s with cc := { s.cc with sems := s.cc.sems.map fun e => (e.1, e.2.map fun x =>
      match x.frozen with | some d => { x with frozen := none, until_ := s.gr.count + d } | none => x) } }

/-- The cluster's waiters go and its leases are revoked, at its fence (R510, R529). -/
def semCluster (s : State) : State :=
  let s : State := { s with cc := { s.cc with sems := s.cc.sems.map fun e => (e.1, e.2.map fun x =>
      { x with waiters := x.waiters.filter (·.hcu) }) } }
  (List.range 64).foldl (fun s k => match semAt s k with | some x => if x.holder.hcu then s else semRevoke s k | none => s) s

/-- A CFG command of a partition runs while the HCU holds semaphore 16 + n: taken where it is free and given back when the command
has acted; a command that meets it held waits in its queue, or for an entry of a full one (R515, R516). -/
def runCfg (s : State) (id op : Nat) (f : State → Cmd → State) : State :=
  runCmd s id op fun s c =>
    let k := 16 + c.pt
    match semAt s k with
    | none => f s c
    | some x =>
      if x.holder.hcu ∧ x.holder.cmd = some id then semFree (f s c) k
      else if (x.waiters.any fun w => decide (w.cmd = some id)) || decide (8 ≤ x.waiters.length) then s
      else setSem s k (some { x with waiters := x.waiters ++ [{ hcu := true, token := 0, lease := 0, cmd := some id }] })

/-- CC_SEM as read (R526). -/
def semRead (s : State) (k off : Nat) : Option W32 :=
  if off = 0 ∨ off = 4 ∨ off = 8 then some 0
  else if off = 12 then
    let tail := 2 ^ 22 * b1 (s.cc.semLost.getLsbD k) + 2 ^ 23 * b1 (s.cc.semFull.getLsbD k)
    some (match semAt s k with
      | some x => w32 ((if x.holder.hcu then 2 else 1) + 4 * x.holder.token.toNat + 2 ^ 18 * x.waiters.length + tail)
      | none => w32 tail)
  else none

/-- CC_SEM written: LOST and QFULL are cleared by writing 1, the rest is seen at the next boundary. -/
def semWrite (s : State) (k off : Nat) (v : W32) : State :=
  if off = 12 then
    { s with cc := { s.cc with
        semLost := if bit v 22 then s.cc.semLost &&& ~~~semBit k else s.cc.semLost
        semFull := if bit v 23 then s.cc.semFull &&& ~~~semBit k else s.cc.semFull } }
  else pendWrite s (semReg k off) v

end Sys2Proof.Machine
end

