-- ==== Sys2Proof/Machine/SettingsCheck.lean ====
section
/-! DEFINITION. What a CFG_SET may hold and who may issue it (spec/09 R231, R232 and the value layouts of the other chapters), and
the legality matrix and ownership limits of a commit (R146, R233). -/

namespace Sys2Proof.Machine

/-! ## Values (R232) -/

/-- Bits of word `k` outside a mask are 0. -/
def inMask (v : List W32) (k mask : Nat) : Bool := (wd v k &&& ~~~w32 mask) == 0

/-- A number lies in a range. -/
def inRange (n lo hi : Nat) : Bool := decide (lo ≤ n) && decide (n ≤ hi)

/-- PORT_MODE (R257, R258). -/
def okPortMode (v : List W32) : Bool :=
  let w := wd v 0
  let m := fld w 0 4
  inMask v 0 0x3FF && inRange m 0 6 && inRange (fld w 4 2) 0 2 && (bit w 6 || decide (m ≠ 3)) &&
    (!bit w 6 || decide (m = 2) || decide (m = 3))

/-- VLAN_RANGE (R146, R232). -/
def okVlan (v : List W32) : Bool :=
  let w := wd v 0
  inMask v 0 0x8FFF0FFF && (!bit w 31 || (decide (1 ≤ fld w 0 12) && decide (fld w 0 12 ≤ fld w 16 12) && decide (fld w 16 12 ≤ 4094)))

/-- QM_GATE (R394): the header of a list, or an entry. -/
def okGate (idx : Nat) (v : List W32) : Bool :=
  if idx % 128 = 0 then
    inMask v 0 0xFFFF && inMask v 2 0x3FFFFFFF && inMask v 3 0x3FFFFFFF &&
      (!bit (wd v 0) 0 || (inRange (fld (wd v 0) 1 7) 1 64 && inRange (wd v 3).toNat 1000 1000000000))
  else decide (fld (wd v 0) 8 2 ≠ 3)

/-- QM_SHAPE (R395). -/
def okShape (v : List W32) : Bool :=
  inMask v 0 3 && inMask v 1 0x1FFFFFF && (!bit (wd v 0) 0 || inRange (wd v 1).toNat 1 25000000)

/-- UCODE_LAYOUT (R281). -/
def okLayout (v : List W32) : Bool :=
  let a := fld (wd v 0) 0 12
  let n := fld (wd v 0) 16 12
  let b := fld (wd v 1) 0 12
  inMask v 0 0x0FFF0FFF && inMask v 1 0xFFF && inRange n 1 2048 && decide (a + n ≤ 4096) && decide (b + n ≤ 4096) &&
    (decide (a + n ≤ b) || decide (b + n ≤ a))

/-- One microword of UCODE_WORDS from word `k` of the value (R283). -/
def okMicroword (v : List W32) (k : Nat) : Bool :=
  let act := fld (wd v (k + 1)) 5 5
  let hi := wd v (k + 3)
  let ret := fld (wd v (k + 2)) 29 1
  inMask v k 0xFFE00000 && decide (act ≤ 14) && (decide (ret = 0) || decide (fld hi 30 2 = 3))

/-- A physical address lies in the region at a base. -/
def inUregion (base len a : Nat) : Bool := decide (base ≤ a) && decide (a < base + len)

/-- UCODE_WORDS under a layout: two words lie in one region (R282, R283). -/
def okUcode (layout : List W32) (idx : Nat) (v : List W32) : Bool :=
  let a := fld (wd layout 0) 0 12
  let n := fld (wd layout 0) 16 12
  let b := fld (wd layout 1) 0 12
  if v.length = 8 then
    okMicroword v 0 && okMicroword v 4 &&
      ((inUregion a n idx && inUregion a n (idx + 1)) || (inUregion b n idx && inUregion b n (idx + 1)))
  else okMicroword v 0

/-- FWD_MCAST: group, VLAN entry, port defaults, partition entry (R348, R350, R351, R375). -/
def okMcast (idx : Nat) (v : List W32) : Bool :=
  if idx < 4096 then inMask v 0 1 && inMask v 4 0x1F
  else if idx < 8192 then inMask v 0 0x0FFF0007 && inMask v 4 0x1F
  else if idx < 8320 then
    let w := wd v 0
    inRange (fld w 0 12) 1 4094 && decide (fld w 15 2 ≠ 3) && inRange (fld w 18 14) 64 9216
  else
    let ring := fun k => inMask v k 0x80003FFF && (!bit (wd v k) 31 || inRange (fld (wd v k) 4 4) 4 12)
    inMask v 1 0x7FFFFFFF && ring 4 && ring 7 && decide (fld (wd v 5) 0 12 = 0)

/-- RADIO_MODE (R431). -/
def okRadio (v : List W32) : Bool :=
  let w := wd v 0
  let t := fld (wd v 4) 8 6
  inMask v 0 0xFFFFFF1F && inMask v 1 0x1FFFF && inMask v 2 0x3FFFF && inMask v 3 0x1FFFF && inMask v 4 0x000F3FFF &&
    inRange (fld w 8 8) 8 64 && inRange (wd v 1).toNat 2400 100000 && inRange (wd v 2).toNat 12500 200000 &&
    inRange (wd v 3).toNat 1 100000 && inRange (fld (wd v 4) 0 8) 1 251 && inRange t 4 32 && decide (t % 2 = 0)

/-- The setting and index exist, WORDS is the table's, and the value keeps every range and reserved bit (R231, R232). -/
def valueOk (layout : List W32) (sid idx : Nat) (v : List W32) : Bool :=
  let w := wd v 0
  (match settingWords sid idx with
   | some n => decide (v.length = n) || (decide (sid = sUCODE_WORDS) && decide (v.length = 8))
   | none => false) &&
  (if sid = sPORT_MODE then okPortMode v
   else if sid = sPORT_OWN then inMask v 0 0x1F
   else if sid = sVLAN_RANGE then okVlan v
   else if sid = sBUF_SHARE then decide (w.toNat ≤ (wd v 1).toNat) && decide ((wd v 1).toNat ≤ 393216)
   else if sid = sBUF_CARVE then (List.range 8).all fun q => decide (fld w (4 * q) 4 ≤ 12)
   else if sid = sQM_REL then inMask v 0 0x3FFFFF && inRange (fld w 0 20) 600 1000000
   else if sid = sQM_GATE then okGate idx v
   else if sid = sQM_SHAPE then okShape v
   else if sid = sUCODE_LAYOUT then okLayout v
   else if sid = sUCODE_WORDS then okUcode layout idx v
   else if sid = sCLS_RULE then inMask v 4 0x3F3F && inMask v 5 0xFFFF
   else if sid = sCLS_SPREAD then
     (if idx < 8 then inMask v 0 0x7FF else if idx < 1024 then inMask v 0 0xF else inMask v 0 0x3F)
   else if sid = sCAM_BLOCK_OWN ∨ sid = sKEY_OWN ∨ sid = sECAP_OWN ∨ sid = sRADIO_OWN then inMask v 0 0xF
   else if sid = sCAM_BLOCK_MODE ∨ sid = sT2_SWAP then inMask v 0 1
   else if sid = sCAM_PROFILE then inMask v 0 0xF
   else if sid = sFDB_REGION then
     inMask v 0 0x7F3F && decide (fld w 0 6 + fld w 8 7 ≤ 64)
   else if sid = sFDB_AGE then
     decide (0 < fld (wd v 1) 0 24) && decide (0 < fld (wd v 1) 24 8) && inMask v 2 3
   else if sid = sT1_FLOOR then decide (w.toNat ≤ 14336)
   else if sid = sPTN_WEIGHT then inRange w.toNat 1 255
   else if sid = sT2_BASE then
     inMask v 0 0x1FFFFFE && inMask v 1 0x1FFFFFE && decide ((wd v 2).toNat ≤ 2 ^ 24) && inMask v 3 1
   else if sid = sFWD_REWRITE then inMask v 0 0x3FFFF && inMask v 2 0xFFFF && inMask v 4 0xFFFF && inMask v 5 0x10FFF
   else if sid = sFWD_MCAST then okMcast idx v
   else if sid = sFWD_RED then
     inMask v 0 0xF1FF && decide (fld w 0 2 ≠ 3) && decide (fld w 2 6 ≤ 47) && inMask v 1 0xFFFF &&
       (decide (fld w 0 2 = 0) || decide (0 < (wd v 1).toNat))
   else if sid = sRADIO_MODE then okRadio v
   else true)

/-! ## Issuers (R231) -/

/-- Settings that are claimed by use (R318, R349). -/
def claimKey (k : Nat) : Bool :=
  decide (k / 65536 = sCAM_PROFILE) || decide (k / 65536 = sFWD_REWRITE) ||
    (decide (k / 65536 = sFWD_MCAST) && decide (k % 65536 < 8192))

/-- A partition may issue a setting in the configuration in force. -/
def issuerOk (s : State) (n k : Nat) : Bool :=
  let sid := k / 65536
  let idx := k % 65536
  if sid = sPORT_MODE ∨ sid = sFWD_RED then decide (portOwner s idx = n)
  else if sid = sQM_REL ∨ sid = sQM_SHAPE then decide (portOwner s (idx / 8) = n)
  else if sid = sQM_GATE then decide (portOwner s (idx / 128) = n)
  else if sid = sCAM_BLOCK_MODE then decide (camOwner s idx = n)
  else if sid = sFWD_ACL then decide (camOwner s (idx / 2048) = n)
  else if sid = sRADIO_MODE then decide (radioOwner s idx = n)
  else if sid = sCLS_RULE then decide (idx / 64 = n)
  else if sid = sFDB_AGE then decide (idx = n)
  else if claimKey k then
    (match tget (fun _ => none) (newest s).own k with
     | some o => decide (o = n)
     | none => true)
  else if sid = sFWD_MCAST then
    (if idx < 8320 then decide ((if idx < 8292 then portOwner s (idx - 8192) else 0) = n) else decide (idx - 8320 = n))
  else decide (n = 0)

/-! ## The configuration that results (R233) -/

/-- The settings of a list written, drain-class ones among them, with the claims of partition `n`; the bank and region are not
touched. -/
def written (s : State) (n : Nat) (l : List (Nat × List W32)) : State :=
  l.foldl (fun (s : State) x =>
    if drainClass (x.1 / 65536) then { s with cfg := { s.cfg with drain := tset settingReset s.cfg.drain x.1 x.2 } }
    else
      let e := newest s
      let own := if claimKey x.1 then tset (fun _ => none) e.own x.1 (if bit (wd x.2 0) 0 then some n else none) else e.own
      let vals := if x.1 / 65536 = sCLS_RULE ∨ x.1 / 65536 = sUCODE_WORDS then e.vals else tset settingReset e.vals x.1 x.2
      { s with cfg := { s.cfg with epochs := { e with own := own, vals := vals } :: s.cfg.epochs.tail } }) s

/-- Whether a list names a setting. -/
def names (l : List (Nat × List W32)) (sid : Nat) : Bool := l.any fun x => decide (x.1 / 65536 = sid)

/-- The configuration that a commit leaves once it and the drains in progress have ended; a T2_BASE clears SIDE of its table. -/
def resulting (s : State) (n : Nat) (l : List (Nat × List W32)) : State :=
  let s := s.cfg.quiesces.foldl (fun t q => written t q.pt q.sets) s
  let s := written s n l
  (List.range 4).foldl (fun (s : State) t =>
    if l.any fun x => decide (x.1 = skey sT2_BASE t) then written s 0 [(skey sT2_SWAP t, [0])] else s) s

/-! ## Legality matrix (R233, R310, R364, R432) -/

/-- PORT_MODE with FEC and preemption. -/
def legalPorts (t : State) : Bool :=
  (List.range 96).all fun p =>
    let w := cur0 t sPORT_MODE p
    let m := fld w 0 4
    let fec := fld w 4 2
    (decide (fec ≠ 1) || decide (m = 5) || decide (m = 6)) && (decide (fec ≠ 2) || decide (m = 6)) && !(bit w 9 && decide (m = 1))

/-- Redundancy nodes: two ports of sides 0 and 1, one owner, one rate, not shared. -/
def legalNodes (t : State) : Bool :=
  (List.range 96).all fun p =>
    match redNode t (newest t) p with
    | none => true
    | some k =>
      let side := fun q => bit (cur0 t sFWD_RED q) 8
      let mates := (List.range 96).filter fun q => decide (redNode t (newest t) q = some k)
      !portShared t p && decide (mates.length = 2) &&
        mates.all fun q => decide (q = p) || (decide (side q ≠ side p) && decide (portOwner t q = portOwner t p) &&
          decide (modeRate (fld (cur0 t sPORT_MODE q) 0 4) = modeRate (fld (cur0 t sPORT_MODE p) 0 4)))

/-- A profile that uses range fields belongs to the owner of a range block. -/
def legalProfiles (t : State) : Bool :=
  (List.range 64).all fun p =>
    let w := cur0 t sCAM_PROFILE p
    !(bit w 0 && bit w 3) || (List.range 32).any fun b =>
      bit (cur0 t sCAM_BLOCK_MODE b) 0 && decide (tget (fun _ => none) (newest t).own (skey sCAM_PROFILE p) = some (camOwner t b))

/-- The region that is live before a commit that opens its epoch at grain `g`: commits that open together make one swap. -/
def liveRegion (s : State) (g : Grain) : Bool :=
  match s.cfg.epochs with
  | a :: b :: _ => if a.opened = g then b.region else a.region
  | [a] => a.region
  | [] => false

/-- UCODE_WORDS writes only the standby region, or, where the commit changes UCODE_LAYOUT, either region of the new layout. -/
def legalUcode (s t : State) (g : Grain) (l : List (Nat × List W32)) : Bool :=
  let relaid := decide (cur s sUCODE_LAYOUT 0 ≠ cur t sUCODE_LAYOUT 0) && names l sUCODE_LAYOUT
  let v := if relaid then cur t sUCODE_LAYOUT 0 else cur s sUCODE_LAYOUT 0
  let a := fld (wd v 0) 0 12
  let b := fld (wd v 1) 0 12
  let n := fld (wd v 0) 16 12
  let ok := fun i => if relaid then inUregion a n i || inUregion b n i
    else if liveRegion s g then inUregion a n i else inUregion b n i
  l.all fun x => decide (x.1 / 65536 ≠ sUCODE_WORDS) ||
    (ok (x.1 % 65536) && (decide (x.2.length ≠ 8) || ok (x.1 % 65536 + 1)))

/-- Tiles of installed T2: GIB of 2 KiB each. -/
def t2Tiles (s : State) : Nat := s.t2.gib.toNat * 2 ^ 19

/-- The areas of the four tables, first tile and end. -/
def t2Areas (t : State) : List (Nat × Nat) :=
  (List.range 4).flatMap fun i =>
    let v := cur t sT2_BASE i
    let n := (wd v 2).toNat
    if n = 0 then []
    else ((wd v 0).toNat, (wd v 0).toNat + n) :: (if bit (wd v 3) 0 then [((wd v 1).toNat, (wd v 1).toNat + n)] else [])

/-- Intervals that do not overlap. -/
def disjoint : List (Nat × Nat) → Bool
  | [] => true
  | a :: r => (r.all fun b => decide (a.2 ≤ b.1) || decide (b.2 ≤ a.1)) && disjoint r

/-- T2 areas and sides. -/
def legalT2 (t : State) : Bool :=
  disjoint (t2Areas t) && (t2Areas t).all (fun a => decide (a.2 ≤ t2Tiles t)) &&
    (List.range 4).all fun i => !bit (cur0 t sT2_SWAP i) 0 || bit (wd (cur t sT2_BASE i) 3) 0

/-- Modulation rules of an enabled channel (R432). -/
def legalRadio (t : State) : Bool :=
  (List.range 4).all fun m =>
    let v := cur t sRADIO_MODE m
    let fs := 1536000 / 2 ^ fld (wd v 0) 3 2
    let rate := (wd v 1).toNat
    let bw := (wd v 2).toNat
    let dev := (wd v 3).toNat
    !bit (wd v 0) 0 || (decide (2 * dev + rate ≤ bw) && decide (rate ≤ 8 * dev) && decide (4 * bw ≤ fs) && decide (8 * rate ≤ fs) &&
      decide (fld (wd v 4) 0 8 + fld (wd v 4) 8 6 ≤ 255))

/-- The commit of partition `n` that opens at `g` satisfies the legality matrix. -/
def legal (s t : State) (n : Nat) (g : Grain) (l : List (Nat × List W32)) : Bool :=
  l.all (fun x => issuerOk s n x.1) && legalPorts t && legalNodes t && legalProfiles t && legalUcode s t g l && legalT2 t &&
    legalRadio t

/-! ## Limits (R146, R394, R395) -/

/-- VLAN ranges of different partitions are disjoint. -/
def limitVlans (t : State) : Bool :=
  let l := (List.range 128).filterMap fun i =>
    let w := cur0 t sVLAN_RANGE i
    if bit w 31 then some (i / 8, fld w 0 12, fld w 16 12) else none
  l.all fun a => l.all fun b => decide (a.1 = b.1) || decide (a.2.2 < b.2.1) || decide (b.2.2 < a.2.1)

/-- An enabled gate list has no entry of INTERVAL 0 among its first LEN. -/
def limitGates (t : State) (l : List (Nat × List W32)) : Bool :=
  l.all fun x => decide (x.1 / 65536 ≠ sQM_GATE) ||
    (let p := x.1 % 65536 / 128
     let h := cur0 t sQM_GATE (128 * p)
     !bit h 0 || (List.range (fld h 1 7)).all fun j => decide (0 < fld (cur0 t sQM_GATE (128 * p + 64 + j)) 10 22))

/-- Idle slopes of a port's shaped queues do not exceed its data rate; a disabled port has none (log entry 70). -/
def limitShapes (t : State) : Bool :=
  (List.range 96).all fun p =>
    let rate := modeRate (fld (cur0 t sPORT_MODE p) 0 4)
    decide (rate = 0) || decide ((((List.range 8).filter fun q => cbsEn t (newest t) p q).map fun q => idleSlope t (newest t) p q).sum ≤ rate)

/-- The limits of the ownership table and of R394 and R395. -/
def limitsOk (t : State) (l : List (Nat × List W32)) : Bool :=
  let regions := ((List.range 16).map fun n => (fdbBase t n, fdbBase t n + fdbSize t n)).filter fun r => decide (r.1 < r.2)
  limitVlans t && decide (((List.range 16).map (guarOf t)).sum ≤ 393216) && disjoint regions &&
    decide (((List.range 16).map (floorOf t)).sum ≤ 14336) && limitGates t l && limitShapes t

end Sys2Proof.Machine
end

