-- ==== Sys2Proof/Machine/TwinOps.lean ====
section
/-! DEFINITION. Changes of twin state (spec/23 R618-R621) and the READY exchange of epoch openings (R609, R616). -/

namespace Sys2Proof.Machine

/-! ## Twin states -/

/-- A state machine in another state: STATE, CAUSE, event 675 (R618, R627). -/
def twinSet (s : State) (st : BitVec 3) (cause : Nat) : State :=
  raise { s with twn := { s.twn with state := st, cause := BitVec.ofNat 4 cause } } 675 st.toNat cause

/-- No READY stands, and no transfer is under way (R616, R622). -/
def readyClear (s : State) : State :=
  { s with
    twn := { s.twn with ready := none, partReady := none, digest := [], xfer := [], holdLearn := [], pass := 0, sentBuckets := [] }
    cfg := { s.cfg with commits := s.cfg.commits.filter fun c => !c.remote, txns := s.cfg.txns.filter fun t => !t.remote } }

/-- A device leaves PAIRED: its junior goes into holdover with SRC := JSRC (R618); openings not agreed are the device's own
again. -/
def leavePaired (s : State) : State :=
  let s := readyClear s
  if senior s then s
  else
    let s := holdoverEntry s
    { s with tb := { s.tb with src := s.twn.jsrc, pRef := none } }

/-- TWIN is cleared on every FDB entry (R618). -/
def twinCleared (s : State) : State :=
  { s with fdb := { s.fdb with ents := s.fdb.ents.map fun e => (e.1, e.2.map fun x => { x with twin := false }) } }

/-- A change of twin state and what it brings (R618-R621, R626). -/
def twinTo (s : State) (st : BitVec 3) (cause : Nat) : State :=
  if s.twn.state = st then s
  else
    let was := paired s
    let s := twinSet s st cause
    let s := if was then leavePaired s else s
    if st = twSEPARATED then { s with twn := { s.twn with seps := satInc s.twn.seps } }
    else if st = twLOST then twinCleared s
    else if st = twPAIRED then { s with twn := { s.twn with pairedOnce := true } }
    else s

/-! ## READY (R609, R616) -/

/-- The digest of the shared configuration (R609). -/
def digest (s : State) : List Byte :=
  let parts := (List.range 16).filter fun n => s.twn.share.toNat.testBit n
  sha256 (leBytes 2 s.twn.share.toNat ++ parts.flatMap fun n =>
    leBytes 1 n ++ leBytes 4 (cur0 s sFDB_REGION n).toNat ++ ((cur s sFDB_AGE n).flatMap fun w => leBytes 4 w.toNat) ++
      ((List.range 96).filter fun p => decide (portOwner s p = n)).flatMap fun p =>
        leBytes 1 p ++ leBytes 4 (cur0 s sPORT_OWN p).toNat)

/-- READY for an opening at pair grain `g`. -/
def readySend (s : State) (g : Grain) (twin align : Bool) : State :=
  torvSend { s with twn := { s.twn with ready := some (g, (newest s).num, twin) } } 0x07
    (leBytes 8 g.toNat ++ leBytes 2 (newest s).num.toNat ++ leBytes 1 (b1 twin + 2 * b1 align) ++ List.replicate 5 0 ++ digest s)

/-- The pair grain at which both devices open, once both are ready. -/
def openAt (s : State) : Option Grain :=
  match s.twn.ready, s.twn.partReady with
  | some a, some b => some (later a.1 b.1 + lagOf s)
  | _, _ => none

/-- The digests exchanged differ: both devices separate after the opening. -/
def digestDiffers (s : State) : Bool := decide (s.twn.digest ≠ digest s)

end Sys2Proof.Machine
end

