-- ==== Sys2Proof/Machine/Epochs.lean ====
section
/-! DEFINITION. Configuration transactions, commits, epochs, drains, the mirror and signed images (spec/09 R231-R254, spec/11
R297, R298, R308, R309). -/

namespace Sys2Proof.Machine

/-! ## Transactions (R216, R234) -/

/-- The open transaction of partition `n`. -/
def txnOf (s : State) (n : Nat) : Option Txn := s.cfg.txns.find? fun t => !t.remote && decide (t.pt = n)

/-- A commit of partition `n` has arrived and neither opened nor completed. -/
def commitOf (s : State) (n : Nat) : Option Commit := s.cfg.commits.find? fun c => !c.remote && decide (c.pt = n)

/-- The transaction of partition `n` closes. -/
def closeTxn (s : State) (n : Nat) : State :=
  { s with cfg := { s.cfg with txns := s.cfg.txns.filter fun t => t.remote || decide (t.pt ≠ n) } }

/-- Setting key and value of a CFG_SET (R215). -/
def setKey (c : Cmd) : Nat := skey (par c 8 4) (par c 12 2)
def setWords (c : Cmd) : List W32 := wordsLE (par c 14 1) c.bytes 16

/-- The layout that decides whether two microwords share a region: that of the transaction where it holds one. -/
def layoutFor (s : State) (n : Nat) : List W32 :=
  match (txnOf s n).bind fun t => t.sets.find? fun x => decide (x.1 = skey sUCODE_LAYOUT 0) with
  | some x => x.2
  | none => cur s sUCODE_LAYOUT 0

/-- CFG_SET names a setting and a value that exist (R231, R232). -/
def cfgSetOk (s : State) (c : Cmd) : Bool :=
  inRange (par c 14 1) 1 11 && zeros c.bytes (16 + 4 * par c 14 1) (44 - 4 * par c 14 1) &&
    valueOk (layoutFor s c.pt) (par c 8 4) (par c 12 2) (setWords c)

/-- CFG_OPEN (R216). -/
def cfgOpen (s : State) (c : Cmd) : State :=
  if (txnOf s c.pt).isSome then complete s c.id stCFG_TXN_OPEN []
  else
    let t : Txn := { pt := c.pt, remote := false, sets := [] }
    complete { s with cfg := { s.cfg with txns := s.cfg.txns ++ [t] } } c.id stDONE (leBytes 2 (newest s).num.toNat)

def execCfgOpen (id : Nat) (s : State) : Host.Outcome State Fault Refusal := ev true (runCfg s id 0x20 cfgOpen)

/-- A setting joins a list, in place of an earlier one of the same key. -/
def putSet (l : List (Nat × List W32)) (k : Nat) (v : List W32) : List (Nat × List W32) :=
  if l.any (fun x => decide (x.1 = k)) then l.map (fun x => if x.1 = k then (k, v) else x) else l ++ [(k, v)]

/-- What a CFG_SET does to its transaction: the status, and the state. -/
def cfgSetEff (s : State) (n k : Nat) (v : List W32) : State × Nat :=
  match txnOf s n with
  | some t =>
    if (commitOf s n).isSome then (s, stCFG_NO_TXN)
    else if 4096 ≤ t.sets.length ∧ t.sets.all (fun x => decide (x.1 ≠ k)) then (s, stQUEUE_FULL)
    else
      let f := fun (x : Txn) => if !x.remote && decide (x.pt = n) then { x with sets := putSet x.sets k v } else x
      ({ s with cfg := { s.cfg with txns := s.cfg.txns.map f } }, stDONE)
  | none => (s, stCFG_NO_TXN)

/-- CFG_SET (R216, R234). -/
def cfgSet (s : State) (c : Cmd) : State :=
  let r := cfgSetEff s c.pt (setKey c) (setWords c)
  complete r.1 c.id r.2 []

def execCfgSet (id : Nat) (s : State) : Host.Outcome State Fault Refusal := ev true (runCfg s id 0x21 cfgSet)

/-- P5 index of a commit (R39, R235). -/
def commitIdx (c : Commit) : Nat := if c.twin then 16 else c.pt

/-- Order of waiting commits: AT, then index (R239). -/
def commitAhead (a b : Commit) : Bool :=
  before a.at_ b.at_ || (decide (a.at_ = b.at_) && decide (commitIdx a < commitIdx b))

/-- A commit in its place. -/
def insCommit (c : Commit) : List Commit → List Commit
  | [] => [c]
  | x :: r => if commitAhead c x then c :: x :: r else x :: insCommit c r

/-- A commit stated for a grain joins those pending. -/
def addCommit (s : State) (c : Commit) : State := { s with cfg := { s.cfg with commits := insCommit c s.cfg.commits } }

/-- CFG_COMMIT closes the transaction and states its commit (R234, R235). -/
def cfgCommit (s : State) (c : Cmd) : State :=
  match txnOf s c.pt with
  | none => complete s c.id stCFG_NO_TXN []
  | some t =>
    if (commitOf s c.pt).isSome then complete s c.id stCFG_NO_TXN []
    else
      let k : Commit := { pt := c.pt, twin := twinOf c, at_ := BitVec.ofNat 64 (par c 16 8), cmd := some c.id,
                          drainOk := drainOf c, image := none, sets := t.sets, waiting := false, until_ := 0, remote := false }
      running (addCommit s k) c.id

def execCfgCommit (id : Nat) (s : State) : Host.Outcome State Fault Refusal := ev true (runCfg s id 0x22 cfgCommit)

/-- A commit that is not remote leaves the list, and its transaction closes (R216). -/
def dropCommit (s : State) (c : Commit) : State :=
  let s : State := { s with cfg := { s.cfg with commits := s.cfg.commits.filter fun x => decide (x ≠ c) } }
  if c.remote then s else closeTxn s c.pt

/-- CFG_ABORT: a pending commit is cancelled and completes with CFG_NO_TXN (R216, R234). -/
def cfgAbort (s : State) (c : Cmd) : State :=
  match commitOf s c.pt with
  | some k => complete (completeOpt (dropCommit s k) k.cmd stCFG_NO_TXN []) c.id stDONE []
  | none => complete (closeTxn s c.pt) c.id (if (txnOf s c.pt).isSome then stDONE else stNOTE) []

def execCfgAbort (id : Nat) (s : State) : Host.Outcome State Fault Refusal := ev true (runCfg s id 0x23 cfgAbort)

/-! ## The mirror (R298) -/

/-- Writing one microword at a physical address: every engine's copy holds it with good parity (R280, R282). -/
def writeUcode (s : State) (a : Nat) (w : Option (BitVec 128)) : State :=
  { s with
    cfg := { s.cfg with ucode := tset (fun _ => none) s.cfg.ucode a w }
    eng := s.eng.map fun e => (e.1, { e.2 with badWords := e.2.badWords.filter fun k => decide (k ≠ a) }) }

/-- Two physical addresses hold the same word. -/
def sameUcode (s : State) (a b : Nat) : Bool :=
  let v := fun i => tget (fun _ => none) s.cfg.ucode i
  ((v a).isNone && (v b).isNone && decide (a % 2048 = b % 2048)) || decide (ucodeWord s a = ucodeWord s b)

/-- The word at `a` copied to `b`. -/
def copyUcode (s : State) (a b : Nat) : State :=
  if (tget (fun _ => none) s.cfg.ucode a).isNone ∧ a % 2048 = b % 2048 then writeUcode s b none
  else writeUcode s b (some (ucodeWord s a))

/-- Base of a region. -/
def regionBase (s : State) (r : Bool) : Nat :=
  let v := cur s sUCODE_LAYOUT 0
  if r then fld (wd v 1) 0 12 else fld (wd v 0) 0 12

/-- Rules of a bank that differ from the newest epoch's. -/
def ruleDiff (s : State) (bank : Bool) : List Nat :=
  let at_ := fun i => tget (fun _ => List.replicate 6 (0 : W32)) s.cfg.rules i
  let b := if bank then 1024 else 0
  if bank = (newest s).bank then [] else (List.range 1024).filter fun i => at_ (b + i) ≠ at_ (bankOf (newest s) + i)

/-- Relative addresses of a region whose words differ from the newest epoch's. -/
def wordDiff (s : State) (region : Bool) : List Nat :=
  if region = (newest s).region then []
  else (List.range (ucodeLen s)).filter fun i => !sameUcode s (ucodeBase s (newest s) + i) (regionBase s region + i)

/-- The first copy of the list starts in this grain: its entries are copied, and it is complete after one grain for each 64; a
copy of no entry is complete at once. -/
def mirrorStart (s : State) : State :=
  match s.cfg.mirrors with
  | [] => s
  | m :: r =>
    let rd := ruleDiff s m.bank
    let wdf := wordDiff s m.region
    let k := rd.length + (if m.full then ucodeLen s else wdf.length)
    let src := bankOf (newest s)
    let dst := if m.bank then 1024 else 0
    let rules := rd.foldl (fun t i => tset (fun _ => List.replicate 6 (0 : W32)) t (dst + i)
      (tget (fun _ => List.replicate 6 0) s.cfg.rules (src + i))) s.cfg.rules
    let s : State := { s with cfg := { s.cfg with rules := rules } }
    let s := wdf.foldl (fun s i => copyUcode s (ucodeBase s (newest s) + i) (regionBase s m.region + i)) s
    { s with cfg := { s.cfg with
        mirrors := if k = 0 then r else { m with doneAt := s.gr.count + BitVec.ofNat 64 ((k + 63) / 64) } :: r } }

/-- A copy joins the queue; it starts where none is running. -/
def mirrorPush (s : State) (bank region full : Bool) : State :=
  let m : Mirror := { doneAt := 0, bank := bank, region := region, full := full }
  let idle := s.cfg.mirrors.isEmpty
  let s : State := { s with cfg := { s.cfg with mirrors := s.cfg.mirrors ++ [m] } }
  if idle then mirrorStart s else s

/-- The running copy is complete; the next one starts. -/
def mirrorComplete (s : State) : State :=
  match s.cfg.mirrors with
  | m :: r => if reached s m.doneAt then mirrorStart { s with cfg := { s.cfg with mirrors := r } } else s
  | [] => s

def execMirrorComplete (s : State) : Host.Outcome State Fault Refusal := ev true (mirrorComplete s)

/-! ## Retirement (R237) -/

/-- A commit presented at the grain the newest epoch opened is still in the backlog. -/
def openingPends (s : State) : Bool :=
  s.gr.backlog.any fun e => decide (e.stamp = (newest s).opened) && decide (e.inp.cls = 5)

/-- The older epoch retires where no packet carries it. -/
def epochRetire (s : State) : State :=
  match s.cfg.epochs with
  | a :: b :: _ =>
    if a.opened ≠ s.gr.count ∧ !openingPends s ∧ !s.qm.pkts.any (fun p => decide (p.epoch = b.num)) then
      mirrorPush { s with cfg := { s.cfg with epochs := [a] } } b.bank b.region false
    else s
  | _ => s

def execEpochRetire (s : State) : Host.Outcome State Fault Refusal := ev true (epochRetire s)

/-! ## Opening an epoch (R236, R237, R240, R297) -/

/-- An epoch opened at this grain already: a commit joins it (R236). -/
def joins (s : State) (g : Grain) : Bool := decide (2 ≤ s.cfg.epochs.length) && decide ((newest s).opened = g)

/-- Packets stamped at the opening grain or later carry the new epoch (R31, R42). -/
def restamp (s : State) (old : BitVec 16) (g : Grain) : State :=
  let f := fun (p : Pkt) => if p.epoch = old ∧ !before p.grain g then { p with epoch := (newest s).num } else p
  { s with qm := { s.qm with pkts := s.qm.pkts.map f } }

/-- An epoch of a number opens at grain `g` with the settings of the newest one. -/
def openNumbered (s : State) (g : Grain) (num : BitVec 16) : State :=
  let e := newest s
  restamp { s with cfg := { s.cfg with epochs := { e with num := num, opened := g } :: s.cfg.epochs } } e.num g

/-- The epoch of grain `g`: opened now, or joined. -/
def openEpoch (s : State) (g : Grain) : State := if joins s g then s else openNumbered s g ((newest s).num + 1)

/-- The epoch before the newest. -/
def previous (s : State) : Epoch := (s.cfg.epochs.drop 1).headD (newest s)

/-- The newest epoch changed. -/
def modNewest (s : State) (f : Epoch → Epoch) : State :=
  { s with cfg := { s.cfg with epochs := f (newest s) :: s.cfg.epochs.tail } }

/-- The bank and the region swap once for all commits of an opening (R297, R308). -/
def swapBanks (s : State) (l : List (Nat × List W32)) (relaid : Bool) : State :=
  let p := previous s
  modNewest s fun e =>
    { e with
      bank := if names l sCLS_RULE then !p.bank else e.bank
      region := if names l sUCODE_WORDS && !relaid then !p.region else e.region }

/-- A microword from four words of a value. -/
def microwordAt (v : List W32) (k : Nat) : BitVec 128 :=
  BitVec.ofNat 128 ((wd v k).toNat + 2 ^ 32 * (wd v (k + 1)).toNat + 2 ^ 64 * (wd v (k + 2)).toNat + 2 ^ 96 * (wd v (k + 3)).toNat)

/-- The rules and microwords of a commit are written at the opening grain (R282, R297). -/
def writeBanks (s : State) (l : List (Nat × List W32)) : State :=
  l.foldl (fun (s : State) x =>
    if x.1 / 65536 = sCLS_RULE then
      { s with cfg := { s.cfg with
          rules := tset (fun _ => List.replicate 6 0) s.cfg.rules (bankOf (newest s) + x.1 % 65536) x.2 } }
    else if x.1 / 65536 = sUCODE_WORDS then
      let s := writeUcode s (x.1 % 65536) (some (microwordAt x.2 0))
      if x.2.length = 8 then writeUcode s (x.1 % 65536 + 1) (some (microwordAt x.2 4)) else s
    else s) s

/-- What an epoch-class setting brings at the commit grain beside its value, `old` being the value before: a key slot or a
capture input cleared for the losing partition (R146), a node's counter (R365), rings restarted (R363), gate states (R381). -/
def epochEffect (s : State) (k : Nat) (old v : List W32) : State :=
  let sid := k / 65536
  let idx := k % 65536
  if sid = sKEY_OWN ∧ old ≠ v then { s with pka := { s.pka with slots := tset (fun _ => none) s.pka.slots idx none } }
  else if sid = sECAP_OWN ∧ old ≠ v then evcClear s idx
  else if sid = sFWD_RED ∧ old ≠ v then
    let key := fun (w : W32) => 64 * fld w 0 2 + fld w 2 6
    { s with fwd := { s.fwd with nodeSeq := tset (fun _ => 0) (tset (fun _ => 0) s.fwd.nodeSeq (key (wd old 0)) 0) (key (wd v 0)) 0 } }
  else if sid = sFWD_MCAST ∧ 8320 ≤ idx then ringsRestart s (idx - 8320)
  else if sid = sQM_GATE then gateEntryStart (idx / 128) s
  else s

/-- The settings of a transaction that change something (R216, R241, R308). -/
def changing (s : State) (l : List (Nat × List W32)) : List (Nat × List W32) :=
  l.filter fun x => decide (x.1 / 65536 = sCLS_RULE) || decide (x.1 / 65536 = sUCODE_WORDS) ||
    decide (cur s (x.1 / 65536) (x.1 % 65536) ≠ x.2)

/-- Drain-class settings of a list, and the others. -/
def drains (l : List (Nat × List W32)) : List (Nat × List W32) := l.filter fun x => drainClass (x.1 / 65536)
def epochals (l : List (Nat × List W32)) : List (Nat × List W32) := l.filter fun x => !drainClass (x.1 / 65536)

/-! ## Drains (R242, R243) -/

/-- The FDB regions of a partition, before and after, overlap those of another. -/
def regionsMeet (s t : State) (a b : Nat) : Bool :=
  let r := fun (u : State) n => (fdbBase u n, fdbBase u n + fdbSize u n)
  let meet := fun (x y : Nat × Nat) => decide (x.1 < y.2) && decide (y.1 < x.2)
  [r s a, r t a].any fun x => [r s b, r t b].any fun y => meet x y

/-- The partitions whose every packet is in the scope of a changed drain-class setting (R242). -/
def scopeParts (s t : State) (k : Nat) : List Nat :=
  let sid := k / 65536
  let idx := k % 65536
  if sid = sBUF_SHARE then [idx]
  else if sid = sCAM_BLOCK_OWN ∨ sid = sCAM_BLOCK_MODE then [camOwner s idx, camOwner t idx]
  else if sid = sFDB_REGION then idx :: (List.range 16).filter fun n => decide (n ≠ idx) && regionsMeet s t idx n
  else []

/-- The logical port in the scope of a setting, as ingress and egress. -/
def scopePort (k : Nat) : List Nat :=
  let sid := k / 65536
  if sid = sPORT_MODE ∨ sid = sPORT_OWN then [k % 65536]
  else if sid = sRADIO_OWN ∨ sid = sRADIO_MODE then [96 + k % 65536] else []

/-- The drain of a commit's changed settings, before anything is flushed. -/
def newQuiesce (s t : State) (c : Commit) (g : Grain) (l : List (Nat × List W32)) : Quiesce :=
  let ps := l.flatMap fun x => scopePort x.1
  { at_ := g, until_ := g + BitVec.ofNat 64 (tMax s + 64000), pt := c.pt, cmd := c.cmd, num := (newest s).num, image := c.image,
    sets := l, egress := ps ++ (l.filter fun x => decide (x.1 / 65536 = sBUF_CARVE)).map fun x => x.1 % 65536,
    ingress := ps, parts := l.flatMap fun x => scopeParts s t x.1,
    all := names l sUCODE_LAYOUT || names l sT2_BASE, lost := 0 }

/-- A packet is in scope whatever its destination. -/
def inScopeCopy (x : Quiesce) (c : Copy) : Bool := x.all || x.parts.contains c.part || x.ingress.contains c.port

/-- Packets with a copy in a queue that a drain has in scope. -/
def queuedInScope (s : State) (x : Quiesce) : List Nat :=
  let ids := ((List.range 102).flatMap fun p =>
    ((portCopies s p) ++ (match (schedAt s p).paused with | some t => [t.copy] | none => [])).filter (inScopeCopy x)).map (·.pkt)
  ids.eraseDups

/-- What is in the queues at `g` goes and is counted (R243). -/
def quiesceFlush (s : State) (x : Quiesce) : State × Quiesce :=
  let ids := queuedInScope s x
  let s := (List.range 102).foldl (fun s p => (flushCopies s p fun c => ids.contains c.pkt).1) s
  let r := x.egress.foldl (fun a p => let r := flushCopies a.1 p fun _ => true; (r.1, a.2 + r.2)) (s, 0)
  (r.1, { x with lost := x.lost + BitVec.ofNat 64 (ids.length + r.2) })

/-- Radio bursts held or being received on a channel in scope: a held frame is discarded and counted (R478), one being received
is marked. -/
def quiesceRadio (s : State) (x : Quiesce) : State × Quiesce :=
  (List.range 4).foldl (fun a m =>
    if x.ingress.contains (96 + m) then
      let y := radioAt a.1 m
      let held := y.tracked.filter fun b => b.decoded && b.keep && !b.collided
      (setRadio a.1 m { y with tracked := (y.tracked.filter fun b => !b.decoded).map fun b => { b with inScope := true } },
        { a.2 with lost := a.2.lost + BitVec.ofNat 64 held.length })
    else a) (s, x)

/-- A drain begins at `g`. -/
def startQuiesce (s t : State) (c : Commit) (g : Grain) (l : List (Nat × List W32)) : State :=
  let r := quiesceFlush s (newQuiesce s t c g l)
  let r := quiesceRadio r.1 r.2
  { r.1 with cfg := { r.1.cfg with quiesces := r.1.cfg.quiesces ++ [r.2] } }

/-- A port still holds a frame in scope: in a queue, preempted, on the wire, or on air. -/
def portHolds (s : State) (p : Nat) : Bool :=
  !(portCopies s p).isEmpty || (schedAt s p).tx.isSome || (schedAt s p).paused.isSome ||
    (decide (96 ≤ p) && decide (p < 100) && (radioAt s (p - 96)).burst.isSome)

/-- A packet in scope remains (R243). What names a port is known of a packet once it is finished: those stamped before the drain's
epoch and not yet in a queue are waited for (log entry 71). -/
def remains (s : State) (x : Quiesce) : Bool :=
  s.qm.pkts.any (fun p => x.all || (x.parts.contains p.part && decide (p.stage ≠ .arriving)) || x.ingress.contains p.port ||
    (!x.egress.isEmpty && decide (p.epoch ≠ x.num) && decide (p.stage ≠ .stored) && before p.grain x.at_)) ||
  x.egress.any (portHolds s) ||
  (List.range 4).any fun m => x.ingress.contains (96 + m) && (radioAt s m).tracked.any (·.inScope)

/-- FDB units of partition `n` that its new region does not hold (R146, R343). -/
def unitsLost (s t : State) (n b : Nat) : Bool := inRegion s n b && !inRegion t n b

/-- What the end of a drain clears for one setting, `s` before and `t` with the new values (R146, R243, R317, R420, R452). -/
def drainEffect (before_ t : State) (k : Nat) : State :=
  let sid := k / 65536
  let idx := k % 65536
  if sid = sPORT_MODE then portModeApply t idx
  else if sid = sPORT_OWN then
    (if portOwner before_ idx = portOwner t idx then t
     else tsuClear (fdbRemove t fun b x => inRegion before_ (portOwner before_ idx) b && decide (x.port = idx)) idx)
  else if sid = sCAM_BLOCK_OWN ∨ sid = sCAM_BLOCK_MODE then camClear t idx
  else if sid = sFDB_REGION then fdbRemove t fun b _ => unitsLost before_ t idx b
  else if sid = sT2_BASE then
    { t with cfg := { t.cfg with epochs := t.cfg.epochs.map fun e => { e with vals := tset settingReset e.vals (skey sT2_SWAP idx) [0] } } }
  else if sid = sUCODE_LAYOUT then
    mirrorPush { t with cfg := { t.cfg with epochs := t.cfg.epochs.map fun e => { e with region := false } } } (newest t).bank true true
  else if sid = sRADIO_MODE then setRadio t idx { radioAt t idx with nf := [] }
  else t

/-- IMG_ID of a partition after an image took effect (R250). -/
def imageSet (s : State) (n : Nat) (i : Option (BitVec 64)) : State :=
  match i with | some v => setPtn s n { ptnAt s n with imgId := v } | none => s

/-- Result bytes 16-27 of a commit (R215). -/
def commitResult (num : BitVec 16) (drained : Bool) (lost : Nat) : List Byte :=
  leBytes 2 num.toNat ++ leBytes 2 (b1 drained) ++ leBytes 8 lost

/-- The quiesce end: the drained settings take effect and the commit completes (R243). -/
def quiesceApply (s : State) (x : Quiesce) : State :=
  let t : State := { s with cfg := { s.cfg with quiesces := s.cfg.quiesces.filter fun y => decide (y ≠ x) } }
  let t := written t x.pt x.sets
  let t := x.sets.foldl (fun t k => drainEffect s t k.1) t
  let t := if (x.cmd.bind (cmdAt t)).isSome then imageSet t x.pt x.image else t
  completeOpt t x.cmd stDONE (commitResult x.num true x.lost.toNat)

def quiesceEnd (s : State) : State :=
  match s.cfg.quiesces.find? fun x => !remains s x with
  | some x => quiesceApply s x
  | none => s

def execQuiesceEnd (s : State) : Host.Outcome State Fault Refusal := ev true (quiesceEnd s)

/-- What remains in scope at the bound is discarded and counted. -/
def quiescePurge (s : State) (x : Quiesce) : State :=
  let mark := fun (y : Quiesce) => decide (y.at_ = x.at_) && decide (y.pt = x.pt) && decide (y.num = x.num)
  let s := purgeAll s (fun p => x.all || (x.parts.contains p.part && decide (p.stage ≠ .arriving)) || x.ingress.contains p.port)
    fun s _ => drainLost s mark
  let r := x.egress.foldl (fun a p => let r := flushCopies a.1 p fun _ => true; (r.1, a.2 + r.2)) (s, 0)
  let lost := r.2 + ((List.range 4).map fun m =>
    if x.ingress.contains (96 + m) then ((radioAt r.1 m).tracked.filter (·.inScope)).length else 0).sum
  let s := (List.range 4).foldl (fun s m =>
    if x.ingress.contains (96 + m) then setRadio s m { radioAt s m with tracked := (radioAt s m).tracked.filter fun b => !b.inScope }
    else s) r.1
  (List.range lost).foldl (fun s _ => drainLost s mark) s

/-- The bound of a drain is reached (R243). -/
def quiesceDeadline (s : State) : State :=
  match s.cfg.quiesces.find? fun x => reached s x.until_ with
  | some x =>
    let s := quiescePurge s x
    match s.cfg.quiesces.find? fun y => decide (y.at_ = x.at_) && decide (y.pt = x.pt) && decide (y.num = x.num) with
    | some y => quiesceApply s y
    | none => s
  | none => s

def execQuiesceDeadline (s : State) : Host.Outcome State Fault Refusal := ev true (quiesceDeadline s)

/-! ## Commits (R233-R241, R309, R616) -/

/-- A commit holds rules or microwords and so waits for the mirror. -/
def needsMirror (c : Commit) : Bool := names c.sets sCLS_RULE || names c.sets sUCODE_WORDS

/-- R239 and R309 allow an opening for a commit presented at grain `g`: one epoch is live or one opened at `g`, and neither it nor
a commit ahead of it waits for the mirror. -/
def mayOpen (s : State) (g : Grain) (c : Commit) : Bool :=
  (joins s g || decide (s.cfg.epochs.length < 2)) &&
    s.cfg.commits.all fun d => before g d.at_ || (decide (d ≠ c) && !commitAhead d c) || !needsMirror d || s.cfg.mirrors.isEmpty

/-- A commit completes without an opening. -/
def commitFail (s : State) (c : Commit) (status : Nat) : State := completeOpt (dropCommit s c) c.cmd status []

/-- EPOCH_BUSY (R239). -/
def commitBusy (s : State) (c : Commit) : State :=
  commitFail { s with cfg := { s.cfg with busyCnt := satInc s.cfg.busyCnt } } c stEPOCH_BUSY

/-- The transaction changes nothing (R216). -/
def commitIdle (s : State) (c : Commit) : State :=
  let t := imageSet (dropCommit s c) c.pt c.image
  completeOpt t c.cmd stNOTE (commitResult (newest s).num false 0)

/-- The status of the check that fails, in the order of R241. -/
def commitCheck (s : State) (c : Commit) (g : Grain) : Option Nat :=
  let t := resulting s c.pt c.sets
  if !legal s t c.pt g c.sets then some stILLEGAL_MODE
  else if !limitsOk t c.sets then some stBAD_PARAM
  else if !c.drainOk && !(drains (changing s c.sets)).isEmpty then some stDRAIN_REQUIRED
  else none

/-- A checked commit opens the epoch of grain `g` or joins it: the epoch-class settings take effect; without a drain it completes,
with one the drain begins (R236, R240, R243). -/
def commitOpen (s : State) (c : Commit) (g : Grain) : State :=
  let l := changing s c.sets
  let d := drains l
  let after := resulting s c.pt c.sets
  let relaid := names d sUCODE_LAYOUT
  let t := swapBanks (openEpoch (dropCommit s c) g) l relaid
  let t := writeBanks (written t c.pt (epochals l)) l
  let t := l.foldl (fun t x => epochEffect t x.1 (cur s (x.1 / 65536) (x.1 % 65536)) x.2) t
  let t := if c.remote then t else raiseAt t (448 + 8 * c.pt + 5) 0 (newest t).num.toNat g
  if d.isEmpty then completeOpt (imageSet t c.pt c.image) c.cmd stDONE (commitResult (newest t).num false 0)
  else startQuiesce t after c g d

/-- A commit that may open is checked and opens, or completes with the status of the check that fails. -/
def commitTake (s : State) (c : Commit) (g : Grain) : State :=
  match commitCheck s c g with
  | some st => commitFail s c st
  | none => commitOpen s c g

/-- A commit waits, to be presented again at the next boundary. -/
def commitWait (s : State) (c : Commit) : State :=
  { s with cfg := { s.cfg with commits := s.cfg.commits.map fun x => if x = c then { c with waiting := true } else x } }

/-- A twin-scoped transaction's entries go to the partner in COMMAND frames (R608). -/
def sendEntries (s : State) (c : Commit) (g : Grain) : State :=
  c.sets.foldl (fun s x =>
    let body := [0x21, 4] ++ leBytes 6 0 ++ leBytes 4 (x.1 / 65536) ++ leBytes 2 (x.1 % 65536) ++ leBytes 1 x.2.length ++ [0] ++
      x.2.flatMap fun w => leBytes 4 w.toNat
    torvSend s 0x04 (leBytes 8 g.toNat ++ leBytes 1 c.pt ++ List.replicate 7 0 ++ padTo 64 body)) s

/-- A commit of a PAIRED device: READY once it may open, the opening at the grain both agree on (R616). -/
def commitPaired (s : State) (c : Commit) (g : Grain) : State :=
  match openAt s with
  | some t =>
    if !before (toPair s g) t then
      let bad := digestDiffers s
      let s1 := commitTake { s with twn := { s.twn with ready := none, partReady := none } } c g
      if bad then twinTo s1 twSEPARATED 5 else s1
    else if before (toPair s c.until_) t then
      commitBusy { s with twn := { s.twn with ready := none, partReady := none } } c
    else commitWait s c
  | none =>
    if s.twn.ready.isSome ∨ c.remote then commitWait s c
    else
      let g' := toPair s g
      commitWait (readySend (if c.twin then sendEntries s c (g' + lagOf s) else s) g' c.twin false) c

/-- One commit presented at grain `g` (R216, R235, R239). -/
def commitPresent (s : State) (c0 : Commit) (g : Grain) : State :=
  let c := if c0.waiting then c0 else { c0 with until_ := c0.at_ + BitVec.ofNat 64 (tMax s + 64000) }
  let s : State := { s with cfg := { s.cfg with commits := s.cfg.commits.map fun x => if x = c0 then c else x } }
  if (changing s c.sets).isEmpty ∧ !c.remote then commitIdle s c
  else if before c.until_ g then commitBusy s c
  else if !mayOpen s g c then commitWait s c
  else if !paired s ∧ s.twn.ready.isSome then commitWait s c
  else if paired s ∧ !joins s g then commitPaired s c g
  else commitTake s c g

/-- P5: the commits of an index that are due at their grain. -/
def commitApply (s : State) : State :=
  match takeHead s fun d => match d with | .commit _ => true | _ => false with
  | some (s, e) =>
    (s.cfg.commits.filter fun c => decide (commitIdx c = e.inp.idx) && !before e.stamp c.at_).foldl
      (fun t c => if t.cfg.commits.contains c then commitPresent t c e.stamp else t) s
  | none => s

def execCommitApply (s : State) : Host.Outcome State Fault Refusal := ev true (commitApply s)

/-- The commits due at a boundary are P5 inputs of that grain (R39, R235, R239): their indices, once each. -/
def commitsDue (s : State) : List Nat :=
  (((s.cfg.commits.filter fun c => reached s c.at_).map commitIdx).eraseDups).filter fun i =>
    !s.gr.backlog.any fun e => decide (e.inp.what = .commit i)

/-- A commit has waited to its bound (R239). -/
def commitWaitTimeout (s : State) : State :=
  match s.cfg.commits.find? fun c => c.waiting && reached s c.until_ with
  | some c => commitBusy s c
  | none => s

def execCommitWaitTimeout (s : State) : Host.Outcome State Fault Refusal := ev true (commitWaitTimeout s)

/-! ## Configuration images (R217, R244-R246) -/

/-- Bytes of a signature (R245). -/
def sigLen (alg : Nat) : Nat := if alg = 1 then 64 else if alg = 2 then 96 else if alg = 3 then 132 else 64

/-- The structure of an image is sound (R244, R246). -/
def imageForm (b : List Byte) : Bool :=
  let n := le b 12 4
  let alg := le b 28 1
  decide (le b 0 4 = 0x47464344) && decide (le b 4 2 = 1) && decide (le b 6 1 < 16) && zeros b 7 1 && decide (le b 8 2 = 0x0960) &&
    decide (le b 10 1 ≤ 1) && zeros b 11 1 && inRange n 1 4096 && decide (le b 24 4 = 56 * n) && inRange alg 1 4 &&
    decide (le b 29 1 < 64) && zeros b 30 2 && zeros b 40 24 && decide (b.length = 64 + 56 * n + sigLen alg) &&
    (List.range n).all fun i => zeros b (64 + 56 * i + 52) 4

/-- A signature of a message holds under a public form (R245, R486). -/
def sigHolds (alg : Nat) (pub m sig : List Byte) : Bool :=
  if alg = 4 then
    (match edDecode pub with | some q => !edSmall q && edVerify q pub m sig | none => false)
  else
    let c := curveOf alg
    match ecDecode c pub with
    | some q => ecdsaVerify c (some q) (shaOf (if alg = 1 then 32 else if alg = 2 then 48 else 64) m) sig
    | none => false

/-- The signature of an image holds: the slot's key is of SIG_ALG and its slot belongs to the image's partition or to PT0. -/
def imageSigned (s : State) (b : List Byte) : Bool :=
  let k := le b 29 1
  let body := 64 + le b 24 4
  match tget (fun _ => none) s.pka.slots k with
  | some x =>
    decide (x.kind.toNat = 1 ∨ x.kind.toNat = 2) && decide (x.alg.toNat = le b 28 1) &&
      (decide (keyOwner s k = le b 6 1) || decide (keyOwner s k = 0)) &&
      sigHolds x.alg.toNat x.pub (b.take body) (b.drop body)
  | none => false

/-- The entries of an image run as CFG_SET commands of one transaction; the status of the first that is not DONE. -/
def imageEntries (s : State) (n : Nat) : List (List Byte) → State × Nat
  | [] => (s, stDONE)
  | e :: r =>
    let c : Cmd := { id := 0, pt := n, sq := none, bytes := List.replicate 8 0 ++ e, arrive := 0, state := .ready, engine := none,
                     at_ := 0, done := false }
    if !zeros e 7 1 || !cfgSetOk s c then (s, stCFG_FORMAT)
    else if !issuerOk s n (setKey c) then (s, stNOT_OWNER)
    else
      let t := cfgSetEff s n (setKey c) (setWords c)
      if t.2 = stDONE then imageEntries t.1 n r else (s, stCFG_FORMAT)

/-- The image is committed at the command's AT, or at its header's (R246). -/
def imageCommit (s : State) (c : Cmd) (b : List Byte) : State :=
  let at_ : Grain := BitVec.ofNat 64 (if par c 16 8 = 0 then le b 16 8 else par c 16 8)
  match txnOf s c.pt with
  | some t =>
    if at_ = 0 ∨ !future s at_ then complete (closeTxn s c.pt) c.id stBAD_PARAM []
    else
      let k : Commit := { pt := c.pt, twin := false, at_ := at_, cmd := some c.id, drainOk := drainOf c,
                          image := some (BitVec.ofNat 64 (le b 32 8)), sets := t.sets, waiting := false, until_ := 0, remote := false }
      running (addCommit s k) c.id
  | none => s

/-- CFG_IMAGE_APPLY: structure, signature, partition, then the entries (R217, R246). -/
def cfgImageApply (image : List Byte) (ok : Bool) (s : State) (c : Cmd) : State :=
  let b := image.take (bufLen c)
  if !ok then complete s c.id stBUFFER_FAULT []
  else if b.length ≠ bufLen c ∨ !imageForm b then complete s c.id stCFG_FORMAT []
  else if !imageSigned s b then complete s c.id stCFG_SIG []
  else if le b 6 1 ≠ c.pt then complete s c.id stNOT_OWNER []
  else if (txnOf s c.pt).isSome then complete s c.id stCFG_TXN_OPEN []
  else
    let t : Txn := { pt := c.pt, remote := false, sets := [] }
    let s1 : State := { s with cfg := { s.cfg with txns := s.cfg.txns ++ [t] } }
    let r := imageEntries s1 c.pt ((List.range (le b 12 4)).map fun i => slice b (64 + 56 * i) 56)
    if r.2 = stDONE then imageCommit r.1 c b else complete (closeTxn r.1 c.pt) c.id r.2 []

/-- CFG_IMAGE_APPLY runs while the firmware holds semaphore 16 + n: not while the HCU holds it, and not after its lease was lost
(R206, R515, R517). -/
def imageHeld (image : List Byte) (ok : Bool) (s : State) (c : Cmd) : State :=
  let k := 16 + c.pt
  if s.cc.semLost.getLsbD k then
    complete { s with cc := { s.cc with semLost := s.cc.semLost &&& ~~~semBit k } } c.id 0x19 []
  else if (match semAt s k with | some x => x.holder.hcu | none => false) then s
  else cfgImageApply image ok s c

def execCfgImageApply (id : Nat) (image : List Byte) (ok : Bool) (s : State) : Host.Outcome State Fault Refusal :=
  ev true (runCmd s id 0x44 fun s c => imageHeld image ok s c)

/-! ## Registers (R247-R250) -/

/-- CFG registers as read, offset from 0x0580_0000. -/
def cfgRead (s : State) (off : Nat) : Option W32 :=
  if off = 0x0 then some (w32 ((newest s).num.toNat + 65536 * (oldest s).num.toNat))
  else if off = 0x4 then some (w32 (newest s).opened.toNat)
  else if off = 0x8 then some s.cfg.openedHi
  else if off = 0xC then
    some (w32 (b1 (decide (2 ≤ s.cfg.epochs.length)) + 2 * b1 (s.cfg.commits.any (·.waiting)) + 4 * b1 (!s.cfg.quiesces.isEmpty) +
      65536 * s.cfg.busyCnt.toNat))
  else if off % 4 = 0 ∧ 0x100 ≤ off ∧ off < 0x140 then
    let n := (off - 0x100) / 4
    some (match txnOf s n with
      | some t => w32 (1 + 2 * b1 (commitOf s n).isSome + 4 * t.sets.length)
      | none => 0)
  else if off % 4 = 0 ∧ 0x200 ≤ off ∧ off < 0x280 then
    some (w32 ((ptnAt s ((off - 0x200) / 8)).imgId.toNat / (if off % 8 = 0 then 1 else 2 ^ 32)))
  else none

/-- What a normal read takes: the latch of OPENED, the busy counter. -/
def cfgTake (s : State) (off : Nat) : State :=
  if off = 0x4 then { s with cfg := { s.cfg with openedHi := BitVec.ofNat 32 ((newest s).opened.toNat / 2 ^ 32) } }
  else if off = 0xC then { s with cfg := { s.cfg with busyCnt := 0 } }
  else s

end Sys2Proof.Machine
end

