-- ==== Sys2Proof/Machine/Arrival.lean ====
section
/-! DEFINITION. The arrival of a command: the checks of spec/08 R207 in their order, the start of a fenced command (R173), and
NOP (R196-R207). -/

namespace Sys2Proof.Machine

/-! ## Opcodes (R197) -/

/-- The defined opcodes. -/
def opDefined (op : Nat) : Bool :=
  [0x00, 0x01, 0x03, 0x05, 0x08, 0x10, 0x11, 0x12, 0x13, 0x18, 0x19, 0x1A, 0x1B, 0x20, 0x21, 0x22, 0x23, 0x28, 0x30, 0x31, 0x34,
    0x35, 0x40, 0x44, 0x48, 0x50, 0x51, 0x52, 0x53, 0x54, 0x58, 0x59, 0x5A, 0x5B, 0x5C, 0x60, 0x61, 0x62, 0x63, 0x70,
    0x78].contains op

/-- Opcodes that only PT0 may issue. -/
def opPt0 (op : Nat) : Bool := [0x01, 0x03, 0x08, 0x28, 0x48, 0x70, 0x78].contains op

/-- Flag T (R200). -/
def opTwin (op : Nat) : Bool := [0x18, 0x19, 0x1A, 0x22].contains op

/-- Flag B (R201). -/
def opBuffer (op : Nat) : Bool :=
  [0x03, 0x28, 0x31, 0x34, 0x35, 0x44, 0x51, 0x52, 0x53, 0x58, 0x59, 0x5A, 0x5B, 0x63].contains op

/-- Flag E (R203). -/
def opEngine (op : Nat) : Bool := [0x10, 0x11, 0x12, 0x18, 0x19, 0x1B].contains op

/-- Opcodes that the public-key unit carries out, refused while it is fenced (R197). -/
def opPka (op : Nat) : Bool := [0x50, 0x51, 0x52, 0x58, 0x59, 0x5A].contains op

/-- Radio opcodes (R225). -/
def opRadio (op : Nat) : Bool := decide (0x60 ≤ op) && decide (op ≤ 0x63)

/-! ## Parameter layouts (R208-R225) -/

/-- Named fields of an opcode's parameters but for the buffer: byte, first bit, width. -/
def paramFields (c : Cmd) : List (Nat × Nat × Nat) :=
  let op := opOf c
  if op = 0x01 then [(8, 0, 32)]
  else if op = 0x05 then [(8, 0, 4)]
  else if op = 0x08 then
    (if parBits c 8 0 1 = 0 then [(8, 0, 1), (16, 0, 64), (24, 0, 32), (28, 0, 8)]
     else [(8, 0, 1), (16, 0, 64), (24, 0, 48), (32, 0, 32), (36, 0, 8)])
  else if op = 0x10 then [(8, 0, 5), (10, 0, 16), (12, 0, 1), (16, 0, 384)]
  else if op = 0x11 then [(8, 0, 5), (10, 0, 16), (12, 0, 16)]
  else if op = 0x12 then [(8, 0, 6), (16, 0, 192)]
  else if op = 0x13 then [(8, 0, 16)]
  else if op = 0x18 then [(8, 0, 48), (14, 0, 12), (16, 0, 8), (17, 0, 1)]
  else if op = 0x19 ∨ op = 0x1B then [(8, 0, 48), (14, 0, 12)]
  else if op = 0x1A then [(8, 0, 3), (9, 0, 8), (10, 0, 12)]
  else if op = 0x21 then [(8, 0, 32), (12, 0, 16), (14, 0, 8), (16, 0, 32 * min 11 (par c 14 1))]
  else if op = 0x22 ∨ op = 0x30 ∨ op = 0x44 then [(16, 0, 64)]
  else if op = 0x28 then [(8, 0, 2), (12, 0, 32)]
  else if op = 0x31 then [(8, 0, 16)]
  else if op = 0x34 ∨ op = 0x35 then [(8, 0, 32), (12, 0, 16)]
  else if op = 0x48 then [(8, 0, 2), (9, 0, 8), (10, 0, 8), (11, 0, 1), (12, 0, 1), (16, 0, 96)]
  else if op = 0x50 ∨ op = 0x59 then [(8, 0, 8), (9, 0, 8)]
  else if op = 0x51 ∨ op = 0x52 ∨ op = 0x53 ∨ op = 0x54 ∨ op = 0x58 then [(8, 0, 8)]
  else if op = 0x5A then [(8, 0, 8), (9, 0, 8), (10, 0, 8)]
  else if op = 0x5C then [(8, 0, 8), (10, 0, 12), (12, 0, 2)]
  else if op = 0x60 then [(8, 0, 2), (10, 0, 16), (12, 0, 32), (16, 0, 32), (20, 0, 32), (24, 0, 64)]
  else if op = 0x61 then [(8, 0, 2), (9, 0, 8), (10, 0, 16), (12, 0, 8), (16, 0, 32)]
  else if op = 0x62 then [(8, 0, 2), (9, 0, 8)]
  else if op = 0x63 then [(8, 0, 2), (9, 0, 1)]
  else []

/-- The buffer fields (R201). -/
def bufferFields : List (Nat × Nat × Nat) := [(48, 0, 4), (52, 0, 32), (56, 0, 64)]

/-- Bits of bytes 8-63 that fields name. -/
def fieldMask (l : List (Nat × Nat × Nat)) : Nat :=
  l.foldl (fun m f => m ||| (2 ^ f.2.2 - 1) * 2 ^ (8 * (f.1 - 8) + f.2.1)) 0

/-- Every parameter bit that no field names is 0 (R196). -/
def reservedZero (c : Cmd) : Bool :=
  let m := fieldMask (paramFields c ++ if opBuffer (opOf c) then bufferFields else [])
  decide (par c 8 56 &&& m = par c 8 56)

/-! ## Ranges (R207 step 7) -/

/-- AT is 0 where the layout allows it, or lies in the future (R51, R202). -/
def atOk (s : State) (c : Cmd) (zero : Bool) : Bool :=
  let g : Grain := BitVec.ofNat 64 (par c 16 8)
  if g = 0 then zero else future s g

/-- TB_ADJUST (R208). -/
def rangeAdjust (s : State) (c : Cmd) : Bool :=
  atOk s c false &&
    (if parBits c 8 0 1 = 0 then decide (par c 24 4 ≠ 2 ^ 31) else decide (par c 32 4 ≤ 999999999))

/-- VID 1-4094 of an FDB key (R213). -/
def rangeVid (v : Nat) : Bool := inRange v 1 4094

/-- First line and lines of a PRM opcode lie in the issuer's region (R221, R551). -/
def rangePrm (s : State) (c : Cmd) : Bool :=
  let first := par c 8 4
  let n := par c 12 2
  let r := tget (fun _ => ((0, 0) : Nat × Nat)) s.prm.regions c.pt
  inRange n 1 4096 && decide (bufLen c = 64 * n) && decide (first + n ≤ 256 * r.2)

/-- Spans of a channel's chain as RADIO_NODE_ADD judges them: of the schedule stated last, 256 where none is (R225). -/
def chainSpans (s : State) (m : Nat) : Nat :=
  let r := radioAt s m
  match r.nextSched, r.sched with
  | some x, _ => x.spans
  | none, some x => x.spans
  | none, none => 256

/-- Parameter ranges of an opcode (R208-R225). -/
def rangesOk (s : State) (c : Cmd) : Bool :=
  let op := opOf c
  (!opBuffer op || (inRange (bufLen c) 1 (2 ^ 20) && decide (bufAddr c % 8 = 0))) &&
  (if op = 0x01 then decide (par c 8 4 = 0xD5E7)
   else if op = 0x03 then decide (1024 ≤ bufLen c)
   else if op = 0x08 then rangeAdjust s c
   else if op = 0x10 then decide (par c 10 2 < camEntries s (par c 8 1))
   else if op = 0x11 then inRange (par c 12 2) 1 4096 && decide (par c 10 2 + par c 12 2 ≤ camEntries s (par c 8 1))
   else if op = 0x18 then rangeVid (parBits c 14 0 12) && decide (par c 16 1 ≤ 101)
   else if op = 0x19 ∨ op = 0x1B then rangeVid (parBits c 14 0 12)
   else if op = 0x1A then
     (!(par c 8 1).testBit 0 || decide (par c 9 1 ≤ 101)) && (!(par c 8 1).testBit 1 || rangeVid (parBits c 10 0 12))
   else if op = 0x21 then inRange (par c 14 1) 1 11 && cfgSetOk s c
   else if op = 0x22 then atOk s c false
   else if op = 0x28 then decide (bufLen c % 2048 = 0)
   else if op = 0x30 ∨ op = 0x44 then atOk s c true
   else if op = 0x34 ∨ op = 0x35 then rangePrm s c
   else if op = 0x48 then decide (par c 10 1 ≤ 4)
   else if op = 0x50 then
     decide (par c 8 1 ≤ 63) && (inRange (par c 9 1) 1 8 || decide (par c 9 1 = 10) || decide (par c 9 1 = 11))
   else if op = 0x51 ∨ op = 0x52 ∨ op = 0x53 ∨ op = 0x54 ∨ op = 0x58 then decide (par c 8 1 ≤ 63)
   else if op = 0x59 then decide (par c 8 1 = 0) && (inRange (par c 9 1) 1 4 || inRange (par c 9 1) 6 9)
   else if op = 0x5A then
     decide (par c 8 1 ≤ 63) && decide (par c 10 1 ≤ 63) && (inRange (par c 9 1) 1 2 || decide (par c 9 1 = 5))
   else if op = 0x5B then decide (bufLen c ≤ 4096)
   else if op = 0x5C then
     decide (par c 8 1 ≤ 63) && decide (par c 12 1 ≤ 2) && (decide (par c 12 1 ≠ 0) || decide (par c 8 1 = 0))
   else if op = 0x60 then
     inRange (par c 10 2) 1 256 && inRange (par c 12 4) 250 10000 && inRange (par c 16 4) 2000 40000 && inRange (par c 20 4) 50 2000
   else if op = 0x61 then
     let n := if par c 12 1 = 0 then 256 else par c 12 1
     inRange (par c 9 1) 1 250 && decide (par c 10 2 ≤ 255) && decide (par c 10 2 + n ≤ chainSpans s (par c 8 1))
   else if op = 0x62 then inRange (par c 9 1) 1 250
   else true)

/-! ## Ownership (R199, R207 step 8) -/

/-- The partition that holds a tag flow; none while it is free (R349, R369). -/
def tagOwner (s : State) (f : Nat) : Option Nat :=
  let w := (tget (fun _ => (0 : BitVec 16)) s.fwd.tagFlows f).toNat
  if w % 4 = 0 then none else some (w / 256 % 16)

/-- The issuer owns every resource that the command names, in the newest live epoch (R199, R213, R232). -/
def ownsNamed (s : State) (c : Cmd) : Bool :=
  let op := opOf c
  let port := fun (p : Nat) => decide (100 ≤ p) || decide (portOwner s p = c.pt)
  if op = 0x10 ∨ op = 0x11 then decide (camOwner s (par c 8 1) = c.pt)
  else if op = 0x12 then (camProfile s (newest s) c.pt (par c 8 1)).isSome
  else if op = 0x18 then port (par c 16 1)
  else if op = 0x1A then !(par c 8 1).testBit 0 || port (par c 9 1)
  else if op = 0x21 then issuerOk s c.pt (setKey c)
  else if [0x50, 0x51, 0x52, 0x53, 0x54, 0x58].contains op then decide (keyOwner s (par c 8 1) = c.pt)
  else if op = 0x5A then decide (keyOwner s (par c 8 1) = c.pt) && decide (keyOwner s (par c 10 1) = c.pt)
  else if op = 0x5C then
    (decide (par c 12 1 = 0) || decide (keyOwner s (par c 8 1) = c.pt)) &&
      (match tagOwner s (parBits c 10 0 12) with | some n => decide (n = c.pt) | none => true)
  else if opRadio op then decide (radioOwner s (parBits c 8 0 2) = c.pt)
  else true

/-! ## Fenced units (R53, R207 step 10) -/

/-- The command names a unit that is fenced (R53, R218, R228, R319, R342). -/
def namesFenced (s : State) (c : Cmd) : Bool :=
  let op := opOf c
  if [0x10, 0x11, 0x12, 0x18, 0x19, 0x1A, 0x1B].contains op then tableFenced s c
  else if op = 0x28 then !ddrOk s
  else if opPka op then s.pka.fenced
  else if opRadio op then (radioAt s (parBits c 8 0 2)).fenced
  else false

/-! ## The checks (R207) -/

/-- Reserved header bits (R167). -/
def headerBad (c : Cmd) : Bool :=
  decide (le c.bytes 1 1 / 8 ≠ 0) || decide (le c.bytes 2 2 / 4096 ≠ 0) || decide (le c.bytes 4 4 ≠ 0)

/-- An earlier command of the partition in flight has the same TAG (R168). -/
def dupTag (s : State) (c : Cmd) : Bool :=
  (s.cq.cmds.takeWhile fun x => decide (x.id ≠ c.id)).any fun x =>
    x.sq.isSome && decide (x.pt = c.pt) && decide (tagOf x = tagOf c)

/-- The issuer may use the opcode (R155, R199, R615). -/
def issuerAllowed (c : Cmd) : Bool :=
  let op := opOf c
  if c.sq.isNone then opTwin op && twinOf c
  else if opPt0 op then decide (c.pt = 0)
  else if op = 0x05 then decide (c.pt = 0) || decide (parBits c 8 0 4 = c.pt)
  else true

/-- A buffer function that may not be used (R201). -/
def bufferBad (s : State) (c : Cmd) : Bool :=
  opBuffer (opOf c) && !(decide ((bindAt s (bufFn c)).pt.toNat = c.pt) && (bindAt s (bufFn c)).en)

/-- The first check of R207 that fails: its status, and whether it is a duplicate TAG. -/
def firstFail (s : State) (c : Cmd) : Option (Nat × Bool) :=
  let op := opOf c
  if headerBad c then some (stBAD_PARAM, false)
  else if c.sq.isSome && dupTag s c then some (stBAD_PARAM, true)
  else if isFw op && ccFenced s then some (stINTERPRETER_ABSENT, false)
  else if !opDefined op then some (stNOT_SUPPORTED, false)
  else if !issuerAllowed c then some (stNOT_OWNER, false)
  else if twinOf c && !opTwin op then some (stBAD_PARAM, false)
  else if !reservedZero c || !rangesOk s c then some (stBAD_PARAM, false)
  else if !ownsNamed s c then some (stNOT_OWNER, false)
  else if bufferBad s c then some (stBAD_PARAM, false)
  else if namesFenced s c then some (stUNIT_FENCED, false)
  else if twinOf c && !paired s then
    some (if s.twn.state = twSEPARATED then stTWIN_SEPARATED else stTWIN_ABSENT, false)
  else none

/-- A command fails a check; any completion of a CFG_COMMIT closes its transaction, but a duplicate does not run (R168, R216). -/
def failCheck (s : State) (c : Cmd) (f : Nat × Bool) : State :=
  let s := if opOf c = 0x22 ∧ !f.2 ∧ (commitOf s c.pt).isNone then closeTxn s c.pt else s
  completeDup s c.id f.1 f.2 []

/-- An earlier command of the same SQ has not completed (R173). -/
def heldByFence (s : State) (c : Cmd) : Bool :=
  fenceOf c && (s.cq.cmds.takeWhile fun x => decide (x.id ≠ c.id)).any fun x => decide (x.pt = c.pt) && decide (x.sq = c.sq)

/-- A checked command is ready for its opcode's row; an E opcode goes to the least-loaded live engine (R203), and completes with
RETRY where none is live. -/
def makeReady (s : State) (c : Cmd) : State :=
  if opEngine (opOf c) then
    match leastEngine s with
    | some e =>
      let x := engAt s e
      modCmd (setEng s e { x with cmds := x.cmds ++ [c.id] }) c.id fun c => { c with state := .ready, engine := some e }
    | none => complete s c.id stRETRY []
  else modCmd s c.id fun c => { c with state := .ready }

/-- A CFG_COMMIT that fails a check closes its transaction after the earlier commands of that transaction (R205, R216). -/
def closesLater (s : State) (c : Cmd) : Bool := decide (opOf c = 0x22) && objectHeld s c

/-- The arrival of a command is applied (R207). -/
def arrive (s : State) (c : Cmd) : State :=
  match firstFail s c with
  | some f => if !f.2 && closesLater s c then modCmd s c.id fun c => { c with state := .fenced } else failCheck s c f
  | none => if heldByFence s c then modCmd s c.id fun c => { c with state := .fenced } else makeReady s c

def commandArrival (id : Nat) (s : State) : State :=
  match takeHead s fun d => decide (d = .command id) with
  | some (s, _) =>
    match cmdAt s id with
    | some c => if c.state = .arriving ∧ !c.done then arrive s c else s
    | none => s
  | none => s

def execCommandArrival (id : Nat) (s : State) : Host.Outcome State Fault Refusal := ev true (commandArrival id s)

/-- Every earlier command of the SQ has completed: the command starts, unless its unit was fenced meanwhile (R53, R173, R228). -/
def fenceCommandStart (id : Nat) (s : State) : State :=
  match cmdAt s id with
  | some c =>
    if c.state = .fenced ∧ !c.done ∧ !heldByFence s c ∧ !closesLater s c then
      (match (if opOf c = 0x22 then firstFail s c else if namesFenced s c then some (stUNIT_FENCED, false) else none) with
       | some f => failCheck s c f
       | none => makeReady s c)
    else s
  | none => s

def execFenceCommandStart (id : Nat) (s : State) : Host.Outcome State Fault Refusal := ev true (fenceCommandStart id s)

/-- NOP (R197). -/
def execNop (id : Nat) (s : State) : Host.Outcome State Fault Refusal :=
  ev true (runCmd s id 0x00 fun s c => complete s c.id stDONE [])

end Sys2Proof.Machine
end

