-- ==== Sys2Proof/Machine/Crypto.lean ====
section
/-! DEFINITION. The PKA unit (spec/18): the multiply-accumulate datapath, firmware services in their order, the key store and its
wrapping, the entropy source and the DRBG, tag flows, the PKA registers. -/

namespace Sys2Proof.Machine

/-! ## The datapath (R481, R482, R500) -/

/-- Operand word `a`. -/
def ramWord (s : State) (a : Nat) : BitVec 64 := tget (fun _ => 0) s.pka.ram a

/-- The integer of `n` words from `a`, least significant word first. -/
def ramInt (s : State) (a n : Nat) : Nat := (List.range n).foldr (fun i v => (ramWord s (a + i)).toNat + 2 ^ 64 * v) 0

/-- An integer written as `n` words from `a`. -/
def ramPut (s : State) (a n v : Nat) : State :=
  { s with pka := { s.pka with
      ram := tputs (fun _ => 0) s.pka.ram a ((List.range n).map fun i => BitVec.ofNat 64 (v / 2 ^ (64 * i))) } }

/-- Words of the X, A and B ranges of an operation on L words (R481). -/
def dpRanges (op l : Nat) : Nat × Nat × Nat := if op = 0 then (2 * l, l, l) else if op = 1 then (l + 1, l, 1) else (l, 0, 0)

/-- T in grains (R481). -/
def dpTime (op l : Nat) : Nat :=
  if op = 0 then 4 + (l * l + 3) / 4 else if op = 1 then 4 + (l + 3) / 4 else 4 + (l + 7) / 8

/-- Two ranges of words share one. -/
def rangesMeet (a n b m : Nat) : Bool := decide (a < b + m) && decide (b < a + n) && decide (0 < n) && decide (0 < m)

/-- The operation does not start: a range passes word 4,095, or X overlaps A or B (R481). -/
def dpRefused (s : State) (op l : Nat) : Bool :=
  let r := dpRanges op l
  let x := s.pka.x.toNat
  let a := s.pka.a.toNat
  let b := s.pka.b.toNat
  decide (4096 < x + r.1) || decide (4096 < a + r.2.1) || decide (4096 < b + r.2.2) ||
    rangesMeet x r.1 a r.2.1 || rangesMeet x r.1 b r.2.2

/-- BUSY (R482, R500). -/
def dpBusy (s : State) : Bool := s.pka.busyTo.isSome

/-- PKA_DP_OP written: the operation starts; OP 3 names none (R481, R482, R500). -/
def dpOp (s : State) (v : W32) : State :=
  let op := fld v 0 2
  let l := fld v 2 7 + 1
  if dpBusy s then { s with pka := { s.pka with ovr := true } }
  else if op = 3 then s
  else if dpRefused s op l then { s with pka := { s.pka with err := true } }
  else
    { s with pka := { s.pka with
        op := BitVec.ofNat 2 op
        lm1 := BitVec.ofNat 7 (l - 1)
        opX := s.pka.x
        opA := s.pka.a
        opB := s.pka.b
        busyTo := some (s.gr.count + BitVec.ofNat 64 (1 + dpTime op l)) } }

/-- A write that only the control cluster makes (R500): any other master that reaches the register is refused as not its owner. -/
def ccWr (s : State) (m : Master) (addr : Nat) (k : State → State) : State :=
  match refusal s m addr 4 true true with
  | some c => refuse s m addr true c
  | none => if m = .cc then k s else refuse s m addr true 3

def execPkaDpOp (m : Master) (v : BitVec 32) (s : State) : Host.Outcome State Fault Refusal :=
  ev m.wf (ccWr s m 0x06C00000 fun s => dpOp s v)

/-- X and CY after the operation in progress (R481). -/
def dpResult (s : State) : State :=
  let l := s.pka.lm1.toNat + 1
  let x := s.pka.opX.toNat
  if s.pka.op = 0 then
    let v := ramInt s x (2 * l) + ramInt s s.pka.opA.toNat l * ramInt s s.pka.opB.toNat l
    let t := ramPut s x (2 * l) v
    { t with pka := { t.pka with cy := t.pka.cy + BitVec.ofNat 64 (v / 2 ^ (128 * l)) } }
  else if s.pka.op = 1 then
    let v := ramInt s x (l + 1) + ramInt s s.pka.opA.toNat l * (ramWord s s.pka.opB.toNat).toNat
    let t := ramPut s x (l + 1) v
    { t with pka := { t.pka with cy := t.pka.cy + BitVec.ofNat 64 (v / 2 ^ (64 * (l + 1))) } }
  else
    let v := ramInt s x l + s.pka.cy.toNat
    let t := ramPut s x l v
    { t with pka := { t.pka with cy := BitVec.ofNat 64 (v / 2 ^ (64 * l)) } }

/-- The grain in which BUSY returns to 0: the results, or PKA_TIMING where the work has not finished (R482). -/
def pkaDpComplete (late : Bool) (s : State) : State :=
  match s.pka.busyTo with
  | some g =>
    if reached s g then
      let s : State := { s with pka := { s.pka with busyTo := none } }
      if late then fFault s 6 0x81 (s.pka.op.toNat + 256 * s.pka.lm1.toNat) else dpResult s
    else s
  | none => s

def execPkaDpComplete (late : Bool) (s : State) : Host.Outcome State Fault Refusal := ev true (pkaDpComplete late s)

/-! ## Entropy and the DRBG (R495, R496) -/

/-- A health test fails. -/
def entropyFail (apt : Bool) (s : State) : State :=
  let p := s.pka
  let p : Pka := if apt then { p with apt := satInc p.apt } else { p with rct := satInc p.rct }
  raise { s with pka := { p with entOk := false } } 666 1 (if apt then 2 else 1)

def execEntropyHealthFail (apt : Bool) (s : State) : Host.Outcome State Fault Refusal := ev true (entropyFail apt s)

/-- The start-up test passes: the first one after device reset instantiates the DRBG, a later one is a recovery (R495, R496,
R501). -/
def entropyPass (s : State) : State :=
  if s.pka.entOk || s.dev.inReset then s
  else if s.pka.inst then raise { s with pka := { s.pka with entOk := true } } 666 2 0
  else { s with pka := { s.pka with entOk := true, inst := true, drbgOk := true, reqs := 0, seedAt := s.gr.count } }

def execEntropyStartupPass (s : State) : Host.Outcome State Fault Refusal := ev true (entropyPass s)

/-- The DRBG is reseeded. -/
def reseed (s : State) : State := { s with pka := { s.pka with reqs := 0, seedAt := s.gr.count } }

/-- The scheduled reseed: due after 4,096 requests or 1 s, deferred while ENT_OK is 0 (R496, R505). -/
def drbgReseed (s : State) : State :=
  if s.pka.drbgOk ∧ s.pka.entOk ∧ (4096 ≤ s.pka.reqs ∨ 1000000000 ≤ since s s.pka.seedAt) then reseed s else s

def execDrbgReseed (s : State) : Host.Outcome State Fault Refusal := ev true (drbgReseed s)

/-- The limit of a deferred reseed: 65,536 requests or 60 s (R496). -/
def drbgLimit (s : State) : State :=
  if s.pka.drbgOk ∧ !s.pka.entOk ∧ (65536 ≤ s.pka.reqs ∨ 60000000000 ≤ since s s.pka.seedAt) then
    fFault { s with pka := { s.pka with drbgOk := false } } 6 0x83 0
  else s

def execDrbgReseedLimit (s : State) : Host.Outcome State Fault Refusal := ev true (drbgLimit s)

/-- `n` bytes of DRBG output; the state in which they have been drawn. -/
def draw (s : State) (n : Nat) : State × List Byte :=
  ({ s with pka := { s.pka with draws := s.pka.draws + n } }, (List.range n).map fun i => Config.drbgByte (s.pka.draws + i))

/-- One request of the DRBG (log entry 112). -/
def drawReq (s : State) (n : Nat) : State × List Byte :=
  draw { s with pka := { s.pka with reqs := s.pka.reqs + 1 } } n

/-! ## The key store (R484, R489, R490) -/

def keyAt (s : State) (k : Nat) : Option KeySlot := tget (fun _ => none) s.pka.slots k
def setKeySlot (s : State) (k : Nat) (x : Option KeySlot) : State :=
  { s with pka := { s.pka with slots := tset (fun _ => none) s.pka.slots k x } }

/-- N of an RSA algorithm. -/
def rsaLen (alg : Nat) : Nat := if alg = 6 then 256 else if alg = 7 then 384 else 512

/-- Length of the private form or secret of an algorithm (R484). -/
def privLen (alg : Nat) : Nat :=
  if alg = 2 then 48 else if alg = 3 then 66 else if 6 ≤ alg ∧ alg ≤ 8 then rsaLen alg + 4 + 5 * rsaLen alg / 2 else 32

/-- Lengths of the public form of an algorithm 1 to 8; the compressed one is for input alone (R484). -/
def pubLens (alg : Nat) : List Nat :=
  if alg ≤ 3 then [1 + 2 * (curveOf alg).len, 1 + (curveOf alg).len]
  else if alg ≤ 5 then [32]
  else [rsaLen alg + 4]

/-- A PRIVATE key with its public form (R489). -/
def privKey (alg : Nat) (priv : List Byte) : KeySlot :=
  let pub := if alg ≤ 3 then ecPublic (curveOf alg) (beNat priv)
    else if alg = 4 then edPublic priv
    else if alg = 5 then x25519 priv (leBytes 32 9)
    else priv.take (rsaLen alg + 4)
  { kind := 1, alg := BitVec.ofNat 8 alg, priv := priv, pub := pub }

/-- A SECRET key. -/
def secretKey (alg : Nat) (b : List Byte) : KeySlot := { kind := 3, alg := BitVec.ofNat 8 alg, priv := b, pub := [] }

/-- A private form is consistent (R492). -/
def privOk (alg : Nat) (b : List Byte) : Bool :=
  if alg ≤ 3 then
    let d := beNat b
    decide (1 ≤ d) && decide (d < (curveOf alg).n)
  else if alg ≤ 5 then true
  else
    let n := rsaLen alg
    let h := n / 2
    let e := be b n 4
    let part := fun (i : Nat) => be b (n + 4 + i * h) h
    let p := part 0
    let q := part 1
    decide (p * q = be b 0 n) && decide (2 ≤ p) && decide (2 ≤ q) && decide (e * part 2 % (p - 1) = 1 % (p - 1)) &&
      decide (e * part 3 % (q - 1) = 1 % (q - 1)) && decide (q * part 4 % p = 1)

/-- An RSA public key passes its checks (R485, R486). -/
def rsaPubOk (alg : Nat) (b : List Byte) : Bool :=
  let len := b.length - 4
  let n := be b 0 len
  let e := be b len 4
  decide (n % 2 = 1) && decide (e % 2 = 1) && decide (3 ≤ e) &&
    (if alg = 9 then decide (2 ^ (8 * len - 8) ≤ n) && decide (2 ^ 4096 ≤ n) else decide (2 ^ (8 * len - 1) ≤ n))

/-- A public form passes its checks and as it is stored: a point uncompressed (R486, log entry 113). -/
def pubStored (alg : Nat) (b : List Byte) : Option (List Byte) :=
  if alg ≤ 3 then
    (match ecDecode (curveOf alg) b with | some q => some (ecEncode (curveOf alg) (some q)) | none => none)
  else if alg = 4 then (match edDecode b with | some q => if edSmall q then none else some b | none => none)
  else if alg = 5 then some b
  else if rsaPubOk alg b then some b
  else none

/-! ## Wrapping (R491) -/

/-- KWK of a partition. -/
def kwk (n : Nat) : List Byte :=
  hmac256 (beBytes 32 Config.drk.toNat)
    ([0x49, 0x43, 0x50, 0x2D, 0x4E, 0x39, 0x36, 0x20, 0x4B, 0x57, 0x4B] ++ [BitVec.ofNat 8 n])

/-- Header of a blob. -/
def blobHead (form alg kind tslot klen : Nat) : List Byte :=
  [BitVec.ofNat 8 form, BitVec.ofNat 8 alg, BitVec.ofNat 8 kind, BitVec.ofNat 8 tslot] ++ leBytes 2 klen ++ List.replicate 10 0

/-- The form of a key that a blob carries. -/
def formOf (x : KeySlot) : List Byte := if x.kind = 2 then x.pub else x.priv

/-- The blob of KEY_EXPORT: FORM 0. -/
def blobSeal (n : Nat) (x : KeySlot) (iv : List Byte) : List Byte :=
  let h := blobHead 0 x.alg.toNat x.kind.toNat 0 (formOf x).length
  h ++ iv ++ gcmSeal (kwk n) iv h (formOf x)

/-- KLEN suits ALG and KIND (R484, R492). -/
def klenOk (alg kind klen form : Nat) : Bool :=
  if kind = 3 then decide (alg = 10 ∨ alg = 11) && decide (klen = 32)
  else inRange alg 1 8 &&
    (if kind = 1 then decide (klen = privLen alg)
     else if form = 1 then (pubLens alg).contains klen else decide ((pubLens alg).headD 0 = klen))

/-- The fields of a blob are well formed (R491, R492). -/
def blobOk (b : List Byte) (len : Nat) : Bool :=
  let form := le b 0 1
  let alg := le b 1 1
  let kind := le b 2 1
  let klen := le b 4 2
  decide (form ≤ 2) && zeros b 6 10 && (decide (form = 2) || zeros b 3 1) &&
    (if form = 0 then inRange kind 1 3 else if form = 1 then decide (kind = 2) else decide (kind = 3)) &&
    klenOk alg kind klen form && decide (len = (if form = 1 then 16 else 44) + klen) && (decide (form ≠ 2) || decide (le b 3 1 < 64))

/-- The key of a decrypted form; none where it is inconsistent (R492). -/
def formKey (alg kind : Nat) (b : List Byte) : Option KeySlot :=
  if kind = 1 then (if privOk alg b then some (privKey alg b) else none)
  else if kind = 2 then some { kind := 2, alg := BitVec.ofNat 8 alg, priv := [], pub := b }
  else some (secretKey alg b)

/-- What KEY_IMPORT of a blob gives: a key, or a status (R486, R492; order in log entry 114). -/
def importKey (s : State) (n slot : Nat) (b : List Byte) (len : Nat) : Nat × Option KeySlot :=
  let form := le b 0 1
  let alg := le b 1 1
  let kind := le b 2 1
  let klen := le b 4 2
  let tslot := le b 3 1
  if !blobOk b len then (stBAD_PARAM, none)
  else if form = 1 then
    match pubStored alg (slice b 16 klen) with
    | none => (stBAD_PARAM, none)
    | some p =>
      if (keyAt s slot).isSome then (stKEY_OCCUPIED, none)
      else (stDONE, some { kind := 2, alg := BitVec.ofNat 8 alg, priv := [], pub := p })
  else if form = 2 ∧ keyOwner s tslot ≠ n then (stNOT_OWNER, none)
  else if (keyAt s slot).isSome then (stKEY_OCCUPIED, none)
  else
    let key := if form = 0 then some (kwk n)
      else match keyAt s tslot with
        | some x => if x.kind = 3 ∧ x.alg = 10 then some x.priv else none
        | none => none
    match key.bind (fun k => gcmOpen k (slice b 16 12) (b.take 16) (slice b 28 klen) (slice b (28 + klen) 16)) with
    | none => (stUNWRAP_FAIL, none)
    | some t =>
      match formKey alg kind t with
      | some x => (stDONE, some x)
      | none => (stUNWRAP_FAIL, none)

/-! ## Signatures (R485, R494) -/

/-- Signature length of an algorithm. -/
def sigBytes (alg : Nat) (n : Nat) : Nat := if alg ≤ 3 then 2 * (curveOf alg).len else if alg = 4 then 64 else n

/-- A message length that an algorithm takes (R485, R494). -/
def mlenOk (alg mlen : Nat) : Bool :=
  if alg = 4 then decide (mlen ≤ 4096) else decide (mlen = 32 ∨ mlen = 48 ∨ mlen = 64)

/-- A signature of M; ECDSA and PSS draw from the DRBG. -/
def signWith (s : State) (x : KeySlot) (scheme : Nat) (m : List Byte) : State × List Byte :=
  let alg := x.alg.toNat
  if alg ≤ 3 then
    let a := drawReq s 32
    (a.1, ecdsaSign (curveOf alg) (beNat x.priv) m a.2)
  else if alg = 4 then (s, edSign x.priv m)
  else
    let a := drawReq s (if scheme = 0 then m.length else 0)
    let n := rsaLen alg
    let h := n / 2
    let part := fun (i : Nat) => be x.priv (n + 4 + i * h) h
    let em := rsaEncode (be x.priv 0 n) scheme m a.2
    (a.1, beBytes n (rsaPrivate (part 0) (part 1) (part 2) (part 3) (part 4) em))

/-- Service time of a signature or its check over M, in ns (R483; log entry 115). -/
def signTime (alg mlen : Nat) : Nat :=
  if alg = 4 then 350000 + 1000 * ((mlen + 127) / 128)
  else [0, 400000, 900000, 2000000, 0, 0, 1200000, 3300000, 7000000].getD alg 0

def verifyTime (alg mlen : Nat) : Nat :=
  if alg = 4 then 300000 + 1000 * ((mlen + 127) / 128)
  else [0, 300000, 700000, 1500000, 0, 0, 40000, 80000, 140000, 600000].getD alg 0

def agreeTime (alg : Nat) : Nat := if alg = 1 then 250000 else if alg = 2 then 560000 else 200000

def genTime (alg : Nat) : Nat := [0, 260000, 580000, 1300000, 220000, 200000, 0, 0, 0, 0, 20000, 20000].getD alg 0

/-- The result of PKA_VERIFY: its status (R486, R494). -/
def verifyStatus (alg : Nat) (b : List Byte) (len : Nat) : Nat × Nat :=
  let pk := le b 0 2
  let ml := le b 2 2
  let scheme := le b 4 1
  let n := pk - 4
  let pkOk := if alg = 9 then inRange n 513 1024 else (pubLens alg).contains pk
  let sl := sigBytes alg n
  if !(pkOk && mlenOk alg ml && zeros b 5 3 && decide (scheme ≤ 1) && (decide (6 ≤ alg) || decide (scheme = 0)) &&
      decide (len = 8 + pk + ml + sl)) then (stBAD_PARAM, 0)
  else
    let pub := slice b 8 pk
    let m := slice b (8 + pk) ml
    let sig := slice b (8 + pk + ml) sl
    let t := verifyTime alg ml
    if alg ≤ 3 then
      match ecDecode (curveOf alg) pub with
      | none => (stPOINT, t)
      | some q => (if ecdsaVerify (curveOf alg) (some q) m sig then stDONE else stVERIFY_FAIL, t)
    else if alg = 4 then
      match edDecode pub with
      | none => (stPOINT, t)
      | some q => if edSmall q then (stPOINT, t) else (if edVerify q pub m sig then stDONE else stVERIFY_FAIL, t)
    else if !rsaPubOk alg pub then (stBAD_PARAM, 0)
    else (if rsaVerify (be pub 0 n) (be pub n 4) scheme m sig then stDONE else stVERIFY_FAIL, t)

/-- The shared secret of PKA_AGREE; none where the point fails its checks (R486, R493). -/
def agreeZ (alg : Nat) (x : KeySlot) (b : List Byte) : Option (List Byte) :=
  if alg = 5 then
    let z := x25519 x.priv b
    if z.all (· == 0) then none else some z
  else
    let c := curveOf alg
    match ecDecode c b with
    | some q => (match ecMul c (beNat x.priv) (some q) with | some (u, _) => some (beBytes c.len u) | none => none)
    | none => none

/-! ## Services (R483, R502) -/

/-- What a service has found at its start: status, time of its phase, output, where it goes, and the slot it fills. -/
structure Found where
  status : Nat
  time : Nat
  output : List Byte
  outAt : Nat
  key : Option (Nat × KeySlot)
deriving DecidableEq, Repr

/-- A service that ends with a status other than DONE, without effect. -/
def foundFail (status time : Nat) : Found := { status := status, time := time, output := [], outAt := 0, key := none }

/-- A service that ends with DONE. -/
def foundDone (time : Nat) (output : List Byte) (outAt : Nat) (key : Option (Nat × KeySlot)) : Found :=
  { status := stDONE, time := time, output := output, outAt := outAt, key := key }

/-- KEY_GENERATE, RSA apart (R490, R496): a fresh reseed, then the key. -/
def findGenerate (s : State) (v : Service) : State × Found :=
  if (keyAt s v.slot).isSome then (s, foundFail stKEY_OCCUPIED 0)
  else if !s.pka.entOk || !s.pka.drbgOk then (s, foundFail stENTROPY_FAIL 0)
  else
    let s := reseed s
    if v.alg ≤ 3 then
      let c := curveOf v.alg
      let a := drawReq s (c.len + 8)
      let d := beNat a.2 % (c.n - 1) + 1
      (a.1, foundDone (genTime v.alg) [] 0 (some (v.slot, privKey v.alg (beBytes c.len d))))
    else
      let a := drawReq s 32
      (a.1, foundDone (genTime v.alg) [] 0 (some (v.slot, if v.alg ≤ 5 then privKey v.alg a.2 else secretKey v.alg a.2)))

/-- KEY_EXPORT (R491, R492). -/
def findExport (s : State) (v : Service) : State × Found :=
  match keyAt s v.slot with
  | none => (s, foundFail stKEY_EMPTY 0)
  | some x =>
    if v.len < 44 + (formOf x).length then (s, foundFail stBAD_PARAM 0)
    else
      let a := drawReq s 12
      (a.1, foundDone 8000 (blobSeal v.pt x a.2) 0 none)

/-- PKA_SIGN (R485, R490, R494); the signature follows the input (R201). -/
def findSign (s : State) (v : Service) : State × Found :=
  let ml := le v.input 0 2
  let scheme := le v.input 2 1
  if 1 < scheme ∨ !zeros v.input 3 1 ∨ v.len ≠ 4 + ml then (s, foundFail stBAD_PARAM 0)
  else
    match keyAt s v.slot with
    | none => (s, foundFail stKEY_EMPTY 0)
    | some x =>
      let alg := x.alg.toNat
      if x.kind ≠ 1 ∨ alg = 5 then (s, foundFail stKEY_TYPE 0)
      else if !mlenOk alg ml ∨ (alg ≤ 4 ∧ scheme ≠ 0) then (s, foundFail stBAD_PARAM 0)
      else
        let a := signWith s x scheme (slice v.input 4 ml)
        (a.1, foundDone (signTime alg ml) a.2 v.len none)

/-- PKA_AGREE (R490, R493). -/
def findAgree (s : State) (v : Service) : State × Found :=
  if !(pubLens v.alg).contains v.len then (s, foundFail stBAD_PARAM 0)
  else
    match keyAt s v.slot with
    | none => (s, foundFail stKEY_EMPTY 0)
    | some x =>
      if (keyAt s v.dest).isSome then (s, foundFail stKEY_OCCUPIED 0)
      else if x.kind ≠ 1 ∨ x.alg.toNat ≠ v.alg then (s, foundFail stKEY_TYPE 0)
      else
        match agreeZ v.alg x v.input with
        | none => (s, foundFail stPOINT (agreeTime v.alg))
        | some z => (s, foundDone (agreeTime v.alg) [] 0 (some (v.dest, secretKey 10 (hmac256 (List.replicate 32 0) z))))

/-- RNG_READ (R483, R494, R496). -/
def findRandom (s : State) (v : Service) : State × Found :=
  if !s.pka.entOk || !s.pka.drbgOk then (s, foundFail stENTROPY_FAIL 0)
  else
    let a := drawReq (reseed s) v.len
    (a.1, foundDone (1000 * ((v.len + 63) / 64)) a.2 0 none)

/-- What a service finds at the start of its PKA phase: it reads its slots and their ownership is checked (R502). -/
def findService (s : State) (v : Service) : State × Found :=
  let own := fun (k : Nat) => decide (keyOwner s k = v.pt)
  if v.op = 0x59 then
    let r := verifyStatus v.alg v.input v.len
    (s, if r.1 = stDONE then foundDone r.2 [] 0 none else foundFail r.1 r.2)
  else if v.op = 0x5B then findRandom s v
  else if !own v.slot || (decide (v.op = 0x5A) && !own v.dest) then (s, foundFail stNOT_OWNER 0)
  else if v.op = 0x50 then findGenerate s v
  else if v.op = 0x51 then
    let r := importKey s v.pt v.slot v.input v.len
    (s, match r.2 with | some x => foundDone 8000 [] 0 (some (v.slot, x)) | none => foundFail r.1 8000)
  else if v.op = 0x52 then findExport s v
  else if v.op = 0x58 then findSign s v
  else findAgree s v

/-- A service comes into the order, by the arrival of its command (R483). -/
def insService (v : Service) : List Service → List Service
  | [] => [v]
  | x :: r => if x.endAt.isNone && !x.slices && decide (v.cmd < x.cmd) then v :: x :: r else x :: insService v r

/-- The command of a service is still to be completed. -/
def serves (s : State) (v : Service) : Bool := match cmdAt s v.cmd with | some c => !c.done | none => false

/-- A command of the PKA waits in the order of services once its buffer is read (R201, R483). -/
def pkaCommand (op : Nat) (id : Nat) (buf : List Byte) (ok : Bool) (s : State) : State :=
  runCmd s id op fun s c =>
    if !ok then complete s id stBUFFER_FAULT []
    else
      let reads := decide (op = 0x51 ∨ op = 0x58 ∨ op = 0x59 ∨ op = 0x5A)
      let v : Service :=
        { cmd := id, pt := c.pt, op := BitVec.ofNat 8 op, alg := par c 9 1, slot := par c 8 1, dest := par c 10 1, len := bufLen c,
          input := if reads then padTo (bufLen c) buf else [], endAt := none, slices := false, status := 0, output := [],
          outAt := 0, key := none }
      let s := running s id
      { s with pka := { s.pka with queue := insService v s.pka.queue } }

def execKeyGenerate (id : Nat) (s : State) : Host.Outcome State Fault Refusal := ev true (pkaCommand 0x50 id [] true s)
def execKeyImport (id : Nat) (blob : List Byte) (ok : Bool) (s : State) : Host.Outcome State Fault Refusal :=
  ev true (pkaCommand 0x51 id blob ok s)
def execKeyExport (id : Nat) (ok : Bool) (s : State) : Host.Outcome State Fault Refusal := ev true (pkaCommand 0x52 id [] ok s)
def execPkaSign (id : Nat) (buf : List Byte) (ok : Bool) (s : State) : Host.Outcome State Fault Refusal :=
  ev true (pkaCommand 0x58 id buf ok s)
def execPkaVerify (id : Nat) (buf : List Byte) (ok : Bool) (s : State) : Host.Outcome State Fault Refusal :=
  ev true (pkaCommand 0x59 id buf ok s)
def execPkaAgree (id : Nat) (buf : List Byte) (ok : Bool) (s : State) : Host.Outcome State Fault Refusal :=
  ev true (pkaCommand 0x5A id buf ok s)
def execRngRead (id : Nat) (ok : Bool) (s : State) : Host.Outcome State Fault Refusal := ev true (pkaCommand 0x5B id [] ok s)

/-- The key slots that a command names. -/
def slotsNamed (c : Cmd) : List Nat :=
  let op := opOf c
  if op = 0x5A then [par c 8 1, par c 10 1]
  else if [0x50, 0x51, 0x52, 0x53, 0x54, 0x58].contains op ∨ (op = 0x5C ∧ par c 12 1 ≠ 0) then [par c 8 1]
  else []

/-- An earlier command that names one of the slots is not complete (R205, R502). -/
def slotBusy (s : State) (id : Nat) (l : List Nat) : Bool :=
  (s.cq.cmds.any fun c => decide (c.id < id) && !c.done && (slotsNamed c).any l.contains) ||
    s.pka.queue.any fun v => v.endAt.isSome && decide (v.cmd ≠ id) && (l.contains v.slot || (decide (v.op = 0x5A) && l.contains v.dest))

/-- A command of a service that arrived before `id` has not come into the order yet. -/
def serviceMissing (s : State) (id : Nat) : Bool :=
  s.cq.cmds.any fun c => decide (c.id < id) && decide (c.state = .ready) && !c.done &&
    [0x50, 0x51, 0x52, 0x58, 0x59, 0x5A, 0x5B].contains (opOf c)

/-- RSA key generation. -/
def isRsaGen (v : Service) : Bool := decide (v.op = 0x50) && inRange v.alg 6 8

/-- The head of the order begins its PKA phase, or its next slice (R483). -/
def serviceBegin (s : State) (v : Service) (r : List Service) : State :=
  let slice_ := some (s.gr.count + 1000000)
  if v.slices then { s with pka := { s.pka with queue := { v with endAt := slice_ } :: r } }
  else if isRsaGen v ∧ keyOwner s v.slot = v.pt ∧ (keyAt s v.slot).isNone ∧ s.pka.entOk ∧ s.pka.drbgOk then
    let a := drawReq (reseed s) 0
    { a.1 with pka := { a.1.pka with queue := { v with endAt := slice_, slices := true } :: r } }
  else
    let a := findService s v
    let x : Service := { v with
      endAt := some (s.gr.count + BitVec.ofNat 64 a.2.time)
      status := a.2.status
      output := a.2.output
      outAt := a.2.outAt
      key := a.2.key }
    { a.1 with pka := { a.1.pka with queue := x :: r } }

/-- A service begins: the unit is free, the firmware runs, and no earlier command is in its way (R483, R502). A service whose
command is gone before it begins is dropped (R504). -/
def pkaServiceStart (s : State) : State :=
  let q := s.pka.queue.filter fun v => v.endAt.isSome || v.slices || serves s v
  match q with
  | v :: r =>
    let s : State := { s with pka := { s.pka with queue := q } }
    if v.endAt.isSome || ccFenced s || s.dbg.halted then s
    else if !v.slices && (serviceMissing s v.cmd || slotBusy s v.cmd (if v.op = 0x5A then [v.slot, v.dest] else [v.slot])) then s
    else serviceBegin s v r
  | [] => { s with pka := { s.pka with queue := q } }

def execPkaServiceStart (s : State) : Host.Outcome State Fault Refusal := ev true (pkaServiceStart s)

/-- OUT_LEN of a service's output (R222). -/
def outLen (v : Service) : List Byte :=
  if v.op = 0x52 ∨ v.op = 0x58 then leBytes 2 v.output.length else []

/-- A service releases its result: the slot, the output, the completion (R483, R504). -/
def serviceEnd (s : State) (v : Service) (r : List Service) (ok : Bool) : State :=
  let s : State := { s with pka := { s.pka with queue := r } }
  let s := match v.key with | some (k, x) => setKeySlot s k (some x) | none => s
  match cmdAt s v.cmd with
  | some c =>
    if v.status = stDONE ∧ !v.output.isEmpty then bufOut s c ok v.outAt v.output stDONE (outLen v)
    else complete s v.cmd v.status []
  | none => s

/-- The grain at which the phase ends (R483). -/
def pkaServiceRelease (ok : Bool) (s : State) : State :=
  match s.pka.queue with
  | v :: r =>
    match v.endAt with
    | some g => if !v.slices && reached s g then serviceEnd s v r ok else s
    | none => s
  | [] => s

def execPkaServiceRelease (ok : Bool) (s : State) : Host.Outcome State Fault Refusal := ev true (pkaServiceRelease ok s)

/-- The private form an RSA generation gives: e is 65,537 (R484, R490). -/
def rsaForm (alg draws : Nat) : List Byte :=
  let n := rsaLen alg
  let b := padTo (n + 5 * n / 2) (Config.rsaKey n draws)
  b.take n ++ beBytes 4 65537 ++ b.drop n

/-- A slice of an RSA key generation ends: services that arrived meanwhile run before the next one; the last one gives the key
(R483). -/
def keygenSliceEnd (finished : Bool) (s : State) : State :=
  match s.pka.queue with
  | v :: r =>
    if v.slices ∧ v.endAt.isSome then
      if finished then serviceEnd s { v with status := stDONE, key := some (v.slot, privKey v.alg (rsaForm v.alg s.pka.draws)) } r true
      else { s with pka := { s.pka with queue := r ++ [{ v with endAt := none }] } }
    else s
  | [] => s

def execKeygenSliceEnd (finished : Bool) (s : State) : Host.Outcome State Fault Refusal := ev true (keygenSliceEnd finished s)

/-! ## Commands without the datapath (R480, R489, R497, R502) -/

/-- KEY_PUBLIC; a buffer too short gives BAD_PARAM (log entry 113). -/
def keyPublic (id : Nat) (ok : Bool) (s : State) : State :=
  runCmd s id 0x53 fun s c =>
    if slotBusy s id (slotsNamed c) then s
    else
      match keyAt s (par c 8 1) with
      | none => complete s id stKEY_EMPTY []
      | some x =>
        if x.kind = 3 then complete s id stKEY_TYPE []
        else if bufLen c < x.pub.length then complete s id stBAD_PARAM []
        else bufOut s c ok 0 x.pub stDONE (leBytes 2 x.pub.length)

def execKeyPublic (id : Nat) (ok : Bool) (s : State) : Host.Outcome State Fault Refusal := ev true (keyPublic id ok s)

/-- KEY_ZEROISE (R224). -/
def keyZeroise (id : Nat) (s : State) : State :=
  runCmd s id 0x54 fun s c =>
    if slotBusy s id (slotsNamed c) then s
    else
      match keyAt s (par c 8 1) with
      | none => complete s id stNOTE []
      | some _ => complete (setKeySlot s (par c 8 1) none) id stDONE []

def execKeyZeroise (id : Nat) (s : State) : Host.Outcome State Fault Refusal := ev true (keyZeroise id s)

/-- TAG_FLOW_SET claims or frees a tag flow (R349, R369). -/
def tagFlowSet (id : Nat) (s : State) : State :=
  runCmd s id 0x5C fun s c =>
    let f := parBits c 10 0 12
    let mode := par c 12 1
    let k := par c 8 1
    let put := fun (w : BitVec 16) =>
      complete { s with fwd := { s.fwd with tagFlows := tset (fun _ => 0) s.fwd.tagFlows f w } } id stDONE []
    if slotBusy s id (slotsNamed c) then s
    else if mode = 0 then put 0
    else
      match keyAt s k with
      | none => complete s id stKEY_EMPTY []
      | some x =>
        if x.kind = 3 ∧ x.alg.toNat = (if mode = 1 then 11 else 10) then put (BitVec.ofNat 16 (mode + 4 * k + 256 * c.pt))
        else complete s id stKEY_TYPE []

def execTagFlowSet (id : Nat) (s : State) : Host.Outcome State Fault Refusal := ev true (tagFlowSet id s)

/-- An uncorrectable integrity error of a slot: emptied, a K fault of its owner, event 667 (R501). -/
def pkaKeystore (k : Nat) (s : State) : State :=
  if (keyAt s k).isSome then raise (kFault (setKeySlot s k none) 7 0x84 (some (keyOwner s k)) k) 667 0 k else s

def execPkaKeystore (slot : Nat) (s : State) : Host.Outcome State Fault Refusal := ev (decide (slot < 64)) (pkaKeystore slot s)

/-! ## Registers (R498-R500) -/

/-- A service is in its PKA phase. -/
def pkaBusy (s : State) : Bool := s.pka.queue.any fun v => v.endAt.isSome

/-- A tag flow names a slot. -/
def slotFlows (s : State) (k : Nat) : Bool :=
  s.fwd.tagFlows.any fun f => decide (f.2.toNat % 4 ≠ 0) && decide (f.2.toNat / 4 % 64 = k)

/-- PKA registers as read, offset from 0x0680_0000. -/
def pkaRead (s : State) (off : Nat) : Option W32 :=
  if off = 0x000 then
    some (w32 (b1 s.pka.fenced + 2 * s.pka.cause.toNat + 16 * b1 (pkaBusy s) +
      2 ^ 8 * (s.pka.queue.filter fun v => v.endAt.isNone).length + 2 ^ 24 * b1 s.pka.entOk + 2 ^ 25 * b1 s.pka.drbgOk))
  else if off = 0x004 then some (w32 (s.pka.rct.toNat + 2 ^ 16 * s.pka.apt.toNat))
  else if 0x100 ≤ off ∧ off < 0x200 ∧ off % 4 = 0 then
    let k := (off - 0x100) / 4
    some (match keyAt s k with
      | some x => w32 (x.kind.toNat + 16 * x.alg.toNat + 2 ^ 12 * b1 (slotFlows s k))
      | none => w32 (2 ^ 12 * b1 (slotFlows s k)))
  else none

/-- A normal read of PKA_ENT clears it. -/
def pkaTake (s : State) (off : Nat) : State :=
  if off = 0x004 then { s with pka := { s.pka with rct := 0, apt := 0 } } else s

/-- Datapath registers and operand RAM as read, offset from 0x06C0_0000 (R500). -/
def pkaDpRead (s : State) (off : Nat) : Option W32 :=
  if off = 0x00 then some 0
  else if off = 0x04 then some (w32 (s.pka.x.toNat + 2 ^ 16 * s.pka.a.toNat))
  else if off = 0x08 then some (w32 s.pka.b.toNat)
  else if off = 0x0C then some (w32 s.pka.cy.toNat)
  else if off = 0x10 then some (w32 (s.pka.cy.toNat / 2 ^ 32))
  else if off = 0x14 then some (w32 (b1 (dpBusy s) + 2 * b1 s.pka.err + 4 * b1 s.pka.ovr))
  else if 0x10000 ≤ off ∧ off < 0x18000 ∧ off % 4 = 0 then
    some (w32 ((ramWord s ((off - 0x10000) / 8)).toNat / 2 ^ (8 * (off % 8))))
  else none

/-- A normal read of PKA_DP_STS clears ERR and OVR. -/
def pkaDpTake (s : State) (off : Nat) : State :=
  if off = 0x14 then { s with pka := { s.pka with err := false, ovr := false } } else s

/-- Half `hi` of a 64-bit word replaced. -/
def half (w : BitVec 64) (hi : Bool) (v : W32) : BitVec 64 :=
  if hi then BitVec.ofNat 64 (w.toNat % 2 ^ 32 + 2 ^ 32 * v.toNat) else BitVec.ofNat 64 (w.toNat / 2 ^ 32 * 2 ^ 32 + v.toNat)

/-- Datapath registers and operand RAM as written (R500). -/
def pkaDpWrite (s : State) (off : Nat) (v : W32) : State :=
  let lost : State := { s with pka := { s.pka with ovr := true } }
  if off = 0x00 then dpOp s v
  else if off = 0x04 then
    { s with pka := { s.pka with x := BitVec.ofNat 12 (fld v 0 12), a := BitVec.ofNat 12 (fld v 16 12) } }
  else if off = 0x08 then { s with pka := { s.pka with b := BitVec.ofNat 12 (fld v 0 12) } }
  else if off = 0x0C ∨ off = 0x10 then
    (if dpBusy s then lost else { s with pka := { s.pka with cy := half s.pka.cy (decide (off = 0x10)) v } })
  else if 0x10000 ≤ off ∧ off < 0x18000 then
    let w := (off - 0x10000) / 8
    (if dpBusy s then lost
     else { s with pka := { s.pka with ram := tset (fun _ => 0) s.pka.ram w (half (ramWord s w) (decide (off % 8 = 4)) v) } })
  else s

end Sys2Proof.Machine
end

