-- ==== Sys2Proof/Machine/Cluster.lean ====
section
/-! DEFINITION. The control cluster (spec/19): lockstep self-test and faults, watchdog, fuses, FW_INFO and PTP_INSTANCE; the debug
port and the TAP; their registers. -/

namespace Sys2Proof.Machine

/-! ## Lockstep (R506-R509, R530) -/

/-- The cluster's cores are clocked and not fenced: running or halted. -/
def ccLive (s : State) : Bool := decide (s.cc.state = 1) || decide (s.cc.state = 2)

/-- The cluster detects conditions of R509 in one cycle: the lowest code is the cause, the others are ALSO. -/
def ccDetect (s : State) (causes : Nat) : State :=
  match (List.range 6).find? fun i => causes.testBit i with
  | some i => if ccFenced s then s else fFault s 5 (0x91 + i) (causes - 2 ^ i)
  | none => s

/-- A self-test injects a mismatch every PERIOD us (R508): answered with its syndrome it passes, otherwise COMPARATOR. -/
def selfTest (caught : Bool) (s : State) : State :=
  if ccLive s ∧ s.cc.period.toNat * 1000 ≤ since s s.cc.testAt then
    let s : State := { s with cc := { s.cc with testAt := s.gr.count, testBit := (s.cc.testBit + 1) % 256 } }
    if caught then { s with cc := { s.cc with passes := satInc s.cc.passes } } else ccDetect s 4
  else s

def execLockstepSelfTest (caught : Bool) (s : State) : Host.Outcome State Fault Refusal := ev true (selfTest caught s)

/-- A delay-path error, an uncorrectable TCM error, a comparator that does not answer or a divergence (R509, R530). -/
def execLockstepFault (causes : BitVec 4) (s : State) : Host.Outcome State Fault Refusal :=
  ev (decide (causes ≠ 0)) (if ccLive s then ccDetect s causes.toNat else s)

/-- A corrected TCM word (R511). -/
def tcmCorr (addr : Nat) (s : State) : State :=
  if ccLive s then cFault { s with cc := { s.cc with corr := satInc s.cc.corr } } 5 0x97 addr else s

def execTcmCorr (addr : Nat) (s : State) : Host.Outcome State Fault Refusal := ev true (tcmCorr addr s)

/-! ## The watchdog (R511, R513) -/

/-- The first kick of an image with ADVANCE = 1 raises the SVN floor (R513). -/
def svnAdvance (s : State) : State :=
  if s.cc.advance then
    { s with
      cc := { s.cc with advance := false }
      fuse := { s.fuse with floor := BitVec.ofNat 6 (max s.fuse.floor.toNat s.cc.svn.toNat) } }
  else s

/-- CC_WDOG written: TIME outside 1-1,000 keeps the field (R17); the key restarts the count under the TIME in force, which is that
of the same write (log entry 120). -/
def wdogWrite (s : State) (v : W32) : State :=
  let t := fld v 0 10
  let s : State := if inRange t 1 1000 then { s with cc := { s.cc with wdTime := BitVec.ofNat 10 t } } else s
  if fld v 16 16 = 0x5A17 then svnAdvance { s with cc := { s.cc with wdCount := 0, wdForce := s.cc.wdTime } } else s

def execCcWdogKick (m : Master) (v : BitVec 32) (s : State) : Host.Outcome State Fault Refusal :=
  ev m.wf (regWr s m 0x07000020 fun s => wdogWrite s v)

/-- One grain of the watchdog: it counts while the cores run (R511, R522). -/
def wdogGrain (s : State) : State :=
  if s.cc.state = 1 then { s with cc := { s.cc with wdCount := s.cc.wdCount + 1 } } else s

/-- The count reaches TIME (R511). -/
def fwWatchdog (s : State) : State :=
  if ccLive s ∧ s.cc.wdForce.toNat * 1000000 ≤ s.cc.wdCount then ccDetect s 0x20 else s

def execFwWatchdog (s : State) : Host.Outcome State Fault Refusal := ev true (fwWatchdog s)

/-! ## Fuses (R514) -/

/-- A LEVEL 2 debug session is open. -/
def dbgLevel2 (s : State) : Bool := decide (s.dbg.level = 2)

/-- A debug write or a take is logged as a class C record (R520). -/
def dbgLog (s : State) (addr : Nat) (write : Bool) : State := cFault s 11 0xC0 (addr % 2 ^ 32 + 2 ^ 32 * b1 write)

/-- The value staged (R514). -/
def fuseStage (s : State) : BitVec 256 :=
  BitVec.ofNat 256 ((List.range 8).map fun k => (tget (fun _ => (0 : W32)) s.cc.stage k).toNat * 2 ^ (32 * k)).sum

/-- CC_FUSE_PROG written from a LEVEL 2 session: REFUSED and DONE are cleared by writing 1; GO programs a blank field. -/
def fuseProg (s : State) (v : W32) (vio : Bool) : State :=
  let c := s.cc
  let c : Cc := { c with progRef := c.progRef && !bit v 17, progDone := c.progDone && !bit v 18 }
  let s : State := { s with cc := c }
  if fld v 0 16 ≠ 0xF05E ∨ s.cc.progBusy then s
  else if s.fuse.boardHash ≠ 0 then { s with cc := { s.cc with progRef := true } }
  else if vio then { s with cc := { s.cc with progBusy := true, progVal := fuseStage s } }
  else s

/-- GO (R514): from a LEVEL 2 debug session it has its effect and is logged; from any other master the write is discarded and
recorded as ACCESS_OWNER. -/
def fuseGo (m : Option Master) (v : W32) (vio : Bool) (s : State) : State :=
  match m with
  | none => if dbgLevel2 s ∧ !ccFenced s then fuseProg (dbgLog s 0x07000080 true) v vio else s
  | some m =>
    match refusal s m 0x07000080 4 true true with
    | some c => refuse s m 0x07000080 true c
    | none => refuse s m 0x07000080 true 3

def execCcFuseProgGo (m : Option Master) (v : BitVec 32) (vio : Bool) (s : State) : Host.Outcome State Fault Refusal :=
  ev (m.all (·.wf)) (fuseGo m v vio s)

/-- Programming completes (R514). -/
def fuseProgDone (s : State) : State :=
  if s.cc.progBusy then
    { s with cc := { s.cc with progBusy := false, progDone := true }, fuse := { s.fuse with boardHash := s.cc.progVal } }
  else s

def execFuseProgDone (s : State) : Host.Outcome State Fault Refusal := ev true (fuseProgDone s)

/-! ## Firmware commands (R222) -/

/-- FW_INFO: VERSION, BUILD and SIGNER of the running image. -/
def execFwInfo (id : Nat) (s : State) : Host.Outcome State Fault Refusal :=
  ev true (runCmd s id 0x40 fun s c =>
    complete s c.id stDONE (leBytes 4 s.cc.version.toNat ++ leBytes 4 s.cc.build.toNat ++ leBytes 2 s.cc.signer.toNat))

/-- PTP_INSTANCE configures an instance; PROFILE 0 turns it off (R105, R222). -/
def ptpInstance (s : State) (c : Cmd) : State :=
  let v := if par c 10 1 = 0 then [] else slice c.bytes 9 19
  complete { s with cc := { s.cc with ptp := tset (fun _ => []) s.cc.ptp (parBits c 8 0 2) v } } c.id stDONE []

def execPtpInstance (id : Nat) (s : State) : Host.Outcome State Fault Refusal := ev true (runCmd s id 0x48 ptpInstance)

/-! ## The TAP (R524, R525) -/

/-- An instruction comes into force: an intrusive one acts while RESET_N is low, and else as BYPASS (R525). -/
def tapIr (s : State) (code : BitVec 8) (intrusive : Bool) (dr : List Bool) : State :=
  { s with dbg := { s.dbg with ir := code, acting := intrusive && !s.dev.resetN, dr := dr } }

/-- IDCODE (R524). -/
def execIdcode (s : State) : Host.Outcome State Fault Refusal :=
  ev true (tapIr s 0x01 false ((List.range 32).map fun i => Nat.testBit 0x10960A4B i))

/-- SAMPLE/PRELOAD: the boundary register is captured and loaded; the pins are not disturbed. -/
def execSamplePreload (pins load : List Bool) (s : State) : Host.Outcome State Fault Refusal :=
  ev true (let t := tapIr s 0x02 false pins; { t with dbg := { t.dbg with bsr := load } })

def execClamp (s : State) : Host.Outcome State Fault Refusal := ev true (tapIr s 0x04 true [false])
def execHighz (s : State) : Host.Outcome State Fault Refusal := ev true (tapIr s 0x05 true [false])
def execExtest (s : State) : Host.Outcome State Fault Refusal := ev true (tapIr s 0x06 true s.dbg.bsr)
def execExtestPulse (s : State) : Host.Outcome State Fault Refusal := ev true (tapIr s 0x08 true s.dbg.bsr)
def execExtestTrain (s : State) : Host.Outcome State Fault Refusal := ev true (tapIr s 0x09 true s.dbg.bsr)

/-- Codes of the instructions that are not BYPASS. -/
def tapCodes : List Nat := [0x01, 0x02, 0x04, 0x05, 0x06, 0x08, 0x09, 0x20, 0x21, 0x22]

/-- BYPASS, by 0xFF or any code that names no instruction. -/
def execBypass (code : BitVec 8) (s : State) : Host.Outcome State Fault Refusal :=
  evIf true (!tapCodes.contains code.toNat) s (tapIr s code false [false])

/-! ## Sessions (R518, R528) -/

/-- The session ends (R518). -/
def dbgEnd (s : State) : State :=
  if s.dbg.level = 0 then s else raise { s with dbg := { s.dbg with level := 0 } } 668 2 0

/-- DBG_AUTH: a nonce of the DRBG and the serial; none within 1 s of a failure (R518). -/
def dbgAuth (s : State) : State :=
  let s := tapIr s 0x20 false []
  let free := match s.dbg.blockTo with | some t => decide (t ≤ s.pwr.aon.toNat) | none => true
  if free then
    let a := draw s 32
    { a.1 with dbg := { a.1.dbg with nonce := some (BitVec.ofNat 256 (leNat a.2)), serialOut := Config.serial, blockTo := none } }
  else s

def execDbgAuth (s : State) : Host.Outcome State Fault Refusal := ev true (dbgAuth s)

/-- The response that opens a session at a level; none where the slot does not serve (R518; byte order in log entry 121). -/
def dbgExpected (s : State) (nonce : BitVec 256) (level : BitVec 2) : Option (List Byte) :=
  let k := s.dbg.slot.toNat
  match keyAt s k with
  | some x =>
    if x.kind = 3 ∧ x.alg = 11 ∧ keyOwner s k = 0 then
      some (hmac256 x.priv (leBytes 32 nonce.toNat ++ leBytes 8 Config.serial.toNat ++ [level.setWidth 8]))
    else none
  | none => none

/-- A response: the session opens at min(LEVEL, ALLOW), or fails and blocks nonces for 1 s (R518). -/
def dbgResponse (level : BitVec 2) (mac : List Byte) (s : State) : State :=
  match s.dbg.nonce with
  | none => s
  | some n =>
    let s : State := { s with dbg := { s.dbg with nonce := none } }
    if dbgExpected s n level = some mac then
      let l := min (min level.toNat 2) s.dbg.allow.toNat
      if l = 0 then s else raise { s with dbg := { s.dbg with level := BitVec.ofNat 2 l } } 668 1 l
    else
      raise { s with dbg := { s.dbg with authFail := satInc s.dbg.authFail, blockTo := some (s.pwr.aon.toNat + 32768) } } 668 5 0

def execDbgAuthResponse (level : BitVec 2) (mac : List Byte) (s : State) : Host.Outcome State Fault Refusal :=
  ev true (dbgResponse level mac s)

def execDbgClose (s : State) : Host.Outcome State Fault Refusal := ev true (dbgEnd (tapIr s 0x22 false []))

/-- The TAP is reset: IDCODE is selected and the session ends (R518, R524). -/
def execTapReset (s : State) : Host.Outcome State Fault Refusal := ev true (dbgEnd (tapIr s 0x01 false s.dbg.dr))

/-- STATUS of the access or request just made (R525). -/
def dbgStatus (s : State) (st : BitVec 5) : State := { s with dbg := { s.dbg with status := st } }

/-- What a session of too low a level is answered: 4 without a session, 1 below the level (R533). -/
def dbgLow (s : State) (need : Nat) : Option (BitVec 5) :=
  if s.dbg.level = 0 then some 4 else if s.dbg.level.toNat < need then some 1 else none

/-- HALT (R522, R523, R531). -/
def debugHalt (s : State) : State :=
  match dbgLow s 2 with
  | some st => dbgStatus s st
  | none =>
    let s := dbgStatus s 0
    if s.cc.state = 0 ∨ ccFenced s then { s with dbg := { s.dbg with haltRef := true } }
    else if s.dbg.halted then s
    else
      let s : State := { s with dbg := { s.dbg with halted := true }, cc := { s.cc with state := 2 } }
      raise (if s.dbg.freeze then semFreeze s else s) 668 3 0

def execDebugHalt (s : State) : Host.Outcome State Fault Refusal := ev true (debugHalt s)

/-- RESUME (R522, R523, R529, R531). -/
def debugResume (s : State) : State :=
  match dbgLow s 2 with
  | some st => dbgStatus s st
  | none =>
    let s := dbgStatus s 0
    if s.dbg.halted ∧ s.cc.state = 2 then
      raise (semThaw { s with dbg := { s.dbg with halted := false }, cc := { s.cc with state := 1 } }) 668 4 0
    else s

def execDebugResume (s : State) : Host.Outcome State Fault Refusal := ev true (debugResume s)

/-! ## Core space (R521; its layout in log entry 122) -/

/-- A 32-bit word of the core space of one core: TCM from 0, then 34 registers of 64 bits. -/
def coreWord (tcm : Tab Byte) (regs : Tab (BitVec 64)) (a : Nat) : Option W32 :=
  if a % 4 ≠ 0 then none
  else if a < 0x80000 then some (w32 (leNat (tgets (fun _ => 0) tcm a 4)))
  else if a < 0x80000 + 8 * 34 then
    some (w32 ((tget (fun _ => (0 : BitVec 64)) regs ((a - 0x80000) / 8)).toNat / 2 ^ (8 * (a % 8))))
  else none

/-- A word of the core space is written in both cores alike. -/
def coreWrite_ (s : State) (a : Nat) (v : W32) : State :=
  if a < 0x80000 then
    let put := fun (t : Tab Byte) => tputs (fun _ => 0) t a (leBytes 4 v.toNat)
    { s with cc := { s.cc with tcm := put s.cc.tcm, tcm2 := put s.cc.tcm2 } }
  else
    let k := (a - 0x80000) / 8
    let put := fun (t : Tab (BitVec 64)) =>
      tset (fun _ => 0) t k (half (tget (fun _ => 0) t k) (decide (a % 8 = 4)) v)
    { s with cc := { s.cc with coreRegs := put s.cc.coreRegs, coreRegs2 := put s.cc.coreRegs2 } }

/-! ## Registers (R514, R526, R527) -/

/-- CC registers as read, offset from 0x0700_0000. -/
def ccRead (s : State) (off : Nat) : Option W32 :=
  let c := s.cc
  if off = 0x00 then some (w32 c.state.toNat)
  else if off = 0x04 then some (w32 (c.cause.toNat + 8 * c.also.toNat))
  else if off = 0x08 then some (w32 c.fenceAt.toNat)
  else if off = 0x0C then some c.fenceHi
  else if off = 0x10 then some (w32 c.period.toNat)
  else if off = 0x14 then some c.passes
  else if off = 0x18 then some (w32 c.corr.toNat)
  else if off = 0x20 then some (w32 c.wdTime.toNat)
  else if off = 0x30 then some (w32 (c.svn.toNat + 2 ^ 8 * c.signer.toNat + 2 ^ 16 * s.fuse.floor.toNat))
  else if 0x40 ≤ off ∧ off < 0x60 ∧ off % 4 = 0 then some (w32 (s.fuse.boardHash.toNat / 2 ^ (8 * (off - 0x40))))
  else if 0x60 ≤ off ∧ off < 0x80 ∧ off % 4 = 0 then some (tget (fun _ => 0) c.stage ((off - 0x60) / 4))
  else if off = 0x80 then some (w32 (2 ^ 16 * b1 c.progBusy + 2 ^ 17 * b1 c.progRef + 2 ^ 18 * b1 c.progDone))
  else if 0x10000 ≤ off ∧ off < 0x10400 ∧ off % 4 = 0 then semRead s ((off - 0x10000) / 16) (off % 16)
  else none

/-- What a normal read of a CC register clears or latches. -/
def ccTake (s : State) (off : Nat) : State :=
  if off = 0x08 then { s with cc := { s.cc with fenceHi := w32 (s.cc.fenceAt.toNat / 2 ^ 32) } }
  else if off = 0x14 then { s with cc := { s.cc with passes := 0 } }
  else if off = 0x18 then { s with cc := { s.cc with corr := 0 } }
  else s

/-- CC registers as written by a master; the fuse registers take writes of a LEVEL 2 session alone (R514). PERIOD outside
100-100,000 keeps the field (R17). -/
def ccWrite (s : State) (off : Nat) (v : W32) (debugger : Bool) : State :=
  if off = 0x10 then
    (if inRange (fld v 0 17) 100 100000 then { s with cc := { s.cc with period := BitVec.ofNat 17 (fld v 0 17) } } else s)
  else if off = 0x20 then wdogWrite s v
  else if 0x60 ≤ off ∧ off < 0x80 then
    (if debugger then { s with cc := { s.cc with stage := tset (fun _ => 0) s.cc.stage ((off - 0x60) / 4) v } } else s)
  else if off = 0x80 then (if debugger then fuseProg s v true else s)
  else if 0x10000 ≤ off ∧ off < 0x10400 then semWrite s ((off - 0x10000) / 16) (off % 16) v
  else s

/-- The register is a fuse register, which only a LEVEL 2 session writes. -/
def fuseRegister (addr : Nat) : Bool := decide (0x07000060 ≤ addr) && decide (addr ≤ 0x07000080)

/-- DBG registers as read, offset from 0x0702_0000. -/
def dbgRead (s : State) (off : Nat) : Option W32 :=
  let d := s.dbg
  if off = 0x00 then some (w32 (d.allow.toNat + 4 * b1 d.freeze + 16 * d.slot.toNat + 2 ^ 31 * b1 d.lock))
  else if off = 0x04 then
    some (w32 (d.level.toNat + 4 * b1 d.halted + 8 * b1 d.peekRef + 16 * b1 d.tcmDiff + 32 * b1 d.haltRef + 2 ^ 8 * d.authFail.toNat))
  else none

/-- A normal read of DBG_STS clears AUTH_FAIL. -/
def dbgTake (s : State) (off : Nat) : State := if off = 0x04 then { s with dbg := { s.dbg with authFail := 0 } } else s

/-- DBG registers as written (R518, R527); ALLOW 3 keeps the field (R17, R527). -/
def dbgWrite (s : State) (off : Nat) (v : W32) : State :=
  if off = 0x00 then
    if s.dbg.lock then s
    else
      let allow := if fld v 0 2 = 3 then s.dbg.allow else BitVec.ofNat 2 (fld v 0 2)
      let s : State := { s with dbg := { s.dbg with
        allow := allow
        freeze := bit v 2
        slot := BitVec.ofNat 6 (fld v 4 6)
        lock := bit v 31 } }
      if allow.toNat < s.dbg.level.toNat then dbgEnd s else s
  else if off = 0x04 then
    { s with dbg := { s.dbg with
        peekRef := s.dbg.peekRef && !bit v 3
        tcmDiff := s.dbg.tcmDiff && !bit v 4
        haltRef := s.dbg.haltRef && !bit v 5 } }
  else s

end Sys2Proof.Machine
end

