-- ==== Sys2Proof/Machine/Counters.lean ====
section
/-! DEFINITION. The counters and the census (spec/22 R592-R604; spec/08 R219, R220). -/

namespace Sys2Proof.Machine

/-! ## Settings of a counter (R592, R600) -/

/-- SEL is one that the unit's row lists (R592). -/
def selOk (u sel : Nat) : Bool :=
  if u < 96 then inRange sel 1 8 || inRange sel 0x80 0x87
  else if u < 100 then inRange sel 1 4 || inRange sel 0x80 0x87
  else if u < 164 then inRange sel 1 4 || inRange sel 0x80 0x81
  else if u = 164 then inRange sel 1 16
  else if u = 165 then inRange sel 1 3 || inRange sel 0x80 0x81
  else if u = 166 then inRange sel 1 3 || decide (sel = 0x80)
  else inRange sel 1 2 || decide (sel = 0x80)

/-- Address of PMC_CFG(u, c) (R600). -/
def pmcReg (u c : Nat) (hi : Bool) : Nat := 0x07D00000 + u * 0x40 + c * 8 + 4 * b1 hi

/-- A write of word +0: an unlisted SEL keeps the field (R17, R592); CLR sets the counter to 0 (R596). -/
def pmcCfgLo (s : State) (u c : Nat) (v : W32) : State :=
  let x := ctrAt s u c
  let sel := fld v 0 8
  setCtr s u c { x with
    sel := if selOk u sel then BitVec.ofNat 8 sel else x.sel
    own := BitVec.ofNat 4 (fld v 8 4)
    all := bit v 12
    en := bit v 13
    count := if bit v 31 then 0 else x.count }

/-- A write of word +4 (R600). -/
def pmcCfgHi (s : State) (u c : Nat) (v : W32) : State :=
  setCtr s u c { ctrAt s u c with thresh := BitVec.ofNat 24 (fld v 0 24) }

/-- A write of PMC_CFG at the boundary that sees it (R36, R600); `off` counts from 0x07D0_0000. -/
def pmcApply (s : State) (off : Nat) (v : W32) : State :=
  let u := off / 0x40
  let c := off % 0x40 / 8
  if 168 ≤ u then s else if off % 8 = 0 then pmcCfgLo s u c v else pmcCfgHi s u c v

def execPmcCfgWrite (m : Master) (u c : Nat) (hi : Bool) (v : W32) (s : State) : Host.Outcome State Fault Refusal :=
  ev (m.wf && decide (u < 168) && decide (c < 8)) (regWr s m (pmcReg u c hi) fun s => pendWrite s (pmcReg u c hi) v)

def execPmcClr (m : Master) (u c : Nat) (v : W32) (s : State) : Host.Outcome State Fault Refusal :=
  ev (m.wf && decide (u < 168) && decide (c < 8))
    (regWr s m (pmcReg u c false) fun s => pendWrite s (pmcReg u c false) (v ||| 0x80000000))

/-- PMC_CFG and PMC_STS as read, offset from 0x07D0_0000 (R600, R602). -/
def pmcRegRead (s : State) (off : Nat) : Option W32 :=
  if off < 168 * 0x40 ∧ off % 4 = 0 then
    let x := ctrAt s (off / 0x40) (off % 0x40 / 8)
    some (if off % 8 = 0 then w32 (x.sel.toNat + 256 * x.own.toNat + 4096 * b1 x.all + 8192 * b1 x.en) else w32 x.thresh.toNat)
  else if off = 0x3000 then
    let last := match s.pmc.slots with | c :: _ => c.num.toNat | [] => 0
    some (w32 (last + 65536 * b1 (s.pmc.pend.isSome || s.pmc.writing.isSome) + 131072 * b1 (!s.pmc.slots.isEmpty)))
  else none

/-! ## Occupancy (R595) -/

/-- The value an occupancy SEL samples. -/
def occupancyOf (s : State) (u sel own : Nat) : Nat :=
  if u < 100 then (queueAt s u (sel - 0x80)).cells
  else if u < 164 then (if sel = 0x80 then engInFlight (engAt s (u - 100)) else engDepth (engAt s (u - 100)))
  else if u = 165 then (if sel = 0x80 then (ptnAt s own).usedCells else s.gr.backlog.length)
  else if u = 166 then fdbCount s own fun _ => true
  else usedTiles s own

/-- A fenced unit's counters hold their values (R604). -/
def ctrUnitFenced (s : State) (u : Nat) : Bool :=
  if u < 96 then false
  else if u < 100 then (radioAt s (u - 96)).fenced
  else decide (u < 164) && engFenced s (u - 100)

/-- One boundary of one counter. -/
def occupancyStep (s : State) (i : Nat) (x : Ctr) : State :=
  if x.en ∧ 0x80 ≤ x.sel.toNat ∧ !ctrUnitFenced s (i / 8) ∧ x.thresh.toNat < occupancyOf s (i / 8) x.sel.toNat x.own.toNat then
    setCtr s (i / 8) (i % 8) { x with count := x.count + 1 }
  else s

/-- Every occupancy counter at a boundary; a counter at its reset values counts an event. -/
def occupancyCount (s : State) : State := s.pmc.ctrs.foldl (fun (s : State) e => occupancyStep s e.1 e.2) s

/-! ## The census (R220, R597-R599) -/

/-- An entry of the census. -/
def censusEntry (x : Ctr) : BitVec 64 :=
  BitVec.ofNat 64 (x.count.toNat + 2 ^ 48 * x.sel.toNat + 2 ^ 56 * x.own.toNat + 2 ^ 60 * b1 x.all)

/-- Every counter as it stands now, as the census of grain `g`. -/
def censusOf (s : State) (g : Grain) : Census :=
  { num := s.pmc.next
    at_ := g
    epoch := (newest s).num
    ents := (List.range 1344).map fun e => censusEntry (ctrAt s (e / 8) (e % 8)) }

/-- PMC_CENSUS (R220): the same AT joins the pending census; AT 0 is the grain after the arrival stamp (R202). -/
def pmcCensus (s : State) (c : Cmd) : State :=
  let g : Grain := if par c 16 8 = 0 then c.arrive + 1 else BitVec.ofNat 64 (par c 16 8)
  match s.pmc.pend, s.pmc.writing with
  | none, none => running { s with pmc := { s.pmc with pend := some g, pendCmds := [(c.id, false)], snap := none } } c.id
  | some p, _ =>
    if p = g then running { s with pmc := { s.pmc with pendCmds := s.pmc.pendCmds ++ [(c.id, true)] } } c.id
    else complete s c.id stCENSUS_BUSY []
  | none, some _ => complete s c.id stCENSUS_BUSY []

def execPmcCensus (id : Nat) (s : State) : Host.Outcome State Fault Refusal := ev true (runCmd s id 0x30 pmcCensus)

/-- The boundary AT keeps every counter as it stands before the writes seen there (R597, R603). -/
def censusBoundary (s : State) : State :=
  match s.pmc.pend with
  | some g => if g = s.gr.count then { s with pmc := { s.pmc with snap := some (censusOf s g) } } else s
  | none => s

/-- The census of grain AT is captured: what boundary AT kept, or the counters as they stand where AT passed before the command
came to run (log entry 80). -/
def censusCapture (s : State) : State :=
  match s.pmc.pend with
  | some g =>
    if reached s g then
      { s with pmc := { s.pmc with
          pend := none
          snap := none
          writing := some (s.pmc.snap.getD (censusOf s g))
          next := s.pmc.next + 1 } }
    else s
  | none => s

def execCensusCapture (s : State) : Host.Outcome State Fault Refusal := ev true (censusCapture s)

/-- The census is complete in its slot; the commands that wait for it complete (R220, R597, R598). -/
def censusComplete (s : State) : State :=
  match s.pmc.writing with
  | some x =>
    let l := s.pmc.pendCmds
    let s : State := { s with pmc := { s.pmc with writing := none, pendCmds := [], slots := (x :: s.pmc.slots).take 4 } }
    l.foldl (fun s c => complete s c.1 (if c.2 then stNOTE else stDONE) (leBytes 8 x.at_.toNat ++ leBytes 2 x.num.toNat)) s
  | none => s

def execCensusComplete (s : State) : Host.Outcome State Fault Refusal := ev true (censusComplete s)

/-- An entry belongs to partition `n` (R594). -/
def entryOf (n : Nat) (e : BitVec 64) : Bool :=
  if e.getLsbD 60 then decide (n = 0) else decide (e.toNat / 2 ^ 56 % 16 = n)

/-- The header and the entries that partition `n` sees (R594, R599). -/
def censusBytes (x : Census) (n : Nat) : List Byte :=
  let own := x.ents.filter (entryOf n)
  padTo 32 (leBytes 8 x.at_.toNat ++ leBytes 2 x.num.toNat ++ leBytes 2 x.epoch.toNat ++ leBytes 4 own.length) ++
    own.flatMap fun e => leBytes 8 e.toNat

/-- PMC_READ (R599). -/
def pmcReadCmd (ok : Bool) (s : State) (c : Cmd) : State :=
  match s.pmc.slots.find? fun x => decide (x.num.toNat = par c 8 2) with
  | some x => bufOut s c ok 0 ((censusBytes x c.pt).take (bufLen c)) stDONE []
  | none => complete s c.id stBAD_PARAM []

def execPmcRead (id : Nat) (ok : Bool) (s : State) : Host.Outcome State Fault Refusal :=
  ev true (runCmd s id 0x31 (pmcReadCmd ok))

/-! ## The counter view (R594, R601) -/

/-- A counter belongs to partition `n` (R594). -/
def ctrOf (n : Nat) (x : Ctr) : Bool := if x.all then decide (n = 0) else decide (x.own.toNat = n)

/-- Word of the counter view of partition `n`. -/
def viewWord (s : State) (n u c : Nat) (hi : Bool) : W32 :=
  let x := ctrAt s u c
  if !ctrOf n x then 0 else if hi then w32 x.hi.toNat else w32 x.count.toNat

/-- A normal read of LO latches COUNT[47:32] into HI (R601). -/
def viewTake (s : State) (n u c : Nat) (hi : Bool) : State :=
  let x := ctrAt s u c
  if !hi && ctrOf n x then setCtr s u c { x with hi := BitVec.ofNat 16 (x.count.toNat / 2 ^ 32) } else s

/-- The counter view as read, offset within the window; none outside it (R26, R601). -/
def viewRead (s : State) (n off : Nat) : Option W32 :=
  if 0x10000 ≤ off ∧ off < 0x12A00 ∧ off % 4 = 0 then
    let o := off - 0x10000
    some (viewWord s n (o / 0x40) (o % 0x40 / 8) (decide (o % 8 = 4)))
  else none

def execCounterViewRead (m : Master) (n u c : Nat) (hi : Bool) (s : State) : Host.Outcome State Fault Refusal :=
  ev (m.wf && decide (n < 16) && decide (u < 168) && decide (c < 8))
    (regRd s m (winBase n + 0x10000 + u * 0x40 + c * 8 + 4 * b1 hi) (fun s => viewWord s n u c hi) fun s => viewTake s n u c hi)

end Sys2Proof.Machine
end

