-- ==== Sys2Proof/Machine/Coding.lean ====
section
/-! DEFINITION. The coding of a radio burst (spec/16 R433-R438): Reed-Solomon over GF(2^8), interleaving, CRC, lengths. -/

namespace Sys2Proof.Machine

/-! ## GF(2^8) with 0x11D (R435) -/

/-- A field element times α. -/
def gfX (a : Nat) : Nat := let b := 2 * a; if b < 256 then b else b ^^^ 0x11D

/-- Product of two field elements. -/
def gfMul (a b : Nat) : Nat :=
  ((List.range 8).foldl (fun (r : Nat × Nat) i => (if b.testBit i then r.1 ^^^ r.2 else r.1, gfX r.2)) (0, a)).1

/-- α^n. -/
def gfExp : Nat → Nat
  | 0 => 1
  | n + 1 => gfX (gfExp n)

/-- Inverse of a nonzero element, a^254. -/
def gfInv (a : Nat) : Nat :=
  ((List.range 7).foldl (fun (r : Nat × Nat) _ => let q := gfMul r.2 r.2; (gfMul r.1 q, q)) (1, a)).1

/-- Value of a polynomial, highest degree first. -/
def gfEval (p : List Nat) (x : Nat) : Nat := p.foldl (fun r c => gfMul r x ^^^ c) 0

/-- The generator of n parity bytes, highest degree first. -/
def rsGen (n : Nat) : List Nat :=
  (List.range n).foldl (fun g i =>
    let r := gfExp i
    (g ++ [0]).zipWith (· ^^^ ·) (0 :: g.map (gfMul r))) [1]

/-- Parity of data bytes. -/
def rsParity (n : Nat) (d : List Nat) : List Nat :=
  let g := (rsGen n).tail
  d.foldl (fun r b =>
    let f := b ^^^ r.headD 0
    (r.tail ++ [0]).zipWith (· ^^^ ·) (g.map (gfMul f))) (List.replicate n 0)

/-- A codeword: data, then parity (R435). -/
def rsEncode (n : Nat) (d : List Byte) : List Byte := d ++ (rsParity n (d.map (·.toNat))).map (BitVec.ofNat 8)

/-- A polynomial, lowest degree first, at a point. -/
def gfEvalLow (p : List Nat) (x : Nat) : Nat := gfEval p.reverse x

/-- Padded sum of two polynomials, lowest degree first. -/
def gfAdd (a b : List Nat) : List Nat :=
  (List.range (max a.length b.length)).map fun i => a.getD i 0 ^^^ b.getD i 0

/-- Berlekamp-Massey on the syndromes: the error locator, lowest degree first, and its length. -/
def rsLocator (syn : List Nat) : List Nat × Nat :=
  let r := (List.range syn.length).foldl (fun (t : List Nat × List Nat × Nat × Nat) k =>
    let (c, b, l, bd) := t
    let d := (List.range (l + 1)).foldl (fun x i => x ^^^ gfMul (c.getD i 0) (syn.getD (k - i) 0)) 0
    let b := 0 :: b
    if d = 0 then (c, b, l, bd)
    else
      let c' := gfAdd c (b.map (gfMul (gfMul d (gfInv bd))))
      if 2 * l ≤ k then (c', c, k + 1 - l, d) else (c', b, l, bd)) ([1], [1], 0, 1)
  (r.1, r.2.2.1)

/-- A received word of n parity bytes: its data and the number of bytes corrected; none where it cannot be corrected (R435). -/
def rsDecode (n : Nat) (w : List Byte) : Option (List Byte × Nat) :=
  let v := w.map (·.toNat)
  let len := v.length
  let syn := (List.range n).map fun i => gfEval v (gfExp i)
  if syn.all (· == 0) then some (w.take (len - n), 0)
  else
    let loc := rsLocator syn
    let lam := loc.1
    let errs := (List.range len).filter fun i => gfEvalLow lam (gfInv (gfExp (len - 1 - i))) == 0
    if loc.2 ≠ errs.length ∨ n / 2 < loc.2 then none
    else
      let om := (List.range n).map fun k => (List.range (k + 1)).foldl (fun x i => x ^^^ gfMul (syn.getD i 0) (lam.getD (k - i) 0)) 0
      let dl := (List.range lam.length).map fun i => if i % 2 = 0 then lam.getD (i + 1) 0 else 0
      let fix := errs.map fun i =>
        let x := gfExp (len - 1 - i)
        let xi := gfInv x
        (i, gfMul x (gfMul (gfEvalLow om xi) (gfInv (gfEvalLow dl xi))))
      let v := fix.foldl (fun (v : List Nat) f => v.set f.1 (v.getD f.1 0 ^^^ f.2)) v
      if ((List.range n).map fun i => gfEval v (gfExp i)).all (· == 0) then
        some ((v.take (len - n)).map (BitVec.ofNat 8), errs.length)
      else none

/-! ## Frames (R436-R438) -/

/-- Codewords of a payload of `len` bytes. -/
def codewords (k len : Nat) : Nat := (len + 4 + k - 1) / k

/-- The 4 header bytes. -/
def burstHeader (len type_ node flags : Nat) : List Byte :=
  leBytes 2 (len + 2 ^ 11 * type_) ++ [BitVec.ofNat 8 node, BitVec.ofNat 8 flags]

/-- Groups of `d` rows, sent column by column. -/
def interleave (d : Nat) : Nat → List (List Byte) → List Byte
  | 0, _ => []
  | f + 1, rows =>
    if rows.isEmpty then []
    else
      let g := rows.take d
      let n := (g.headD []).length
      ((List.range n).flatMap fun i => g.map fun r => r.getD i 0) ++ interleave d f (rows.drop d)

/-- The rows of received bytes: `c` codewords of `n` bytes in groups of `d`. -/
def deinterleave (d n : Nat) : Nat → Nat → List Byte → List (List Byte)
  | 0, _, _ => []
  | f + 1, c, l =>
    if c = 0 then []
    else
      let r := min d c
      ((List.range r).map fun i => (List.range n).map fun j => l.getD (j * r + i) 0) ++ deinterleave d n f (c - r) (l.drop (r * n))

/-- `c` pieces of `k` bytes, the last padded with zeros. -/
def pieces (k : Nat) : Nat → List Byte → List (List Byte)
  | 0, _ => []
  | c + 1, l => padTo k l :: pieces k c (l.drop k)

/-- Header and body of a burst as they go on air (R436-R438). -/
def burstBytes (k twoT depth : Nat) (header payload : List Byte) : List Byte :=
  let body := payload ++ leBytes 4 (crc32 (header ++ payload)).toNat
  let c := codewords k payload.length
  rsEncode 8 header ++ interleave (depth + 1) c ((pieces k c body).map (rsEncode twoT))

/-- What a received burst gives (R440): RESULT, bytes corrected, TYPE, NODE and payload. -/
structure BurstIn where
  result : Nat
  corr : Nat
  len : Nat
  type_ : Nat
  node : Nat
  payload : List Byte
deriving DecidableEq, Repr

/-- Codewords decoded in order: data and corrections, none where one cannot be corrected. -/
def bodyDecode (twoT : Nat) : List (List Byte) → Option (List Byte × Nat)
  | [] => some ([], 0)
  | w :: r =>
    match rsDecode twoT w, bodyDecode twoT r with
    | some a, some b => some (a.1 ++ b.1, a.2 + b.2)
    | _, _ => none

/-- The receiver's decoding of the coded bytes that follow a sync word (R440). -/
def burstDecode (k twoT depth : Nat) (coded : List Byte) : BurstIn :=
  match rsDecode 8 (padTo 12 coded) with
  | none => { result := 1, corr := 0, len := 0, type_ := 0, node := 0, payload := [] }
  | some (h, n0) =>
    let w := le h 0 2
    let len := w % 2048
    let x : BurstIn := { result := 1, corr := n0, len := len, type_ := w / 2048, node := le h 2 1, payload := [] }
    if len = 0 ∨ 1536 < len then x
    else
      let c := codewords k len
      match bodyDecode twoT (deinterleave (depth + 1) (k + twoT) c c (coded.drop 12)) with
      | none => { x with result := 2 }
      | some (b, n1) =>
        let p := b.take len
        let good := decide (le b len 4 = (crc32 (h ++ p)).toNat)
        { x with result := if good then 0 else 3, corr := n0 + n1, payload := p }

/-- Symbols of a burst (R434). -/
def burstSymbols (pre b k twoT len : Nat) : Nat := pre + 32 + 96 / b + 8 * codewords k len * (k + twoT) / b + 4

end Sys2Proof.Machine
end

