-- ==== Sys2Proof/Machine/Power.lean ====
section
/-! DEFINITION. The power manager (spec/20): the VCORE loop and its PMBus commands (R539-R542), the micro-sequencer's interpreter
(R536-R538), the power registers (R560). -/

namespace Sys2Proof.Machine

/-! ## The VCORE loop (R540-R542) -/

/-- Setpoint of a row in mV (R540). -/
def rowMv (r : Nat) : Nat := 620 + 40 * r

/-- LIVE × cap(r) × 10^-3 s × LOAD_CAP covers offered × (1 + HEAD/16); `offered` in 1/96 packets (R540). -/
def rowCovers (s : State) (offered r : Nat) : Bool :=
  decide (offered * (16 + s.pwr.head.toNat) ≤ (liveEngines s).length * rowCap r * loadPct s * 1536)

/-- The lowest row at or above FLOOR that covers the offered work; 6 where none does (R540). -/
def needRow (s : State) (offered : Nat) : Nat :=
  ((List.range 7).find? fun r => decide (s.pwr.floor.toNat ≤ r) && rowCovers s offered r).getD 6

/-- PMB_FAIL: the fourth failure of a transaction (R539). -/
def pmbFail (s : State) (code : Nat) : State := cFault s 4 0xA3 (s.pwr.vaddr.toNat + 256 * code)

/-- VOUT_MODE is read before the first command: one that is not linear records PMB_MODE and the loop holds (R539). -/
def pmbMode (s : State) (mode : BitVec 8) : State :=
  if s.pwr.modeOk then s
  else if mode.toNat / 32 = 0 then { s with pwr := { s.pwr with modeOk := true } }
  else cFault { s with pwr := { s.pwr with pmbHold := true } } 4 0xA4 mode.toNat

/-- The new setpoint row in force: on a fall the capacity takes it at once, on a rise once it is confirmed; event 669 (R541, R561). -/
def vcoreRow (s : State) (new : Nat) : State :=
  let old := s.pwr.row.toNat
  let now_ := decide (new ≤ s.pwr.conf.toNat)
  let s : State := { s with
    pwr := { s.pwr with
      row := BitVec.ofNat 3 new
      commanded := true
      down := 0
      conf := if now_ then BitVec.ofNat 3 new else s.pwr.conf
      riseAt := if now_ then none else some s.gr.count
      falling := decide (new < old) } }
  if new = old then s else raise s 669 (if old < new then 1 else 2) new

/-- The setpoint is written to the regulator at once (R541). -/
def vcoreCommand (s : State) (ok : Bool) (mode : BitVec 8) (new : Nat) : State :=
  let s := pmbMode s mode
  if s.pwr.pmbHold then s
  else
    let s := if ok then emit s (.pmbus s.pwr.vaddr.toNat 0x21 2 (rowMv new)) else pmbFail s 0x21
    vcoreRow s new

/-- The loop's step at the last grain of a window, with the margin of that window (R540); the first one after boot writes the
setpoint whatever its row (log entry 86). -/
def vcoreStep (s : State) (ok : Bool) (mode : BitVec 8) (margin : Int) : State :=
  let offered := s.pwr.offered
  let s : State := { s with pwr := { s.pwr with offered := 0, offeredLast := offered } }
  if s.pwr.state ≠ 1 ∨ s.pwr.pmbHold then s
  else
    let cur := s.pwr.row.toNat
    let need := needRow s offered
    let need := if margin < (s.pwr.marginMin.toNat : Int) then min 6 (max need (cur + 1)) else need
    if cur < need then vcoreCommand s ok mode need
    else if need < cur then
      (if s.pwr.dnWin.toNat ≤ s.pwr.down + 1 then vcoreCommand s ok mode (cur - 1)
       else { s with pwr := { s.pwr with down := s.pwr.down + 1 } })
    else if s.pwr.commanded then { s with pwr := { s.pwr with down := 0 } }
    else vcoreCommand s ok mode cur

/-- At an engine fence the loop recomputes need with the offered count of the last window and raises at once (R542). -/
def vcoreFence (s : State) : State :=
  let need := needRow s s.pwr.offeredLast
  if s.pwr.state = 1 ∧ !s.pwr.pmbHold ∧ s.pwr.row.toNat < need then vcoreCommand s true 0 need else s

/-- READ_VOUT is polled: a rise is confirmed within 10 mV; a reading 20 mV below FLOOR is VCORE_LOW (R541, R542). -/
def voutPoll (mv : BitVec 16) (ok : Bool) (s : State) : State :=
  if s.pwr.state ≠ 1 then s
  else if !ok then pmbFail s 0x8B
  else
    let low := decide (mv.toNat + 20 < rowMv s.pwr.floor.toNat) && !s.pwr.falling
    let sure := s.pwr.riseAt.isSome && decide (rowMv s.pwr.row.toNat ≤ mv.toNat + 10)
    let s : State := { s with
      pwr := { s.pwr with
        readMv := mv
        falling := false
        conf := if sure then s.pwr.row else s.pwr.conf
        riseAt := if sure then none else s.pwr.riseAt } }
    if low then kFault s 4 0xA6 none mv.toNat else s

def execVoutPoll (mv : BitVec 16) (ok : Bool) (s : State) : Host.Outcome State Fault Refusal := ev true (voutPoll mv ok s)

/-- A rise not confirmed within 1 ms: capacity stays at the confirmed row and the loop tries again (R541). -/
def vcoreSlow (s : State) : State :=
  match s.pwr.riseAt with
  | some g =>
    if 1000000 ≤ since s g then
      let r := s.pwr.row.toNat
      let s : State := { s with pwr := { s.pwr with riseAt := none, row := s.pwr.conf, down := 0 } }
      raise (cFault s 4 0xA5 r) 669 3 r
    else s
  | none => s

def execVcoreSlow (s : State) : Host.Outcome State Fault Refusal := ev true (vcoreSlow s)

/-- PMB_ALERT_N asserts (R539). -/
def execPmbAlert (s : State) : Host.Outcome State Fault Refusal := ev true (raise s 672 3 0)

/-! ## The micro-sequencer (R537, R538) -/

/-- A field of a sequencer word. -/
def sqf (w : BitVec 64) (lo len : Nat) : Nat := w.toNat / 2 ^ lo % 2 ^ len

/-- PWR_EN after SET_EN. -/
def setEn (en : BitVec 8) (w : BitVec 64) : BitVec 8 :=
  let m : BitVec 8 := BitVec.ofNat 8 (sqf w 8 8)
  (en &&& ~~~m) ||| (BitVec.ofNat 8 (sqf w 0 8) &&& m)

/-- PWR_GOOD agrees with a word's MASK and VALUE. -/
def goodIs (w : BitVec 64) (good : Nat) : Bool := decide (good &&& sqf w 8 8 = sqf w 0 8)

/-- A run of the program: PWR_EN, the PMBus writes, newest first, and how it ended. `io` is what its waits, skips and checks see
in turn: PWR_GOOD[7:0] at the end of a WAIT_GOOD and at a SKIP_IF_GOOD, the value read of a PMB_CHECK. The end is none where the
program runs on without end, some none at END, some (some a) where it fails at word a. -/
def seqRun (store : List (BitVec 64)) : Nat → Nat → List Nat → BitVec 8 → List Nat → List Output →
    BitVec 8 × List Output × Option (Option Nat)
  | 0, _, _, en, _, out => (en, out, none)
  | k + 1, pc, stack, en, io, out =>
    match store[pc]? with
    | none => (en, out, some (some pc))
    | some w =>
      let op := sqf w 59 5
      let see := io.headD 0
      if op = 0 then (en, out, some none)
      else if op = 1 then seqRun store k (pc + 1) stack (setEn en w) io out
      else if op = 2 then
        (if goodIs w see then seqRun store k (pc + 1) stack en io.tail out else (en, out, some (some pc)))
      else if op = 3 then seqRun store k (pc + 1) stack en io out
      else if op = 4 then
        seqRun store k (pc + 1) stack en io (.pmbus (sqf w 48 7) (sqf w 40 8) (sqf w 32 2) (sqf w 0 16) :: out)
      else if op = 5 then
        (if see &&& sqf w 16 16 = sqf w 0 16 then seqRun store k (pc + 1) stack en io.tail out else (en, out, some (some pc)))
      else if op = 6 then seqRun store k (sqf w 0 10) stack en io out
      else if op = 7 then
        (if stack.length < 8 then seqRun store k (sqf w 0 10) ((pc + 1) :: stack) en io out else (en, out, some (some pc)))
      else if op = 8 then
        (match stack with
         | a :: r => seqRun store k a r en io out
         | [] => (en, out, some (some pc)))
      else if op = 9 then seqRun store k (if goodIs w see then pc + 2 else pc + 1) stack en io.tail out
      else (en, out, some (some pc))

/-- An entry (0 SHED, 1 STBY, 2 WAKE, 3 TRIM) runs; a failure waits for SEQ_FAIL (R537, R538). -/
def seqEntry (s : State) (entry : Nat) (io : List Nat) : State :=
  let r := seqRun s.pwr.store 65536 entry [] s.pwr.en io []
  let s : State := { s with
    pwr := { s.pwr with en := r.1, good := s.pwr.good &&& r.1, seqFail := match r.2.2 with | some (some a) => some (entry, a) | _ => none }
    out := r.2.1 ++ s.out }
  s

/-- Every rail is lowered (R535). -/
def railsDown (s : State) : State := { s with pwr := { s.pwr with en := 0, good := 0, upSeq := false } }

/-- The ROM sequence begins with rail 0 (R535). -/
def railsUp (s : State) : State :=
  { s with pwr := { s.pwr with en := s.pwr.en ||| 1, railNext := 0, upSeq := true, railFail := false } }

/-- A failed entry: the fault, event 672 CODE 2, and the ROM sequence of the same purpose completes the work; a failure of TRIM
clears SEQ_OK (R538). -/
def seqFail (s : State) : State :=
  match s.pwr.seqFail with
  | some (e, a) =>
    let d := e + 65536 * a
    let s : State := { s with pwr := { s.pwr with seqFail := none } }
    let s := if e = 2 then xFault s 4 0xA2 d else cFault s 4 0xA2 d
    let s := raise s 672 2 d
    if e = 2 then railsUp s
    else if e = 3 then { s with pwr := { s.pwr with seqOk := false } }
    else railsDown s
  | none => s

def execSeqFail (s : State) : Host.Outcome State Fault Refusal := ev true (seqFail s)

/-- What is wrong with a sequencer image, as DATA of event 672 CODE 1 (R536, R683); none where it is accepted. -/
def seqImageBad (s : State) (b : List Byte) : Option Nat :=
  let n := le b 6 2
  let pub := slice b 32 32
  let head := decide (le b 0 4 = 0x51534344) && decide (le b 4 2 = 1) && inRange n 1 1024 && zeros b 8 24 &&
    decide (b.length = 128 + 8 * n)
  if s.fuse.bootHash = 0 then some 1
  else if !head then some 2
  else if leNat (sha256 pub) ≠ s.fuse.bootHash.toNat then some 3
  else if !sigHolds 4 pub (b.take (64 + 8 * n)) (slice b (64 + 8 * n) 64) then some 4
  else none

/-- The firmware checks the image and loads the store; TRIM runs once; without an accepted image the ROM sequences act (R536,
R538, R566). An empty image is none at all: nothing is refused. -/
def sequencerLoad (image : List Byte) (io : List Nat) (s : State) : State :=
  if s.dev.phase ≠ 5 ∨ !s.dev.fwOk ∨ ccFenced s ∨ s.pwr.seqOk then s
  else if image.isEmpty then s
  else
    match seqImageBad s image with
    | some d => raise s 672 1 d
    | none =>
      let words := (List.range (le image 6 2)).map fun k => (BitVec.ofNat 64 (le image (64 + 8 * k) 8) : BitVec 64)
      seqEntry { s with pwr := { s.pwr with store := words, seqOk := true } } 3 io

def execSequencerLoad (image : List Byte) (io : List Nat) (s : State) : Host.Outcome State Fault Refusal :=
  ev true (sequencerLoad image io s)

/-! ## Rails (R535) -/

/-- D0's clock moves on while D1 does not run (log entry 85). -/
def aonAdd (s : State) (n : Nat) : State := { s with pwr := { s.pwr with aon := s.pwr.aon + BitVec.ofNat 64 n } }

/-- One grain of PWR_AON: a tick of 32.768 kHz is 1953125/64 ns (R544). -/
def aonGrain (s : State) : State :=
  let r := s.pwr.aonRes + 64
  if 1953125 ≤ r then { s with pwr := { s.pwr with aonRes := r - 1953125, aon := s.pwr.aon + 1 } }
  else { s with pwr := { s.pwr with aonRes := r } }

/-- A rail is not good within 10 ms: the sequence stops, every enable is lowered, RAIL_TIMEOUT (R535). -/
def railTimeout (rail : Nat) (s : State) : State :=
  if s.pwr.upSeq then
    let s := aonAdd (railsDown s) 328
    xFault { s with pwr := { s.pwr with railFail := true, railNext := rail } } 4 0xA0 rail
  else s

def execRailTimeout (rail : Nat) (s : State) : Host.Outcome State Fault Refusal := ev (decide (rail < 8)) (railTimeout rail s)

/-- The sequence is retried after 32,768 ticks (R535). -/
def railRetry (s : State) : State := if s.pwr.railFail then railsUp (aonAdd s 32768) else s

def execRailRetry (s : State) : Host.Outcome State Fault Refusal := ev true (railRetry s)

/-! ## Registers (R560) -/

/-- PWR registers as read, offset from 0x0780_0000. -/
def pwrRead (s : State) (off : Nat) : Option W32 :=
  let p := s.pwr
  if off = 0x00 then
    some (w32 (p.state.toNat + 4 * b1 p.seqOk + 2 ^ 8 * p.row.toNat + 2 ^ 16 * p.conf.toNat + 2 ^ 24 * p.good.toNat))
  else if off = 0x04 then
    some (w32 (p.floor.toNat + 2 ^ 4 * p.head.toNat + 2 ^ 8 * p.marginMin.toNat + 2 ^ 24 * p.dnWin.toNat))
  else if off = 0x08 then some (w32 p.readMv.toNat)
  else if off = 0x0C then some (w32 p.vaddr.toNat)
  else if off = 0x10 then some (w32 (p.pfFilt.toNat + 2 ^ 8 * b1 p.enPfail + 2 ^ 9 * b1 p.enMon))
  else if off = 0x14 then some (w32 (b1 p.wakeEn + 2 * b1 p.alarmEn))
  else if off = 0x18 then some (w32 p.aon.toNat)
  else if off = 0x1C then some p.aonHi
  else if off = 0x20 then some (w32 p.wakeAt.toNat)
  else if off = 0x24 then some (w32 (p.wakeAt.toNat / 2 ^ 32))
  else none

/-- A normal read of PWR_AON LO latches HI. -/
def pwrTake (s : State) (off : Nat) : State :=
  if off = 0x18 then { s with pwr := { s.pwr with aonHi := w32 (s.pwr.aon.toNat / 2 ^ 32) } } else s

/-- A write of a PWR register at the grain that sees it; FLOOR 7 and DN_WIN 0 keep the field (R8, R17); a new VADDR ends a hold
of PMB_MODE (log entry 88). -/
def pwrApply (s : State) (off : Nat) (v : W32) : State :=
  let p := s.pwr
  if off = 0x04 then
    { s with pwr := { p with
        floor := if fld v 0 3 = 7 then p.floor else BitVec.ofNat 3 (fld v 0 3)
        head := BitVec.ofNat 4 (fld v 4 4)
        marginMin := BitVec.ofNat 16 (fld v 8 16)
        dnWin := if fld v 24 8 = 0 then p.dnWin else BitVec.ofNat 8 (fld v 24 8) } }
  else if off = 0x0C then
    { s with pwr := { p with vaddr := BitVec.ofNat 7 (fld v 0 7), pmbHold := false, modeOk := false } }
  else if off = 0x10 then
    { s with pwr := { p with pfFilt := BitVec.ofNat 8 (fld v 0 8), enPfail := bit v 8, enMon := bit v 9 } }
  else if off = 0x14 then { s with pwr := { p with wakeEn := bit v 0, alarmEn := bit v 1 } }
  else if off = 0x20 then { s with pwr := { p with wakeAt := BitVec.ofNat 64 (p.wakeAt.toNat / 2 ^ 32 * 2 ^ 32 + v.toNat) } }
  else if off = 0x24 then
    { s with pwr := { p with wakeAt := BitVec.ofNat 64 (p.wakeAt.toNat % 2 ^ 32 + v.toNat * 2 ^ 32) } }
  else s

end Sys2Proof.Machine
end

