-- ==== Sys2Proof/Machine/Latency.lean ====
section
/-! DEFINITION. The latency monitor and the engine watchdog (spec/05 R124, R125, R131, R132, R134, R141). -/

namespace Sys2Proof.Machine

/-- Interior latency bound in ns, by confirmed setpoint row and LOAD_CAP (R124). -/
def latBound (row cap : Nat) : Nat :=
  ([[760, 1300, 2600], [640, 1100, 2200], [560, 960, 1900], [490, 850, 1700], [440, 780, 1550], [410, 720, 1430],
    [380, 680, 1350]].getD row []).getD cap 0

/-- The worst interior latency of the window and the lowest engine it occurred on (R125). -/
def windowWorst (s : State) : Nat × Nat :=
  (List.range 64).foldl (fun b e => if b.1 < (engAt s e).curWorst then ((engAt s e).curWorst, e) else b) (0, 0)

/-- The window in progress has reached its last grain (R125). -/
def windowDue (s : State) : Bool := decide (s.core.win * 1000000 + 999999 ≤ (now s).toNat)

/-- Each engine's worst latency and packet count of the window, latched where `keep`; the window's own counts restart. -/
def latchEngines (s : State) (keep : Bool) : State :=
  (List.range 64).foldl (fun s e =>
    let x := engAt s e
    let y : Eng := if keep then
        { x with worst := BitVec.ofNat 16 (min 65535 x.curWorst), pkts := BitVec.ofNat 16 (min 65535 x.curPkts) } else x
    setEng s e { y with curWorst := 0, curPkts := 0 }) s

/-- The last grain of a window (R125): the latches, MARGIN, LAT_EXCEED, then the power loop's step (R540), a LOAD_CAP written
(R132). The window current at reset latches and raises nothing (R141). -/
def latencyWindowEnd (pmbOk : Bool) (mode : BitVec 8) (s : State) : State :=
  if !windowDue s || s.dev.inReset then s
  else
    let w := windowWorst s
    let worst := min 65535 w.1
    let bound := latBound s.pwr.conf.toNat s.core.loadCap.toNat
    let margin : Int := (bound : Int) - (worst : Int)
    let full := decide (0 < s.core.win)
    let s := latchEngines s full
    let s : State := if full then
        { s with core := { s.core with worst := BitVec.ofNat 16 worst, eng := BitVec.ofNat 6 w.2, bound := BitVec.ofNat 16 bound,
                                       margin := BitVec.ofInt 16 margin } }
      else s
    let s := if full ∧ bound < w.1 then raise s 656 0 (worst + 2 ^ 16 * w.2) else s
    let s := vcoreStep s pmbOk mode margin
    { s with
      core := { s.core with
        once := []
        win := (now s).toNat / 1000000 + 1
        loadCap := s.core.pLoadCap.getD s.core.loadCap
        pLoadCap := none } }

def execLatencyWindowEnd (pmbOk : Bool) (mode : BitVec 8) (s : State) : Host.Outcome State Fault Refusal :=
  ev true (latencyWindowEnd pmbOk mode s)

/-- The engine waits for an answer another block owes it (R131). -/
def engWaits (s : State) (e : Nat) : Bool :=
  (engAt s e).held.any fun id => match pktAt s id with | some p => p.ctx.wait.isSome | none => false

/-- The commands an engine acts on: one that waits behind an earlier command on its object is not held by the engine's work yet
(R131, R205, log entry 160). -/
def engActive (s : State) (x : Eng) : List Nat :=
  x.cmds.filter fun k => match cmdAt s k with | some c => !objectHeld s c | none => true

/-- One grain of an engine's watchdog (R131): counted while it holds a packet or a command and neither completed a handshake in
the grain nor waits for an answer. -/
def watchGrain (s : State) (e : Nat) : State :=
  let x := engAt s e
  if engFenced s e then s
  else if x.stepped || (decide (engPkts x = 0) && (engActive s x).isEmpty) then
    (if x.stepped || x.watch ≠ 0 then setEng s e { x with watch := 0, stepped := false } else s)
  else if engWaits s e then s
  else setEng s e { x with watch := satInc x.watch }

/-- The watchdog count of engine `e` reaches 50,000: a class F fault of its source, presented as P1 (R131, R570). -/
def engineWedge (e : Nat) (s : State) : State :=
  let x := engAt s e
  if 50000 ≤ x.watch.toNat ∧ !engFenced s e then
    let at_ := match x.held.head?.bind (pktAt s) with | some p => p.ctx.pc | none => 0
    fFault s (64 + e) 0x20 (engInFlight x + 256 * (min 255 x.cmds.length) + 65536 * at_)
  else s

def execEngineWedge (e : Nat) (s : State) : Host.Outcome State Fault Refusal := ev (decide (e < 64)) (engineWedge e s)

/-! ## Registers (R132-R134) -/

/-- QM_CORE_CTL, QM_CORE_STS, QM_LAT_WORST and QM_LAT_BOUND as read, offset from 0x03F0_0000; ENGINE_CAPACITY is 0, its reset
value, until the core rail is up (R122, R133). -/
def coreRead (s : State) (off : Nat) : Option W32 :=
  if off = 0 then some (w32 (s.core.pLoadCap.getD s.core.loadCap).toNat)
  else if off = 4 then 
    some (w32 ((liveEngines s).length + 2 ^ 8 * (if s.pwr.state = 0 then 0 else min 4095 (capacity s / 10))))
  else if off = 8 then some (w32 (s.core.worst.toNat + 2 ^ 16 * s.core.eng.toNat))
  else if off = 12 then some (w32 (s.core.bound.toNat + 2 ^ 16 * s.core.margin.toNat))
  else none

/-- QM_CORE_CTL written: LOAD_CAP is in force from the next window; 3 is reserved and keeps the field (R17, R132). -/
def coreWrite (s : State) (v : W32) : State :=
  if fld v 0 2 = 3 then s else { s with core := { s.core with pLoadCap := some (BitVec.ofNat 2 (fld v 0 2)) } }

end Sys2Proof.Machine
end

