-- ==== Sys2Proof/Machine/Modem.lean ====
section
/-! DEFINITION. The radio modem channels (spec/16): RADIO_MODE, PA_EN, the burst on air and its end, shaping, the RF control SPI,
RFm_DCLK, the MDM registers. -/

namespace Sys2Proof.Machine

/-! ## Units of time -/

/-- One nanosecond of TB_TIME in 2^-48 ns. -/
def nsU : Nat := 2 ^ 48

/-- One microsecond of TB_TIME in 2^-48 ns. -/
def usU : Nat := 1000 * 2 ^ 48

/-! ## RADIO_MODE in force (R431) -/

def rmWord (s : State) (m k : Nat) : W32 := wd (cur s sRADIO_MODE m) k
def rmEn (s : State) (m : Nat) : Bool := bit (rmWord s m 0) 0
def rmBits (s : State) (m : Nat) : Nat := if bit (rmWord s m 0) 1 then 2 else 1
def rmPre (s : State) (m : Nat) : Nat := fld (rmWord s m 0) 8 8
def rmRamp (s : State) (m : Nat) : Nat := fld (rmWord s m 0) 16 8
def rmLead (s : State) (m : Nat) : Nat := fld (rmWord s m 0) 24 8
def rmRate (s : State) (m : Nat) : Nat := fld (rmWord s m 1) 0 17
def rmK (s : State) (m : Nat) : Nat := fld (rmWord s m 4) 0 8
def rmTwoT (s : State) (m : Nat) : Nat := fld (rmWord s m 4) 8 6
def rmDepth (s : State) (m : Nat) : Nat := fld (rmWord s m 4) 16 4

/-- ACTIVE: EN in force and DCLK_OK (R450). -/
def rActive (s : State) (m : Nat) : Bool := rmEn s m && (radioAt s m).dclkOk

/-- The channel works at all: it is active, not fenced, and the device is neither in reset nor shedding nor holding. -/
def rWorks (s : State) (m : Nat) : Bool :=
  rActive s m && !(radioAt s m).fenced && !s.dev.inReset && s.pwr.shed.isNone && !s.fcu.holding

/-- Duration of `n` symbols in 2^-48 ns, rounded down (R434). -/
def symU (s : State) (m n : Nat) : Nat := n * 1000000000 * nsU / rmRate s m

/-- T of a frame of `len` bytes in 2^-48 ns (R434). -/
def burstT (s : State) (m len : Nat) : Nat :=
  2 * rmRamp s m * usU + symU s m (burstSymbols (rmPre s m) (rmBits s m) (rmK s m) (rmTwoT s m) len)

/-- PA_LEAD + T exceeds 41 ms: the burst is never started (R458). -/
def overLong (s : State) (m len : Nat) : Bool := decide (41000 * usU < rmLead s m * usU + burstT s m len)

/-- Event `k` of channel `m` (R451). -/
def mdmEvent (s : State) (m k code data : Nat) : State := raise s (640 + 4 * m + k) code data

/-! ## PA_EN (R448) -/

/-- PA_EN rises: the receiver is blanked from now on (R439). -/
def paHigh (s : State) (m : Nat) : State :=
  setRadio s m { radioAt s m with pa := true, paAt := s.gr.count, spanBusy := true }

/-- PA_EN falls: the blanking ends 20 us later (R439). -/
def paFall (s : State) (m : Nat) : State :=
  let r := radioAt s m
  if r.pa then setRadio s m { r with pa := false, blankTo := s.gr.count + 20000 } else s

/-- A copy on air leaves the device with its burst. -/
def burstCopyGone (s : State) (m : Nat) : State :=
  match (radioAt s m).burst.bind (·.copy) with
  | some c =>
    let x := queueAt s (96 + m) c.queue
    unref (setQueue s (96 + m) c.queue { x with cells := x.cells - c.cells }) c.pkt
  | none => s

/-- PA_EN is driven low at once and a burst in progress is cut off (R448). -/
def paCut (s : State) (m : Nat) : State :=
  let s := burstCopyGone s m
  paFall (setRadio s m { radioAt s m with burst := none }) m

/-- PA_EN of every channel is driven low (R448, R557). -/
def paCutAll (s : State) : State := (List.range 4).foldl paCut s

/-! ## MDM_SHAPE_SET (R449, R453) -/

/-- Content of a shape buffer; none where R449 gives BAD_PARAM. -/
def shapeOf (dpd : Bool) (b : List Byte) : Option Shape :=
  if dpd then
    let ko := le b 0 1
    let md := le b 1 1
    let coef := wordsLE 28 b 8
    let beyond := (List.range 28).all fun i => decide (i / 4 < ko ∧ i % 4 < md) || decide (wd coef i = 0)
    if b.length = 120 ∧ 1 ≤ ko ∧ ko ≤ 7 ∧ 1 ≤ md ∧ md ≤ 4 ∧ le b 2 1 ≤ 2 ∧ le b 3 1 ≤ 4 ∧ zeros b 6 2 ∧ beyond then
      some { dpd := true, taps := [], mask := [], ko := ko, md := md, adapt := le b 2 1, mu := le b 3 1,
             nmseMax := BitVec.ofNat 16 (le b 4 2), coef := coef }
    else none
  else
    let taps : List (BitVec 16) := (List.range 64).map fun i => BitVec.ofNat 16 (le b (4 * i) 2)
    let mask : List (BitVec 24 × BitVec 16) := (List.range 16).map fun i =>
      (BitVec.ofNat 24 (le b (256 + 8 * i) 3), BitVec.ofNat 16 (le b (260 + 8 * i) 2))
    let rising := (List.range 15).all fun i => decide (le b (256 + 8 * i) 3 < le b (264 + 8 * i) 3)
    let res := (List.range 64).all (fun i => zeros b (4 * i + 2) 2) &&
      (List.range 16).all fun i => zeros b (259 + 8 * i) 1 && zeros b (262 + 8 * i) 2
    if b.length = 384 ∧ rising ∧ res then
      some { dpd := false, taps := taps, mask := mask, ko := 0, md := 0, adapt := 0, mu := 0, nmseMax := 0, coef := [] }
    else none

/-- The new shaping is installed and the command completes, which ends a hold but a fence's (R447, R449, R453). -/
def shapeInstall (s : State) (m id : Nat) (h : Shape) : State :=
  let r := radioAt s m
  let free := decide (r.holdCause ≠ 3)
  complete (setRadio s m { r with
    shape := h
    shapeCmd := none
    newCoef := none
    preNmse := none
    prevCoef := []
    overN := 0
    captures := 0
    fitDue := false
    held := r.held && !free
    holdCause := if free then 0 else r.holdCause }) id stDONE []

/-- A command whose shaping waited is installed once no burst is on air (R449). -/
def shapeDue (s : State) (m : Nat) : State :=
  let r := radioAt s m
  match r.shapeCmd with
  | some (id, h) => if r.burst.isNone ∧ !ccFenced s then shapeInstall s m id h else s
  | none => s

/-- MDM_SHAPE_SET (R449): installed at once, or at the end of the burst on air; a second one waits for the first. -/
def mdmShapeSet (id : Nat) (buf : List Byte) (ok : Bool) (s : State) : State :=
  runCmd s id 0x63 fun s c =>
    let m := parBits c 8 0 2
    if (radioAt s m).shapeCmd.isSome then s
    else if !ok then complete s id stBUFFER_FAULT []
    else
      match shapeOf (decide (parBits c 9 0 1 = 1)) (padTo (bufLen c) buf) with
      | none => complete s id stBAD_PARAM []
      | some h => shapeDue (setRadio (running s id) m { radioAt s m with shapeCmd := some (id, h) }) m

def execMdmShapeSet (id : Nat) (buf : List Byte) (ok : Bool) (s : State) : Host.Outcome State Fault Refusal :=
  ev true (mdmShapeSet id buf ok s)

/-! ## PA_LIMIT -/

/-- PA_EN has stayed high for 41 ms: low, PA_LIMIT, and the channel is to be fenced (R448, R451). -/
def paLimit (m : Nat) (s : State) : State :=
  let r := radioAt s m
  if r.pa ∧ 41000000 ≤ since s r.paAt then fFault (mdmEvent (shapeDue (paCut s m) m) m 1 3 0) (224 + m) 0x71 0 else s

def execPaLimit (ch : Nat) (s : State) : Host.Outcome State Fault Refusal := ev (decide (ch < 4)) (paLimit ch s)

/-! ## A burst begins (R433, R445, R471) -/

/-- Coefficients fitted take effect at the burst start (R445). -/
def applyCoef (r : Radio) : Radio :=
  match r.newCoef with
  | some c =>
    { r with shape := { r.shape with coef := c }, prevCoef := r.shape.coef, newCoef := none, preNmse := some r.nmse,
             updates := satInc r.updates }
  | none => r

/-- A burst of a frame starts: PA_EN rises, the burst goes out and is counted. `start` is the instant its ramp-up begins. -/
def burstGo (s : State) (m start : Nat) (beacon : Bool) (copy : Option Copy) (frame : List Byte) : State :=
  let s := paHigh s m
  let stop := tAdd start (burstT s m frame.length : Nat)
  let wait := ((stop + tMod - s.tb.t % tMod) % tMod + nsU - 1) / nsU
  let hdr := burstHeader frame.length (if beacon then 1 else 0) 0 0
  let coded := burstBytes (rmK s m) (rmTwoT s m) (rmDepth s m) hdr frame
  let pt := match copy with | some c => c.part | none => portOwner s (96 + m)
  let s := setRadio s m { applyCoef (radioAt s m) with
    burst := some { beacon := beacon, frame := frame, start := start, end_ := stop, copy := copy,
                    endAt := s.gr.count + BitVec.ofNat 64 wait }
    lastEnd := none }
  count (count (emit s (.burst m start coded)) (96 + m) 2 1 pt) (96 + m) 4 frame.length pt

/-! ## The end of a burst (R444-R448, R454) -/

/-- Level of the mask at `f` Hz as a fraction: numerator over a positive denominator, in 1/4 dB (R444). -/
def maskAt (mask : List (BitVec 24 × BitVec 16)) (f : Nat) : Int × Nat :=
  match mask with
  | [] => (0, 1)
  | (f0, l0) :: rest =>
    if f ≤ f0.toNat then (l0.toInt, 1)
    else
      match rest with
      | [] => (l0.toInt, 1)
      | (f1, l1) :: _ =>
        if f ≤ f1.toNat then
          (l0.toInt * ((f1.toNat - f0.toNat : Nat) : Int) + (l1.toInt - l0.toInt) * ((f - f0.toNat : Nat) : Int), f1.toNat - f0.toNat)
        else maskAt rest f

/-- By how much a bin exceeds the mask, as a fraction. -/
def maskOver (mask : List (BitVec 24 × BitVec 16)) (b : Nat × Int) : Int × Nat :=
  let l := maskAt mask b.1
  (b.2 * (l.2 : Int) - l.1, l.2)

/-- The bin worst above the mask: its offset; none without a violation (R444). -/
def worstBin (mask : List (BitVec 24 × BitVec 16)) (bins : List (Nat × Int)) : Option Nat :=
  (bins.foldl (fun (w : Option (Nat × Int × Nat)) b =>
    let o := maskOver mask b
    if o.1 ≤ 0 then w
    else
      match w with
      | none => some (b.1, o.1, o.2)
      | some (_, n, d) => if n * (o.2 : Int) < o.1 * (d : Int) then some (b.1, o.1, o.2) else w) none).map (·.1)

/-- The channel becomes HELD with an event; a hold that stands keeps a cause of its own (R444, R446, R454). -/
def holdSet (s : State) (m : Nat) (cause : BitVec 2) (data : Nat) : State :=
  let r := radioAt s m
  if r.held then s else mdmEvent (setRadio s m { r with held := true, holdCause := cause }) m 0 cause.toNat data

/-- The mask check of filter-and-mask mode (R444). -/
def maskCheck (s : State) (m : Nat) (bins : List (Nat × Int)) : State :=
  let r := radioAt s m
  if r.shape.dpd then s
  else
    match worstBin r.shape.mask bins with
    | some f => holdSet (setRadio s m { r with maskViol := satInc r.maskViol }) m 1 f
    | none => s

/-- The burst just sent is one that DPD captures (R445, R446). -/
def captured (s : State) (r : Radio) : Bool :=
  r.shape.dpd && !ccFenced s && (decide (r.shape.adapt = 1) || (decide (r.shape.adapt = 2) && decide (r.captures % 16 = 0)))

/-- The first capture after an update judges it: kept, or reverted where NMSE rose by more than 3 dB (R446). -/
def judgeUpdate (s : State) (m : Nat) (nmse : BitVec 16) : State :=
  let r := radioAt s m
  match r.preNmse with
  | none => s
  | some old =>
    let d := old.toNat + 65536 * nmse.toNat
    if old.toInt + 12 < nmse.toInt then
      mdmEvent (setRadio s m { r with preNmse := none, newCoef := none, shape := { r.shape with coef := r.prevCoef },
                                      reverts := satInc r.reverts }) m 2 2 d
    else mdmEvent (setRadio s m { r with preNmse := none }) m 2 1 d

/-- A capture is measured and judged (R445, R446). -/
def dpdCapture (s : State) (m : Nat) (nmse : BitVec 16) : State :=
  let r0 := radioAt s m
  let s := setRadio s m { r0 with captures := r0.captures + 1 }
  if !captured s (radioAt s m) then s
  else
    let s := judgeUpdate s m nmse
    let r := radioAt s m
    let n := if r.shape.nmseMax.toInt < nmse.toInt then r.overN + 1 else 0
    let s := setRadio s m { r with nmse := nmse, overN := n, fitDue := true }
    if 3 ≤ n then holdSet s m 2 nmse.toNat else s

/-- Ramp-down ends (R444-R448): PA_EN falls, the copy leaves, the checks are judged. -/
def burstEnd (m : Nat) (bins : List (Nat × Int)) (nmse : BitVec 16) (s : State) : State :=
  match (radioAt s m).burst with
  | none => s
  | some b =>
    if reached s b.endAt then
      let s := burstCopyGone s m
      let r := radioAt s m
      let s := setRadio s m { r with burst := none, bursts := satInc r.bursts, lastEnd := some (s.gr.count, b.end_) }
      let s := maskCheck (paFall s m) m bins
      let s := if (radioAt s m).shape.dpd then dpdCapture s m nmse else s
      shapeDue s m
    else s

def execBurstEnd (ch : Nat) (bins : List (Nat × Int)) (nmse : BitVec 16) (s : State) : Host.Outcome State Fault Refusal :=
  ev (decide (ch < 4)) (burstEnd ch bins nmse s)

/-! ## DPD coefficients (R445) -/

/-- One part of a coefficient: a + 2^-MU (a_LS - a), within one least significant bit (log entry 101). -/
def coefPart (mu : Nat) (a ls c : BitVec 16) : Bool :=
  let d := (c.toInt - a.toInt) * 2 ^ mu - (ls.toInt - a.toInt)
  decide (-(2 ^ mu) ≤ d) && decide (d ≤ 2 ^ mu)

/-- The coefficients set follow from the fit by MU; those beyond KO × MD stay 0. -/
def coefOk (h : Shape) (ls c : List W32) : Bool :=
  decide (c.length = 28) && (List.range 28).all fun i =>
    let a := wd h.coef i
    let l := wd ls i
    let x := wd c i
    if i / 4 < h.ko ∧ i % 4 < h.md then
      coefPart h.mu (a.setWidth 16) (l.setWidth 16) (x.setWidth 16) &&
        coefPart h.mu ((a >>> 16).setWidth 16) ((l >>> 16).setWidth 16) ((x >>> 16).setWidth 16)
    else decide (x = 0)

/-- The firmware fits a capture; the new coefficients wait for the next burst start (R445, R446). -/
def dpdUpdate (m : Nat) (ls coef : List W32) (s : State) : State :=
  let r := radioAt s m
  if r.shape.dpd && r.fitDue && !ccFenced s && coefOk r.shape ls coef then
    setRadio s m { r with newCoef := some coef, fitDue := false }
  else s

def execDpdUpdate (ch : Nat) (ls coef : List (BitVec 32)) (s : State) : Host.Outcome State Fault Refusal :=
  ev (decide (ch < 4)) (dpdUpdate ch ls coef s)

/-! ## Holds (R447) -/

/-- The host writes 1 to HELD: the hold ends unless its cause is a fence (R447). -/
def heldClear (s : State) (m : Nat) : State :=
  let r := radioAt s m
  if r.holdCause = 3 then s else setRadio s m { r with held := false, holdCause := 0 }

/-- Address of register `off` of channel `m` (R450). -/
def mdmReg (m off : Nat) : Nat := 0x06000000 + 0x1000 * m + off

def execMdmHeldRelease (m : Master) (ch : Nat) (s : State) : Host.Outcome State Fault Refusal :=
  ev (m.wf && decide (ch < 4)) (regWr s m (mdmReg ch 0x08) fun s => heldClear s ch)

/-! ## RFm_DCLK (R455) -/

/-- RFm_DCLK is lost: PA_EN low, the burst on air and those being received go (R455). -/
def dclkLoss (m : Nat) (s : State) : State :=
  if (radioAt s m).dclkOk then
    let s := paCut s m
    let r := radioAt s m
    shapeDue (mdmEvent (setRadio s m { r with dclkOk := false, tracked := r.tracked.filter (·.decoded) }) m 1 1 0) m
  else s

def execDclkLoss (ch : Nat) (s : State) : Host.Outcome State Fault Refusal := ev (decide (ch < 4)) (dclkLoss ch s)

/-- 1 ms of good clock (R455). -/
def dclkReturn (m : Nat) (s : State) : State :=
  if (radioAt s m).dclkOk || s.dev.inReset then s else mdmEvent (setRadio s m { radioAt s m with dclkOk := true }) m 1 2 0

def execDclkReturn (ch : Nat) (s : State) : Host.Outcome State Fault Refusal := ev (decide (ch < 4)) (dclkReturn ch s)

/-! ## The RF control SPI (R430, R450) -/

/-- MDM_SPI_CTL written: BITS outside 8-32 keeps the field (R17); GO starts a transaction unless one runs. -/
def spiGo (s : State) (m : Nat) (v : W32) : State :=
  let r := radioAt s m
  let n := fld v 0 6
  let r : Radio := if inRange n 8 32 then { r with spiBits := BitVec.ofNat 6 n } else r
  let s := setRadio s m r
  if bit v 6 ∧ !r.spiBusy then
    emit (setRadio s m { r with spiBusy := true }) (.spi m r.spiBits.toNat (w32 (r.spiTx.toNat % 2 ^ r.spiBits.toNat)))
  else s

def execRfSpiGo (m : Master) (ch : Nat) (v : BitVec 32) (s : State) : Host.Outcome State Fault Refusal :=
  ev (m.wf && decide (ch < 4)) (regWr s m (mdmReg ch 0x34) fun s => spiGo s ch v)

/-- A transaction ends: the bits shifted in (R430). -/
def rfSpiComplete (m : Nat) (rx : BitVec 32) (s : State) : State :=
  let r := radioAt s m
  if r.spiBusy then setRadio s m { r with spiBusy := false, spiRx := w32 (rx.toNat % 2 ^ r.spiBits.toNat) } else s

def execRfSpiComplete (ch : Nat) (rx : BitVec 32) (s : State) : Host.Outcome State Fault Refusal :=
  ev (decide (ch < 4)) (rfSpiComplete ch rx s)

/-! ## Noise floor (R443) and the MDM registers (R450) -/

/-- NF: the median of the measurements kept, of an even number the mean of the two middle ones rounded down (log entry 102). -/
def nfOf (r : Radio) : Int :=
  let l := (r.nf.map (·.toInt)).mergeSort fun a b => decide (a ≤ b)
  let n := l.length
  if n = 0 then 0
  else if n % 2 = 1 then l.getD (n / 2) 0
  else (l.getD (n / 2 - 1) 0 + l.getD (n / 2) 0).fdiv 2

def nfValid (r : Radio) : Bool := decide (4 ≤ r.nf.length)

/-- MDM registers of a channel as read. -/
def mdmRead (s : State) (m off : Nat) : Option W32 :=
  let r := radioAt s m
  if off = 0x00 then some (w32 (r.syncErr.toNat + 8 * b1 r.estSrc + 2 ^ 16 * r.rxCal.toNat))
  else if off = 0x04 then some (w32 (r.txDly.toNat + 2 ^ 16 * r.rxDly.toNat))
  else if off = 0x08 then
    some (w32 (b1 r.dclkOk + 2 * b1 (rActive s m) + 4 * b1 r.pa + 8 * b1 r.held + 16 * r.holdCause.toNat + 64 * b1 r.shape.dpd))
  else if off = 0x0C then
    some (w32 ((BitVec.ofInt 16 (nfOf r)).toNat + 2 ^ 16 * r.nf.length + 2 ^ 31 * b1 (nfValid r)))
  else if off = 0x10 then some (w32 (r.nmse.toNat + 2 ^ 16 * r.updates.toNat + 2 ^ 24 * r.reverts.toNat))
  else if off = 0x14 then some (w32 (r.sync.toNat + 2 ^ 16 * r.hdrFail.toNat))
  else if off = 0x18 then some (w32 (r.rsFail.toNat + 2 ^ 16 * r.crcFail.toNat))
  else if off = 0x1C then some (w32 (r.bursts.toNat + 2 ^ 16 * r.maskViol.toNat))
  else if 0x20 ≤ off ∧ off < 0x30 ∧ off % 4 = 0 then some (w32 (le (padTo 16 r.lastRep) (off - 0x20) 4))
  else if off = 0x30 then some 0
  else if off = 0x34 then some (w32 (r.spiBits.toNat + 128 * b1 r.spiBusy))
  else if off = 0x38 then some r.spiRx
  else none

/-- What a normal read of an MDM register clears (R9). -/
def mdmTake (s : State) (m off : Nat) : State :=
  let r := radioAt s m
  if off = 0x10 then setRadio s m { r with updates := 0, reverts := 0 }
  else if off = 0x14 then setRadio s m { r with sync := 0, hdrFail := 0 }
  else if off = 0x18 then setRadio s m { r with rsFail := 0, crcFail := 0 }
  else if off = 0x1C then setRadio s m { r with bursts := 0, maskViol := 0 }
  else s

/-- MDM registers of a channel as written; SYNC_ERR 5-7 keeps the field (R17). -/
def mdmWrite (s : State) (m off : Nat) (v : W32) : State :=
  let r := radioAt s m
  if off = 0x00 then
    setRadio s m { r with
      syncErr := if fld v 0 3 ≤ 4 then BitVec.ofNat 3 (fld v 0 3) else r.syncErr
      estSrc := bit v 3
      rxCal := BitVec.ofNat 16 (fld v 16 16) }
  else if off = 0x04 then
    setRadio s m { r with txDly := BitVec.ofNat 16 (fld v 0 16), rxDly := BitVec.ofNat 16 (fld v 16 16) }
  else if off = 0x08 then (if bit v 3 then heldClear s m else s)
  else if off = 0x30 then setRadio s m { r with spiTx := v }
  else if off = 0x34 then spiGo s m v
  else s

end Sys2Proof.Machine
end

