-- ==== Sys2Proof/Machine/HoldUp.lean ====
section
/-! DEFINITION. The hold-up bank, the energy ledger and the persistent records (spec/20 R545-R555, R560; spec/08 R221, R226).
Energies are in 1/2000 µJ, so that every figure of R548 is a whole number. -/

namespace Sys2Proof.Machine

/-! ## The bank (R545, R547) -/

/-- Bank mV of a converter code: full scale 1.2 V at the pin in 4,096 steps, times DIV / 16 (log entry 92). -/
def bankMv (s : State) (code : Nat) : Nat := code * 1200 * s.hup.div.toNat / 65536

/-- C of R547, µF. -/
def ledgerCap (s : State) : Nat := if s.hup.valid then s.hup.cap.toNat else s.hup.capMin.toNat

/-- E_BANK in µJ at a bank voltage in mV (R547): ½ C (V² − V_f²), V_f = (100 V_MIN² + ESR × HOLD_W) / (100 V_MIN) mV. -/
def bankEnergy (s : State) (mv : Nat) : Nat :=
  let vm := s.hup.vMin.toNat
  let n := 100 * vm * vm + s.hup.esr.toNat * s.hup.holdW.toNat
  let d := 100 * vm
  if mv * d ≤ n then 0 else ledgerCap s * (mv * mv * (d * d) - n * n) / (2000000 * (d * d))

/-! ## The ledger (R548-R550) -/

/-- PRM time of a store after a shed, in lines of 0.25 µs: the setup and `n` lines. -/
def ledgerEnergy (s : State) (n : Nat) : Nat := s.hup.pHold * (8 + n) * 5

/-- Lines of a store with its zeroing lines (R548). -/
def storeLines (x : Store) : Nat := x.lines.length + 256 * x.scrub.length

/-- Lines written so far: 4 a µs after a setup of 2 µs (R553). -/
def storeDone (s : State) (x : Store) : Nat :=
  match x.startAt with
  | some g => min (storeLines x) ((since s g - 2000) / 250)
  | none => 0

/-- Σ E_rem (R548). -/
def heldStores (s : State) : Nat := (s.prm.stores.map fun x => ledgerEnergy s (storeLines x - storeDone s x)).sum

/-- The last-gasp reserve (R548). -/
def reserve (s : State) : Nat := 10000 * s.hup.pShed + 800 * s.hup.pHold

/-- E_TEST of a running test. -/
def heldTest (s : State) : Nat := if s.hup.test.isSome then s.hup.eTest else 0

/-- What the ledger holds. -/
def held (s : State) : Nat := heldStores s + reserve s + heldTest s

/-- The bank covers a further energy (R549). -/
def covers (s : State) (e : Nat) : Bool := decide (e + held s ≤ 2000 * s.hup.eBank)

/-- At the first grain at which the bank does not cover the ledger, LOW is set and event 670 CODE 3 raised; refusals end when the
bank covers it with 1,000 µJ more (R550, log entry 93). -/
def ledgerJudge (s : State) : State :=
  if s.hup.low then
    (if held s + 2000000 ≤ 2000 * s.hup.eBank then { s with hup := { s.hup with low := false } } else s)
  else if 2000 * s.hup.eBank < heldStores s + reserve s then
    raise { s with hup := { s.hup with low := true } } 670 3 s.hup.cap.toNat
  else s

/-- A sample: V, E_BANK, and the register values that the ledger takes from it (R547, R550). With V_MIN 0 the spec states no V_f:
E_BANK is a free value. -/
def hupSample (code : BitVec 12) (s : State) : State :=
  let mv := bankMv s code.toNat
  let e := if s.hup.vMin = 0 then (freeVal s).toNat % 2 ^ 32 else bankEnergy s mv
  let s := if s.hup.vMin = 0 then freeNext s else s
  let s : State := { s with
    hup := { s.hup with
      v := BitVec.ofNat 16 (min 65535 mv)
      eBank := e
      pHold := s.hup.holdW.toNat
      pShed := s.hup.shedW.toNat } }
  ledgerJudge s

def execHupSample (code : BitVec 12) (s : State) : Host.Outcome State Fault Refusal := ev true (hupSample code s)

/-! ## Tests (R545, R546) -/

/-- E_TEST = V × I_TEST × 2,000 µs. -/
def testEnergy (s : State) : Nat := s.hup.v.toNat * s.hup.iTest.toNat * 4

/-- HUP_TEST rises. -/
def testStart (s : State) (cmd : Option Nat) : State :=
  { s with hup := { s.hup with test := some cmd, eTest := testEnergy s, testAt := s.gr.count } }

/-- A periodic test falls due every PERIOD s of grains; without the energy it is skipped and counted; one due while a test runs
is dropped (log entry 94). -/
def hupTestStart (s : State) : State :=
  if s.hup.period = 0 ∨ s.pwr.shed.isSome ∨ since s s.hup.dueAt < s.hup.period.toNat * 1000000000 then s
  else
    let e := testEnergy s
    let s : State := { s with hup := { s.hup with dueAt := s.gr.count } }
    if s.hup.test.isSome then s
    else if covers s e then testStart s none
    else { s with hup := { s.hup with skipped := satInc s.hup.skipped } }

def execHupTestStart (s : State) : Host.Outcome State Fault Refusal := ev true (hupTestStart s)

/-- HUP_MEASURE (R226, R546): HUP_BUSY without the energy; it waits while a test runs. -/
def hupMeasure (s : State) (c : Cmd) : State :=
  if s.hup.test.isSome then s
  else if covers s (testEnergy s) then running (testStart s (some c.id)) c.id
  else complete s c.id stHUP_BUSY []

def execHupMeasure (id : Nat) (s : State) : Host.Outcome State Fault Refusal := ev true (runCmd s id 0x70 hupMeasure)

/-- C in µF from the sums of the codes of V1 and V2, rounded down (R545). -/
def testCap (s : State) (v1 v2 : Nat) : Nat :=
  s.hup.iTest.toNat * 1976 * 8 * 65536 / ((v1 - v2) * 1200 * s.hup.div.toNat)

/-- ESR in µΩ from the sums of the codes, rounded up (R545). -/
def testEsr (s : State) (v0 v1 v2 : Nat) : Int :=
  let n : Int := 1200000000 * (s.hup.div.toNat : Int) * (494 * ((v0 : Int) - 8 * (v1 : Int)) - 41 * ((v1 : Int) - (v2 : Int)))
  let d : Int := 65536 * 31616 * (s.hup.iTest.toNat : Int)
  Int.neg ((Int.neg n).fdiv d)

/-- The test is discarded (R545). -/
def testBad (s : State) (v0 v1 v2 : Nat) : Bool :=
  decide (s.hup.iTest = 0) || decide (s.hup.div = 0) || decide (v1 ≤ v2) ||
    decide (v0 * 2400 * s.hup.div.toNat < 3 * s.hup.vMin.toNat * 64 * 65536) || decide (2 ^ 24 ≤ testCap s v1 v2) ||
    decide (testEsr s v0 v1 v2 < 0) || decide ((2 : Int) ^ 32 ≤ testEsr s v0 v1 v2)

/-- The command of a test completes with its results (R225); of a discarded test CAP and ESR are not stated: free values. -/
def testComplete (s : State) (cmd : Option Nat) (bad : Bool) : State :=
  match cmd with
  | none => s
  | some id =>
    if bad then complete (freeNext s) id stDONE (leBytes 8 (freeVal s).toNat ++ leBytes 8 s.gr.count.toNat)
    else complete s id stDONE (leBytes 4 s.hup.cap.toNat ++ leBytes 4 s.hup.esr.toNat ++ leBytes 8 s.gr.count.toNat)

/-- The 2 ms test ends (R545, R546, R561). -/
def hupTestEnd (v0 v1 v2 : Nat) (s : State) : State :=
  match s.hup.test with
  | none => s
  | some cmd =>
    if since s s.hup.testAt < 2000000 then s
    else
      let bad := testBad s v0 v1 v2
      let s : State := { s with hup := { s.hup with test := none } }
      if bad then testComplete { s with hup := { s.hup with skipped := satInc s.hup.skipped } } cmd true
      else
        let s : State := { s with
          hup := { s.hup with
            cap := BitVec.ofNat 24 (testCap s v1 v2)
            esr := BitVec.ofNat 32 (testEsr s v0 v1 v2).toNat
            valid := true } }
        let s := raise s 670 1 s.hup.cap.toNat
        let s := if s.hup.cap.toNat < s.hup.capMin.toNat then raise s 670 2 s.hup.cap.toNat else s
        testComplete s cmd false

def execHupTestEnd (v0 v1 v2 : Nat) (s : State) : Host.Outcome State Fault Refusal := ev true (hupTestEnd v0 v1 v2 s)

/-! ## PRM lines (R551, R554, R555) -/

/-- A device line; an unlisted one reads 64 zeros. -/
def zeroLine : List Byte := List.replicate 64 0
def lineAt (s : State) (l : Nat) : List Byte := tget (fun _ => zeroLine) s.prm.lines l

/-- Unit of a device line; none in the system area. -/
def unitOf (l : Nat) : Option Nat := if 4096 ≤ l ∧ l < 262144 then some ((l - 4096) / 256) else none

/-- WEAR_PM: the most-worn unit's per-mille of 2.5 × 10^11 line writes (R555). -/
def wearPm (s : State) : Nat := (s.prm.wear.foldl (fun m e => max m e.2) 0) / 250000000

/-- One line written: its check is good, its unit wears, event 671 CODE 1 is raised at 800 per mille (R554, R555). -/
def lineWrite (s : State) (l : Nat) (b : List Byte) : State :=
  let s : State := { s with
    prm := { s.prm with
      lines := tset (fun _ => zeroLine) s.prm.lines l (padTo 64 b)
      badLines := s.prm.badLines.filter fun k => decide (k ≠ l) } }
  match unitOf l with
  | none => s
  | some u =>
    let s : State := { s with prm := { s.prm with wear := tmod (fun _ => 0) s.prm.wear u (· + 1) } }
    if 800 ≤ wearPm s ∧ !s.prm.wearEv then raise { s with prm := { s.prm with wearEv := true } } 671 1 u else s

/-- Lines written from a first one on. -/
def linesWrite (s : State) (l : Nat) : List (List Byte) → State
  | [] => s
  | b :: r => linesWrite (lineWrite s l b) (l + 1) r

/-- A SCRUB unit is zeroed. -/
def unitZero (s : State) (u : Nat) : State :=
  if s.prm.scrub.contains u then
    let s := linesWrite s (4096 + 256 * u) (List.replicate 256 zeroLine)
    { s with prm := { s.prm with
        scrub := s.prm.scrub.filter fun k => decide (k ≠ u)
        scrubAt := tset (fun _ => 0) s.prm.scrubAt u 0 } }
  else s

/-- Region of a partition: first device line and lines (R551). -/
def regionOf (s : State) (n : Nat) : Nat × Nat :=
  let r := tget (fun _ => ((0, 0) : Nat × Nat)) s.prm.regions n
  (4096 + 256 * r.1, 256 * r.2)

/-! ## Stores (R221, R548, R549, R553, R565) -/

/-- PRM_STORE: the buffer is read, and the request becomes a P0 input (R39, R221). -/
def prmStore (data : List Byte) (ok : Bool) (s : State) (c : Cmd) : State :=
  if !ok then complete s c.id stBUFFER_FAULT []
  else
    let d := padTo (bufLen c) data
    running (see { s with prm := { s.prm with wait := s.prm.wait ++ [(c.id, d)] } } 0 (16 + c.pt) (.store c.pt)) c.id

def execPrmStore (id : Nat) (data : List Byte) (ok : Bool) (s : State) : Host.Outcome State Fault Refusal :=
  ev true (runCmd s id 0x34 (prmStore data ok))

/-- Lines of 64 bytes. -/
def linesOf : Nat → List Byte → List (List Byte)
  | 0, _ => []
  | k + 1, l => l.take 64 :: linesOf k (l.drop 64)

/-- The store of a command as it would be admitted now. -/
def storeFor (s : State) (c : Cmd) (data : List Byte) : Store :=
  let first := (regionOf s c.pt).1 + par c 8 4
  let n := par c 12 2
  let units := s.prm.scrub.filter fun u => decide (first < 4096 + 256 * (u + 1)) && decide (4096 + 256 * u < first + n)
  { cmd := some c.id, owner := c.pt, first := first, lines := linesOf n data, scrub := units,
    energy := ledgerEnergy s (n + 256 * units.length), admitAt := s.gr.count,
    startAt := if s.prm.stores.isEmpty then some s.gr.count else none }

/-- Admission (R221, R549, R550, R557): a request later than a shed, or one the ledger does not cover, is refused. -/
def storeAdmit (s : State) (c : Cmd) (data : List Byte) : State :=
  let x := storeFor s c data
  if !rangePrm s c then complete s c.id stBAD_PARAM []
  else if 64 ≤ (s.prm.stores.filter fun y => decide (y.owner = c.pt)).length then complete s c.id stQUEUE_FULL []
  else if s.pwr.shed.isSome || s.hup.low || !covers s x.energy then complete s c.id stENERGY_SHORT []
  else { s with prm := { s.prm with stores := s.prm.stores ++ [x] } }

/-- The owner's first waiting request is decided. -/
def storeDecide (s : State) (n : Nat) : State :=
  let mine := fun (w : Nat × List Byte) => match cmdAt s w.1 with | some c => decide (c.pt = n) | none => false
  match s.prm.wait.find? mine with
  | none => s
  | some w =>
    let s : State := { s with prm := { s.prm with wait := s.prm.wait.filter fun y => decide (y.1 ≠ w.1) } }
    match cmdAt s w.1 with
    | some c => storeAdmit s c w.2
    | none => s

def prmStoreAdmit (s : State) : State :=
  match takeHead s fun d => match d with | .store _ => true | _ => false with
  | some (s, e) => (match e.inp.what with | .store n => storeDecide s n | _ => s)
  | none => s

def execPrmStoreAdmit (s : State) : Host.Outcome State Fault Refusal := ev true (prmStoreAdmit s)

/-- The first store may end: its last line's time has come; while D1 does not run or a shed is running no grain bounds it, but a
shed writes its last-gasp record first (R553, R557). -/
def storeEnds (s : State) (x : Store) : Bool :=
  if s.pwr.shed.isSome then s.pwr.shedDone else !clkOk s 1 || decide (storeDone s x = storeLines x)

/-- ENERGY in whole µJ, rounded up (log entry 95). -/
def energyUj (e : Nat) : Nat := (e + 1999) / 2000

/-- The last line of the first store is durable: its SCRUB units were zeroed first; it completes and the next one begins. -/
def prmStoreComplete (s : State) : State :=
  match s.prm.stores with
  | x :: r =>
    if storeEnds s x then
      let s := x.scrub.foldl unitZero s
      let s := linesWrite s x.first x.lines
      let next := match r with
        | y :: t => { y with startAt := some s.gr.count } :: t
        | [] => []
      completeOpt { s with prm := { s.prm with stores := next } } x.cmd stDONE (leBytes 8 x.admitAt.toNat ++ leBytes 4 (energyUj x.energy))
    else s
  | [] => s

def execPrmStoreComplete (s : State) : Host.Outcome State Fault Refusal := ev true (prmStoreComplete s)

/-! ## Reads (R552-R554) -/

/-- Data of a line as an earlier admitted store leaves it (R205). -/
def lineStored (s : State) (l : Nat) : Option (List Byte) :=
  (s.prm.stores.foldl (fun r x => if x.first ≤ l ∧ l < x.first + x.lines.length then x.lines[l - x.first]? else r) none)

/-- One line read: SCRUB and bad lines give zeros; a bad one is recorded (R552, R554). -/
def lineRead (s : State) (n l : Nat) : State × List Byte :=
  match lineStored s l with
  | some b => (s, b)
  | none =>
    if (match unitOf l with | some u => s.prm.scrub.contains u | none => false) then (s, zeroLine)
    else if s.prm.badLines.contains l then
      let s := kFault s 9 0xB0 (some n) l
      let s := raise { s with prm := { s.prm with uncorr := satInc s.prm.uncorr } } 671 2 l
      (s, zeroLine)
    else (s, lineAt s l)

/-- Consecutive lines read. -/
def linesRead (s : State) (n l : Nat) : Nat → State × List Byte
  | 0 => (s, [])
  | k + 1 =>
    let r := lineRead s n l
    let t := linesRead r.1 n (l + 1) k
    (t.1, r.2 ++ t.2)

/-- PRM_READ (R221, R554); `bad` names lines that fail their check from now on. -/
def prmRead (bad : List Nat) (ok : Bool) (s : State) (c : Cmd) : State :=
  let first := (regionOf s c.pt).1 + par c 8 4
  let n := par c 12 2
  let new := bad.filter fun l => decide (first ≤ l) && decide (l < first + n) && !s.prm.badLines.contains l
  let s : State := { s with prm := { s.prm with badLines := new ++ s.prm.badLines } }
  let r := linesRead s c.pt first n
  bufOut r.1 c ok 0 r.2 stDONE []

def execPrmRead (id : Nat) (bad : List Nat) (ok : Bool) (s : State) : Host.Outcome State Fault Refusal :=
  ev true (runCmd s id 0x35 (prmRead bad ok))

/-! ## SCRUB and regions (R552) -/

/-- One line of a SCRUB unit is zeroed in the background: at most one a µs, while no store is admitted and the bank is not LOW
(log entry 96). -/
def scrubLine (u : Nat) (s : State) : State :=
  let soon := match s.prm.scrubLast with | some g => decide (since s g < 1000) | none => false
  if !s.prm.scrub.contains u || soon || !s.prm.stores.isEmpty || s.hup.low || s.pwr.shed.isSome then s
  else
    let k := tget (fun _ => 0) s.prm.scrubAt u
    let s := lineWrite s (4096 + 256 * u + k) zeroLine
    let last := decide (255 ≤ k)
    { s with prm := { s.prm with
        scrubLast := some s.gr.count
        scrubAt := tset (fun _ => 0) s.prm.scrubAt u (if last then 0 else k + 1)
        scrub := if last then s.prm.scrub.filter fun j => decide (j ≠ u) else s.prm.scrub } }

def execPrmScrubLine (unit : Nat) (s : State) : Host.Outcome State Fault Refusal := ev (decide (unit < 1008)) (scrubLine unit s)

/-- A write of PRM_REGION(n) at the grain that sees it: refused where it overlaps another region, passes the last unit, or the
partition has an admitted store (R17, R552). -/
def regionApply (s : State) (n : Nat) (v : W32) : State :=
  let b := fld v 0 10
  let z := fld v 16 10
  let old := tget (fun _ => ((0, 0) : Nat × Nat)) s.prm.regions n
  let meets := (List.range 16).any fun k =>
    let r := tget (fun _ => ((0, 0) : Nat × Nat)) s.prm.regions k
    decide (k ≠ n) && decide (b < r.1 + r.2) && decide (r.1 < b + z)
  if meets || decide (1008 < b + z) || s.prm.stores.any (fun x => decide (x.owner = n)) then s
  else
    let gained := ((List.range z).map (b + ·)).filter fun u => !(decide (old.1 ≤ u) && decide (u < old.1 + old.2))
    let s : State := { s with
      prm := { s.prm with
        regions := tset (fun _ => ((0, 0) : Nat × Nat)) s.prm.regions n (b, z)
        scrub := s.prm.scrub ++ gained.filter fun u => !s.prm.scrub.contains u } }
    gained.foldl (fun (s : State) u => { s with prm := { s.prm with scrubAt := tset (fun _ => 0) s.prm.scrubAt u 0 } }) s

def execPrmRegionWrite (m : Master) (n : Nat) (v : W32) (s : State) : Host.Outcome State Fault Refusal :=
  ev (m.wf && decide (n < 16)) (regWr s m (0x07820000 + 4 * n) fun s => pendWrite s (0x07820000 + 4 * n) v)

/-! ## The last-gasp record (R559) -/

/-- The slot's 9,728 bytes. -/
def lgSlot (s : State) (k : Nat) : List Byte := (List.range 152).flatMap fun i => lineAt s (152 * k + i)

/-- SEQ of a slot's record where it is valid. -/
def lgValid (s : State) (k : Nat) : Option Nat :=
  let b := lgSlot s k
  if le b 0 4 = 0x5053474C ∧ le b 60 4 = (crc32 (b.take 60 ++ b.drop 64)).toNat then some (le b 4 4) else none

/-- The slot of the newest valid record and its SEQ. -/
def lgNewest (s : State) : Option (Nat × Nat) :=
  match lgValid s 0, lgValid s 1 with
  | some a, some b => if a < b then some (1, b) else some (0, a)
  | some a, none => some (0, a)
  | none, some b => some (1, b)
  | none, none => none

/-- The readable record, offset from 0x0790_0000; 0 where none is valid. -/
def lgRead (s : State) (off : Nat) : Option W32 :=
  if off < 9728 ∧ off % 4 = 0 then
    some (match lgNewest s with | some (k, _) => w32 (le (lgSlot s k) off 4) | none => 0)
  else none

/-! ## Registers (R560) -/

/-- HUP registers as read, offset from 0x0781_0000. -/
def hupRead (s : State) (off : Nat) : Option W32 :=
  let h := s.hup
  if off = 0x00 then some (w32 (h.div.toNat + 2 ^ 16 * h.period.toNat))
  else if off = 0x04 then some (w32 h.iTest.toNat)
  else if off = 0x08 then some (w32 (h.vMin.toNat + 2 ^ 16 * h.vTrip.toNat))
  else if off = 0x0C then some (w32 h.capMin.toNat)
  else if off = 0x10 then some (w32 (h.holdW.toNat + 2 ^ 16 * h.shedW.toNat))
  else if off = 0x14 then some (w32 h.cap.toNat)
  else if off = 0x18 then some h.esr
  else if off = 0x1C then
    some (w32 (h.v.toNat + 2 ^ 16 * b1 h.test.isSome + 2 ^ 17 * b1 h.low + 2 ^ 18 * b1 h.valid + 2 ^ 24 * h.skipped.toNat))
  else if off = 0x20 then some (w32 (min (2 ^ 32 - 1) h.eBank))
  else if off = 0x24 then some (w32 (min (2 ^ 32 - 1) (energyUj (held s))))
  else none

/-- A normal read of HUP_STS clears SKIPPED. -/
def hupTake (s : State) (off : Nat) : State :=
  if off = 0x1C then { s with hup := { s.hup with skipped := 0 } } else s

/-- A write of a HUP register at the grain that sees it. -/
def hupApply (s : State) (off : Nat) (v : W32) : State :=
  let h := s.hup
  if off = 0x00 then { s with hup := { h with div := BitVec.ofNat 12 (fld v 0 12), period := BitVec.ofNat 8 (fld v 16 8) } }
  else if off = 0x04 then { s with hup := { h with iTest := BitVec.ofNat 16 (fld v 0 16) } }
  else if off = 0x08 then
    { s with hup := { h with vMin := BitVec.ofNat 16 (fld v 0 16), vTrip := BitVec.ofNat 16 (fld v 16 16) } }
  else if off = 0x0C then { s with hup := { h with capMin := BitVec.ofNat 24 (fld v 0 24) } }
  else if off = 0x10 then
    { s with hup := { h with holdW := BitVec.ofNat 16 (fld v 0 16), shedW := BitVec.ofNat 16 (fld v 16 16) } }
  else s

/-- PRM registers as read, offset from 0x0782_0000. -/
def prmRegRead (s : State) (off : Nat) : Option W32 :=
  if off < 0x40 ∧ off % 4 = 0 then
    let r := tget (fun _ => ((0, 0) : Nat × Nat)) s.prm.regions (off / 4)
    some (w32 (r.1 + 2 ^ 16 * r.2))
  else if off = 0x40 then some (w32 (s.prm.stores.length + 2 ^ 12 * wearPm s))
  else if off = 0x44 then some (w32 s.prm.uncorr.toNat)
  else if off = 0x48 then some (match lgNewest s with | some (_, q) => w32 (1 + 2 * q) | none => 0)
  else none

/-- A normal read of PRM_ERR clears UNCORR. -/
def prmTake (s : State) (off : Nat) : State :=
  if off = 0x44 then { s with prm := { s.prm with uncorr := 0 } } else s

/-- A write of a PRM register at the grain that sees it. -/
def prmApply (s : State) (off : Nat) (v : W32) : State := if off < 0x40 then regionApply s (off / 4) v else s

end Sys2Proof.Machine
end

