-- ==== Sys2Proof/Machine/Records.lean ====
section
/-! DEFINITION. Fault records and their history (spec/21 R571-R573, R589), the FCU registers (R583) and FCU_HIST_READ (R589). -/

namespace Sys2Proof.Machine

/-! ## Records (R571, R572) -/

/-- The 32 bytes of a record (R571). -/
def frecBytes (r : FRec) : List Byte :=
  leBytes 2 (r.rec_.src % 1024 + 2 ^ 12 * r.rec_.cls.toNat + 2 ^ 14 * b1 r.fence) ++ leBytes 2 r.rec_.cause ++
    leBytes 1 (match r.rec_.pt with | some n => n % 16 + 16 | none => 0) ++ leBytes 1 r.count.toNat ++
    leBytes 2 r.epoch.toNat ++ leBytes 8 r.grain.toNat ++ leBytes 8 r.rec_.data ++ leBytes 4 r.seq.toNat ++
    leBytes 4 r.last.toNat

/-- The history, oldest first. -/
def histBytes (l : List FRec) : List Byte := l.flatMap frecBytes

/-- A fault is counted in its class, merged or not (R583). -/
def fcuCount (s : State) (cls : BitVec 2) : State :=
  let f := s.fcu
  { s with
    fcu :=
      if cls = 0 then { f with cntC := satInc f.cntC }
      else if cls = 1 then { f with cntK := satInc f.cntK }
      else if cls = 2 then { f with cntF := satInc f.cntF }
      else { f with cntX := satInc f.cntX } }

/-- The newest record takes a further occurrence of a class C fault (R572). -/
def merges (x : FRec) (r : Rec) (g : Grain) : Bool :=
  decide (r.cls = 0) && decide (x.rec_.cls = 0) && decide (x.rec_.src = r.src) && decide (x.rec_.cause = r.cause) &&
    decide (r.cause ≠ 0xC0) && decide (((g.setWidth 32 : BitVec 32) - x.last).toNat ≤ 1000000)

/-- The newest record changed. -/
def modLast (f : FRec → FRec) : List FRec → List FRec
  | [] => []
  | [x] => [f x]
  | x :: l => x :: modLast f l

/-- A fault decided at grain `g` is counted and recorded. While D1 is stopped the record has GRAIN all ones, LAST 0 and PWR_AON
in DATA, and merges with none (R571, R572, log entry 127). -/
def fcuRecord (s : State) (r : Rec) (fence : Bool) (g : Grain) : State :=
  let run := clkOk s 1
  let s := fcuCount s r.cls
  let f := s.fcu
  if run && (match f.hist.getLast? with | some x => merges x r g | none => false) then
    { s with
      fcu := { f with hist := modLast (fun x => { x with count := satInc x.count, last := g.setWidth 32 }) f.hist } }
  else
    let data := if run then r.data else r.data % 2 ^ 32 + 2 ^ 32 * (s.pwr.aon.toNat % 2 ^ 32)
    let x : FRec :=
      { rec_ := { r with data := data }, fence := fence, count := 1, epoch := (newest s).num,
        grain := if run then g else BitVec.allOnes 64, seq := f.seq + 1, last := if run then g.setWidth 32 else 0 }
    { s with
      fcu := { f with
        seq := f.seq + 1
        hist := (f.hist ++ [x]).drop (f.hist.length - 31)
        lost := if 32 ≤ f.hist.length then satInc f.lost else f.lost } }

/-- SEQ of the newest class X record. -/
def xSeq (s : State) : Nat :=
  (s.fcu.hist.foldl (fun (r : BitVec 32) (x : FRec) => if x.rec_.cls = 3 then x.seq else r) 0).toNat

/-! ## FCU_HIST_READ (R589) -/

/-- FCU_HIST_READ: the history as it stands at the command's grain (R589). -/
def fcuHistRead (ok : Bool) (s : State) (c : Cmd) : State :=
  bufOut s c ok 0 (histBytes s.fcu.hist) stDONE (leBytes 1 s.fcu.hist.length)

def execFcuHistRead (id : Nat) (ok : Bool) (s : State) : Host.Outcome State Fault Refusal :=
  ev true (runCmd s id 0x03 (fcuHistRead ok))

/-! ## Registers (R583) -/

/-- Bits of the fenced engines. -/
def engBits (s : State) (k : Nat) : Nat := ((List.range 32).map fun i => b1 (engFenced s (32 * k + i)) * 2 ^ i).sum

/-- FCU registers as read, offset from 0x07C0_0000 (R583). -/
def fcuRead (s : State) (off : Nat) : Option W32 :=
  let f := s.fcu
  if off = 0x00 then some (w32 (b1 f.xHold))
  else if off = 0x04 then some (w32 (f.hist.length + 2 ^ 8 * b1 f.holding + 2 ^ 9 * b1 f.priorX))
  else if off = 0x08 then some f.seq
  else if off = 0x0C then some f.lost
  else if off = 0x10 then some f.cntC
  else if off = 0x14 then some f.cntK
  else if off = 0x18 then some f.cntF
  else if off = 0x1C then some f.cntX
  else if off = 0x20 then some (w32 (engBits s 0))
  else if off = 0x24 then some (w32 (engBits s 1))
  else if off = 0x28 then some s.cam.fenced
  else if off = 0x2C then some (w32 s.mt.fencedBanks.toNat)
  else if off = 0x30 then some (w32 s.qm.bufFenced.toNat)
  else if off = 0x34 then some (w32 (s.qm.bufFenced.toNat / 2 ^ 32))
  else if off = 0x38 then
    some (w32 (((List.range 4).map fun m => b1 (radioAt s m).fenced * 2 ^ m).sum + 2 ^ 4 * b1 s.pka.fenced + 2 ^ 5 * b1 (ccFenced s)))
  else if off = 0x40 then some (w32 (liveCells s))
  else if 0x1000 ≤ off ∧ off < 0x1400 ∧ off % 4 = 0 then
    some (match s.fcu.hist[(off - 0x1000) / 32]? with
          | some x => w32 (le (frecBytes x) (off % 32) 4)
          | none => 0)
  else none

/-- A normal read of FCU_LOST or FCU_CNT_x clears it. -/
def fcuTake (s : State) (off : Nat) : State :=
  let f := s.fcu
  { s with
    fcu :=
      if off = 0x0C then { f with lost := 0 }
      else if off = 0x10 then { f with cntC := 0 }
      else if off = 0x14 then { f with cntK := 0 }
      else if off = 0x18 then { f with cntF := 0 }
      else if off = 0x1C then { f with cntX := 0 }
      else f }

end Sys2Proof.Machine
end

