-- ==== Sys2Proof/Machine/Reset.lean ====
section
/-! DEFINITION. Device reset, island start, straps, boot, standby and wake, PERST, junction temperature (spec/24; spec/20 R535,
R543, R544; spec/25 R675; spec/19 R512, R513). -/

namespace Sys2Proof.Machine

/-! ## Device reset (R631-R634) -/

/-- Fault of an input, if it is one. -/
def faultOf : Decision → Option Rec
  | .fault r => some r
  | _ => none

/-- Every input that is stamped and not applied, or seen and not yet stamped. -/
def lateEntries (s : State) : List Entry :=
  s.gr.backlog ++ s.gr.waiting ++ s.gr.seen.map fun i => ⟨s.gr.count, i⟩

/-- A fault takes the fatal action: class X, not from source 4 and not in a shed (R581, R582). -/
def isFatal (s : State) (r : Rec) : Bool := decide (r.cls = 3) && decide (r.src ≠ 4) && s.pwr.shed.isNone

/-- A fatal fault of this grain comes before a reset of this grain (R38, R649). -/
def fatalNow (s : State) : Bool :=
  decide (s.fcu.xDue = some s.gr.count) ||
    (lateEntries s).any fun e => match faultOf e.inp.what with | some r => isFatal s r | none => false

/-- Faults seen before a reset are recorded, their effects being the reset's (R38, R581, R634, log entry 128). -/
def flushFaults (s : State) : State :=
  (lateEntries s).foldl (fun s e => match faultOf e.inp.what with | some r => fcuRecord s r false e.stamp | none => s) s

/-- A device reset (R632): everything returns to its reset value but the FCU history and SEQ, PRIOR_X, PRM, PWR_AON and
PWR_WAKE_AT, the fuses and REASON; pins driven from outside, the rails and the model's own counters stay as they are. Admitted
stores go on without their commands (R553). `standby` keeps the sequencer store too. -/
def deviceReset (s0 : State) (reason : BitVec 3) (standby : Bool) : State :=
  let s := flushFaults s0
  let d := s.dev
  let p := s.pwr
  let store : Store → Store := fun x => { x with cmd := none }
  { State.reset with
    dev := { Dev.reset with
      resetN := d.resetN, reason := reason, perst := d.perst, sBootSrc := d.sBootSrc, sSenior := d.sSenior,
      sCascPos := d.sCascPos, sMgtMode := d.sMgtMode }
    cq := { Cq.reset with nextCmd := s.cq.nextCmd }
    fuse := s.fuse
    pwr := { Pwr.reset with
      aon := p.aon, aonRes := p.aonRes, wakeAt := p.wakeAt, good := p.good, en := p.en, railNext := p.railNext,
      upSeq := p.upSeq, railFail := p.railFail, vaon := p.vaon, pfailN := p.pfailN,
      store := if standby then p.store else [], seqOk := standby && p.seqOk, seqFail := none,
      wakeEn := if standby then p.wakeEn else true, alarmEn := standby && p.alarmEn,
      state := if standby then 3 else 0 }
    prm := { s.prm with stores := s.prm.stores.map store, wait := [], scrubLast := none, uncorr := 0, soe := [] }
    fcu := { Fcu.reset with
      hist := s.fcu.hist, seq := s.fcu.seq, priorX := s.fcu.xDue.isSome || s.fcu.holding || fatalNow s0 }
    dbg := { Dbg.reset with ir := s.dbg.ir, dr := s.dbg.dr, bsr := s.dbg.bsr, acting := s.dbg.acting }
    out := s.out
    freeCtr := s.freeCtr
    pending := s.pending }

/-- The main rails are down: standby, a completed shed, or no VAON; no reset source acts then (R650). -/
def railsOff (s : State) : Bool := decide (s.pwr.state = 3) || s.pwr.off || !s.pwr.vaon

/-- RESET_N low for 100 ns or longer (R633, R634): a device reset, but while a shed runs, which it does not interrupt, or the
rails are down (R650); a fatal fault of the same grain gives REASON 3 (R649). Intrusive TAP instructions act from here (R525). -/
def resetNAssert (s : State) : State :=
  let s : State := { s with dev := { s.dev with resetN := false } }
  if s.pwr.shed.isSome || railsOff s then s
  else
    let t := deviceReset s (if fatalNow s then 3 else 1) false
    { t with dev := { t.dev with intReset := s.dev.intReset } }

def execResetNAssert (s : State) : Host.Outcome State Fault Refusal := ev true (resetNAssert s)

/-- DEV_RESET (R209): a device reset at its arrival grain, with no completion; an internal reset of 10 µs. -/
def devReset (s : State) (_ : Cmd) : State := deviceReset s 2 false

def execDevReset (id : Nat) (s : State) : Host.Outcome State Fault Refusal := ev true (runCmd s id 0x01 devReset)

/-! ## Release (R633, R636, R642) -/

/-- Both resets are released: straps are latched and PHASE 1 begins. The sequencer store is reloaded at each boot, and the board
hash takes effect as it is programmed now (R514, R536, R636, R640). -/
def bootBegin (s : State) (straps : BitVec 6) : State :=
  { s with
    dev := { s.dev with
      inReset := false, phase := 1, bootStart := s.pwr.aon.toNat, sBootSrc := BitVec.ofNat 2 straps.toNat,
      sSenior := straps.getLsbD 2, sCascPos := BitVec.ofNat 2 (straps.toNat / 8), sMgtMode := straps.getLsbD 5 }
    pwr := { s.pwr with store := [], seqOk := false, seqFail := none, wakeEn := true, alarmEn := false }
    fuse := { s.fuse with bootHash := s.fuse.boardHash } }

/-- RESET_N rises. -/
def resetNRelease (straps : BitVec 6) (s : State) : State :=
  if s.dev.resetN then s
  else
    let s : State := { s with dev := { s.dev with resetN := true }, dbg := { s.dbg with acting := false } }
    if s.dev.inReset && !s.dev.intReset && !railsOff s then bootBegin s straps else s

def execResetNRelease (straps : BitVec 6) (s : State) : Host.Outcome State Fault Refusal := ev true (resetNRelease straps s)

/-- The internal reset is released: 10 µs after it began, or 10 ms after the last PWR_GOOD, all rails then being up (R633, R642).
RESET_N still low holds the device (R642, R650, R651). -/
def internalResetRelease (straps : BitVec 6) (s : State) : State :=
  if !s.dev.intReset || railsOff s || s.pwr.railFail || s.pwr.shed.isSome then s
  else
    let s : State := { s with
      dev := { s.dev with intReset := false }
      pwr := { s.pwr with
        en := if s.pwr.upSeq then 0xFF else s.pwr.en
        good := if s.pwr.upSeq then 0xFF else s.pwr.en
        upSeq := false } }
    if s.dev.resetN then bootBegin s straps else s

def execInternalResetRelease (straps : BitVec 6) (s : State) : Host.Outcome State Fault Refusal :=
  ev true (internalResetRelease straps s)

/-! ## Islands (R635) -/

/-- The start condition of an island that the device itself can tell; clocks from outside are told by the event. -/
def islandMay (s : State) (d : Nat) : Bool :=
  let ph := s.dev.phase.toNat
  if d = 1 then decide (2 ≤ ph)
  else if d = 6 ∨ d = 12 ∨ d = 13 then clkOk s 1 && decide (2 ≤ ph)
  else if d = 2 then s.dev.fwRead && clkOk s 1
  else if d = 4 then clkOk s 1 && decide (3 ≤ ph)
  else if d = 3 then s.dev.perst && clkOk s 1 && decide (5 ≤ ph)
  else clkOk s 1 && decide (5 ≤ ph)

/-- An island's condition holds: its CLK_OK bit is set; with D1 the grain count starts at 0 (R35, R635, R640). -/
def islandClockOk (d : Nat) (s : State) : State :=
  if s.dev.inReset || clkOk s d || !islandMay s d then s
  else
    let s : State := { s with dev := { s.dev with clkOk := s.dev.clkOk ||| BitVec.ofNat 14 (2 ^ d) } }
    if d = 1 then { s with gr := { s.gr with count := 0 } } else s

def execIslandClockOk (d : Nat) (s : State) : Host.Outcome State Fault Refusal := ev (decide (d < 14)) (islandClockOk d s)

/-! ## The boot directory and the firmware image (R512, R513, R637, R638) -/

/-- The directory of a copy holds (R637, R638). -/
def dirGood (b : List Byte) : Bool :=
  decide (le b 0 4 = 0x52494443) && decide (le b 4 2 = 1) && decide (64 ≤ b.length) &&
    decide (le b 60 4 = (crc32 (b.take 60)).toNat)

/-- Its reserved bytes are 0. -/
def dirZeros (b : List Byte) : Bool := zeros b 6 2 && zeros b 27 33

/-- The firmware image that a copy names. -/
def fwImage (b : List Byte) : List Byte := slice b (le b 8 4) (le b 12 4)

/-- The header of a firmware image is well formed, and the image has its length (R512). -/
def fwHeader (f : List Byte) : Bool :=
  let n := le f 20 4
  decide (le f 0 4 = 0x57464344) && decide (le f 4 2 = 1) && decide (le f 6 1 < 4) && decide (le f 7 1 < 2) &&
    decide (le f 16 1 < 64) && zeros f 17 3 && decide (n % 8 = 0) && inRange n 1024 524288 &&
    decide (le f 24 4 < 524288) && zeros f 28 36 && zeros f 161 31 && decide (f.length = 288 + n)

/-- The boot ROM accepts an image (R513). -/
def fwGood (s : State) (f : List Byte) : Bool :=
  let n := le f 20 4
  let signer := le f 6 1
  fwHeader f && decide (beNat (sha384 (slice f 64 97)) = (Config.keyHash signer).toNat) && !s.fuse.revoked.toNat.testBit signer &&
    decide (s.fuse.floor.toNat ≤ le f 16 1) && sigHolds 2 (slice f 64 97) (f.take (192 + n)) (slice f (192 + n) 96)

/-- The boot stream as bytes, first word first (R638). -/
def streamBytes (s : State) : List Byte := s.dev.bootStream.reverse.flatMap fun w => leBytes 4 w.toNat

/-- The stream holds everything its directory names. -/
def streamWhole (s : State) : Bool :=
  let b := streamBytes s
  decide (64 ≤ b.length) && decide (max 64 (max (le b 8 4 + le b 12 4) (le b 16 4 + le b 20 4)) ≤ b.length)

/-- The copies in the order in which they are tried, with their COPY codes (R636, R638, R646). -/
def bootCopies (s : State) (nor0 nor1 : List Byte) : List (Nat × List Byte) :=
  if s.dev.sBootSrc = 0 then [(0, nor0), (1, nor1)]
  else if s.dev.sBootSrc = 1 then [(1, nor1), (0, nor0)]
  else if s.dev.sBootSrc = 2 then [(2, streamBytes s)]
  else []

/-- A copy boots. -/
def copyGood (s : State) (b : List Byte) : Bool := dirGood b && dirZeros b && fwGood s (fwImage b)

/-- Bytes of an image in both TCMs. -/
def tcmLoad (s : State) (f : List Byte) : State :=
  let t := tputs (fun _ => 0) [] 0 (slice f 192 (le f 20 4))
  { s with cc := { s.cc with tcm := t, tcm2 := t } }

/-- LOAD: directory and firmware are read; DDR5 is trained from the first copy with a good CHECK (R638, R640). -/
def bootLoad (s : State) (l : List (Nat × List Byte)) : State :=
  match l.find? fun x => dirGood x.2 with
  | some x =>
    let s := tcmLoad s (fwImage x.2)
    { s with dev := { s.dev with phase := 4, fwRead := true, dirOk := decide (le x.2 24 1 ≠ 0) } }
  | none => { s with dev := { s.dev with phase := 4 } }

/-- VERIFY: the first copy that holds boots and its firmware runs; otherwise BOOT_AUTH (R513, R638, R646). -/
def bootVerify (s : State) (l : List (Nat × List Byte)) : State :=
  match l.find? fun x => copyGood s x.2 with
  | some x =>
    let f := fwImage x.2
    let s := tcmLoad s f
    { s with
      dev := { s.dev with phase := 5, fwRead := true, fwOk := true, copy := BitVec.ofNat 2 x.1 }
      cc := { s.cc with
        state := 1
        svn := BitVec.ofNat 6 (le f 16 1)
        signer := BitVec.ofNat 2 (le f 6 1)
        version := BitVec.ofNat 32 (le f 8 4)
        build := BitVec.ofNat 32 (le f 12 4)
        advance := (le f 7 1).testBit 0
        testAt := s.gr.count
        wdCount := 0
        wdForce := s.cc.wdTime } }
  | none => fFault { s with dev := { s.dev with phase := 5 } } 5 0x95 0

/-- A boot phase completes (R640): STORES once no admitted store is left, CLOCKS once D1, D6, D12 and D13 run, LOAD once the
images are read, VERIFY with its verdict; SERVICES ends as BOOT_DONE. -/
def bootPhaseEnd (nor0 nor1 : List Byte) (s : State) : State :=
  let ph := s.dev.phase
  if s.dev.inReset then s
  else if ph = 1 then (if s.prm.stores.isEmpty then { s with dev := { s.dev with phase := 2 } } else s)
  else if ph = 2 then
    (if clkOk s 1 && clkOk s 6 && clkOk s 12 && clkOk s 13 then { s with dev := { s.dev with phase := 3 } } else s)
  else if ph = 3 then
    (if s.dev.sBootSrc = 2 ∧ !streamWhole s then s else bootLoad s (bootCopies s nor0 nor1))
  else if ph = 4 then bootVerify s (bootCopies s nor0 nor1)
  else s

def execBootPhaseEnd (nor0 nor1 : List Byte) (s : State) : Host.Outcome State Fault Refusal := ev true (bootPhaseEnd nor0 nor1 s)

/-- SERVICES ends: BOOT_DONE; commands are fetched, TWN_ALIVE_OUT toggles, the power manager runs; event 674 with GRAIN 0 where
PRIOR_X is 1 (R585, R610, R640, R641, R648). -/
def bootDone (s : State) : State :=
  if s.dev.phase ≠ 5 ∨ s.dev.inReset then s
  else
    let s : State := { s with
      dev := { s.dev with phase := 6, bootDone := true, bootTime := w32 (min (2 ^ 32 - 1) s.gr.count.toNat) }
      twn := { s.twn with aliveRun := true }
      pwr := { s.pwr with state := 1 } }
    if s.fcu.priorX then raiseAt s 674 0 (xSeq s) 0 else s

def execBootDone (s : State) : Host.Outcome State Fault Refusal := ev true (bootDone s)

/-- DEV_BOOT_LOAD: the next word of the boot stream, in PHASE 3 with BOOT_SRC 2; ignored otherwise (R638, R648). -/
def bootLoadWrite (v : W32) (s : State) : State :=
  if s.dev.phase = 3 ∧ s.dev.sBootSrc = 2 then { s with dev := { s.dev with bootStream := v :: s.dev.bootStream } } else s

def execDevBootLoadWrite (m : Master) (v : W32) (s : State) : Host.Outcome State Fault Refusal :=
  ev m.wf (regWr s m 0x1C (bootLoadWrite v))

/-- A stream not complete in time fails: no NOR copy is tried (R638). -/
def bootStreamTimeout (s : State) : State :=
  if s.dev.phase = 3 ∧ s.dev.sBootSrc = 2 ∧ !streamWhole s then
    fFault { s with dev := { s.dev with phase := 5, bootStream := [] } } 5 0x95 0
  else s

def execBootStreamTimeout (s : State) : Host.Outcome State Fault Refusal := ev true (bootStreamTimeout s)

/-- PCI_PERST_N (R652): low takes D3 down and resets the endpoint with its MSI-X state; high lets D3 start. -/
def pciPerst (low : Bool) (s : State) : State :=
  if low then
    { s with
      dev := { s.dev with perst := false, clkOk := s.dev.clkOk &&& ~~~8#14 }
      cq := { s.cq with msix := [], pba := [], msixEn := Cq.reset.msixEn, msixMask := Cq.reset.msixMask } }
  else { s with dev := { s.dev with perst := true } }

def execPciPerst (low : Bool) (s : State) : Host.Outcome State Fault Refusal := ev true (pciPerst low s)

/-! ## Power-on, standby, wake (R535, R543, R544, R642, R651) -/

/-- VAON is applied: D0 starts and the ROM sequence begins with rail 0; the internal reset holds (R535, R642). -/
def powerOn (s : State) : State :=
  let p := s.pwr
  if p.vaon && (p.upSeq || p.railFail || p.off || decide (p.state = 3) || decide (p.en ≠ 0) || !s.dev.inReset) then s
  else railsUp { s with pwr := { p with vaon := true } }

def execPowerOn (s : State) : Host.Outcome State Fault Refusal := ev true (powerOn s)

/-- Admitted stores complete during a reset (R553). -/
def drainStores (s : State) : State :=
  let s := s.prm.stores.foldl (fun s x => linesWrite (x.scrub.foldl unitZero s) x.first x.lines) s
  { s with prm := { s.prm with stores := [] } }

/-- STBY_N low for 32 ticks (R543, R651): a device reset; admitted stores complete; the STBY entry, or the ROM sequence, lowers the
main rails. A shed is not interrupted (R558). -/
def standbyEntry (io : List Nat) (s : State) : State :=
  if s.pwr.shed.isSome || railsOff s then s
  else
    let s := drainStores (deviceReset s s.dev.reason true)
    if s.pwr.seqOk then seqEntry s 1 io else railsDown s

def execStandbyEntry (io : List Nat) (s : State) : Host.Outcome State Fault Refusal := ev true (standbyEntry io s)

/-- A source of a wake acts: WAKE with WAKE_EN, STBY_N high, the alarm with ALARM_EN as they stood at standby entry (R544, log
entry 129). -/
def wakes (s : State) (src : BitVec 2) : Bool :=
  if src = 0 then s.pwr.wakeEn
  else if src = 1 then true
  else if src = 2 then s.pwr.alarmEn && decide (s.pwr.aon.toNat ≤ s.pwr.wakeAt.toNat)
  else false

/-- The device wakes (R544): the WAKE entry, or the ROM sequence, brings up the rails; then it boots as after a device reset. The
alarm comes at PWR_WAKE_AT. -/
def wake (src : BitVec 2) (io : List Nat) (s : State) : State :=
  if s.pwr.state ≠ 3 ∨ !s.pwr.vaon ∨ !wakes s src then s
  else
    let s : State := { s with
      pwr := { s.pwr with state := 0, aon := if src = 2 then s.pwr.wakeAt else s.pwr.aon }
      dev := { s.dev with reason := 5, intReset := true } }
    if s.pwr.seqOk then seqEntry s 2 io else railsUp s

def execWake (src : BitVec 2) (io : List Nat) (s : State) : Host.Outcome State Fault Refusal := ev true (wake src io s)

/-! ## Junction temperature (R675, R676) -/

/-- A sample: HOT sets at ALARM and clears 5 degrees C below it, with event 677. -/
def tjSample (tj : BitVec 12) (s : State) : State :=
  if s.dev.inReset then s
  else
    let s : State := { s with dev := { s.dev with tj := tj } }
    if !s.dev.hot && decide (s.dev.alarmTj.toInt ≤ tj.toInt) then raise { s with dev := { s.dev with hot := true } } 677 1 tj.toNat
    else if s.dev.hot && decide (tj.toInt ≤ s.dev.alarmTj.toInt - 20) then
      raise { s with dev := { s.dev with hot := false } } 677 2 tj.toNat
    else s

def execTjSample (tj : BitVec 12) (s : State) : Host.Outcome State Fault Refusal := ev true (tjSample tj s)

end Sys2Proof.Machine
end

