-- ==== Sys2Proof/Machine/Shed.lean ====
section
/-! DEFINITION. The power-fail shed, the last-gasp record, and the loss of all supplies (spec/20 R556-R559, R563, R564; spec/24
R645). -/

namespace Sys2Proof.Machine

/-! ## The last-gasp record (R559) -/

/-- Fields captured at the shed grain; SEQ, CHECK and the FCU history are filled in when the record is written (R557, R559). -/
def lgCapture (s : State) (cause : Nat) : List Byte :=
  let t := s.tb
  let soe := s.prm.soe.reverse.flatten
  padTo 9728
    (leBytes 4 0x5053474C ++ leBytes 4 0 ++ leBytes 8 cause ++ leBytes 8 s.gr.count.toNat ++ leBytes 6 (tSec t.t) ++
      leBytes 4 (tNs t.t) ++ leBytes 1 (tFrac t.t) ++
      leBytes 1 (b1 t.traceable + 2 * b1 t.holdover + 4 * b1 t.timeValid) ++ leBytes 4 t.errEst.toNat ++
      leBytes 2 (newest s).num.toNat ++ leBytes 2 s.prm.stores.length ++ leBytes 4 s.hup.eBank ++ leBytes 12 0 ++ leBytes 4 0 ++
      List.replicate 1024 0 ++
      leBytes 8 t.f.toNat ++ leBytes 4 ((tbRead s 0x20).getD 0).toNat ++ leBytes 4 ((irigRead s 0).getD 0).toNat ++
      leBytes 4 ((irigRead s 4).getD 0).toNat ++ leBytes 44 0 ++ soe)

/-- Records of the history at or before the shed grain (R586). -/
def lgHist (s : State) (p : Grain) : List Byte :=
  padTo 1024 (histBytes (s.fcu.hist.filter fun x => decide (x.grain = p) || before x.grain p))

/-- The record as it is written: SEQ one above the newest valid record, CHECK over all but its own four bytes. -/
def lgRecord (s : State) (l : List Byte) (p : Grain) : List Byte :=
  let seq := match lgNewest s with | some (_, q) => q + 1 | none => 1
  let head := l.take 4 ++ leBytes 4 seq ++ slice l 8 52
  let tail := lgHist s p ++ l.drop 1088
  head ++ leBytes 4 (crc32 (head ++ tail)).toNat ++ tail

/-! ## The shed (R556-R558, R563) -/

/-- A supply source acts: VAON and the main rails are up, and no shed has run to its end. -/
def supplied (s : State) : Bool := !railsOff s

/-- The shed begins with a captured record. -/
def shedEnter (s : State) (idx : Nat) (lg : List Byte) : State :=
  { s with
    pwr := { s.pwr with shed := some (idx, s.gr.count), shedDone := false, state := 2, lg := some lg }
    hup := { s.hup with test := none }
    twn := { s.twn with aliveRun := false } }

/-- A supply source of index `idx` at the current grain: transmitters squelch, PA_EN and TIME_VALID fall, the test ends, the
record is captured, TWN_ALIVE_OUT stops. A second source changes nothing, but of the same grain the lower index is CAUSE (R39,
R557, R563). -/
def shedStart (s : State) (idx : Nat) : State :=
  match s.pwr.shed with
  | some (c, p) =>
    if p = s.gr.count ∧ idx < c then
      { s with
        pwr := { s.pwr with
          shed := some (idx, p), lg := s.pwr.lg.map fun l => l.take 8 ++ leBytes 1 idx ++ l.drop 9 } }
    else s
  | none =>
    if !supplied s then s
    else validUpdate (shedEnter (paCutAll (squelchAll s)) idx (lgCapture s idx))

/-- PFAIL_N low for PF_FILT µs, with EN_PFAIL set (R556). -/
def pfailNAssert (s : State) : State :=
  let s : State := { s with pwr := { s.pwr with pfailN := false } }
  if s.pwr.enPfail then shedStart s 0 else s

def execPfailNAssert (s : State) : Host.Outcome State Fault Refusal := ev true (pfailNAssert s)

/-- HUP_SENSE falls below V_TRIP, with EN_MON set (R556): the sample before was at or above it (log entry 130). -/
def monitorTrip (code : BitVec 12) (s : State) : State :=
  let was := decide (s.hup.vTrip.toNat ≤ s.hup.v.toNat)
  let s := hupSample code s
  if was && decide (s.hup.v.toNat < s.hup.vTrip.toNat) && s.pwr.enMon then shedStart s 1 else s

def execMonitorTrip (code : BitVec 12) (s : State) : Host.Outcome State Fault Refusal := ev true (monitorTrip code s)

/-- PWR_GOOD[n] falls while PWR_EN[n] is high: a shed and RAIL_LOST (R556). -/
def pwrGoodLoss (rail : Nat) (s : State) : State :=
  if s.pwr.en.toNat.testBit rail ∧ s.pwr.good.toNat.testBit rail ∧ supplied s then
    let s : State := { s with pwr := { s.pwr with good := s.pwr.good &&& ~~~BitVec.ofNat 8 (2 ^ rail) } }
    xFault (shedStart s (3 + rail)) 4 0xA1 rail
  else s

def execPwrGoodLoss (rail : Nat) (s : State) : Host.Outcome State Fault Refusal := ev (decide (rail < 8)) (pwrGoodLoss rail s)

/-- The slot that does not hold the newest valid record (R557). -/
def lgFree (s : State) : Nat := match lgNewest s with | some (k, _) => 1 - k | none => 0

/-- The record goes into the free slot (R557, R559). -/
def lastGaspWrite (s : State) : State :=
  match s.pwr.shed, s.pwr.lg with
  | some (_, p), some l =>
    if s.pwr.shedDone then s
    else
      let t := linesWrite s (152 * lgFree s) (linesOf 152 (lgRecord s l p))
      { t with pwr := { t.pwr with shedDone := true, lg := none } }
  | _, _ => s

def execLastGaspWrite (s : State) : Host.Outcome State Fault Refusal := ev true (lastGaspWrite s)

/-- The last admitted store is durable: the SHED entry, or the ROM sequence, lowers the rails; the islands stop (R557, R558). -/
def shedComplete (io : List Nat) (s : State) : State :=
  if s.pwr.shed.isNone ∨ !s.pwr.shedDone ∨ !s.prm.stores.isEmpty ∨ s.pwr.off then s
  else
    let s : State := { s with
      pwr := { s.pwr with off := true }
      dev := { s.dev with clkOk := 1, inReset := true, intReset := true, phase := 0 } }
    if s.pwr.seqOk then seqEntry s 0 io else railsDown s

def execShedComplete (io : List Nat) (s : State) : Host.Outcome State Fault Refusal := ev true (shedComplete io s)

/-- The input has been good for 100 ms, PFAIL_N high and HUP_SENSE above V_TRIP: the device powers up as at power-on (R558). -/
def inputRestored (s : State) : State :=
  if !s.pwr.off ∨ !s.pwr.vaon then s
  else
    let s := deviceReset { s with pwr := { s.pwr with pfailN := true } } 6 false
    railsUp s

def execInputRestored (s : State) : Host.Outcome State Fault Refusal := ev true (inputRestored s)

/-! ## All supplies vanish (R572, R631, R645) -/

/-- Lines of the stores under way that are durable: those written before the supplies vanished. -/
def storeCut (s : State) : State :=
  match s.prm.stores with
  | x :: _ =>
    let n := storeDone s x
    let units := n / 256
    let s := (x.scrub.take units).foldl unitZero s
    linesWrite s x.first (x.lines.take (n - 256 * x.scrub.length))
  | [] => s

/-- VAON goes with every other supply: only PRM and the fuses hold (R514, R555, R572, R631). -/
def supplyLoss (s : State) : State :=
  let s := storeCut s
  { State.reset with
    dev := { Dev.reset with perst := s.dev.perst, resetN := s.dev.resetN }
    cq := { Cq.reset with nextCmd := s.cq.nextCmd }
    fuse := s.fuse
    pwr := { Pwr.reset with vaon := false, pfailN := s.pwr.pfailN }
    prm := { s.prm with stores := [], wait := [], scrubLast := none, uncorr := 0, soe := [] }
    out := s.out
    freeCtr := s.freeCtr
    pending := s.pending }

def execSupplyLoss (s : State) : Host.Outcome State Fault Refusal := ev true (supplyLoss s)

end Sys2Proof.Machine
end

