-- ==== Sys2Proof/Machine/Tdma.lean ====
section
/-! DEFINITION. Chains, spans and hems (spec/17): schedules, the node table, span roles, burst placement, received bursts, beacons,
frames that become packets, the TDM registers. -/

namespace Sys2Proof.Machine

/-! ## Position in the schedule (R459) -/

def chainU (x : TdmSched) : Nat := x.chain * 1000 * usU
def spanU (x : TdmSched) : Nat := x.span * usU
def hemU (x : TdmSched) : Nat := x.hem * usU

/-- No quiet tail follows the spans. -/
def noTail (x : TdmSched) : Bool := decide (x.spans * x.span = x.chain * 1000)

/-- Chain, start of the chain and span that hold an instant; the span is none in the quiet tail. None before START. -/
def posAt (x : TdmSched) (t : Nat) : Option (Nat × Nat × Option Nat) :=
  let s0 := x.start * secUnits
  if t < s0 ∨ chainU x = 0 then none
  else
    let k := (t - s0) / chainU x
    let i := (t - s0) % chainU x / spanU x
    some (k, s0 + k * chainU x, if i < x.spans then some i else none)

/-- The schedule in force, once a chain of it is in progress. -/
def schedOn (r : Radio) : Option TdmSched := if r.chainOn then r.sched else none

/-- TDM event of a channel: CODE and DATA (R473). -/
def tdmEvent (s : State) (m code data : Nat) : State := mdmEvent s m 3 code data

/-! ## The node table (R460) -/

def nodeGet (t : Tab (Option NodeEnt)) (j : Nat) : Option NodeEnt := tget (fun _ => none) t j
def nodeSet (t : Tab (Option NodeEnt)) (j : Nat) (e : Option NodeEnt) : Tab (Option NodeEnt) := tset (fun _ => none) t j e
def nodeOf (r : Radio) (j : Nat) : Option NodeEnt := nodeGet r.nodes j

/-- Nodes present with their entries, lowest number first. -/
def nodeList (t : Tab (Option NodeEnt)) : List (Nat × NodeEnt) := t.filterMap fun e => e.2.map fun x => (e.1, x)

/-- The spans FIRST to FIRST + COUNT - 1. -/
def spanMask (first n : Nat) : BitVec 256 := BitVec.ofNat 256 ((2 ^ n - 1) * 2 ^ first)

/-- Lowest span of a mask, 0 of an empty one. -/
def maskFirst (x : BitVec 256) : Nat := ((List.range 256).find? fun i => x.getLsbD i).getD 0

/-- Spans of a mask. -/
def maskCount (x : BitVec 256) : Nat := ((List.range 256).filter fun i => x.getLsbD i).length

/-- A change of the table takes effect: an addition takes its spans from their holders. The second part lists the nodes that lost
spans. -/
def nodeApply (t : Tab (Option NodeEnt)) (c : Nat × Option NodeEnt) : Tab (Option NodeEnt) × List Nat :=
  match c.2 with
  | none => (nodeSet t c.1 none, [])
  | some e =>
    let hit := fun (x : Nat × NodeEnt) => decide (x.1 ≠ c.1) && decide (x.2.mask &&& e.mask ≠ 0)
    let lost := (nodeList t).filter hit
    (nodeSet (lost.foldl (fun t x => nodeSet t x.1 (some { x.2 with mask := x.2.mask &&& ~~~e.mask })) t) c.1 (some e), lost.map (·.1))

/-- The table as it will stand after the changes that wait. -/
def nodesNext (r : Radio) : Tab (Option NodeEnt) := r.nodePend.foldl (fun t c => (nodeApply t c).1) r.nodes

/-- RADIO_NODE_ADD (R225, R226, R460). -/
def radioNodeAdd (id : Nat) (s : State) : State :=
  runCmd s id 0x61 fun s c =>
    let m := parBits c 8 0 2
    let j := par c 9 1
    let r := radioAt s m
    let t := nodesNext r
    let sync : BitVec 32 := BitVec.ofNat 32 (par c 16 4)
    let n := if par c 12 1 = 0 then 256 else par c 12 1
    let there := (nodeGet t j).isSome
    if !there ∧ 250 ≤ (nodeList t).length then complete s id stNODE_FULL []
    else if (nodeList t).any fun x => decide (x.1 ≠ j) && decide (x.2.sync = sync) then complete s id stSYNC_IN_USE []
    else
      let e : NodeEnt := { state := 1, count := 0, mask := spanMask (par c 10 2) n, sync := sync, offset := 0 }
      complete (setRadio s m { r with nodePend := r.nodePend ++ [(j, some e)] }) id (if there then stNOTE else stDONE) []

def execRadioNodeAdd (id : Nat) (s : State) : Host.Outcome State Fault Refusal := ev true (radioNodeAdd id s)

/-- RADIO_NODE_DEL (R226, R460). -/
def radioNodeDel (id : Nat) (s : State) : State :=
  runCmd s id 0x62 fun s c =>
    let m := parBits c 8 0 2
    let j := par c 9 1
    let r := radioAt s m
    if (nodeGet (nodesNext r) j).isSome then
      complete (setRadio s m { r with nodePend := r.nodePend ++ [(j, none)] }) id stDONE []
    else complete s id stNOTE []

def execRadioNodeDel (id : Nat) (s : State) : Host.Outcome State Fault Refusal := ev true (radioNodeDel id s)

/-! ## Schedules (R459, R474) -/

/-- TDM_CHAIN_SET (R225, R226): the schedule waits for START; one that waited already is replaced. -/
def tdmChainSet (id : Nat) (s : State) : State :=
  runCmd s id 0x60 fun s c =>
    let m := parBits c 8 0 2
    let x : TdmSched := { spans := par c 10 2, chain := par c 12 4, span := par c 16 4, hem := par c 20 4, start := par c 24 8 }
    if x.chain * 1000 < x.spans * x.span ∨ x.span ≤ 2 * x.hem ∨ x.start * secUnits ≤ s.tb.t then complete s id stSCHED []
    else complete (setRadio s m { radioAt s m with nextSched := some x }) id stDONE []

def execTdmChainSet (id : Nat) (s : State) : Host.Outcome State Fault Refusal := ev true (tdmChainSet id s)

/-- Every node loses the spans at or beyond SPANS, with TDM CODE 7 (R474). -/
def cutSpans (s : State) (m spans : Nat) : State :=
  let keep : BitVec 256 := spanMask 0 spans
  (nodeList (radioAt s m).nodes).foldl (fun s x =>
    if x.2.mask &&& ~~~keep = 0 then s
    else
      let r := radioAt s m
      tdmEvent (setRadio s m { r with nodes := nodeSet r.nodes x.1 (some { x.2 with mask := x.2.mask &&& keep }) }) m 7 x.1) s

/-- A new schedule takes effect at START: the chain in progress ends (R459, R474). -/
def scheduleStart (m : Nat) (s : State) : State :=
  let r := radioAt s m
  match r.nextSched with
  | some x =>
    if x.start * secUnits ≤ s.tb.t ∧ !s.dev.inReset then
      cutSpans (setRadio s m { r with sched := some x, nextSched := none, chainOn := false, inTail := false }) m x.spans
    else s
  | none => s

def execScheduleStart (ch : Nat) (s : State) : Host.Outcome State Fault Refusal := ev (decide (ch < 4)) (scheduleStart ch s)

/-! ## Chains and spans (R459-R461) -/

/-- Role of span `i` (R461): the node that holds it, 255 where none does. -/
def holderOf (t : Tab (Option NodeEnt)) (i : Nat) : BitVec 8 :=
  match (nodeList t).find? fun x => x.2.mask.getLsbD i with
  | some x => BitVec.ofNat 8 x.1
  | none => 255

/-- Roles of the spans of a chain: the lowest-numbered free span is the beacon span (R461). -/
def rolesOf (t : Tab (Option NodeEnt)) (spans : Nat) : List (BitVec 8) :=
  let l := (List.range spans).map (holderOf t)
  match l.findIdx? (· == 255) with
  | some i => l.set i 0
  | none => l

/-- The node table changes that waited take effect, oldest first (R460, R467). -/
def applyNodes (s : State) (m : Nat) : State :=
  let l := (radioAt s m).nodePend
  let s := setRadio s m { radioAt s m with nodePend := [] }
  l.foldl (fun s c =>
    let r := radioAt s m
    let a := nodeApply r.nodes c
    let gone := c.2.isNone
    let r : Radio := { r with
      nodes := a.1
      release := if gone then r.release ++ [c.1] else r.release
      advance := if gone then r.advance.filter (fun x => decide (x.1 ≠ c.1)) else r.advance }
    a.2.foldl (fun s j => tdmEvent s m 7 j) (setRadio s m r)) s

/-- Nodes that answered return to ACTIVE (R468). -/
def applyActive (r : Radio) : Radio :=
  { r with
    toActive := []
    nodes := r.toActive.foldl (fun t j =>
      match nodeGet t j with | some e => nodeSet t j (some { e with state := 1 }) | none => t) r.nodes }

/-- Chain `k` of a schedule begins, at its span `sp` or in its tail (R459-R461, R468, R479). -/
def chainBegin (m : Nat) (s : State) (x : TdmSched) (k : Nat) (sp : Option Nat) : State :=
  let s := applyNodes (setRadio s m (applyActive (radioAt s m))) m
  let s := cutSpans s m x.spans
  let r := radioAt s m
  let roles := rolesOf r.nodes x.spans
  let b := roles.findIdx? (· == 0)
  let s := setRadio s m { r with
    chainOn := true
    chain := k
    roles := roles
    noBeacon := b.isNone
    beaconSpan := BitVec.ofNat 8 (b.getD 0)
    released := (nodeList r.nodes).filterMap fun e => if e.2.state = 2 then some e.1 else none
    nodeRx := rmEn s m
    spanIdx := sp.getD r.spanIdx
    inTail := sp.isNone
    spanBusy := r.pa }
  if b.isNone then tdmEvent s m 6 (k % 2 ^ 32) else s

/-- A chain starts where TB_TIME has reached one that is not in progress. -/
def chainStart (m : Nat) (s : State) : State :=
  let r := radioAt s m
  match r.sched.bind fun x => (posAt x s.tb.t).map fun p => (x, p) with
  | some (x, k, _, sp) => if (r.chainOn && decide (r.chain = k)) || s.dev.inReset then s else chainBegin m s x k sp
  | none => s

def execChainStart (ch : Nat) (s : State) : Host.Outcome State Fault Refusal := ev (decide (ch < 4)) (chainStart ch s)

/-- The channel takes its place in the chain: the chain, its start and the span, or the quiet tail (R459, R461, R475). -/
def spanTake (m : Nat) (s : State) : Option (Nat × Nat × Option Nat) → State
  | none => setRadio s m { radioAt s m with chainOn := false }
  | some (k, _, sp) =>
    let r := radioAt s m
    if k ≠ r.chain ∨ (decide (sp.isNone) = r.inTail ∧ sp.getD r.spanIdx = r.spanIdx) then s
    else setRadio s m { r with spanIdx := sp.getD r.spanIdx, inTail := sp.isNone, spanBusy := r.pa }

/-- A span, or the quiet tail, starts; where TB_TIME has been set back before START no chain is in progress. -/
def spanStart (m : Nat) (s : State) : State :=
  match schedOn (radioAt s m) with
  | none => s
  | some x => spanTake m s (posAt x s.tb.t)

def execSpanStart (ch : Nat) (s : State) : Host.Outcome State Fault Refusal := ev (decide (ch < 4)) (spanStart ch s)

/-! ## Windows (R461, R462) -/

/-- Maximal runs of equal roles: role, first span, end span. -/
def runsFrom : Nat → List (BitVec 8) → List (BitVec 8 × Nat × Nat)
  | _, [] => []
  | i, a :: l =>
    match runsFrom (i + 1) l with
    | (b, f, e) :: r => if a = b then (a, i, e) :: r else (a, i, i + 1) :: (b, f, e) :: r
    | [] => [(a, i, i + 1)]

/-- Windows of the chain in progress. -/
def windowsOf (r : Radio) : List (BitVec 8 × Nat × Nat) := runsFrom 0 r.roles

/-- Longest time a burst has in a downlink window of the chain (R462). -/
def longestDown (x : TdmSched) (r : Radio) : Nat :=
  (windowsOf r).foldl (fun m w => if w.1 = 255 then max m ((w.2.2 - w.2.1) * spanU x - 2 * hemU x) else m) 0

/-- Where a burst may begin now (R462): the window and the instant of its ramp-up. The first burst of a window ramps up at
w0 + HEM, PA_LEAD after this grain; a later one where the burst before it ended in this grain (log entry 100). -/
def burstSlot (s : State) (m : Nat) : Option ((BitVec 8 × Nat × Nat) × Nat × Nat) :=
  let r := radioAt s m
  match schedOn r with
  | none => none
  | some x =>
    let at_ := fun (t : Nat) (f : (BitVec 8 × Nat × Nat) → Nat → Bool) =>
      match posAt x t with
      | some (k, c0, some i) =>
        if k = r.chain then
          ((windowsOf r).find? fun w => decide (w.2.1 ≤ i) && decide (i < w.2.2) && f w c0).map fun w => (w, c0, t)
        else none
      | _ => none
    let first :=
      let t := s.tb.t + rmLead s m * usU
      (at_ t fun w c0 =>
        let a := c0 + w.2.1 * spanU x + hemU x
        decide (a ≤ t) && decide (t < a + 2 * nsU) && (decide (w.1 = 255) || decide (w.1 = 0))).map fun y =>
          (y.1, y.2.1, y.2.1 + y.1.2.1 * spanU x + hemU x)
    match r.lastEnd with
    | some (g, e) =>
      if g = s.gr.count ∧ s.tb.t < e + 2 * nsU ∧ e < s.tb.t + 2 * nsU then at_ e fun w _ => decide (w.1 = 255) else first
    | none => first

/-! ## Beacons (R467) -/

/-- Nearest integer of a quotient of 2^-48 ns by a unit, halves up (log entry 103). -/
def roundBy (u : Nat) (d : Int) : Int := (d + (u / 2 : Nat)).fdiv u

/-- A value held within a signed width. -/
def satSigned (w : Nat) (v : Int) : Int := max (-(2 ^ (w - 1) : Nat)) (min v ((2 ^ (w - 1) : Nat) - 1))

/-- Entries that wait for a beacon, in order: those left over, then REACQ, ADVANCE by size of OFFSET, RELEASE (R467). -/
def beaconEntries (r : Radio) : List (Nat × Nat × Int) :=
  let still := fun (e : Nat × Nat × Int) =>
    match nodeOf r e.1 with
    | some x => e.2.1 = 2 || (decide (e.2.1 = 1) && decide (x.state = 2)) || (decide (e.2.1 = 0) && decide (x.state ≠ 2))
    | none => decide (e.2.1 = 2)
  let left := r.left.filter fun e => still e
  let have_ := fun (j cmd : Nat) => left.any fun e => decide (e.1 = j) && decide (e.2.1 = cmd)
  let re := ((nodeList r.nodes).filter fun e => decide (e.2.state = 2) && !have_ e.1 1).map fun e => (e.1, 1, (0 : Int))
  let adv := ((r.advance.filter fun e => !have_ e.1 0).mergeSort fun a b => decide (b.2.natAbs ≤ a.2.natAbs)).map fun e =>
    (e.1, 0, e.2)
  let rel := (r.release.filter fun j => !have_ j 2).map fun j => (j, 2, (0 : Int))
  left ++ re ++ adv ++ rel

/-- Bytes of an entry. -/
def entryBytes (e : Nat × Nat × Int) : List Byte :=
  let adv := if e.2.1 = 0 then satSigned 16 (roundBy 1000 e.2.2) else 0
  [BitVec.ofNat 8 e.1, BitVec.ofNat 8 e.2.1] ++ leBytes 2 (adv % 65536).toNat

/-- The beacon's payload (R467). -/
def beaconPayload (c0 span : Nat) (l : List (Nat × Nat × Int)) : List Byte :=
  leBytes 6 (tSec c0) ++ leBytes 4 (tNs c0) ++ [BitVec.ofNat 8 span, BitVec.ofNat 8 l.length] ++ l.flatMap entryBytes

/-- The firmware works: the cluster is neither fenced nor halted. -/
def fwRuns (s : State) : Bool := !ccFenced s && !s.dbg.halted

/-- The beacon goes out with as many entries as its window holds (R467); the rest are left over. -/
def beaconGo (s : State) (m : Nat) (x : TdmSched) (w : BitVec 8 × Nat × Nat) (c0 start : Nat) : State :=
  let r := radioAt s m
  let l := beaconEntries r
  let stop := c0 + w.2.2 * spanU x - hemU x
  let fits := fun (n : Nat) => decide (start + burstT s m (12 + 4 * n) ≤ stop) && !overLong s m (12 + 4 * n)
  match ((List.range (min 250 l.length + 1)).reverse).find? fits with
  | none => s
  | some n =>
    let s := setRadio s m { r with left := l.drop n, advance := [], release := [] }
    burstGo s m start true none (beaconPayload c0 w.2.1 (l.take n))

/-! ## Downlink bursts (R458, R462, R471) -/

/-- The head of the highest-numbered queue is discarded and counted in its DROP. -/
def dropHead (s : State) (p : Nat) (c : Copy) : State :=
  let s := takeOut s p c
  setQueue s p c.queue { queueAt s p c.queue with drop := satInc (queueAt s p c.queue).drop }

/-- The frame can be sent in no window of the chain (R458, R462, R471). -/
def neverFits (s : State) (m : Nat) (x : TdmSched) (len : Nat) : Bool :=
  decide (1536 < len) || overLong s m len ||
    (decide (spanU x - 2 * hemU x < burstT s m len) && decide (longestDown x (radioAt s m) < burstT s m len))

/-- The next frame of port 96 + m goes out in a downlink window; frames that fit no window are discarded. -/
def downlinkGo (m : Nat) (x : TdmSched) (w : BitVec 8 × Nat × Nat) (c0 start : Nat) : Nat → State → State
  | 0, s => s
  | f + 1, s =>
    match plainHead s (96 + m) with
    | none => s
    | some c =>
      let n := c.frame.length
      if neverFits s m x n then downlinkGo m x w c0 start f (dropHead s (96 + m) c)
      else if start + burstT s m n ≤ c0 + w.2.2 * spanU x - hemU x then
        let y := queueAt s (96 + m) c.queue
        let s := setQueue s (96 + m) c.queue { y with copies := y.copies.filter fun d => decide (d.pkt ≠ c.pkt) }
        burstGo s m start false (some c) c.frame
      else s

/-- A burst starts in a beacon or downlink window (R462, R467, R471). -/
def burstStart (m : Nat) (s : State) : State :=
  let r := radioAt s m
  if !rWorks s m || r.held || r.pa || r.burst.isSome then s
  else
    match r.sched, burstSlot s m with
    | some x, some (w, c0, start) =>
      if w.1 = 0 then (if fwRuns s then beaconGo s m x w c0 start else s)
      else downlinkGo m x w c0 start ((portCopies s (96 + m)).length + 1) s
    | _, _ => s

def execBurstStart (ch : Nat) (s : State) : Host.Outcome State Fault Refusal := ev (decide (ch < 4)) (burstStart ch s)

/-! ## Sync detection (R439, R441, R461, R465, R476) -/

/-- Bits in which two words differ. -/
def hamming (a b : BitVec 32) : Nat := ((List.range 32).filter fun i => (a ^^^ b).getLsbD i).length

/-- Nodes whose sync words the receiver expects now (R439, R461): none in the beacon span, the holder alone in a released span,
every node elsewhere. -/
def expected (r : Radio) : List (Nat × NodeEnt) :=
  if r.inTail then nodeList r.nodes
  else
    let role := r.roles.getD r.spanIdx 255
    if role = 0 then []
    else if r.released.contains role.toNat then (nodeList r.nodes).filter fun e => decide (e.1 = role.toNat)
    else nodeList r.nodes

/-- The node of a received word: the smallest distance within SYNC_ERR, then the lowest number (R439). -/
def syncNode (r : Radio) (word : BitVec 32) : Option Nat :=
  ((expected r).foldl (fun (b : Option (Nat × Nat)) e =>
    let d := hamming word e.2.sync
    if r.syncErr.toNat < d then b
    else match b with | some (d0, _) => if d < d0 then some (d, e.1) else b | none => some (d, e.1)) none).map (·.2)

/-- The receiver of the channel listens (R439, R479). -/
def rListens (s : State) (m : Nat) : Bool :=
  let r := radioAt s m
  rWorks s m && r.nodeRx && (schedOn r).isSome && !r.pa && reached s r.blankTo

/-- The end of a sync word is detected (R439-R441, R465). -/
def syncDetect (m : Nat) (word : BitVec 32) (sub : Nat) (s : State) : State :=
  let r := radioAt s m
  if !rListens s m then s
  else
    match syncNode r word with
    | none => s
    | some j =>
      if 2 ≤ (r.tracked.filter fun b => !b.decoded).length then
        setRadio s m { r with overrun := satInc r.overrun, spanBusy := true }
      else
        let stamp := compensate (stampOf s sub) (-(16 * r.rxDly.toNat : Int))
        let b : RxBurst :=
          { node := j, sync := stamp, from_ := 0, to_ := 0, type_ := 0, hdrNode := 0, payload := [], report := [], result := 0,
            decoded := false, collided := false, keep := false, bad := false, relAt := 0, inScope := false }
        setRadio s m { r with tracked := r.tracked ++ [b], sync := satInc r.sync, spanBusy := true }

def execSyncDetect (ch : Nat) (word : BitVec 32) (sub : Nat) (s : State) : Host.Outcome State Fault Refusal :=
  ev (decide (ch < 4) && decide (sub < 65536)) (syncDetect ch word sub s)

/-! ## Placement (R463, R464) -/

/-- Windows of a node around an instant as intervals of TB_TIME: those of the chain that holds it, of the one before and of the
one after (log entry 104). -/
def nodeWindows (x : TdmSched) (r : Radio) (j t : Nat) : List (Int × Int × Nat × Nat) :=
  match posAt x t with
  | none => []
  | some (_, c0, _) =>
    ([-1, 0, 1] : List Int).flatMap fun d =>
      ((windowsOf r).filter fun w => decide (w.1 = BitVec.ofNat 8 j)).map fun w =>
        ((c0 : Int) + d * chainU x + (w.2.1 * spanU x : Nat), (c0 : Int) + d * chainU x + (w.2.2 * spanU x : Nat), w.2.1, w.2.2)

/-- Class of a burst (R464): 0 NORMAL, 1 HEM_INTRUSION, 2 SPAN_INTRUSION. -/
def placement (x : TdmSched) (r : Radio) (j t : Nat) : Nat :=
  let h : Int := (hemU x : Nat)
  let ws := nodeWindows x r j t
  let T : Int := t
  let inside := ws.any fun w => decide (w.1 + h ≤ T) && decide (T < w.2.1 - h)
  let hem := ws.any fun w =>
    let lead := decide (0 < w.2.2.1) || noTail x
    let tail := decide (w.2.2.2 < x.spans) || noTail x
    decide (w.1 - (if lead then h else 0) ≤ T) && decide (T < w.2.1 + (if tail then h else 0))
  if inside then 0 else if hem then 1 else 2

/-- OFFSET of a burst in ns: from the nearest nominal instant of its node (R463, log entry 104). -/
def offsetOf (s : State) (m : Nat) (x : TdmSched) (r : Radio) (j t : Nat) : Option Int :=
  ((nodeWindows x r j t).foldl (fun (b : Option Int) w =>
    let d := (t : Int) - (w.1 + (hemU x : Nat) + (rmRamp s m * usU : Nat))
    match b with
    | some e => if d.natAbs < e.natAbs then some d else some e
    | none => some d) none).map fun d => satSigned 32 (roundBy nsU d)

/-- An answer lies within a released window of its node, hems included (R468). -/
def inReleased (x : TdmSched) (r : Radio) (j t : Nat) : Bool :=
  r.released.contains j && (nodeWindows x r j t).any fun w => decide (w.1 ≤ (t : Int)) && decide ((t : Int) < w.2.1)

/-- DATA of CODE 1, 2 and 5: node and OFFSET in us, saturated (R473). -/
def offsetData (j : Nat) (off : Int) : Nat := j + 256 * (satSigned 24 (roundBy 1000 off) % 2 ^ 24).toNat

/-- A node's entry replaced. -/
def setNode (s : State) (m j : Nat) (f : NodeEnt → NodeEnt) : State :=
  let r := radioAt s m
  match nodeOf r j with
  | some e => setRadio s m { r with nodes := nodeSet r.nodes j (some (f e)) }
  | none => s

/-- An ADVANCE entry of a node, in place of one it has (R467, R468). -/
def advanceAdd (s : State) (m j : Nat) (off : Int) : State :=
  let r := radioAt s m
  setRadio s m { r with advance := (r.advance.filter fun e => decide (e.1 ≠ j)) ++ [(j, off)] }

/-- A burst of a node in state ACTIVE is classed (R464, R466). -/
def classActive (s : State) (m j cls : Nat) (off : Int) : State :=
  if cls = 0 then setNode s m j fun e => { e with count := 0 }
  else
    let r := radioAt s m
    let s := setRadio s m (if cls = 1 then { r with hemIntr := satInc r.hemIntr } else { r with spanIntr := satInc r.spanIntr })
    let s := tdmEvent (advanceAdd s m j off) m cls (offsetData j off)
    let s := setNode s m j fun e => { e with count := min 3 (e.count + 1) }
    match nodeOf (radioAt s m) j with
    | some e =>
      if 3 ≤ e.count then
        let s := setNode s m j fun e => { e with state := 2 }
        tdmEvent (setRadio s m { radioAt s m with advance := (radioAt s m).advance.filter fun e => decide (e.1 ≠ j) }) m 4 j
      else s
    | none => s

/-- A burst of a node in REACQ: an answer in its released window returns it at the next chain start, anything else is counted
(R468). -/
def classReacq (s : State) (m j : Nat) (answer : Bool) (off : Int) : State :=
  if answer then
    let s := setNode s m j fun e => { e with count := 0 }
    let r := radioAt s m
    tdmEvent (advanceAdd (setRadio s m { r with toActive := (r.toActive.filter fun k => decide (k ≠ j)) ++ [j] }) m j off) m 5
      (offsetData j off)
  else setRadio s m { radioAt s m with spanIntr := satInc (radioAt s m).spanIntr }

/-! ## Decoding (R440-R442, R463-R470) -/

/-- The burst report (R441). -/
def burstReport (s : State) (m : Nat) (b : RxBurst) (d : BurstIn) (level cfo : BitVec 16) : List Byte :=
  let r := radioAt s m
  let rssi : BitVec 16 := level + r.rxCal
  let snr : Int := if nfValid r then rssi.toInt - nfOf r else 0
  leBytes 2 rssi.toNat ++ leBytes 2 (snr % 65536).toNat ++ leBytes 2 cfo.toNat ++
    [BitVec.ofNat 8 (min 255 d.corr), BitVec.ofNat 8 d.result] ++ leBytes 4 (tNs b.sync) ++ leBytes 4 (tSec b.sync % 2 ^ 32)

/-- Counter of a result (R440). -/
def resultCount (r : Radio) (result : Nat) : Radio :=
  if result = 1 then { r with hdrFail := satInc r.hdrFail }
  else if result = 2 then { r with rsFail := satInc r.rsFail }
  else if result = 3 then { r with crcFail := satInc r.crcFail }
  else r

/-- A frame of an ACTIVE node that R470 counts in BAD. -/
def frameBad (j : Nat) (d : BurstIn) : Bool :=
  decide (d.node ≠ j) || decide (1 ≤ d.type_) || decide (d.len < 60)

/-- Instant a frame is held to: the end of the last span its interval overlaps; of one that overlaps none, its own end (R465). -/
def holdTo (x : TdmSched) (a b : Nat) : Nat :=
  match posAt x (b - 1) with
  | some (_, c0, some i) => c0 + (i + 1) * spanU x
  | some (_, c0, none) => if a < c0 + x.spans * spanU x then max b (c0 + x.spans * spanU x) else b
  | none => b

/-- Two bursts of which the later overlaps earlier ones: every frame concerned is discarded (R465). -/
def collide (s : State) (m : Nat) (b : RxBurst) : State :=
  let hit := fun (o : RxBurst) => o.decoded && decide (o.sync ≠ b.sync) && decide (o.from_ < b.to_) && decide (b.from_ < o.to_)
  ((radioAt s m).tracked.filter hit).foldl (fun s o =>
    let r := radioAt s m
    let mark := fun (k : RxBurst) => if k.sync = o.sync ∨ k.sync = b.sync then { k with collided := true } else k
    tdmEvent (setRadio s m { r with tracked := r.tracked.map mark, collisions := satInc r.collisions }) m 3 (o.node + 256 * b.node)) s

/-- A drain has the port in scope as ingress. -/
def rDrains (s : State) (m : Nat) : Bool := s.cfg.quiesces.any fun q => q.ingress.contains (96 + m)

/-- The last sample of a burst has arrived: after its header where that cannot be decoded, else after its body. -/
def rxComplete (s : State) (m : Nat) (b : RxBurst) (d : BurstIn) : Bool :=
  let n := if d.result = 1 then 96 / rmBits s m
    else 96 / rmBits s m + 8 * codewords (rmK s m) d.len * (rmK s m + rmTwoT s m) / rmBits s m
  decide (b.sync + (radioAt s m).rxDly.toNat * nsU + symU s m n ≤ s.tb.t + nsU)

/-- A burst tracked as `b` is decoded, reported and classed once it has arrived (R440-R442, R463-R469). -/
def burstTake (m : Nat) (coded : List Byte) (level cfo : BitVec 16) (s : State) (b : RxBurst) : State :=
  let r := radioAt s m
  let d := burstDecode (rmK s m) (rmTwoT s m) (rmDepth s m) coded
  if !rxComplete s m b d then s
  else
    let est := tAdd b.sync (-((symU s m (rmPre s m + 32) : Nat) : Int))
    let a := tAdd est (-((rmRamp s m * usU : Nat) : Int))
    let z := if d.result = 1 then tAdd b.sync (symU s m (96 / rmBits s m) : Nat) else a + burstT s m d.len
    let rep := burstReport s m b d level cfo
    let x := (schedOn r).getD { spans := 0, chain := 0, span := 0, hem := 0, start := 0 }
    let reacq := match nodeOf r b.node with | some e => decide (e.state = 2) | none => true
    let off := (offsetOf s m x r b.node est).getD 0
    let good := decide (d.result = 0) && !reacq
    let keep := good && !frameBad b.node d
    let lost := keep && (b.inScope || rDrains s m)
    let e : RxBurst := { b with
      from_ := a, to_ := z, type_ := d.type_, hdrNode := d.node, payload := d.payload, report := rep,
      result := BitVec.ofNat 3 d.result, decoded := true, keep := keep && !lost, bad := good && frameBad b.node d,
      relAt := holdTo x a z, inScope := false }
    let s := if lost then drainLost s fun q => q.ingress.contains (96 + m) else s
    let upd := fun (k : RxBurst) => if k.sync = b.sync ∧ !k.decoded then e else k
    let r := radioAt s m
    let s := setRadio s m { resultCount r d.result with tracked := r.tracked.map upd, lastRep := rep }
    let s := setNode s m b.node fun n => { n with offset := off }
    let s := collide s m e
    if (nodeOf r b.node).isNone then s
    else if reacq then
      let clash := (radioAt s m).tracked.any fun k => decide (k.sync = e.sync) && k.collided
      classReacq s m b.node
        (decide (d.result = 0) && decide (d.type_ = 2) && decide (d.node = b.node) && inReleased x r b.node est && !clash) off
    else classActive s m b.node (placement x r b.node est) off

/-- The burst that is being received is decoded. -/
def burstDecoded (m : Nat) (coded : List Byte) (level cfo : BitVec 16) (s : State) : State :=
  match (radioAt s m).tracked.find? fun b => !b.decoded with
  | some b => burstTake m coded level cfo s b
  | none => s

def execBurstDecoded (ch : Nat) (coded : List Byte) (level cfo : BitVec 16) (s : State) : Host.Outcome State Fault Refusal :=
  ev (decide (ch < 4)) (burstDecoded ch coded level cfo s)

/-! ## Frames that become packets (R465, R470) -/

/-- A kept frame becomes a packet of port 96 + m. -/
def radioPacket (s : State) (m : Nat) (b : RxBurst) (work : Nat) : State :=
  let p := 96 + m
  let f := if (radioAt s m).rptAppend then b.payload ++ b.report else b.payload
  let n := framePart s (newest s) p f
  let k : Pkt := { newPkt s p n (stampOf s 0) 0 f .arriving with work := work }
  let s := count (count (addPkt s k) p 1 1 n) p 3 b.payload.length n
  if (ptnAt s n).resetting then discardPkt (rstDrop s n) k
  else if rDrains s m then discardPkt (drainLost s fun q => q.ingress.contains p) k
  else dispatch s k

/-- The end of the last span that a burst overlaps: its frame becomes a packet or is discarded (R465, R470). -/
def radioFrameRelease (m work : Nat) (s : State) : State :=
  let r := radioAt s m
  match r.tracked.find? fun b => b.decoded && decide (b.relAt ≤ s.tb.t) with
  | none => s
  | some b =>
    let r : Radio := { r with tracked := r.tracked.filter fun k => decide (k ≠ b) }
    if b.collided then setRadio s m r
    else if b.bad then setRadio s m { r with bad := satInc r.bad }
    else if b.keep then radioPacket (setRadio s m r) m b work
    else setRadio s m r

def execRadioFrameRelease (ch work : Nat) (s : State) : Host.Outcome State Fault Refusal :=
  ev (decide (ch < 4)) (radioFrameRelease ch work s)

/-! ## The noise floor (R443, R477) -/

/-- The current span is one that the schedule marks idle: a downlink span, or the beacon span while the cluster is fenced. -/
def idleSpan (s : State) (m : Nat) : Bool :=
  let r := radioAt s m
  let role := r.roles.getD r.spanIdx 1
  (schedOn r).isSome && !r.inTail && (decide (role = 255) || (decide (role = 0) && ccFenced s))

/-- The place `p` in a schedule is span `i`, within a hem of its end. -/
def nearEnd (x : TdmSched) (i t : Nat) : Option (Nat × Nat × Option Nat) → Bool
  | some (_, c0, some k) => decide (k = i) && decide (c0 + (k + 1) * spanU x ≤ t + hemU x)
  | _ => false

/-- The current span comes to the end of its interior. -/
def spanDue (r : Radio) (t : Nat) : Bool :=
  match schedOn r with
  | some x => nearEnd x r.spanIdx t (posAt x t)
  | none => false

/-- The measurement over an idle span less its hems ends: kept unless a sync was detected, PA_EN was high or a sample reached full
scale (R443). -/
def noiseFloorMeasure (m : Nat) (level : BitVec 16) (full : Bool) (s : State) : State :=
  let r := radioAt s m
  if !rWorks s m || !idleSpan s m || !spanDue r s.tb.t || r.spanBusy || r.pa then s
  else setRadio s m { r with spanBusy := true, nf := if full then r.nf else ((level + r.rxCal) :: r.nf).take 16 }

def execNoiseFloorMeasure (ch : Nat) (level : BitVec 16) (full : Bool) (s : State) : Host.Outcome State Fault Refusal :=
  ev (decide (ch < 4)) (noiseFloorMeasure ch level full s)

/-! ## TDM registers (R472) -/

/-- Registers of a channel as read, offset from 0x0640_0000 + m × 0x1000. -/
def tdmRead (s : State) (m off : Nat) : Option W32 :=
  let r := radioAt s m
  if off = 0x00 then some (w32 (b1 r.rptAppend))
  else if off = 0x04 then some r.beaconWord
  else if off = 0x08 then
    some (w32 ((if r.sched.isSome then 2 else if r.nextSched.isSome then 1 else 0) + 2 ^ 8 * r.spanIdx +
      2 ^ 16 * r.beaconSpan.toNat + 2 ^ 24 * b1 r.noBeacon))
  else if off = 0x0C then some (w32 (r.hemIntr.toNat + 2 ^ 16 * r.spanIntr.toNat))
  else if off = 0x10 then some (w32 (r.collisions.toNat + 2 ^ 16 * r.overrun.toNat))
  else if off = 0x14 then some (w32 r.bad.toNat)
  else if 0x408 ≤ off ∧ off < 0xBD8 ∧ off % 4 = 0 then
    match nodeOf r ((off - 0x400) / 8) with
    | some e =>
      some (if off % 8 = 0 then w32 (e.state.toNat + 4 * e.count + 2 ^ 8 * maskFirst e.mask + 2 ^ 16 * maskCount e.mask)
        else BitVec.ofInt 32 e.offset)
    | none => some 0
  else none

/-- What a normal read of a TDM register clears (R9). -/
def tdmTake (s : State) (m off : Nat) : State :=
  let r := radioAt s m
  if off = 0x0C then setRadio s m { r with hemIntr := 0, spanIntr := 0 }
  else if off = 0x10 then setRadio s m { r with collisions := 0, overrun := 0 }
  else if off = 0x14 then setRadio s m { r with bad := 0 }
  else s

/-- TDM registers of a channel as written. -/
def tdmWrite (s : State) (m off : Nat) (v : W32) : State :=
  let r := radioAt s m
  if off = 0x00 then setRadio s m { r with rptAppend := bit v 0 }
  else if off = 0x04 then setRadio s m { r with beaconWord := v }
  else s

end Sys2Proof.Machine
end

