-- ==== Sys2Proof/Machine/Faults.lean ====
section
/-! DEFINITION. Faults decided at their grain: record, count, the access record, the fence of each unit and what it loses, the fatal
action (spec/21 R567-R591; spec/01 R30; spec/19 R510). -/

namespace Sys2Proof.Machine

/-! ## Units (R569, R573) -/

/-- The unit of a source is fenced. -/
def srcFenced (s : State) (src : Nat) : Bool :=
  if src = 5 then ccFenced s
  else if src = 6 then s.pka.fenced
  else if 64 ≤ src ∧ src < 128 then engFenced s (src - 64)
  else if 128 ≤ src ∧ src < 160 then camFenced s (src - 128)
  else if 160 ≤ src ∧ src < 176 then s.mt.fencedBanks.toNat.testBit (src - 160)
  else if 176 ≤ src ∧ src < 224 then s.qm.bufFenced.toNat.testBit (src - 176)
  else if 224 ≤ src ∧ src < 228 then (radioAt s (src - 224)).fenced
  else false

/-- The history holds the fence of a source at grain `g`. -/
def fencedAt (s : State) (src : Nat) (g : Grain) : Bool :=
  s.fcu.hist.any fun x => x.fence && decide (x.rec_.src = src) && decide (x.grain = g)

/-- What a fence of the last live unit of its kind is recorded as (R580). -/
def lastUnit (s : State) (r : Rec) : Option Nat :=
  if 64 ≤ r.src ∧ r.src < 128 ∧ liveEngines s = [r.src - 64] then some 0x14
  else if 176 ≤ r.src ∧ r.src < 224 ∧ liveCells s = 8192 then some 0x15
  else none

/-! ## The fences (R575-R579) -/

/-- An E command that a fenced engine held completes with RETRY (R203, R588). -/
def engineRetries (s : State) (l : List Nat) : State := l.foldl (fun s c => complete s c stRETRY []) s

/-- Packets of a fenced engine are lost: they are not done, and the resequencer counts them (R388, R577). -/
def enginePkts (s : State) (e : Nat) : State :=
  let mine := fun (p : Pkt) => decide (p.engine = some e) && decide (p.stage ≠ .arriving) && decide (p.stage ≠ .stored)
  (s.qm.pkts.filter mine).foldl (fun s p => delPkt (leaveCore s p) p.id) s

/-- Requests for tiles that are gone wait for a tile (R425). -/
def reqsFreed (s : State) : State :=
  { s with mt := { s.mt with reqs := s.mt.reqs.map fun r =>
      { r with tile := r.tile.bind fun t => if (tileAt s t).isSome then some t else none } } }

/-- Engine `e` is fenced. -/
def engineFence (s : State) (e cause : Nat) : State :=
  let cmds := (engAt s e).cmds
  let s := enginePkts s e
  let s := setEng s e { engAt s e with
    fence := if cause = 0x20 then 2 else 3, disp := [], held := [], cmds := [], stepped := false }
  let s := engineRetries s cmds
  let s := reqsFreed (loseTiles s fun _ x => decide (x.home = some e) || decide (x.moving = some e))
  raise s (384 + e) (if cause = 0x20 then 1 else 2) cause

/-- CAM block `b` is fenced: its entries are lost, and commands that name it end (R228, R342). -/
def camFence (s : State) (b : Nat) : State :=
  let s := camClear s b
  tableEnds { s with cam := { s.cam with fenced := s.cam.fenced ||| BitVec.ofNat 32 (2 ^ b) } }

/-- T1 state bank `k` is fenced: FDB buckets of bank 0 and the commands that name them, or tiles of the pool (R228, R342, R426). -/
def stateBankFence (s : State) (k : Nat) : State :=
  let s := if k = 0 then fdbRemove s fun b _ => decide (b < 36864)
    else reqsFreed (loseTiles s fun t _ => decide (tileBank t = k))
  tableEnds { s with mt := { s.mt with fencedBanks := s.mt.fencedBanks ||| BitVec.ofNat 16 (2 ^ k) } }

/-- Each copy of a lost packet in a queue is counted in DROP of the queue (R405). -/
def dropCount (s : State) (id : Nat) : State :=
  { s with qm := { s.qm with queues := s.qm.queues.map fun e =>
      (e.1, { e.2 with drop := satAdd e.2.drop (e.2.copies.filter fun c => decide (c.pkt = id)).length }) } }

/-- A stored packet loses cells with a buffer bank or keeps them: the spec does not say which cells a bank holds, so it is a free
value for each packet (R405, log entry 131). -/
def bufferLoss (s : State) (p : Pkt) : State :=
  let lost := (freeVal s).getLsbD 0
  let s := freeNext s
  if lost then
    match pktAt s p.id with
    | some q => purgePkt (dropCount s q.id) q
    | none => s
  else s

/-- T1 buffer bank `k` is fenced (R405, R578). -/
def bufferFence (s : State) (k : Nat) : State :=
  let s := (s.qm.pkts.filter fun p => decide (p.stage = .stored)).foldl bufferLoss s
  { s with qm := { s.qm with bufFenced := s.qm.bufFenced ||| BitVec.ofNat 48 (2 ^ k) } }

/-- Radio channel `m` is fenced: PA_EN low, the burst cut off, frames of its port discarded, a waiting shape command
UNIT_FENCED (R448, R454, R456). -/
def radioFence (s : State) (m : Nat) : State :=
  let s := (flushCopies (paCut s m) (96 + m) fun _ => true).1
  let r := radioAt s m
  let s := setRadio s m { r with fenced := true, held := true, holdCause := 3, tracked := [], shapeCmd := none }
  completeOpt s (r.shapeCmd.map (·.1)) stUNIT_FENCED []

/-- CAUSE of a fence in the PKA's status. -/
def pkaCause (cause : Nat) : BitVec 3 :=
  if cause = 0x80 then 1 else if cause = 0x81 then 2 else if cause = 0x82 then 3 else 4

/-- The services that end with the PKA: all but RNG_READ, which does not use the unit (R228, R494, R503). -/
def pkaServices (s : State) : List Nat := (s.pka.queue.filter fun v => decide (v.op ≠ 0x5B)).map (·.cmd)

/-- The PKA unit is fenced: operand RAM and CY are zeroised, services end (R228, R503). -/
def pkaFence (s : State) (cause : Nat) : State :=
  let l := pkaServices s
  let s : State := { s with
    pka := { s.pka with
      fenced := true, cause := pkaCause cause, ram := [], cy := 0, busyTo := none,
      queue := s.pka.queue.filter fun v => decide (v.op = 0x5B) } }
  l.foldl (fun s c => complete s c (if ccFenced s then stINTERPRETER_ABSENT else stUNIT_FENCED) []) s

/-- Firmware commands in flight that have been checked end with INTERPRETER_ABSENT (R192). -/
def firmwareEnds (s : State) : State :=
  let l := (s.cq.cmds.filter fun c => isFw (opOf c) && !c.done && decide (c.state ≠ .arriving)).map (·.id)
  let fw := fun (c : Commit) => match c.cmd.bind (cmdAt s) with | some x => isFw (opOf x) | none => false
  let s : State := { s with
    cfg := { s.cfg with commits := s.cfg.commits.filter fun c => !fw c }
    pka := { s.pka with queue := [] }
    twn := { s.twn with joinCmds := [] } }
  let s := (List.range 4).foldl (fun s m => setRadio s m { radioAt s m with shapeCmd := none }) s
  l.foldl (fun s c => complete s c stINTERPRETER_ABSENT []) s

/-- The control cluster is fenced (R192, R509, R510, R529): CC_FENCE takes cause, ALSO and grain; leases and waiters go; each
partition receives INTERPRETER_STATE. -/
def clusterFence (s : State) (cause data : Nat) (g : Grain) : State :=
  let s : State := { s with
    cc := { s.cc with
      state := 3, cause := BitVec.ofNat 3 (cause - 0x90), also := BitVec.ofNat 6 data, fenceAt := g, advance := false }
    dbg := { s.dbg with halted := false } }
  let s := semCluster (firmwareEnds s)
  (List.range 16).foldl (fun s n => raise s (448 + 8 * n + 6) 0 (cause - 0x90)) s

/-- The fence of a unit. -/
def fenceUnit (s : State) (r : Rec) (g : Grain) : State :=
  if r.src = 5 then clusterFence s r.cause r.data g
  else if r.src = 6 then pkaFence s r.cause
  else if 64 ≤ r.src ∧ r.src < 128 then engineFence s (r.src - 64) r.cause
  else if 128 ≤ r.src ∧ r.src < 160 then camFence s (r.src - 128)
  else if 160 ≤ r.src ∧ r.src < 176 then stateBankFence s (r.src - 160)
  else if 176 ≤ r.src ∧ r.src < 224 then bufferFence s (r.src - 176)
  else if 224 ≤ r.src ∧ r.src < 228 then radioFence s (r.src - 224)
  else s

/-- Another engine's fence of the same grain waits in the backlog (R587). -/
def moreEngines (s : State) (g : Grain) : Bool :=
  s.gr.backlog.any fun e => decide (e.stamp = g) &&
    (match faultOf e.inp.what with | some r => decide (r.cls = 2) && decide (64 ≤ r.src) && decide (r.src < 128) | none => false)

/-! ## The fatal action (R581, R582) -/

/-- The fatal action at grain `g`: outputs fall, TWN_ALIVE_OUT stops; with X_HOLD the device holds, ports OFF; otherwise its reset is
due in 10 µs. -/
def fatalAction (s : State) (g : Grain) : State :=
  if s.fcu.xDue.isSome then s
  else
    let s := paCutAll (squelchAll s)
    let s : State := { s with
      fcu := { s.fcu with xDue := some g, holding := s.fcu.xHold }
      twn := { s.twn with aliveRun := false } }
    let s := if s.fcu.holding then
        (List.range 96).foldl (fun s p => setPort s p { dropLocks (portAt s p) with state := 0, squelched := true }) s
      else s
    validUpdate s

/-! ## A fault is applied (R30, R567, R568, R573, R580, R585, R586) -/

/-- DEV_ACCESS_ADDR and DEV_ACCESS_CAUSE take a refusal when its decision is applied (R30). -/
def accessRecord (s : State) (r : Rec) : State :=
  if r.cls = 1 ∧ 16 ≤ r.src ∧ r.src ≤ 32 then
    { s with
      dev := { s.dev with
        accAddr := w32 r.data, accCause := BitVec.ofNat 4 r.cause, accWrite := r.data.testBit 32,
        accPt := BitVec.ofNat 4 (if r.src = 32 then 0 else r.src - 16), accCc := decide (r.src = 32), accValid := true } }
  else s

/-- A fence is recorded, applied, told to the partner and raised as event 673 (R575, R585, R625). -/
def fenceApply (s : State) (r : Rec) (g : Grain) : State :=
  let s := fcuRecord s r true g
  let seq := s.fcu.seq.toNat
  let s := fenceUnit s r g
  let s := raiseAt s 673 r.cause (r.src % 1024 + 2 ^ 16 * (seq % 2 ^ 16)) g
  let s := torvSend s 0x0C (leBytes 2 r.cause ++ leBytes 2 r.src ++ leBytes 4 0)
  if 64 ≤ r.src ∧ r.src < 128 ∧ !moreEngines s g then vcoreFence s else s

/-- A class X fault is recorded, and takes the fatal action where R582 leaves it. -/
def fatalApply (s : State) (r : Rec) (g : Grain) : State :=
  let act := isFatal s r
  let s := fcuRecord s r false g
  if act then fatalAction s g else s

/-- A fault decided at grain `g`. -/
def applyFault (s : State) (r : Rec) (g : Grain) : State :=
  if srcFenced s r.src then
    (if r.cls = 2 ∧ fencedAt s r.src g then fcuRecord s r false g else s)
  else if r.cls = 3 then fatalApply s r g
  else if r.cls = 2 ∧ r.cause ≠ 0x42 then
    (match lastUnit s r with
     | some c => fatalApply s { r with cls := 3, cause := c, data := r.cause } g
     | none => fenceApply s r g)
  else
    let s := accessRecord (fcuRecord s r false g) r
    match r.cls, r.pt with
    | 1, some n => raiseAt s (448 + 8 * n) r.cause r.src g
    | _, _ => s

/-! ## Detection (R570, R573) -/

/-- Class of a cause that a unit detects by itself, at a source that may report it; causes of other rows are detected by them
(R570). -/
def detectClass (src cause : Nat) : Option (BitVec 2) :=
  if (cause = 0x11 ∧ src = 1) ∨ (cause = 0x12 ∧ src = 2) ∨ (cause = 0x13 ∧ src = 3) then some 3
  else if cause = 0x22 ∧ 64 ≤ src ∧ src < 128 then some 2
  else if cause = 0x40 ∧ 128 ≤ src ∧ src < 160 then some 2
  else if cause = 0x50 ∧ 160 ≤ src ∧ src < 224 then some 0
  else if cause = 0x51 ∧ 160 ≤ src ∧ src < 224 ∧ src ≠ 161 then some 2
  else if cause = 0x70 ∧ 224 ≤ src ∧ src < 228 then some 2
  else if (cause = 0x80 ∨ cause = 0x82) ∧ src = 6 then some 2
  else none

/-- A unit detects a fault. -/
def faultSeen (s : State) (src cause data : Nat) : State :=
  match detectClass src cause with
  | some c => if srcFenced s src then s else detect s { cls := c, src := src, cause := cause, pt := none, data := data % 2 ^ 64 }
  | none => s

/-- While D1 is stopped, the first fault seen is recorded and acted on without a grain (R571). -/
def faultStopped (s : State) : State :=
  let isF := fun (i : Inp) => (faultOf i.what).isSome
  match s.gr.seen.find? isF with
  | some i =>
    let s : State := { s with gr := { s.gr with seen := s.gr.seen.erase i } }
    (match faultOf i.what with | some r => applyFault s r s.gr.count | none => s)
  | none => s

/-- FAULT_DETECTED: the P1 decision at the head of the backlog is applied, or a unit detects a fault. -/
def faultDetected (up : Option (Nat × Nat × Nat)) (s : State) : State :=
  match up with
  | some (src, cause, data) => faultSeen s src cause data
  | none =>
    if clkOk s 1 then
      match takeHead s fun d => (faultOf d).isSome with
      | some (s, e) => (match faultOf e.inp.what with | some r => applyFault s r e.stamp | none => s)
      | none => s
    else faultStopped s

def execFaultDetected (up : Option (Nat × Nat × Nat)) (s : State) : Host.Outcome State Fault Refusal :=
  ev true (faultDetected up s)

/-- The grain monitor: XO_PPM beyond 2,000, or no boundary for 100 ns, after which D1 counts as stopped (R52, R571). -/
def grainLost (ppm : Int) (gap : Nat) (s : State) : State :=
  if !clkOk s 1 ∨ (ppm.natAbs ≤ 2000 ∧ gap < 100) then s
  else
    let s := xFault s 0 0x10 (BitVec.ofInt 64 ppm).toNat
    if 100 ≤ gap then { s with dev := { s.dev with clkOk := s.dev.clkOk &&& ~~~2#14 } } else s

def execGrainLost (ppm : Int) (gap : Nat) (s : State) : Host.Outcome State Fault Refusal := ev true (grainLost ppm gap s)

/-- 10 µs after an X fault that does not hold, the device resets (R581); without D1 no grain counts them. -/
def fatalReset (s : State) : State :=
  match s.fcu.xDue with
  | some g => if !s.fcu.holding ∧ (10000 ≤ since s g ∨ !clkOk s 1) then deviceReset s 3 false else s
  | none => s

def execFatalReset (s : State) : Host.Outcome State Fault Refusal := ev true (fatalReset s)

/-- FCU_CTL written: X_HOLD, and XRESET, which ends a fatal hold by a device reset (R581, R583). -/
def fcuCtlWrite (v : W32) (s : State) : State :=
  let s : State := { s with fcu := { s.fcu with xHold := bit v 0 } }
  if fld v 16 16 = 0xD5E7 ∧ s.fcu.holding then deviceReset s 4 false else s

def execFcuXreset (m : Master) (v : W32) (s : State) : Host.Outcome State Fault Refusal :=
  ev m.wf (regWr s m 0x07C00000 (fcuCtlWrite v))

end Sys2Proof.Machine
end

