-- ==== Sys2Proof/Machine/Twin.lean ====
section
/-! DEFINITION. The Torv link, shared decisions, twin states and the rejoin (spec/23 R605-R630, spec/08 R226). -/

namespace Sys2Proof.Machine

/-! ## Frames received (R607, R608) -/

/-- A frame has its type, the length of the table and a good check. -/
def frameGood (type len : Nat) (f : List Byte) : Bool :=
  decide (f.length = 20 + len) && decide (le f 0 1 = type) && decide (le f 2 2 = len) &&
    decide (le f (16 + len) 4 = (crc32 (f.take (16 + len))).toNat)

/-- No frame is missing before this one. -/
def frameNext (s : State) (f : List Byte) : Bool :=
  match s.twn.fseqRx with
  | some n => decide (BitVec.ofNat 32 (le f 4 4) = n + 1)
  | none => true

/-- A 64-bit field of a frame body. -/
def grainAt (b : List Byte) (off : Nat) : Grain := BitVec.ofNat 64 (le b off 8)

/-! ## The link goes down (R606, R619) -/

/-- What the link held. -/
def linkOff (s : State) : State :=
  { s with twn := { s.twn with link := false, fseqRx := none, lastKa := none, probes := [], partSenior := none } }

/-- TWIN_REJOIN commands that wait complete (R623). -/
def joinsEnd (s : State) (status : Nat) (result : List Byte) : State :=
  let l := s.twn.joinCmds
  l.foldl (fun s id => complete s id status result) { s with twn := { s.twn with joinCmds := [] } }

/-- A rejoin fails (R619): back to SEPARATED or SOLO-HOLD where it came from there, otherwise JOINING stays; retried after 1 s. -/
def joinFail (s : State) (cause : Nat) : State :=
  let s := readyClear { s with twn := { s.twn with
    joinStep := 0, retry := true, failAt := s.gr.count, probes := [], times := s.twn.times.filter fun c => !c.load } }
  if s.twn.joinFrom = twSEPARATED ∨ s.twn.joinFrom = twSOLO then twinTo s s.twn.joinFrom cause
  else { s with twn := { s.twn with cause := BitVec.ofNat 4 cause } }

/-- The link goes down: a PAIRED device separates where A holds, a rejoin under way fails (R606, R619, R623). -/
def linkDown (s : State) (cause : Nat) : State :=
  if s.twn.link then
    let s := joinsEnd (linkOff s) stTWIN_SEPARATED []
    if paired s then (if s.twn.alive then twinTo s twSEPARATED cause else s)
    else if s.twn.state = twJOINING then joinFail s cause
    else s
  else s

/-- A carried decision arrives after its application grain (R606). -/
def lateDecision (s : State) : State :=
  linkDown { s with twn := { s.twn with late := satInc s.twn.late } } 6

/-- A frame arrives: it acts where it is good and none is missing, otherwise it is lost and the link goes down (R606-R608, log
entry 132). -/
def recv (s : State) (type len : Nat) (f : List Byte) (k : State → List Byte → State) : State :=
  if s.twn.link then
    if frameGood type len f && frameNext s f then
      k { s with twn := { s.twn with fseqRx := some (BitVec.ofNat 32 (le f 4 4)) } } (slice f 16 len)
    else linkDown s 1
  else s

def execTorvLinkDown (s : State) : Host.Outcome State Fault Refusal :=
  ev true (linkDown { s with twn := { s.twn with lanes := 0 } } 1)

/-- No keep-alive for 4 µs (R606). -/
def keepaliveTimeout (s : State) : State :=
  match s.twn.lastKa with
  | some g => if 4000 ≤ since s g then linkDown s 1 else s
  | none => s

def execTorvKeepaliveTimeout (s : State) : Host.Outcome State Fault Refusal := ev true (keepaliveTimeout s)

/-! ## The rejoin begins (R619, R622 step 1) -/

/-- A rejoin is under way and the firmware that runs it is not fenced (R622, R623). -/
def joining (s : State) : Bool := decide (s.twn.state = twJOINING) && !ccFenced s

/-- PROBE of the junior (R608). -/
def probeSend (s : State) : State := torvSend s 0x08 (leBytes 8 s.gr.count.toNat)

/-- The partner's strap is known: equal straps fail, otherwise the junior measures (R608, R622, R628). -/
def roleJudge (s : State) (partner : Bool) : State :=
  if partner = senior s then joinFail s 3
  else if !senior s && s.twn.probes.isEmpty then probeSend s
  else s

/-- Step 1 of a rejoin: ROLE goes first. -/
def joinStart (s : State) : State :=
  let s := readyClear s
  let s := torvSend { s with twn := { s.twn with joinStep := 1, probes := [], retry := false } } 0x0D
    (leBytes 1 (b1 (senior s)) ++ List.replicate 7 0)
  match s.twn.partSenior with
  | some b => roleJudge s b
  | none => s

/-- A device with L and A enters JOINING, or takes its rejoin up again. -/
def joinEnter (s : State) : State :=
  if ccFenced s then s
  else if s.twn.state = twJOINING then joinStart s
  else
    let from_ := s.twn.state
    joinStart { twinTo s twJOINING 0 with twn := { (twinTo s twJOINING 0).twn with joinFrom := from_ } }

/-- L and A hold (R619): AUTO decides in SEPARATED and SOLO-HOLD. -/
def linkHolds (s : State) : State :=
  if !s.twn.link || !s.twn.alive then s
  else if s.twn.state = twJOINING then joinEnter s
  else if s.twn.state = twSEPARATED ∨ s.twn.state = twSOLO then
    (if s.twn.auto || !s.twn.joinCmds.isEmpty then joinEnter s else s)
  else if s.twn.state = twLOST then joinEnter s
  else s

/-- All four lanes lock and a keep-alive arrives; not in OFF, where the transmitters are idle, nor while TWN_ALIVE_IN is stopped
(R606, R610, R626). -/
def torvLinkUp (s : State) : State :=
  if s.twn.link ∨ s.twn.state = twOFF ∨ !s.twn.alive ∨ s.dev.inReset then s
  else linkHolds { s with twn := { s.twn with link := true, lanes := 15, lastKa := some s.gr.count, fseqRx := none } }

def execTorvLinkUp (s : State) : Host.Outcome State Fault Refusal := ev true (powered s (torvLinkUp s))

/-- One second after a failed rejoin (R619). -/
def rejoinRetry (s : State) : State :=
  if s.twn.retry ∧ s.twn.link ∧ s.twn.alive ∧ s.twn.state ≠ twOFF ∧ !paired s ∧ 1000000000 ≤ since s s.twn.failAt then joinEnter s
  else s

def execRejoinRetry (s : State) : Host.Outcome State Fault Refusal := ev true (rejoinRetry s)

/-- ROLE (R622 step 1). -/
def roleRx (s : State) (b : List Byte) : State :=
  let p := (le b 0 1).testBit 0
  let s := { s with twn := { s.twn with partSenior := some p } }
  if joining s ∧ s.twn.joinStep = 1 then roleJudge s p else s

def execTorvRole (frame : List Byte) (s : State) : Host.Outcome State Fault Refusal := ev true (recv s 0x0D 8 frame roleRx)

/-- PROBE: the senior of a rejoin answers (R608). -/
def probeRx (s : State) (b : List Byte) : State :=
  if joining s ∧ s.twn.joinStep = 1 ∧ senior s then
    torvSend s 0x09 (b ++ leBytes 8 s.gr.count.toNat ++ leBytes 8 s.gr.count.toNat)
  else s

def execTorvProbe (frame : List Byte) (s : State) : Host.Outcome State Fault Refusal := ev true (recv s 0x08 8 frame probeRx)

/-- GOFF and the one-way delay of one probe, halves rounded up (R608, log entry 133). -/
def probeResult (t1 t2 t3 t4 : Grain) : BitVec 64 × BitVec 64 :=
  let half := fun (x : Int) => BitVec.ofInt 64 ((x + 1).fdiv 2)
  (half ((t2 - t1).toInt + (t3 - t4).toInt), half ((t4 - t1).toInt - (t3 - t2).toInt))

/-- The digest check of step 1 goes as a READY with ALIGN and TWIN 0 (R608, R622, log entry 134). -/
def digestSend (s : State) : State :=
  torvSend s 0x07 (leBytes 8 (pairGrain s).toNat ++ leBytes 2 (newest s).num.toNat ++ List.replicate 6 0 ++ digest s)

/-- Sixteen probes agree in GOFF and their delay allows the LAG (R608, R612). -/
def probesGood (s : State) : Bool :=
  match s.twn.probes with
  | p :: r => r.all (fun q => decide (q.1 = p.1)) &&
      (p :: r).all fun q => decide (2 * q.2.toInt + 128 ≤ (s.twn.lag.toNat : Int))
  | [] => false

/-- PROBE_REPLY at the junior: the next probe, or GOFF is set, or CAUSE LAG (R608, R612). -/
def probeReplyRx (s : State) (b : List Byte) : State :=
  if joining s ∧ s.twn.joinStep = 1 ∧ !senior s then
    let s := { s with twn := { s.twn with
      probes := s.twn.probes ++ [probeResult (grainAt b 0) (grainAt b 8) (grainAt b 16) s.gr.count] } }
    if s.twn.probes.length < 16 then probeSend s
    else if probesGood s then
      digestSend { s with twn := { s.twn with goff := (s.twn.probes.head?.map (·.1)).getD s.twn.goff } }
    else joinFail s 4
  else s

def execTorvProbeReply (frame : List Byte) (s : State) : Host.Outcome State Fault Refusal :=
  ev true (recv s 0x09 24 frame probeReplyRx)

/-! ## Bulk transfer (R609, R622 step 2, R624) -/

/-- A way as a way record; touches and windows are in pair grains (R609). -/
def wayRecord (s : State) (x : Option FdbEnt) : List Byte :=
  match x with
  | none => List.replicate 32 0
  | some e =>
    beBytes 6 e.mac.toNat ++ leBytes 2 e.vid.toNat ++ leBytes 1 e.port ++
      leBytes 1 (1 + 2 * b1 e.static + 4 * b1 e.flapping + 8 * b1 e.pair) ++ leBytes 1 e.moves ++ [0] ++
      leBytes 8 (toPair s e.wstart).toNat ++ leBytes 8 (toPair s e.touch).toNat ++ leBytes 4 0

/-- A way from a way record: VALID = 0 empties it, an entry comes with TWIN = 1. -/
def wayOf (s : State) (b : List Byte) : Option FdbEnt :=
  let fl := le b 9 1
  if fl.testBit 0 then
    some { mac := BitVec.ofNat 48 (be b 0 6), vid := BitVec.ofNat 12 (le b 6 2), port := le b 8 1, static := fl.testBit 1,
           flapping := fl.testBit 2, pair := fl.testBit 3, twin := true, moves := le b 10 1, wstart := fromPair s (grainAt b 12),
           touch := fromPair s (grainAt b 20), chg := none }
  else none

/-- Buckets of the regions that are transferred. -/
def xferBuckets (s : State) : List Nat :=
  s.twn.xfer.flatMap fun n => (List.range (fdbSize s n * 1024)).map fun k => fdbBase s n * 1024 + k

/-- One bucket goes out. -/
def bulkSend (s : State) (b : Nat) : State :=
  torvSend s 0x0A (leBytes 1 s.twn.pass ++ leBytes 3 0 ++ leBytes 4 b ++
    (List.range 4).flatMap fun w => wayRecord s (fdbEnt s b w))

/-- What the end of a transfer releases; in a rejoin step 3 begins. -/
def xferEnd (s : State) : State :=
  let s := { s with twn := { s.twn with
    holdLearn := s.twn.holdLearn.filter fun n => !s.twn.xfer.contains n, xfer := [], pass := 0, sentBuckets := [] } }
  if s.twn.state = twJOINING then { s with twn := { s.twn with joinStep := 3 } } else s

/-- One pass: the buckets not yet sent or changed since, then BULK_END; a pass of none ends the transfer; from the eighth pass on
the sender holds its own learning (R622). -/
def sendPass (s : State) : State :=
  if s.twn.xfer.isEmpty then s
  else
    let s := { s with twn := { s.twn with
      pass := s.twn.pass + 1
      holdLearn := if 8 ≤ s.twn.pass + 1 then (s.twn.holdLearn ++ s.twn.xfer).eraseDups else s.twn.holdLearn } }
    let l := (xferBuckets s).filter fun b => !s.twn.sentBuckets.contains b
    let s := l.foldl bulkSend s
    let s := torvSend { s with twn := { s.twn with sentBuckets := s.twn.sentBuckets ++ l } } 0x0B
      (leBytes 1 s.twn.pass ++ leBytes 3 0 ++ leBytes 4 l.length)
    if l.isEmpty then xferEnd s else s

/-- A BULK frame is awaited for a bucket: at the junior of a rejoin, or of a partition whose region this device takes over
again (R622, R624). -/
def takesBulk (s : State) (b : Nat) : Bool :=
  match bucketOwner s b with
  | some n => s.twn.holdLearn.contains n && !s.twn.xfer.contains n
  | none => false

/-- BULK: each way of the bucket is replaced (R609). -/
def bulkRx (s : State) (b : List Byte) : State :=
  let k := le b 4 4
  if takesBulk s k then
    (List.range 4).foldl (fun t w => setFdbEnt t k w (wayOf s (slice b (8 + 32 * w) 32))) s
  else s

def execTorvBulk (frame : List Byte) (s : State) : Host.Outcome State Fault Refusal := ev true (recv s 0x0A 136 frame bulkRx)

/-- BULK_END: a pass of no bucket ends the transfer; PASS 0 asks for the region of partition COUNT (R622, R624, log entry 126). -/
def bulkEndRx (s : State) (b : List Byte) : State :=
  let n := le b 4 4
  if le b 0 1 = 0 then
    (if paired s ∧ n < 16 then
      sendPass { s with twn := { s.twn with
        holdLearn := (n :: s.twn.holdLearn).eraseDups, xfer := (n :: s.twn.xfer).eraseDups } }
     else s)
  else if n = 0 then
    let s := { s with twn := { s.twn with holdLearn := s.twn.holdLearn.filter fun n => s.twn.xfer.contains n } }
    (if joining s ∧ s.twn.joinStep = 2 ∧ !senior s then { s with twn := { s.twn with joinStep := 3 } } else s)
  else s

def execTorvBulkEnd (frame : List Byte) (s : State) : Host.Outcome State Fault Refusal :=
  ev true (recv s 0x0B 8 frame bulkEndRx)

/-- KEEPALIVE: STATE and CC_FENCED of the sender; the next pass of a transfer goes out (R606, R608, log entry 135). -/
def keepaliveRx (s : State) (b : List Byte) : State :=
  sendPass { s with twn := { s.twn with
    lastKa := some s.gr.count, partState := BitVec.ofNat 3 (le b 0 1), partCcFenced := (le b 1 1).testBit 0 } }

def execTorvKeepalive (frame : List Byte) (s : State) : Host.Outcome State Fault Refusal :=
  ev true (recv s 0x01 8 frame keepaliveRx)

/-! ## READY (R616, R622 steps 1 and 3) -/

/-- Step 1 ends at both devices: equal digests begin the transfer, others fail with CAUSE CFG. -/
def digestJudge (s : State) (d : List Byte) : State :=
  let s := if senior s then digestSend s else s
  if d ≠ digest s then joinFail s 5
  else if senior s then sendPass { s with twn := { s.twn with joinStep := 2, xfer := shareParts s, pass := 0, sentBuckets := [] } }
  else { s with twn := { s.twn with joinStep := 2, holdLearn := shareParts s } }

/-- The entries of a twin-scoped transaction become its commit on the partner (R616). -/
def remoteCommit (s : State) (g : Grain) : State :=
  match s.cfg.txns.find? (·.remote) with
  | some t =>
    let c : Commit := { pt := t.pt, twin := true, at_ := fromPair s g, cmd := none, drainOk := true, image := none, sets := t.sets,
                        waiting := true, until_ := fromPair s g + BitVec.ofNat 64 (tMax s + 64000), remote := true }
    addCommit { s with cfg := { s.cfg with txns := s.cfg.txns.filter fun t => !t.remote } } c
  | none => s

/-- READY. -/
def readyRx (s : State) (b : List Byte) : State :=
  let g := grainAt b 0
  let twin := (le b 10 1).testBit 0
  let align := (le b 10 1).testBit 1
  let d := slice b 16 32
  let stored := { s with twn := { s.twn with partReady := some (g, BitVec.ofNat 16 (le b 8 2), twin), digest := d } }
  if paired s then (if twin then remoteCommit stored g else stored)
  else if !joining s then s
  else if align then stored
  else if s.twn.joinStep = 1 then digestJudge s d
  else s

/-- A device answers READY, or states its own in step 3 of a rejoin, once it may open an epoch (R616, R622). -/
def readyAnswer (s : State) : State :=
  let free := s.cfg.epochs.length < 2 ∧ (s.cfg.commits.filter (·.remote)).all (mayOpen s s.gr.count)
  if s.twn.ready.isSome ∨ !free then s
  else if paired s ∧ s.twn.partReady.isSome then readySend s (pairGrain s) false false
  else if joining s ∧ s.twn.joinStep = 3 then readySend s (pairGrain s) false true
  else s

def execTorvReady (frame : List Byte) (s : State) : Host.Outcome State Fault Refusal :=
  ev true (recv s 0x07 48 frame fun s b => readyAnswer (readyRx s b))

/-! ## Carried decisions (R613-R617) -/

/-- DECISION: late, or it waits for its grain; shared decisions run while PAIRED and from grain a of a rejoin. -/
def decisionRx (s : State) (b : List Byte) : State :=
  let g := grainAt b 0
  let n := le b 9 1 % 16
  let d : Shared :=
    { apply := g, remote := true, index := le b 10 2, cmd := none, carried := none, ok := true,
      learn := if le b 8 1 = 0 then
          some { pt := n, mac := BitVec.ofNat 48 (be b 16 6), vid := BitVec.ofNat 12 (le b 22 2), port := le b 24 1 }
        else none
      bucket := if le b 8 1 = 1 then some (le b 16 4) else none }
  if !paired s && !joining s then s
  else if before g (pairGrain s) then lateDecision s
  else if 1 < le b 8 1 then s
  else { s with twn := { s.twn with shared := s.twn.shared ++ [d] } }

def execTorvDecision (frame : List Byte) (s : State) : Host.Outcome State Fault Refusal :=
  ev true (recv s 0x02 32 frame decisionRx)

/-- TOUCH: the larger of TOUCH and the carried value (R614). -/
def touchRx (s : State) (b : List Byte) : State :=
  let n := le b 8 1 % 16
  let mac := BitVec.ofNat 48 (be b 0 6)
  let vid := BitVec.ofNat 12 (le b 6 2)
  match fdbBucket s n mac vid with
  | some k =>
    (match fdbFind s k mac vid with
     | some (w, x) => setFdbEnt s k w (some { x with touch := later x.touch (fromPair s (grainAt b 16)) })
     | none => s)
  | none => s

def execTorvTouch (frame : List Byte) (s : State) : Host.Outcome State Fault Refusal := ev true (recv s 0x03 24 frame touchRx)

/-- A setting of a twin-scoped transaction (R608). -/
def entryRx (s : State) (n : Nat) (bytes : List Byte) : State :=
  let k := skey (le bytes 8 4) (le bytes 12 2)
  let v := wordsLE (le bytes 14 1) bytes 16
  let txns := if s.cfg.txns.any (·.remote) then s.cfg.txns else s.cfg.txns ++ [{ pt := n, remote := true, sets := [] }]
  { s with cfg := { s.cfg with txns := txns.map fun t => if t.remote then { t with pt := n, sets := putSet t.sets k v } else t } }

/-- COMMAND (R199, R615): checked as if PT n had issued it; the verdict goes back, and an accepted command waits for its grain. -/
def commandRx (s : State) (b : List Byte) : State :=
  let g := grainAt b 0
  let n := le b 8 1 % 16
  let bytes := slice b 16 64
  if !paired s then s
  else if le bytes 0 1 = 0x21 then entryRx s n bytes
  else if before g (pairGrain s) then lateDecision s
  else
    let id := s.cq.nextCmd
    let t := addCmd s n none bytes s.gr.count
    match cmdAt t id with
    | none => s
    | some c =>
      let st := match firstFail t c with | some f => f.1 | none => stDONE
      let t := torvSend t 0x05 (leBytes 8 g.toNat ++ leBytes 1 n ++ leBytes 1 st ++ leBytes 2 (tagOf c) ++ leBytes 4 0)
      if st = stDONE then
        running { t with twn := { t.twn with shared := t.twn.shared ++
          [{ apply := g, remote := true, index := 128, learn := none, bucket := none, cmd := some id, carried := some (n, bytes),
             ok := true }] } } id
      else dropCmd t id

def execTorvCommand (frame : List Byte) (s : State) : Host.Outcome State Fault Refusal :=
  ev true (recv s 0x04 80 frame commandRx)

/-- A waiting command of this device is the one a verdict names. -/
def verdictOf (s : State) (g : Grain) (n tag : Nat) (d : Shared) : Bool :=
  match d.cmd.bind (cmdAt s) with
  | some c => !d.remote && decide (d.apply = g) && decide (c.pt = n) && decide (tagOf c = tag)
  | none => false

/-- VERDICT (R615): both accept, or the issuer completes with the partner's status. -/
def verdictRx (s : State) (b : List Byte) : State :=
  let g := grainAt b 0
  let st := le b 9 1
  match s.twn.shared.find? (verdictOf s g (le b 8 1 % 16) (le b 10 2 % 4096)) with
  | some d =>
    if before g (pairGrain s) then lateDecision s
    else if st ≤ 1 then
      { s with twn := { s.twn with shared := s.twn.shared.map fun x => if x = d then { x with ok := true } else x } }
    else completeOpt { s with twn := { s.twn with shared := s.twn.shared.filter fun x => decide (x ≠ d) } } d.cmd st []
  | none => s

def execTorvVerdict (frame : List Byte) (s : State) : Host.Outcome State Fault Refusal :=
  ev true (recv s 0x05 16 frame verdictRx)

/-- The change that a TIME frame carries (R608). -/
def timeOf (b : List Byte) : TimeChg :=
  let fl := le b 8 1
  let t := tMake (le b 24 6) (le b 30 4) (le b 34 1)
  { apply := grainAt b 0
    setF := if fl.testBit 0 then some (BitVec.ofNat 40 (le b 9 5)) else none
    step := if fl.testBit 1 then some (signed 32 (le b 18 4) * 2 ^ 48 + (le b 22 1 * 2 ^ 40 : Nat)) else none
    set := if fl.testBit 3 then some (t + le b 35 5) else if fl.testBit 2 then some t else none
    load := fl.testBit 3
    trace := fl.testBit 4
    est := if fl.testBit 5 then some (BitVec.ofNat 32 (le b 14 4)) else none }

/-- TIME at the junior (R617, R622 step 4). -/
def timeRx (s : State) (b : List Byte) : State :=
  let c := timeOf b
  if senior s || !(paired s || (joining s && c.load)) then s
  else if before c.apply (pairGrain s) then lateDecision s
  else { s with twn := { s.twn with times := s.twn.times ++ [c] } }

def execTorvTime (frame : List Byte) (s : State) : Host.Outcome State Fault Refusal := ev true (recv s 0x06 40 frame timeRx)

/-- NOTICE: event 676 (R625, R627). -/
def noticeRx (s : State) (b : List Byte) : State := raise s 676 (le b 0 2) (le b 2 2)

def execTorvNotice (frame : List Byte) (s : State) : Host.Outcome State Fault Refusal := ev true (recv s 0x0C 8 frame noticeRx)

/-! ## Shared decisions at their grain (R40, R613, R616, R622) -/

/-- A shared decision originated on the senior. -/
def fromSenior (s : State) (d : Shared) : Bool := senior s != d.remote

/-- The order of shared decisions: grain, class, senior before junior, index (R40). -/
def sharedBefore (s : State) (a b : Shared) : Bool :=
  let key := fun (d : Shared) => 2 ^ 20 * sharedCls d + 2 ^ 18 * b1 (!fromSenior s d) + d.index
  before a.apply b.apply || (decide (a.apply = b.apply) && decide (key a < key b))

/-- The first due shared decision. -/
def sharedFirst (s : State) : Option Shared :=
  (s.twn.shared.filter (sharedDue s)).foldl (fun (best : Option Shared) d =>
    match best with
    | none => some d
    | some x => if sharedBefore s d x then some d else some x) none

/-- The end of a twin-scoped command that no verdict of the partner admits (R200, log entry 136). -/
def unsharedStatus (s : State) : Nat := if s.twn.state = twSEPARATED then stTWIN_SEPARATED else stTWIN_ABSENT

/-- A shared decision is applied at its grain. -/
def sharedApply (s : State) (d : Shared) : State :=
  let s : State := { s with twn := { s.twn with shared := s.twn.shared.erase d } }
  let g := fromPair s d.apply
  match d.learn, d.bucket, d.cmd.bind (cmdAt s) with
  | some e, _, _ => learnApply s e g d.remote
  | none, some b, _ => sweepApply s b g d.remote
  | none, none, some c =>
    if d.ok then
      let r := fdbEff s c.pt c.bytes g d.remote
      complete r.1 c.id r.2.1 r.2.2
    else complete s c.id (unsharedStatus s) []
  | none, none, none => s

/-- A local commit opens the epoch that both devices agreed on (R616). -/
def ownOpening (s : State) : Bool := s.cfg.commits.any fun c => c.waiting && mayOpen s s.gr.count c

/-- Step 4 begins at grain a: the senior states its time at t = a + LAG (R622, log entry 137). -/
def timeLoad (s : State) (a : Grain) : State :=
  let t := a + lagOf s
  let s := { s with twn := { s.twn with joinStep := 4, joinAt := t } }
  if senior s then
    let v := tAdd s.tb.t (((t - pairGrain s).toNat : Int) * (2 ^ 48 + s.tb.f.toInt))
    torvSend s 0x06 (timeBody { apply := t, setF := some s.tb.f, step := none, set := some v, load := true, trace := s.tb.traceable,
                                est := some s.tb.errEst })
  else s

/-- An agreed opening without a commit of this device: the partner's epoch, or the alignment of a rejoin (R616, R622 step 3). -/
def sharedOpening (s : State) (a : Grain) : State :=
  let bad := digestDiffers s
  let numOf := fun (x : Option (Grain × BitVec 16 × Bool)) => (x.map (·.2.1)).getD 0
  let num := (if (numOf s.twn.ready).toNat < (numOf s.twn.partReady).toNat then numOf s.twn.partReady else numOf s.twn.ready) + 1
  let join := decide (s.twn.state = twJOINING)
  let s := openNumbered { s with twn := { s.twn with ready := none, partReady := none } } (fromPair s a) num
  if join then timeLoad s a
  else if bad then twinTo s twSEPARATED 5
  else s

/-- A shared decision at the front of its order, or an agreed opening, reaches its pair grain. -/
def sharedDecisionApply (s : State) : State :=
  match sharedFirst s with
  | some d => if s.gr.backlog.all (sharedAhead s d) then sharedApply s d else s
  | none =>
    match openAt s with
    | some a =>
      if !before (pairGrain s) a ∧ s.cfg.epochs.length < 2 ∧ (paired s ∨ joining s) ∧ !(paired s && ownOpening s) then
        sharedOpening s a
      else s
    | none => s

def execSharedDecisionApply (s : State) : Host.Outcome State Fault Refusal := ev true (powered s (sharedDecisionApply s))

/-- Grain t of a rejoin: the junior loads the senior's time, HOLDOVER clears, both devices are PAIRED (R622 step 4, R623). -/
def rejoinComplete (s : State) : State :=
  let loads := s.twn.times.filter (·.load)
  if joining s ∧ s.twn.joinStep = 4 ∧ !before (pairGrain s) s.twn.joinAt ∧ (senior s ∨ !loads.isEmpty) then
    let s : State := { s with twn := { s.twn with times := s.twn.times.filter fun c => !c.load, joinStep := 0, retry := false } }
    let s := if senior s then s
      else
        let s := loads.foldl timeChgApply s
        validUpdate { s with tb := { s.tb with holdover := false } }
    joinsEnd (twinTo s twPAIRED 0) stDONE (leBytes 8 s.twn.joinAt.toNat)
  else s

def execRejoinComplete (s : State) : Host.Outcome State Fault Refusal := ev true (rejoinComplete s)

/-! ## Presence (R610, R611, R619) -/

/-- TWN_ALIVE_OUT toggles while it runs. -/
def aliveToggle (s : State) : State :=
  if s.twn.aliveRun then { s with twn := { s.twn with aliveOut := !s.twn.aliveOut } } else s

def execAliveToggle (s : State) : Host.Outcome State Fault Refusal := ev true (aliveToggle s)

/-- No edge for 25 µs: A stops and the link closes; the twin state waits for the witness (R610, R619). -/
def aliveStopped (s : State) : State :=
  if s.twn.alive then
    let s := { s with twn := { s.twn with alive := false, aliveStop := some s.gr.count } }
    linkDown s 2
  else s

def execAliveInStopped (s : State) : Host.Outcome State Fault Refusal := ev true (aliveStopped s)

/-- TWN_ALIVE_IN toggles again: a pair whose link is down is SEPARATED (R619). -/
def aliveReturn (s : State) : State :=
  let s := { s with twn := { s.twn with alive := true, aliveStop := none } }
  if !s.twn.link && (paired s || decide (s.twn.state = twSOLO)) then twinTo s twSEPARATED 1
  else linkHolds s

def execAliveInReturn (s : State) : Host.Outcome State Fault Refusal := ev true (if s.twn.alive || s.dev.inReset then s else aliveReturn s)

/-- Offset of the witness sample in 16,000 pair grains (R611). -/
def witnessAt (s : State) : Nat := if senior s then 750 else 8750

/-- The rows of the transition table for A stopped (R619): `held`, the last sample showed the partner holding the line. -/
def aliveLost (s : State) (held : Bool) : State :=
  let st := s.twn.state
  if st = twPAIRED ∨ st = twSEPARATED then (if held && !senior s then twinTo s twSOLO 2 else twinTo s twLOST 2)
  else if st = twSOLO ∧ !held then twinTo s twLOST 2
  else s

/-- A witness sample of the device's own sense window; used after its first PAIRED state since device reset. -/
def witnessSample (level : Bool) (s : State) : State :=
  if s.twn.pairedOnce ∧ !s.dev.inReset ∧ (pairGrain s).toNat % 16000 = witnessAt s then
    let s := { s with twn := { s.twn with witness := !level } }
    (match s.twn.aliveStop with
     | some g => if s.twn.alive ∨ s.gr.count = g then s else aliveLost s (!level)
     | none => s)
  else s

def execWitnessSample (level : Bool) (s : State) : Host.Outcome State Fault Refusal := ev true (witnessSample level s)

/-! ## Registers and TWIN_REJOIN (R619, R623, R626) -/

/-- EN = 0: OFF from any state; the link closes (R619, R626). -/
def twinOff (s : State) : State :=
  let s := joinsEnd (linkOff s) stTWIN_ABSENT []
  twinTo (readyClear { s with twn := { s.twn with joinStep := 0, retry := false, times := s.twn.times.filter fun c => !c.load } })
    twOFF 7

/-- AUTO set to 1 with L and A begins the rejoin of a SEPARATED or SOLO-HOLD device. -/
def autoJoin (s : State) : State :=
  if s.twn.state = twSEPARATED ∨ s.twn.state = twSOLO then (if s.twn.retry then s else linkHolds s) else s

/-- TWN_CTL written: LAG and JSRC only in OFF; EN makes or leaves OFF. -/
def twnCtlWrite (v : W32) (s : State) : State :=
  let off := decide (s.twn.state = twOFF)
  let lagOk := off && decide (256 ≤ fld v 16 12)
  let s := { s with twn := { s.twn with
    en := bit v 0, auto := bit v 1
    jsrc := if off then BitVec.ofNat 2 (fld v 2 2) else s.twn.jsrc
    lag := if lagOk then BitVec.ofNat 12 (fld v 16 12) else s.twn.lag } }
  if !bit v 0 then (if off then s else twinOff s)
  else if off then { twinTo s twJOINING 0 with twn := { (twinTo s twJOINING 0).twn with joinFrom := twOFF } }
  else autoJoin s

def execTwnCtlWrite (m : Master) (v : W32) (s : State) : Host.Outcome State Fault Refusal :=
  ev m.wf (regWr s m 0x07E00000 (twnCtlWrite v))

/-- TWN_SHARE written, in OFF only. -/
def twnShareWrite (v : W32) (s : State) : State :=
  if s.twn.state = twOFF then { s with twn := { s.twn with share := BitVec.ofNat 16 (fld v 0 16) } } else s

/-- TWN registers as read, offset from 0x07E0_0000. -/
def twnRead (s : State) (off : Nat) : Option W32 :=
  let t := s.twn
  if off = 0x00 then some (w32 (b1 t.en + 2 * b1 t.auto + 4 * t.jsrc.toNat + 2 ^ 16 * t.lag.toNat))
  else if off = 0x04 then
    some (w32 (t.state.toNat + 8 * b1 (senior s) + 16 * b1 t.link + 32 * b1 t.alive + 64 * b1 t.witness + 256 * t.cause.toNat))
  else if off = 0x08 then some (w32 t.share.toNat)
  else if off = 0x0C then some (w32 t.goff.toNat)
  else if off = 0x10 then some t.goffHi
  else if off = 0x14 then some (w32 (t.late.toNat + 2 ^ 16 * t.seps.toNat))
  else none

/-- What a normal read takes: GOFF_HI is latched, the counters clear. -/
def twnTake (s : State) (off : Nat) : State :=
  if off = 0x0C then { s with twn := { s.twn with goffHi := w32 (s.twn.goff.toNat / 2 ^ 32) } }
  else if off = 0x14 then { s with twn := { s.twn with late := 0, seps := 0 } }
  else s

/-- TWIN_REJOIN (R623, R226). -/
def twinRejoin (s : State) (c : Cmd) : State :=
  if paired s then complete s c.id stNOTE (leBytes 8 s.twn.joinAt.toNat)
  else if s.twn.state = twOFF ∨ s.twn.state = twLOST ∨ s.twn.partCcFenced then complete s c.id stTWIN_ABSENT []
  else if !s.twn.link then complete s c.id stTWIN_SEPARATED []
  else
    let s := running { s with twn := { s.twn with joinCmds := s.twn.joinCmds ++ [c.id] } } c.id
    if s.twn.state = twJOINING then s else linkHolds s

def execTwinRejoin (id : Nat) (s : State) : Host.Outcome State Fault Refusal := ev true (runCmd s id 0x78 twinRejoin)

end Sys2Proof.Machine
end

