-- ==== Sys2Proof/Machine/Sequencer.lean ====
section
/-! DEFINITION. The grain sequencer (spec/02): a grain boundary, admission into the backlog, the decisions that have no block of
their own, and their application. -/

namespace Sys2Proof.Machine

/-! ## Writes that act from the next grain (R64, R81, R108, R271, R275, R338, R399, R516, R560, R600) -/

/-- A write that waited for the boundary takes effect. -/
def pendApply (s : State) (w : Nat × W32) : State :=
  let a := w.1
  let v := w.2
  if a = 0x00200040 then validApply s v
  else if 0x00300000 ≤ a ∧ a < 0x00360000 then tsuWrite s ((a - 0x00300000) / 0x1000) (a % 0x1000) v
  else if 0x00400000 ≤ a ∧ a < 0x00400400 then evcCtlApply s ((a - 0x00400000) / 0x20) v
  else if 0x01000000 ≤ a ∧ a < 0x01600000 then
    (if a % 0x10000 = 0 then portCtlApply s ((a - 0x01000000) / 0x10000) v else txeqApply s ((a - 0x01000000) / 0x10000) v)
  else if a = 0x03C00000 then rsqCtlApply s v
  else if 0x07010000 ≤ a ∧ a < 0x07010400 then semApply s ((a - 0x07010000) / 0x10) (a % 0x10) v
  else if 0x07800000 ≤ a ∧ a < 0x07810000 then pwrApply s (a - 0x07800000) v
  else if 0x07810000 ≤ a ∧ a < 0x07820000 then hupApply s (a - 0x07810000) v
  else if 0x07820000 ≤ a ∧ a < 0x07830000 then prmApply s (a - 0x07820000) v
  else if 0x07D00000 ≤ a ∧ a < 0x07D03000 then pmcApply s (a - 0x07D00000) v
  else if a = 0x07F00000 then cascOff s
  else s

/-- All of them, in the order in which they were made. -/
def pendAll (s : State) : State := s.bus.pend.foldl pendApply { s with bus := { s.bus with pend := [] } }

/-! ## The inputs of a boundary (R36, R38, R39) -/

/-- An input in its place, after those of its own source. -/
def insInp (x : Inp) : List Inp → List Inp
  | [] => [x]
  | y :: r => if inpBefore x y then x :: y :: r else y :: insInp x r

/-- Inputs in the order of R38; of one source, as they came. -/
def sortInps (l : List Inp) : List Inp := l.foldl (fun a x => insInp x a) []

/-- A radio channel is up (R457). -/
def radioUp (s : State) (m : Nat) : Bool := rActive s m && !(radioAt s m).fenced

/-- Link changes of the radio ports (R457). -/
def radioLinks (s : State) : State :=
  (List.range 4).foldl (fun (s : State) m =>
    let u := radioUp s m
    if u = (radioAt s m).upSeen then s
    else see (setRadio s m { radioAt s m with upSeen := u }) 4 (96 + m) (.link (96 + m) u 0)) s

/-- A shared decision of this device at pair grain seen + LAG, and its DECISION frame (R608, R613). -/
def shareOut (s : State) (n idx kind : Nat) (e : Option LearnEv) (b : Option Nat) : State :=
  let g := pairGrain s + lagOf s
  let d : Shared := { apply := g, remote := false, index := idx, learn := e, bucket := b, cmd := none, carried := none, ok := true }
  let body := match e with
    | some e => beBytes 6 e.mac.toNat ++ leBytes 2 e.vid.toNat ++ leBytes 1 e.port ++ List.replicate 7 0
    | none => leBytes 4 (b.getD 0) ++ List.replicate 12 0
  torvSend { s with twn := { s.twn with shared := s.twn.shared ++ [d] } } 0x02
    (leBytes 8 g.toNat ++ leBytes 1 kind ++ leBytes 1 n ++ leBytes 2 idx ++ leBytes 4 0 ++ body)

/-- Learning events of shared partitions leave the learn queue as shared decisions, while 16,384 are not held (R613). -/
def shareLearns (s : State) : State :=
  s.fdb.learnQ.foldl (fun (s : State) e =>
    if shares s e.pt && !s.twn.holdLearn.contains e.pt && decide (s.twn.shared.length < 16384) then
      shareOut { s with fdb := { s.fdb with learnQ := s.fdb.learnQ.erase e } } e.pt e.port 0 (some e) none
    else s) s

/-- The learning events that wait for the sequencer alone. -/
def ownLearns (s : State) : List LearnEv :=
  s.fdb.learnQ.filter fun e => !shares s e.pt && !s.twn.holdLearn.contains e.pt

/-- The sweep step of this grain (R334); of a shared partition it is the senior's shared decision (R613). -/
def sweepSee (s : State) : State :=
  match sweepDue s.gr.count with
  | some b =>
    (match bucketOwner s b with
     | some n =>
       if shares s n then (if senior s then shareOut s n 128 1 none (some b) else s)
       else see s 6 128 (.sweep b)
     | none => see s 6 128 (.sweep b))
  | none => s

/-- The commits presented at this grain (R235, R239). -/
def commitSee (s : State) : State :=
  (commitsDue s).foldl (fun (s : State) i =>
    if s.gr.waiting.any (fun e => decide (e.inp.what = .commit i)) || s.gr.seen.any (fun x => decide (x.what = .commit i)) then s
    else see s 5 i (.commit i)) s

/-! ## Admission (R42-R44) -/

/-- A source with 8 inputs pending presents no further change. -/
def sourceFull (s : State) (x : Inp) : Bool :=
  decide (8 ≤ (s.gr.waiting.filter fun e => decide (e.inp.cls = x.cls) && decide (e.inp.idx = x.idx)).length)

/-- The learning event of an input. -/
def learnOf (x : Inp) : Option LearnEv := match x.what with | .learn e => some e | _ => none

/-- A command is stamped at the grain at which its input is admitted (R43, R44). -/
def stampCmd (s : State) (x : Inp) : State :=
  match x.what with
  | .command id => modCmd s id fun c => { c with arrive := s.gr.count }
  | _ => s

/-- Classes P0-P5 are appended as far as the backlog has room, in order; the rest wait with their stamp. -/
def admitHigh (s : State) : State :=
  let full := s.gr.seen.filter fun x => decide (x.cls ≤ 5) && sourceFull s x
  let new_ := (sortInps (s.gr.seen.filter fun x => decide (x.cls ≤ 5) && !sourceFull s x)).map fun x => (⟨s.gr.count, x⟩ : Entry)
  let l := s.gr.waiting ++ new_
  let room := 4096 - s.gr.backlog.length
  { s with gr := { s.gr with
      backlog := s.gr.backlog ++ l.take room
      waiting := l.drop room
      seen := full ++ s.gr.seen.filter fun x => decide (6 ≤ x.cls) } }

/-- Classes P6 and P7 are appended while no other input waits and fewer than 3,584 entries are held; the rest wait at their
sources. -/
def admitLow (s : State) : State :=
  let low := s.gr.seen.filter fun x => decide (6 ≤ x.cls)
  let l := sortInps ((ownLearns s).map (fun e => (⟨6, e.port, .learn e⟩ : Inp)) ++ low)
  let room := if s.gr.waiting.isEmpty then 3584 - s.gr.backlog.length else 0
  let in_ := l.take room
  let taken := in_.filterMap learnOf
  let s1 : State := { s with
    gr := { s.gr with
      backlog := s.gr.backlog ++ in_.map fun x => ⟨s.gr.count, x⟩
      seen := (s.gr.seen.filter fun x => decide (x.cls ≤ 5)) ++ (l.drop room).filter fun x => (learnOf x).isNone }
    fdb := { s.fdb with learnQ := s.fdb.learnQ.filter fun e => !taken.contains e } }
  in_.foldl stampCmd s1

/-- HOLDING, its count and the greatest depth (R43, R47-R49). -/
def holdUpdate (s : State) : State :=
  let n := s.gr.backlog.length
  let h := decide (3584 ≤ n)
  { s with gr := { s.gr with
      holding := h, holdCnt := if h then satInc s.gr.holdCnt else s.gr.holdCnt, maxDepth := max s.gr.maxDepth n } }

/-! ## The boundary -/

/-- The first grain of a latency window in which no cell is free (R400). -/
def poolEmpty (s : State) : State := if freeCells s = 0 then raiseOnce s 3 0 664 0 0 else s

/-- A keep-alive every 1,000 grains (R606, R608). -/
def keepaliveSend (s : State) : State :=
  if s.gr.count.toNat % 1000 = 0 then
    torvSend s 0x01 (leBytes 1 s.twn.state.toNat ++ leBytes 1 (b1 (ccFenced s)) ++ List.replicate 6 0)
  else s

/-- GR_COUNT, TB_TIME and the counters that count grains. -/
def grainTick (xoPpm : BitVec 12) (s : State) : State :=
  let s : State := { s with gr := { s.gr with count := s.gr.count + 1, lock := true, xoPpm := xoPpm } }
  let s := wdogGrain (aonGrain (tbBoundary s))
  let s := (List.range 64).foldl watchGrain s
  occupancyCount (censusBoundary s)

/-- A grain boundary: it exists while D1's clock runs (R35, R36). -/
def grainBoundary (xoPpm : BitVec 12) (s : State) : State :=
  if !clkOk s 1 || s.dev.inReset then s
  else
    let s := validUpdate (pendAll (grainTick xoPpm s))
    let s := readyAnswer (resetsEnded s)
    let s := commitSee (sweepSee (shareLearns (radioLinks s)))
    let s := holdUpdate (admitLow (admitHigh s))
    keepaliveSend (poolEmpty (creditBoundary s))

def execGrainBoundary (xoPpm : BitVec 12) (s : State) : Host.Outcome State Fault Refusal := ev true (grainBoundary xoPpm s)

/-! ## Link decisions (R266, R273, R276, R385, R457) -/

/-- An up decision of an Ethernet port. -/
def portUp (s : State) (p : Nat) (g : Grain) : State :=
  let s := setPort s p { portAt s p with up := true, down := false, decAt := g }
  let s := setSched s p { schedAt s p with verify := if portPreempt s p then 1 else 0 }
  raiseAt s (4 * p) 1 0 g

/-- A down decision of an Ethernet port: queues flushed, the TSU's match table cleared. -/
def portDown (s : State) (p : Nat) (cause : BitVec 4) (g : Grain) : State :=
  let x := portAt s p
  let s := setPort s p { x with up := false, down := true, decAt := g, cause := cause, downs := satInc x.downs }
  let s := flushPort s p
  let s := setTsu s p { tsuAt s p with table := [] }
  let s := setSched s p { schedAt s p with verify := 0 }
  raiseAt s (4 * p) 0 cause.toNat g

/-- A P4 decision of a logical port. -/
def linkApply (s : State) (p : Nat) (up : Bool) (cause : BitVec 4) (g : Grain) : State :=
  if p < 96 then (if up then portUp s p g else portDown s p cause g)
  else setRadio s (p - 96) { radioAt s (p - 96) with up := up, decAt := g }

def linkDecision (s : State) : State :=
  match takeHead s fun d => match d with | .link .. => true | _ => false with
  | some (s, e) => (match e.inp.what with | .link p up c => linkApply s p up c e.stamp | _ => s)
  | none => s

def execLinkDecision (s : State) : Host.Outcome State Fault Refusal := ev true (linkDecision s)

/-! ## Learning and sweep decisions (R331, R334) -/

def learnDecision (s : State) : State :=
  match takeHead s fun d => match d with | .learn _ => true | _ => false with
  | some (s, e) => (match e.inp.what with | .learn x => learnApply s x e.stamp false | _ => s)
  | none => s

def execLearnDecision (s : State) : Host.Outcome State Fault Refusal := ev true (learnDecision s)

def ageingSweepStep (s : State) : State :=
  match takeHead s fun d => match d with | .sweep _ => true | _ => false with
  | some (s, e) => (match e.inp.what with | .sweep b => sweepApply s b e.stamp false | _ => s)
  | none => s

def execAgeingSweepStep (s : State) : Host.Outcome State Fault Refusal := ev true (ageingSweepStep s)

/-! ## The application of decisions (R38, R42) -/

/-- The head of the backlog is applied by the row of its kind. -/
def headApply (s : State) : State :=
  match s.gr.backlog with
  | [] => s
  | e :: _ =>
    match e.inp.what with
    | .store _ => prmStoreAdmit s
    | .fault _ => faultDetected none s
    | .ptnReset n => partitionReset n s
    | .link .. => linkDecision s
    | .commit _ => commitApply s
    | .learn _ => learnDecision s
    | .sweep _ => ageingSweepStep s
    | .command id => commandArrival id s

/-- Up to four decisions. -/
def backlogApply (s : State) : State := headApply (headApply (headApply (headApply s)))

def execBacklogApply (s : State) : Host.Outcome State Fault Refusal := ev true (backlogApply s)

/-! ## Registers (R45-R49) -/

/-- GR_COUNT_LO read: the high word is latched. -/
def latchCount (s : State) : State :=
  { s with gr := { s.gr with hiLatch := BitVec.ofNat 32 (s.gr.count.toNat / 2 ^ 32) } }

def execGrCountLoRead (m : Master) (s : State) : Host.Outcome State Fault Refusal :=
  ev m.wf (regRd s m 0x00100000 (fun s => w32 s.gr.count.toNat) latchCount)

/-- GR registers as read, offset from 0x0010_0000. -/
def grRead (s : State) (off : Nat) : Option W32 :=
  if off = 0x00 then some (w32 s.gr.count.toNat)
  else if off = 0x04 then some s.gr.hiLatch
  else if off = 0x08 then some (w32 (b1 s.gr.lock + 2 * b1 s.gr.holding + 2 ^ 16 * s.gr.xoPpm.toNat))
  else if off = 0x0C then some (w32 (s.gr.backlog.length + 2 ^ 16 * max s.gr.maxDepth s.gr.backlog.length))
  else if off = 0x10 then some s.gr.holdCnt
  else none

/-- What a normal read takes. -/
def grTake (s : State) (off : Nat) : State :=
  if off = 0x00 then latchCount s
  else if off = 0x0C then { s with gr := { s.gr with maxDepth := s.gr.backlog.length } }
  else if off = 0x10 then { s with gr := { s.gr with holdCnt := 0 } }
  else s

end Sys2Proof.Machine
end

