-- ==== Sys2Proof/Machine/Regs.lean ====
section
/-! DEFINITION. The control space as one map (spec/01 R21-R30, R682; spec/00 R7-R10): what every register reads, what a normal
read takes, what a write does; accesses of masters and of the debugger (spec/19 R519-R521). -/

namespace Sys2Proof.Machine

/-! ## Blocks without a register function of their own -/

/-- DEV registers as read (R13, R23-R25, R646-R648, R675). -/
def devRead (s : State) (a : Nat) : Option W32 :=
  let d := s.dev
  if a = 0x00 then some (w32 (0x09600100 + 16 * Config.grade.toNat))
  else if a = 0x04 then some (w32 (d.clkOk.toNat + 2 ^ 31 * b1 (decide (d.clkOk = 0x3FFF))))
  else if a = 0x08 then some d.accAddr
  else if a = 0x0C then
    some (w32 (d.accCause.toNat + 8 * b1 d.accWrite + 16 * d.accPt.toNat + 256 * b1 d.accCc + 2 ^ 31 * b1 d.accValid))
  else if a = 0x10 then
    some (w32 (d.phase.toNat + 16 * b1 d.bootDone + 32 * d.copy.toNat + 128 * b1 d.fwOk + 256 * b1 d.t2Done + 512 * d.reason.toNat))
  else if a = 0x14 then
    some (w32 (d.sBootSrc.toNat + 4 * b1 d.sSenior + 8 * d.sCascPos.toNat + 32 * b1 d.sMgtMode))
  else if a = 0x18 then some d.bootTime
  else if a = 0x1C then some 0
  else if a = 0x20 then some (w32 (d.tj.toNat + 2 ^ 16 * d.alarmTj.toNat + 2 ^ 31 * b1 d.hot))
  else none

/-- DEV registers as written: VALID is cleared by writing 1, the boot stream takes its word, ALARM is set. -/
def devWrite (s : State) (a : Nat) (v : W32) : State :=
  if a = 0x0C then { s with dev := { s.dev with accValid := s.dev.accValid && !bit v 31 } }
  else if a = 0x1C then bootLoadWrite v s
  else if a = 0x20 then { s with dev := { s.dev with alarmTj := BitVec.ofNat 12 (fld v 16 12) } }
  else s

/-- The word that PRS_UC_SEL names (R305): physical address and engine; the bits of a word that fails parity are open (log
entry 138). -/
def ucSelBad (s : State) : Bool := (engAt s (s.cfg.uctl.toNat / 4096)).badWords.contains (s.cfg.uctl.toNat % 4096)

def ucSelWord (s : State) : Nat :=
  if ucSelBad s then (freeVal s).toNat + 2 ^ 64 * (freeVal (freeNext s)).toNat
  else (ucodeWord s (s.cfg.uctl.toNat % 4096)).toNat

/-- PRS and CLS registers as read, offset from 0x0200_0000 (R304-R306). -/
def prsRead (s : State) (off : Nat) : Option W32 :=
  if off = 0x00 then
    some (w32 (b1 (newest s).bank + 2 * b1 (newest s).region + 4 * b1 (!s.cfg.mirrors.isEmpty)))
  else if off = 0x10 then
    some (w32 (s.cfg.uctl.toNat % 4096 + 2 ^ 16 * (s.cfg.uctl.toNat / 4096) + 2 ^ 31 * b1 (!ucSelBad s)))
  else if 0x14 ≤ off ∧ off ≤ 0x20 ∧ off % 4 = 0 then some (w32 (ucSelWord s / 2 ^ (8 * (off - 0x14))))
  else if 0x1000 ≤ off ∧ off < 0x2000 ∧ off % 4 = 0 then
    let b := (off - 0x1000) / 4
    let c := cfgEngine s (newest s) b
    let e := (effEngine s (newest s) b).getD c
    some (w32 (c + 256 * e + 65536 * b1 (decide (e ≠ c))))
  else none

/-- PRS_UC_SEL written. -/
def prsWrite (s : State) (off : Nat) (v : W32) : State :=
  if off = 0x10 then { s with cfg := { s.cfg with uctl := BitVec.ofNat 18 (fld v 0 12 + 4096 * fld v 16 6) } } else s

/-- A read of an open word uses up its free values. -/
def prsTake (s : State) (off : Nat) : State :=
  if 0x14 ≤ off ∧ off ≤ 0x20 ∧ ucSelBad s then freeNext (freeNext s) else s

/-- FE registers as read, offset within engine `e` (R136, R307, R584). -/
def feWord (s : State) (e off : Nat) : Option W32 :=
  let x := engAt s e
  if off = 0x08 then some (w32 (x.mCause.toNat + 16 * x.mAddr.toNat + 65536 * x.mCount.toNat))
  else if off = 0x0C then some (w32 (engDepth x + 65536 * x.dispDrop.toNat))
  else feRead s e off

/-- A normal read clears COUNT and DROP. -/
def feTake (s : State) (e off : Nat) : State :=
  if off = 0x08 then setEng s e { engAt s e with mCount := 0 }
  else if off = 0x0C then setEng s e { engAt s e with dispDrop := 0 }
  else s

/-- QM_REL as read, offset from 0x03F1_0000 (R135). -/
def relRead (s : State) (off : Nat) : Option W32 :=
  if off < 0x1800 ∧ off % 4 = 0 then
    let k := off / 8
    let x := queueAt s (k / 8) (k % 8)
    some (if off % 8 = 0 then w32 ((cur0 s sQM_REL k).toNat % 2 ^ 22) else w32 (x.lateSent.toNat + 65536 * x.lateDrop.toNat))
  else none

/-- A normal read of W1 clears its counters. -/
def relTake (s : State) (off : Nat) : State :=
  if off % 8 = 4 then
    let k := off / 8
    setQueue s (k / 8) (k % 8) { queueAt s (k / 8) (k % 8) with lateSent := 0, lateDrop := 0 }
  else s

/-! ## The TSU view of a partition window (R112) -/

/-- Port and offset of an address of the view. -/
def viewPort (off : Nat) : Nat := (off - 0x20000) / 0x1000
def viewOff (off : Nat) : Nat := (off - 0x20000) % 0x1000

/-- Partition `n` owns the port of the view. -/
def viewOwned (s : State) (n off : Nat) : Bool := decide (portOwner s (viewPort off) = n)

/-- The view reads as the port's registers in its owner's window and as 0 in every other. -/
def tsuViewRead (s : State) (n off : Nat) : Option W32 :=
  if viewOwned s n off then tsuRead s (viewPort off) (viewOff off) else some 0

/-- A write through the view is refused with ACCESS_OWNER: everywhere in another partition's window, of the four writable
registers in the owner's. -/
def tsuViewBars (s : State) (n off : Nat) : Bool := !viewOwned s n off || decide (viewOff off < 0x10)

/-! ## The map (R21) -/

/-- Registers of a partition's window as read (R159). -/
def windowRead (s : State) (m : Master) (n off : Nat) : Option W32 :=
  if off < 0x1000 then winRead s n off
  else if off < 0x3000 then queueAreaRead s m n off
  else if 0x10000 ≤ off ∧ off < 0x20000 then viewRead s n off
  else if 0x20000 ≤ off ∧ off < 0x80000 then tsuViewRead s n off
  else none

/-- What a register reads; none where the address is unmapped. -/
def regValue (s : State) (m : Master) (a : Nat) : Option W32 :=
  if a < 0x00100000 then devRead s a
  else if a < 0x00200000 then grRead s (a - 0x00100000)
  else if a < 0x00300000 then tbRead s (a - 0x00200000)
  else if a < 0x00360000 then tsuRead s ((a - 0x00300000) / 0x1000) (a % 0x1000)
  else if a < 0x00400000 then none
  else if a < 0x00400400 then evcRead s ((a - 0x00400000) / 0x20) (a % 0x20)
  else if 0x00401000 ≤ a ∧ a < 0x00401100 then touRead s ((a - 0x00401000) / 0x20) (a % 0x20)
  else if 0x00401100 ≤ a ∧ a < 0x00401108 then irigRead s (a - 0x00401100)
  else if a < 0x01000000 then none
  else if a < 0x01600000 then prtRead s ((a - 0x01000000) / 0x10000) (a % 0x10000)
  else if a < 0x02000000 then none
  else if a < 0x02800000 then prsRead s (a - 0x02000000)
  else if a < 0x03000000 then camRead s a
  else if a < 0x03000100 then fdbRegRead s ((a - 0x03000000) / 0x10) (a % 0x10)
  else if a < 0x03800000 then none
  else if a < 0x03F00000 then qmRead s a
  else if a < 0x03F10000 then coreRead s (a - 0x03F00000)
  else if a < 0x04000000 then relRead s (a - 0x03F10000)
  else if a < 0x04400000 then feWord s ((a - 0x04000000) / 0x10000) (a % 0x10000)
  else if a < 0x04800000 then none
  else if a < 0x05000000 then mtRead s a
  else if a < 0x05400000 then cqCtlRead s (a - 0x05000000)
  else if a < 0x05800000 then ptnRead s (a - 0x05400000)
  else if a < 0x06000000 then cfgRead s (a - 0x05800000)
  else if a < 0x06004000 then mdmRead s ((a - 0x06000000) / 0x1000) (a % 0x1000)
  else if a < 0x06400000 then none
  else if a < 0x06404000 then tdmRead s ((a - 0x06400000) / 0x1000) (a % 0x1000)
  else if a < 0x06800000 then none
  else if a < 0x06C00000 then pkaRead s (a - 0x06800000)
  else if a < 0x07000000 then pkaDpRead s (a - 0x06C00000)
  else if a < 0x07020000 then ccRead s (a - 0x07000000)
  else if a < 0x07800000 then dbgRead s (a - 0x07020000)
  else if a < 0x07810000 then pwrRead s (a - 0x07800000)
  else if a < 0x07820000 then hupRead s (a - 0x07810000)
  else if a < 0x07900000 then prmRegRead s (a - 0x07820000)
  else if a < 0x07C00000 then lgRead s (a - 0x07900000)
  else if a < 0x07D00000 then fcuRead s (a - 0x07C00000)
  else if a < 0x07E00000 then pmcRegRead s (a - 0x07D00000)
  else if a < 0x07F00000 then twnRead s (a - 0x07E00000)
  else if a < 0x08000000 then camRead s a
  else if a < 0x09000000 then windowRead s m ((a - 0x08000000) / 0x100000) (a % 0x100000)
  else none

/-- What a normal read takes in a partition's window. -/
def windowTake (s : State) (n off : Nat) : State :=
  if off < 0x1000 then winTake s n off
  else if off < 0x3000 then queueAreaTake s n off
  else if 0x10000 ≤ off ∧ off < 0x20000 then
    viewTake s n ((off - 0x10000) / 0x40) (off % 0x40 / 8) (decide (off % 8 = 4))
  else if 0x20000 ≤ off ∧ viewOwned s n off then tsuTake s (viewPort off) (viewOff off)
  else s

/-- The side effect of a normal read (R9, R681). -/
def regTake (s : State) (a : Nat) : State :=
  if a < 0x00100000 then s
  else if a < 0x00200000 then grTake s (a - 0x00100000)
  else if a < 0x00300000 then
    (if a = 0x00200000 then latchTime s
     else if a = 0x00200010 then latchFreq s
     else if a = 0x00200038 then smpPop s
     else s)
  else if a < 0x00360000 then tsuTake s ((a - 0x00300000) / 0x1000) (a % 0x1000)
  else if a < 0x00400400 then
    (if a % 0x20 = 0x1C then evcPop ((a - 0x00400000) / 0x20) s
     else if a % 0x20 = 0x08 then evcStsTake s ((a - 0x00400000) / 0x20)
     else s)
  else if a < 0x01000000 then s
  else if a < 0x01600000 then prtTake s ((a - 0x01000000) / 0x10000) (a % 0x10000)
  else if a < 0x02800000 then prsTake s (a - 0x02000000)
  else if a < 0x03000000 then camTake s a
  else if a < 0x03000100 then fdbRegTake s ((a - 0x03000000) / 0x10) (a % 0x10)
  else if a < 0x03F00000 then qmTake s a
  else if a < 0x03F10000 then s
  else if a < 0x04000000 then relTake s (a - 0x03F10000)
  else if a < 0x04400000 then feTake s ((a - 0x04000000) / 0x10000) (a % 0x10000)
  else if a < 0x05000000 then mtTake s a
  else if a < 0x05400000 then cqCtlTake s (a - 0x05000000)
  else if a < 0x05800000 then s
  else if a < 0x06000000 then cfgTake s (a - 0x05800000)
  else if a < 0x06400000 then mdmTake s ((a - 0x06000000) / 0x1000) (a % 0x1000)
  else if a < 0x06800000 then tdmTake s ((a - 0x06400000) / 0x1000) (a % 0x1000)
  else if a < 0x06C00000 then pkaTake s (a - 0x06800000)
  else if a < 0x07000000 then pkaDpTake s (a - 0x06C00000)
  else if a < 0x07020000 then ccTake s (a - 0x07000000)
  else if a < 0x07800000 then dbgTake s (a - 0x07020000)
  else if a < 0x07810000 then pwrTake s (a - 0x07800000)
  else if a < 0x07820000 then hupTake s (a - 0x07810000)
  else if a < 0x07900000 then prmTake s (a - 0x07820000)
  else if a < 0x07C00000 then s
  else if a < 0x07D00000 then fcuTake s (a - 0x07C00000)
  else if a < 0x07E00000 then s
  else if a < 0x07F00000 then twnTake s (a - 0x07E00000)
  else if a < 0x08000000 then camTake s a
  else windowTake s ((a - 0x08000000) / 0x100000) (a % 0x100000)

/-! ## Writes -/

/-- TB registers as written (R76, R77, R80). -/
def tbWrite (s : State) (off : Nat) (v : W32) : State :=
  if off = 0x10 then freqLoWrite v s
  else if off = 0x14 then freqHiWrite v s
  else if off = 0x20 then refCtlWrite v s
  else if off = 0x40 then pendWrite s 0x00200040 v
  else if off = 0x44 then errEstWrite v s
  else if off = 0x48 then { s with tb := { s.tb with holdRate := BitVec.ofNat 24 (fld v 0 24) } }
  else s

/-- Registers of a partition's window as written. -/
def windowWrite (s : State) (m : Master) (n off : Nat) (v : W32) : State :=
  if off = 0x4 then winReset n v s
  else if 0x1000 ≤ off ∧ off < 0x3000 then queueAreaWrite s m n off v
  else s

/-- The effect of a write of a mapped register (R8, R9): at once, or from the next boundary where its block says so. -/
def regEffect (s : State) (m : Master) (a : Nat) (v : W32) : State :=
  if a < 0x00100000 then devWrite s a v
  else if a < 0x00200000 then s
  else if a < 0x00300000 then tbWrite s (a - 0x00200000) v
  else if a < 0x00360000 then
    (if a % 0x1000 = 0 then pendWrite s a v else tsuWrite s ((a - 0x00300000) / 0x1000) (a % 0x1000) v)
  else if a < 0x00400400 then (if a % 0x20 = 0 then pendWrite s a v else s)
  else if a < 0x00401100 then touWrite ((a - 0x00401000) / 0x20) (a % 0x20 / 4) v s
  else if a < 0x01000000 then irigWrite (decide (a = 0x00401104)) v s
  else if a < 0x01600000 then (if a % 0x10000 = 0 ∨ a % 0x10000 = 0x8000 then pendWrite s a v else s)
  else if a < 0x02800000 then prsWrite s (a - 0x02000000) v
  else if a < 0x03800000 then s
  else if a < 0x03F00000 then (if a = 0x03C00000 then pendWrite s a v else qmWrite s a v)
  else if a = 0x03F00000 then coreWrite s v
  else if a < 0x05000000 then s
  else if a < 0x05400000 then cqCtlWrite s (a - 0x05000000) v
  else if a < 0x05400040 then bindWrite s ((a - 0x05400000) / 4) v
  else if 0x05400100 ≤ a ∧ a < 0x05400140 then ptnStsWrite s ((a - 0x05400100) / 4) v
  else if a < 0x06000000 then s
  else if a < 0x06400000 then mdmWrite s ((a - 0x06000000) / 0x1000) (a % 0x1000) v
  else if a < 0x06800000 then tdmWrite s ((a - 0x06400000) / 0x1000) (a % 0x1000) v
  else if a < 0x06C00000 then s
  else if a < 0x07000000 then pkaDpWrite s (a - 0x06C00000) v
  else if a < 0x07020000 then ccWrite s (a - 0x07000000) v false
  else if a < 0x07800000 then dbgWrite s (a - 0x07020000) v
  else if a < 0x07830000 then pendWrite s a v
  else if a < 0x07C00000 then s
  else if a = 0x07C00000 then fcuCtlWrite v s
  else if a < 0x07D00000 then s
  else if a < 0x07E00000 then pendWrite s a v
  else if a = 0x07E00000 then twnCtlWrite v s
  else if a = 0x07E00008 then twnShareWrite v s
  else if a = 0x07F00000 then cascCtlWrite v s
  else if 0x08000000 ≤ a ∧ a < 0x09000000 then windowWrite s m ((a - 0x08000000) / 0x100000) (a % 0x100000) v
  else s

/-! ## Accesses (R26-R30) -/

/-- The access is outside the reach of its master beyond R22: the datapath of the PKA (R500), fuse registers (R514), writes
through the TSU view (R112). -/
def barred (s : State) (m : Master) (a : Nat) (write : Bool) : Bool :=
  (decide (0x06C00000 ≤ a) && decide (a < 0x06C18000) && decide (m ≠ .cc)) ||
    (write && fuseRegister a) ||
    (write && decide (0x08000000 ≤ a) && decide (a < 0x09000000) && decide (0x20000 ≤ a % 0x100000) && decide (a % 0x100000 < 0x80000) &&
      tsuViewBars s ((a - 0x08000000) / 0x100000) (a % 0x100000))

/-- The cause that refuses an access to any address, in the order of R30. -/
def accessCause (s : State) (m : Master) (a size : Nat) (write : Bool) : Option Nat :=
  if size ≠ 4 ∨ a % 4 ≠ 0 then some 1
  else if barred s m a write && reaches s m a then some 3
  else refusal s m a size write (regValue s m a).isSome

/-- REGISTER_WRITE. -/
def registerWrite (m : Master) (a size : Nat) (v : W32) (s : State) : State :=
  match accessCause s m a size true with
  | some c => refuse s m a true c
  | none => regEffect s m a v

def execRegisterWrite (m : Master) (addr size : Nat) (val : W32) (s : State) : Host.Outcome State Fault Refusal :=
  ev m.wf (registerWrite m addr size val s)

/-- A normal read of a register: refused and answered 0, or its value with its side effect (R9, R681, log entry 139). -/
def registerRead (m : Master) (a : Nat) (s : State) : State :=
  match accessCause s m a 4 false with
  | some c => readBack (refuse s m a false c) 0
  | none => readBack (regTake s a) ((regValue s m a).getD 0)

def execMaxFieldRead (m : Master) (addr : Nat) (s : State) : Host.Outcome State Fault Refusal := ev m.wf (registerRead m addr s)

/-! ## The debugger (R519-R521, R525) -/

/-- Registers whose peek is refused (R10, R79, R83, R112, R156, R307, R339, R424, R500, R584). -/
def peekRefused (s : State) (a : Nat) : Bool :=
  let off := a % 0x100000
  decide (a = 0x00200038) ||
  (decide (0x00300000 ≤ a) && decide (a < 0x00360000) && decide (a % 0x1000 = 0x01C)) ||
  (decide (0x00400000 ≤ a) && decide (a < 0x00400400) && decide (a % 0x20 = 0x1C)) ||
  (decide (0x03000000 ≤ a) && decide (a < 0x03000100) && decide (a % 0x10 ≠ 0)) ||
  (decide (0x04000000 ≤ a) && decide (a < 0x04400000) && (decide (a % 0x10000 = 0x08) || decide (a % 0x10000 = 0x0C))) ||
  (decide (0x04800100 ≤ a) && decide (a < 0x04800200) && decide (a % 0x10 ≠ 0)) ||
  (decide (0x06C10000 ≤ a) && decide (a < 0x06C18000) && dpBusy s) ||
  (decide (0x08000000 ≤ a) && decide (a < 0x09000000) &&
    (decide (off = 0x8) || decide (off = 0xC) ||
      (decide (0x20000 ≤ off) && decide (off < 0x80000) && decide (viewOff off = 0x01C) &&
        viewOwned s ((a - 0x08000000) / 0x100000) off)))

/-- The result of a debug access. -/
def dbgResult (s : State) (st : BitVec 5) (v : W32) : State := { s with dbg := { s.dbg with status := st, result := v } }

/-- A peek of the control space. -/
def peekControl (s : State) (a : Nat) : State :=
  match accessCause s .cc a 4 false with
  | some c => dbgResult (refuse s .cc a false c) 2 0
  | none =>
    if peekRefused s a then
      dbgResult { s with dbg := { s.dbg with peekRef := true } } 0 0xDEAD5EE0
    else dbgResult s 0 ((regValue s .cc a).getD 0)

/-- A read of the core space: the leading core's word; TCM_DIFF where the trailing core differs. -/
def peekCore (s : State) (a : Nat) : State :=
  match coreWord s.cc.tcm s.cc.coreRegs a with
  | some w =>
    let diff := decide (coreWord s.cc.tcm2 s.cc.coreRegs2 a ≠ some w)
    dbgResult { s with dbg := { s.dbg with tcmDiff := s.dbg.tcmDiff || diff } } 0 w
  | none => dbgResult s 2 0

/-- DEBUG_PEEK. -/
def debugPeek (core : Bool) (a : Nat) (s : State) : State :=
  match dbgLow s 1 with
  | some st => dbgResult s st 0
  | none => if core then peekCore s a else peekControl s a

def execDebugPeek (core : Bool) (addr : Nat) (s : State) : Host.Outcome State Fault Refusal := ev true (debugPeek core addr s)

/-- DEBUG_TAKE: a normal read, logged. -/
def debugTake (a : Nat) (s : State) : State :=
  match dbgLow s 2 with
  | some st => dbgResult s st 0
  | none =>
    match accessCause s .cc a 4 false with
    | some c => dbgResult (refuse s .cc a false c) 2 0
    | none => dbgResult (dbgLog (regTake s a) a false) 0 ((regValue s .cc a).getD 0)

def execDebugTake (addr : Nat) (s : State) : Host.Outcome State Fault Refusal := ev true (debugTake addr s)

/-- The cause that refuses a debug write: the reach is that of the control cluster, and fuse registers take it (R514, R519). -/
def debugCause (s : State) (a : Nat) : Option Nat :=
  if fuseRegister a ∧ a % 4 = 0 then refusal s .cc a 4 true true else accessCause s .cc a 4 true

/-- DEBUG_WRITE: applied to both cores alike, or to a register; logged. -/
def debugWrite (core : Bool) (a : Nat) (v : W32) (s : State) : State :=
  match dbgLow s 2 with
  | some st => dbgResult s st 0
  | none =>
    if core then
      (if (coreWord s.cc.tcm s.cc.coreRegs a).isSome then dbgResult (dbgLog (coreWrite_ s a v) a true) 0 0 else dbgResult s 2 0)
    else
      match debugCause s a with
      | some c => dbgResult (refuse s .cc a true c) 2 0
      | none =>
        let t := if fuseRegister a then ccWrite s (a - 0x07000000) v true else regEffect s .cc a v
        dbgResult (dbgLog t a true) 0 0

def execDebugWrite (core : Bool) (addr : Nat) (v : W32) (s : State) : Host.Outcome State Fault Refusal :=
  ev true (debugWrite core addr v s)

end Sys2Proof.Machine
end

