-- ==== Sys2Proof/Machine/Dispatch.lean ====
section
/-! DEFINITION. The meaning of each command, by one direct call per row of the table. -/

namespace Sys2Proof.Machine

/-- The effect of one command on everything but the queue of commands. -/
def exec (i : Instr) (s : State) : Host.Outcome State Fault Refusal :=
  match i with
  | .registerWrite m addr size val => Sys2Proof.Machine.execRegisterWrite m addr size val s
  | .maxFieldRead m addr => Sys2Proof.Machine.execMaxFieldRead m addr s
  | .grainBoundary xoPpm => Sys2Proof.Machine.execGrainBoundary xoPpm s
  | .backlogApply => Sys2Proof.Machine.execBacklogApply s
  | .grainLost ppm gap => Sys2Proof.Machine.execGrainLost ppm gap s
  | .grCountLoRead m => Sys2Proof.Machine.execGrCountLoRead m s
  | .tbTimeNsRead m => Sys2Proof.Machine.execTbTimeNsRead m s
  | .tbFreqLoWrite m v => Sys2Proof.Machine.execTbFreqLoWrite m v s
  | .tbFreqHiWrite m v => Sys2Proof.Machine.execTbFreqHiWrite m v s
  | .tbFreqLoRead m => Sys2Proof.Machine.execTbFreqLoRead m s
  | .tbRefCtlWrite m v => Sys2Proof.Machine.execTbRefCtlWrite m v s
  | .refWindowEnd b ppb => Sys2Proof.Machine.execRefWindowEnd b ppb s
  | .refEdgeTimeout b => Sys2Proof.Machine.execRefEdgeTimeout b s
  | .refEdge b sub => Sys2Proof.Machine.execRefEdge b sub s
  | .ppsEdge b sub => Sys2Proof.Machine.execPpsEdge b sub s
  | .ppsTimeout b => Sys2Proof.Machine.execPpsTimeout b s
  | .holdoverSample => Sys2Proof.Machine.execHoldoverSample s
  | .tbErrEstWrite m v => Sys2Proof.Machine.execTbErrEstWrite m v s
  | .errEstGrowth => Sys2Proof.Machine.execErrEstGrowth s
  | .ecapEdge n rising sub => Sys2Proof.Machine.execEcapEdge n rising sub s
  | .evcRecPop m n => Sys2Proof.Machine.execEvcRecPop m n s
  | .tbSmpPop m => Sys2Proof.Machine.execTbSmpPop m s
  | .toutEdge k => Sys2Proof.Machine.execToutEdge k s
  | .touWrite m k off v => Sys2Proof.Machine.execTouWrite m k off v s
  | .irigFrameStart k => Sys2Proof.Machine.execIrigFrameStart k s
  | .touIrigWrite m leap v => Sys2Proof.Machine.execTouIrigWrite m leap v s
  | .leapSecondEnd => Sys2Proof.Machine.execLeapSecondEnd s
  | .tbAdjust id => Sys2Proof.Machine.execTbAdjust id s
  | .tbAdjustApply => Sys2Proof.Machine.execTbAdjustApply s
  | .frameStart port sub => Sys2Proof.Machine.execFrameStart port sub s
  | .frameReceived port bytes fcsOk work corr uncorr => Sys2Proof.Machine.execFrameReceived port bytes fcsOk work corr uncorr s
  | .policingIntervalStart => Sys2Proof.Machine.execPolicingIntervalStart s
  | .microwordExecute e pkt bad => Sys2Proof.Machine.execMicrowordExecute e pkt bad s
  | .lookupReturn pkt ddr => Sys2Proof.Machine.execLookupReturn pkt ddr s
  | .ucodeParityRewrite e addr => Sys2Proof.Machine.execUcodeParityRewrite e addr s
  | .packetEnqueue pkt => Sys2Proof.Machine.execPacketEnqueue pkt s
  | .reseqGapTimeout port seq => Sys2Proof.Machine.execReseqGapTimeout port seq s
  | .timedRelease port dev => Sys2Proof.Machine.execTimedRelease port dev s
  | .portTransmitStart port dev => Sys2Proof.Machine.execPortTransmitStart port dev s
  | .frameTxEnd port => Sys2Proof.Machine.execFrameTxEnd port s
  | .matchEntryTimeout port => Sys2Proof.Machine.execMatchEntryTimeout port s
  | .tsuTxsPop m port => Sys2Proof.Machine.execTsuTxsPop m port s
  | .gateEntryStart port => Sys2Proof.Machine.execGateEntryStart port s
  | .preemptVerify port ok => Sys2Proof.Machine.execPreemptVerify port ok s
  | .latencyWindowEnd pmbOk mode => Sys2Proof.Machine.execLatencyWindowEnd pmbOk mode s
  | .engineWedge e => Sys2Proof.Machine.execEngineWedge e s
  | .ptnBindWrite m f v => Sys2Proof.Machine.execPtnBindWrite m f v s
  | .partitionReset n => Sys2Proof.Machine.execPartitionReset n s
  | .partitionResetComplete n => Sys2Proof.Machine.execPartitionResetComplete n s
  | .partitionResetDeadline n => Sys2Proof.Machine.execPartitionResetDeadline n s
  | .ptnReset id => Sys2Proof.Machine.execPtnReset id s
  | .ptnWinResetWrite m n v => Sys2Proof.Machine.execPtnWinResetWrite m n v s
  | .sqDoorbell m n idx v => Sys2Proof.Machine.execSqDoorbell m n idx v s
  | .headDoorbell m n er idx v => Sys2Proof.Machine.execHeadDoorbell m n er idx v s
  | .queueEnWrite m n kind idx v => Sys2Proof.Machine.execQueueEnWrite m n kind idx v s
  | .commandFetch data ok => Sys2Proof.Machine.execCommandFetch data ok s
  | .commandArrival id => Sys2Proof.Machine.execCommandArrival id s
  | .fenceCommandStart id => Sys2Proof.Machine.execFenceCommandStart id s
  | .completionWrite n j ok => Sys2Proof.Machine.execCompletionWrite n j ok s
  | .interruptCoalesceTimeout n er idx => Sys2Proof.Machine.execInterruptCoalesceTimeout n er idx s
  | .nop id => Sys2Proof.Machine.execNop id s
  | .devReset id => Sys2Proof.Machine.execDevReset id s
  | .fcuHistRead id ok => Sys2Proof.Machine.execFcuHistRead id ok s
  | .camWrite id => Sys2Proof.Machine.execCamWrite id s
  | .camInvalidate id => Sys2Proof.Machine.execCamInvalidate id s
  | .camLookup id => Sys2Proof.Machine.execCamLookup id s
  | .camStep id => Sys2Proof.Machine.execCamStep id s
  | .camContextTimeout n c => Sys2Proof.Machine.execCamContextTimeout n c s
  | .fdbWrite id => Sys2Proof.Machine.execFdbWrite id s
  | .fdbDelete id => Sys2Proof.Machine.execFdbDelete id s
  | .fdbFlush id => Sys2Proof.Machine.execFdbFlush id s
  | .fdbRead id => Sys2Proof.Machine.execFdbRead id s
  | .cfgOpen id => Sys2Proof.Machine.execCfgOpen id s
  | .cfgSet id => Sys2Proof.Machine.execCfgSet id s
  | .cfgCommit id => Sys2Proof.Machine.execCfgCommit id s
  | .cfgAbort id => Sys2Proof.Machine.execCfgAbort id s
  | .commitApply => Sys2Proof.Machine.execCommitApply s
  | .commitWaitTimeout => Sys2Proof.Machine.execCommitWaitTimeout s
  | .epochRetire => Sys2Proof.Machine.execEpochRetire s
  | .mirrorComplete => Sys2Proof.Machine.execMirrorComplete s
  | .quiesceEnd => Sys2Proof.Machine.execQuiesceEnd s
  | .quiesceDeadline => Sys2Proof.Machine.execQuiesceDeadline s
  | .cfgImageApply id image ok => Sys2Proof.Machine.execCfgImageApply id image ok s
  | .t2Stage id data ok => Sys2Proof.Machine.execT2Stage id data ok s
  | .t2StageWriteStart id => Sys2Proof.Machine.execT2StageWriteStart id s
  | .t2StageComplete id => Sys2Proof.Machine.execT2StageComplete id s
  | .pmcCensus id => Sys2Proof.Machine.execPmcCensus id s
  | .censusCapture => Sys2Proof.Machine.execCensusCapture s
  | .censusComplete => Sys2Proof.Machine.execCensusComplete s
  | .pmcRead id ok => Sys2Proof.Machine.execPmcRead id ok s
  | .prmStore id data ok => Sys2Proof.Machine.execPrmStore id data ok s
  | .prmStoreAdmit => Sys2Proof.Machine.execPrmStoreAdmit s
  | .prmStoreComplete => Sys2Proof.Machine.execPrmStoreComplete s
  | .prmRead id bad ok => Sys2Proof.Machine.execPrmRead id bad ok s
  | .prmScrubLine unit => Sys2Proof.Machine.execPrmScrubLine unit s
  | .prmRegionWrite m n v => Sys2Proof.Machine.execPrmRegionWrite m n v s
  | .fwInfo id => Sys2Proof.Machine.execFwInfo id s
  | .ptpInstance id => Sys2Proof.Machine.execPtpInstance id s
  | .keyGenerate id => Sys2Proof.Machine.execKeyGenerate id s
  | .keyImport id blob ok => Sys2Proof.Machine.execKeyImport id blob ok s
  | .keyExport id ok => Sys2Proof.Machine.execKeyExport id ok s
  | .keyPublic id ok => Sys2Proof.Machine.execKeyPublic id ok s
  | .keyZeroise id => Sys2Proof.Machine.execKeyZeroise id s
  | .pkaSign id buf ok => Sys2Proof.Machine.execPkaSign id buf ok s
  | .pkaVerify id buf ok => Sys2Proof.Machine.execPkaVerify id buf ok s
  | .pkaAgree id buf ok => Sys2Proof.Machine.execPkaAgree id buf ok s
  | .rngRead id ok => Sys2Proof.Machine.execRngRead id ok s
  | .tagFlowSet id => Sys2Proof.Machine.execTagFlowSet id s
  | .tdmChainSet id => Sys2Proof.Machine.execTdmChainSet id s
  | .radioNodeAdd id => Sys2Proof.Machine.execRadioNodeAdd id s
  | .radioNodeDel id => Sys2Proof.Machine.execRadioNodeDel id s
  | .mdmShapeSet id buf ok => Sys2Proof.Machine.execMdmShapeSet id buf ok s
  | .hupMeasure id => Sys2Proof.Machine.execHupMeasure id s
  | .twinRejoin id => Sys2Proof.Machine.execTwinRejoin id s
  | .pkaServiceStart => Sys2Proof.Machine.execPkaServiceStart s
  | .pkaServiceRelease ok => Sys2Proof.Machine.execPkaServiceRelease ok s
  | .pkaDpOp m v => Sys2Proof.Machine.execPkaDpOp m v s
  | .pkaDpComplete late => Sys2Proof.Machine.execPkaDpComplete late s
  | .entropyHealthFail apt => Sys2Proof.Machine.execEntropyHealthFail apt s
  | .entropyStartupPass => Sys2Proof.Machine.execEntropyStartupPass s
  | .drbgReseed => Sys2Proof.Machine.execDrbgReseed s
  | .drbgReseedLimit => Sys2Proof.Machine.execDrbgReseedLimit s
  | .pkaKeystore slot => Sys2Proof.Machine.execPkaKeystore slot s
  | .tileTransferComplete tile => Sys2Proof.Machine.execTileTransferComplete tile s
  | .stateRequestTimeout pkt => Sys2Proof.Machine.execStateRequestTimeout pkt s
  | .ddrPatrolScrub addr status => Sys2Proof.Machine.execDdrPatrolScrub addr status s
  | .ddrTimeout pkt => Sys2Proof.Machine.execDdrTimeout pkt s
  | .ddrTrainingComplete aOk bOk rate gib => Sys2Proof.Machine.execDdrTrainingComplete aOk bOk rate gib s
  | .linkConditionChange port cond => Sys2Proof.Machine.execLinkConditionChange port cond s
  | .upHoldExpiry port => Sys2Proof.Machine.execUpHoldExpiry port s
  | .downHoldExpiry port => Sys2Proof.Machine.execDownHoldExpiry port s
  | .prtCtlWrite m port v => Sys2Proof.Machine.execPrtCtlWrite m port v s
  | .linkDecision => Sys2Proof.Machine.execLinkDecision s
  | .learnDecision => Sys2Proof.Machine.execLearnDecision s
  | .ageingSweepStep => Sys2Proof.Machine.execAgeingSweepStep s
  | .cascCtlWrite m v => Sys2Proof.Machine.execCascCtlWrite m v s
  | .cascAligned => Sys2Proof.Machine.execCascAligned s
  | .cascLaneLoss up => Sys2Proof.Machine.execCascLaneLoss up s
  | .cascLookupIssue mi => Sys2Proof.Machine.execCascLookupIssue mi s
  | .cascRequest bytes up mi => Sys2Proof.Machine.execCascRequest bytes up mi s
  | .cascResult bytes up => Sys2Proof.Machine.execCascResult bytes up s
  | .cascResultForm => Sys2Proof.Machine.execCascResultForm s
  | .puntRingWrite n pkt desc ok => Sys2Proof.Machine.execPuntRingWrite n pkt desc ok s
  | .puntVectorDeferred n => Sys2Proof.Machine.execPuntVectorDeferred n s
  | .sendRingPoll n desc ok => Sys2Proof.Machine.execSendRingPoll n desc ok s
  | .sendRingRead n frame ok work => Sys2Proof.Machine.execSendRingRead n frame ok work s
  | .redWindowForget node mac => Sys2Proof.Machine.execRedWindowForget node mac s
  | .scheduleStart ch => Sys2Proof.Machine.execScheduleStart ch s
  | .chainStart ch => Sys2Proof.Machine.execChainStart ch s
  | .spanStart ch => Sys2Proof.Machine.execSpanStart ch s
  | .burstStart ch => Sys2Proof.Machine.execBurstStart ch s
  | .burstEnd ch bins nmse => Sys2Proof.Machine.execBurstEnd ch bins nmse s
  | .dpdUpdate ch ls coef => Sys2Proof.Machine.execDpdUpdate ch ls coef s
  | .paLimit ch => Sys2Proof.Machine.execPaLimit ch s
  | .syncDetect ch word sub => Sys2Proof.Machine.execSyncDetect ch word sub s
  | .burstDecoded ch coded level cfo => Sys2Proof.Machine.execBurstDecoded ch coded level cfo s
  | .radioFrameRelease ch work => Sys2Proof.Machine.execRadioFrameRelease ch work s
  | .noiseFloorMeasure ch level full => Sys2Proof.Machine.execNoiseFloorMeasure ch level full s
  | .dclkLoss ch => Sys2Proof.Machine.execDclkLoss ch s
  | .dclkReturn ch => Sys2Proof.Machine.execDclkReturn ch s
  | .mdmHeldRelease m ch => Sys2Proof.Machine.execMdmHeldRelease m ch s
  | .rfSpiGo m ch v => Sys2Proof.Machine.execRfSpiGo m ch v s
  | .rfSpiComplete ch rx => Sys2Proof.Machine.execRfSpiComplete ch rx s
  | .lockstepSelfTest caught => Sys2Proof.Machine.execLockstepSelfTest caught s
  | .lockstepFault causes => Sys2Proof.Machine.execLockstepFault causes s
  | .tcmCorr addr => Sys2Proof.Machine.execTcmCorr addr s
  | .ccWdogKick m v => Sys2Proof.Machine.execCcWdogKick m v s
  | .fwWatchdog => Sys2Proof.Machine.execFwWatchdog s
  | .ccFuseProgGo m v vio => Sys2Proof.Machine.execCcFuseProgGo m v vio s
  | .fuseProgDone => Sys2Proof.Machine.execFuseProgDone s
  | .semAcq m sem v => Sys2Proof.Machine.execSemAcq m sem v s
  | .semRel m sem v => Sys2Proof.Machine.execSemRel m sem v s
  | .semRenew m sem v => Sys2Proof.Machine.execSemRenew m sem v s
  | .semLeaseExpiry sem => Sys2Proof.Machine.execSemLeaseExpiry sem s
  | .idcode => Sys2Proof.Machine.execIdcode s
  | .samplePreload pins load => Sys2Proof.Machine.execSamplePreload pins load s
  | .clamp => Sys2Proof.Machine.execClamp s
  | .highz => Sys2Proof.Machine.execHighz s
  | .extest => Sys2Proof.Machine.execExtest s
  | .extestPulse => Sys2Proof.Machine.execExtestPulse s
  | .extestTrain => Sys2Proof.Machine.execExtestTrain s
  | .bypass code => Sys2Proof.Machine.execBypass code s
  | .dbgAuth => Sys2Proof.Machine.execDbgAuth s
  | .dbgAuthResponse level mac => Sys2Proof.Machine.execDbgAuthResponse level mac s
  | .dbgClose => Sys2Proof.Machine.execDbgClose s
  | .tapReset => Sys2Proof.Machine.execTapReset s
  | .debugPeek core addr => Sys2Proof.Machine.execDebugPeek core addr s
  | .debugTake addr => Sys2Proof.Machine.execDebugTake addr s
  | .debugWrite core addr v => Sys2Proof.Machine.execDebugWrite core addr v s
  | .debugHalt => Sys2Proof.Machine.execDebugHalt s
  | .debugResume => Sys2Proof.Machine.execDebugResume s
  | .powerOn => Sys2Proof.Machine.execPowerOn s
  | .railTimeout rail => Sys2Proof.Machine.execRailTimeout rail s
  | .railRetry => Sys2Proof.Machine.execRailRetry s
  | .sequencerLoad image io => Sys2Proof.Machine.execSequencerLoad image io s
  | .seqFail => Sys2Proof.Machine.execSeqFail s
  | .pmbAlert => Sys2Proof.Machine.execPmbAlert s
  | .voutPoll mv ok => Sys2Proof.Machine.execVoutPoll mv ok s
  | .vcoreSlow => Sys2Proof.Machine.execVcoreSlow s
  | .standbyEntry io => Sys2Proof.Machine.execStandbyEntry io s
  | .wake src io => Sys2Proof.Machine.execWake src io s
  | .hupTestStart => Sys2Proof.Machine.execHupTestStart s
  | .hupTestEnd v0 v1 v2 => Sys2Proof.Machine.execHupTestEnd v0 v1 v2 s
  | .hupSample code => Sys2Proof.Machine.execHupSample code s
  | .pfailNAssert => Sys2Proof.Machine.execPfailNAssert s
  | .monitorTrip code => Sys2Proof.Machine.execMonitorTrip code s
  | .pwrGoodLoss rail => Sys2Proof.Machine.execPwrGoodLoss rail s
  | .lastGaspWrite => Sys2Proof.Machine.execLastGaspWrite s
  | .shedComplete io => Sys2Proof.Machine.execShedComplete io s
  | .inputRestored => Sys2Proof.Machine.execInputRestored s
  | .faultDetected up => Sys2Proof.Machine.execFaultDetected up s
  | .fatalReset => Sys2Proof.Machine.execFatalReset s
  | .fcuXreset m v => Sys2Proof.Machine.execFcuXreset m v s
  | .pmcCfgWrite m u c hi v => Sys2Proof.Machine.execPmcCfgWrite m u c hi v s
  | .pmcClr m u c v => Sys2Proof.Machine.execPmcClr m u c v s
  | .counterViewRead m n u c hi => Sys2Proof.Machine.execCounterViewRead m n u c hi s
  | .torvLinkUp => Sys2Proof.Machine.execTorvLinkUp s
  | .torvLinkDown => Sys2Proof.Machine.execTorvLinkDown s
  | .torvKeepaliveTimeout => Sys2Proof.Machine.execTorvKeepaliveTimeout s
  | .torvKeepalive frame => Sys2Proof.Machine.execTorvKeepalive frame s
  | .torvDecision frame => Sys2Proof.Machine.execTorvDecision frame s
  | .torvTouch frame => Sys2Proof.Machine.execTorvTouch frame s
  | .torvCommand frame => Sys2Proof.Machine.execTorvCommand frame s
  | .torvVerdict frame => Sys2Proof.Machine.execTorvVerdict frame s
  | .torvTime frame => Sys2Proof.Machine.execTorvTime frame s
  | .torvReady frame => Sys2Proof.Machine.execTorvReady frame s
  | .torvProbe frame => Sys2Proof.Machine.execTorvProbe frame s
  | .torvProbeReply frame => Sys2Proof.Machine.execTorvProbeReply frame s
  | .torvBulk frame => Sys2Proof.Machine.execTorvBulk frame s
  | .torvBulkEnd frame => Sys2Proof.Machine.execTorvBulkEnd frame s
  | .torvNotice frame => Sys2Proof.Machine.execTorvNotice frame s
  | .torvRole frame => Sys2Proof.Machine.execTorvRole frame s
  | .sharedDecisionApply => Sys2Proof.Machine.execSharedDecisionApply s
  | .aliveToggle => Sys2Proof.Machine.execAliveToggle s
  | .aliveInStopped => Sys2Proof.Machine.execAliveInStopped s
  | .witnessSample level => Sys2Proof.Machine.execWitnessSample level s
  | .twnCtlWrite m v => Sys2Proof.Machine.execTwnCtlWrite m v s
  | .rejoinRetry => Sys2Proof.Machine.execRejoinRetry s
  | .rejoinComplete => Sys2Proof.Machine.execRejoinComplete s
  | .resetNAssert => Sys2Proof.Machine.execResetNAssert s
  | .resetNRelease straps => Sys2Proof.Machine.execResetNRelease straps s
  | .internalResetRelease straps => Sys2Proof.Machine.execInternalResetRelease straps s
  | .islandClockOk d => Sys2Proof.Machine.execIslandClockOk d s
  | .bootPhaseEnd nor0 nor1 => Sys2Proof.Machine.execBootPhaseEnd nor0 nor1 s
  | .bootDone => Sys2Proof.Machine.execBootDone s
  | .devBootLoadWrite m v => Sys2Proof.Machine.execDevBootLoadWrite m v s
  | .bootStreamTimeout => Sys2Proof.Machine.execBootStreamTimeout s
  | .pciPerst low => Sys2Proof.Machine.execPciPerst low s
  | .tjSample tj => Sys2Proof.Machine.execTjSample tj s
  | .aliveInReturn => Sys2Proof.Machine.execAliveInReturn s
  | .supplyLoss => Sys2Proof.Machine.execSupplyLoss s
  | .pcieFunctionReset f => Sys2Proof.Machine.execPcieFunctionReset f s
  | .ddrCaseTemperatureChange hot => Sys2Proof.Machine.execDdrCaseTemperatureChange hot s
  | .keygenSliceEnd finished => Sys2Proof.Machine.execKeygenSliceEnd finished s

end Sys2Proof.Machine
end

