-- ==== Sys2Proof/Machine/Pins.lean ====
section
/-! DEFINITION. Levels of the pins that the device drives, as functions of the state (spec/24 R643; spec/03 R64, R69, R90; spec/07
R183; spec/12 R323; spec/16 R430, R448; spec/20 R534, R545; spec/23 R610, R611). -/

namespace Sys2Proof.Machine

/-- The columns of the table of pin states (R643). -/
inductive PinPhase where
  /-- VAON is absent -/
  | unpowered
  /-- standby, and a shed from its grain onward -/
  | standby
  /-- held in reset -/
  | reset
  /-- phases 1 to 5 of boot -/
  | boot
  /-- BOOT_DONE -/
  | running
  /-- a fatal hold -/
  | hold
deriving DecidableEq, Repr

/-- What a pin of the device shows. -/
inductive PinState where
  /-- not driven -/
  | undriven
  /-- an open-drain line that the device does not pull -/
  | released
  /-- electrical idle of a transmitter -/
  | idle
  /-- a transmitter that sends -/
  | sending
  /-- high impedance with a pull-down of 50 kohm -/
  | pulledDown
  /-- driven low -/
  | low
  /-- driven high -/
  | high
deriving DecidableEq, Repr

/-- The column in force. -/
def pinPhase (s : State) : PinPhase :=
  if !s.pwr.vaon then .unpowered
  else if s.pwr.shed.isSome || railsOff s then .standby
  else if s.dev.inReset || !s.dev.resetN then .reset
  else if s.fcu.holding then .hold
  else if s.dev.bootDone then .running
  else .boot

/-- A level that is driven. -/
def driven (b : Bool) : PinState := if b then .high else .low

/-- A pin that is undriven without its rails and in another state `held` until boot ends and in a hold. -/
def pinOf (s : State) (held run : PinState) : PinState :=
  match pinPhase s with
  | .unpowered | .standby => .undriven
  | .running => run
  | _ => held

/-- A pin of an open-drain line that is released until boot ends. -/
def odPin (s : State) (pulls : Bool) : PinState :=
  if pinPhase s = .running && pulls then .low else .released

/-- Transmitter of port `p` (R268). -/
def portTxPin (s : State) (p : Nat) : PinState := pinOf s .idle (if (portAt s p).squelched then .idle else .sending)

/-- What a port's transmitter puts on its lane (R261, R264). -/
inductive LineSignal where
  /-- electrical idle, or undriven with its rails off -/
  | none
  /-- frames, and idle between them -/
  | forwards
  /-- idle without fault signalling -/
  | idle
  /-- the Remote Fault sequence of Cl. 46 -/
  | remoteFault
  /-- FEFI of Cl. 24 -/
  | fefi
  /-- Cl. 37 auto-negotiation; `rf`: it signals remote fault -/
  | autoNeg (rf : Bool)
  /-- the configuration ordered sets of SGMII, MAC side -/
  | sgmii
deriving DecidableEq, Repr

/-- The receiver holds its locks: signal, CDR, code-group or block lock and FEC (R262, R264, R269). DEDUCED: log entry 158. -/
def rxLock (x : Port) : Bool := x.sig && x.cdr && x.sync && x.fec

/-- The signal of port `p`: it forwards in UP and DOWN_WAIT, and else sends idle with the fault signalling of its mode (R259-R261,
R264, R268). -/
def portLine (s : State) (p : Nat) : LineSignal :=
  let x := portAt s p
  if portTxPin s p ≠ .sending then .none
  else if 3 ≤ x.state.toNat then .forwards
  else
    match portMode s p with
    | 1 => if rxLock x then .idle else .fefi
    | 2 => if !portAn s p || (rxLock x && x.an) then .idle else .autoNeg (!rxLock x)
    | 3 => if rxLock x && x.an then .idle else .sgmii
    | 4 => .idle
    | _ => if rxLock x then .idle else .remoteFault

/-- Torv transmitters (R626). -/
def torvTxPin (s : State) : PinState := pinOf s .idle (if s.twn.state = twOFF || !s.twn.alive then .idle else .sending)

/-- PA_EN[m] (R448). -/
def paEnPin (s : State) (m : Nat) : PinState := pinOf s .low (driven (radioAt s m).pa)

/-- TIME_VALID (R64). -/
def timeValidPin (s : State) : PinState := pinOf s .low (driven s.tb.timeValid)

/-- TOUT[k] (R69, R90). -/
def toutPin (s : State) (k : Nat) : PinState := pinOf s .pulledDown (driven (ballLevel s (touAt s k)))

/-- TWN_ALIVE_OUT (R610). -/
def aliveOutPin (s : State) : PinState := pinOf s .low (driven s.twn.aliveOut)

/-- The device's own sense window of TWN_WITNESS (R611). -/
def senseWindow (s : State) : Bool :=
  let k := (pairGrain s).toNat % 16000
  if senior s then decide (k < 1000) else decide (8000 ≤ k) && decide (k < 9000)

/-- TWN_WITNESS: held low out of reset but in the device's own sense windows (R610, R611). -/
def witnessPin (s : State) : PinState :=
  match pinPhase s with
  | .boot | .hold => .low
  | .running => if senseWindow s then .released else .low
  | _ => .released

/-- CASC_MO_N (R323). -/
def cascMoPin (s : State) : PinState :=
  odPin s (s.cam.moLow.any fun g => !before s.gr.count g && before s.gr.count (g + 4))

/-- INT_N[k] (R183). -/
def intPin (s : State) (k : Nat) : PinState := odPin s (!intN s k)

/-- PWR_EN[n] (R534, R535). -/
def pwrEnPin (s : State) (n : Nat) : PinState := if s.pwr.vaon then driven (s.pwr.en.toNat.testBit n) else .undriven

/-- RFm_CS_N (R430). -/
def rfCsPin (s : State) (m : Nat) : PinState := pinOf s .high (driven (!(radioAt s m).spiBusy))

/-- HUP_TEST: high while a test runs (R545). -/
def hupTestPin (s : State) : PinState := if s.pwr.vaon then driven s.hup.test.isSome else .undriven

end Sys2Proof.Machine
end

