-- ==== Sys2Proof/Safety.lean ====
section
/-! DEFINITION. What a run that goes on is, and the conditions under which a register access and a command of a queue take
their effect. -/

namespace Sys2Proof.Machine

/-- A state whose next step answers a next state. -/
def Safe (s : State) : Prop := ∃ t, step s = .next t

/-- A state from which `k` steps answer next states. -/
def SafeFor : Nat → State → Prop
  | 0, _ => True
  | k + 1, s => ∃ t, step s = .next t ∧ SafeFor k t

/-- A naturally aligned access of an existing master to an existing register that no rule of R26-R30 refuses. -/
abbrev allowed (s : State) (m : Master) (addr : Nat) (write : Bool) : Prop :=
  m.wf = true ∧ refusal s m addr 4 write true = none

/-- Command `c` is in flight as number `id`, has passed its checks, spells opcode `op` and waits for its effect, and no earlier
command on the same object holds it (R205). -/
abbrev readyCmd (s : State) (id op : Nat) (c : Cmd) : Prop :=
  cmdAt s id = some c ∧ c.state = .ready ∧ opOf c = op ∧ c.done = false ∧ objectHeld s c = false

/-- The access that a register command makes: master, address, whether it writes. The registers of the PKA datapath and of the
fuses, whose access rule is their own (R500, R514), and the general accesses are not among them. -/
def registerOf : Instr → Option (Master × Nat × Bool)
  | .grCountLoRead m => some (m, 0x00100000, false)
  | .tbTimeNsRead m => some (m, 0x00200000, false)
  | .tbFreqLoWrite m _ => some (m, 0x00200010, true)
  | .tbFreqHiWrite m _ => some (m, 0x00200014, true)
  | .tbFreqLoRead m => some (m, 0x00200010, false)
  | .tbRefCtlWrite m _ => some (m, 0x00200020, true)
  | .tbErrEstWrite m _ => some (m, 0x00200044, true)
  | .evcRecPop m n => some (m, 0x0040001C + 0x20 * n, false)
  | .tbSmpPop m => some (m, 0x00200038, false)
  | .touWrite m k off _ => some (m, 0x00401000 + 0x20 * k + 4 * off, true)
  | .touIrigWrite m leap _ => some (m, if leap then 0x00401104 else 0x00401100, true)
  | .tsuTxsPop m p => some (m, 0x0030001C + 0x1000 * p, false)
  | .ptnBindWrite m f _ => some (m, 0x05400000 + 4 * f, true)
  | .ptnWinResetWrite m n _ => some (m, 0x08000004 + 0x100000 * n, true)
  | .sqDoorbell m n i _ => some (m, 0x0800100C + 0x100000 * n + 0x20 * i, true)
  | .headDoorbell m n er i _ => some (m, (if er then 0x0800200C else 0x0800110C) + 0x100000 * n + 0x20 * i, true)
  | .queueEnWrite m n k i _ =>
    some (m, (match k with | .sq => 0x08001008 | .cq => 0x08001108 | .er => 0x08002008) + 0x100000 * n + 0x20 * i, true)
  | .prmRegionWrite m n _ => some (m, 0x07820000 + 4 * n, true)
  | .prtCtlWrite m p _ => some (m, 0x01000000 + 0x10000 * p, true)
  | .cascCtlWrite m _ => some (m, 0x07F00000, true)
  | .mdmHeldRelease m ch => some (m, 0x06000008 + 0x1000 * ch, true)
  | .rfSpiGo m ch _ => some (m, 0x06000034 + 0x1000 * ch, true)
  | .ccWdogKick m _ => some (m, 0x07000020, true)
  | .semAcq m k _ => some (m, 0x07010000 + 0x10 * k, true)
  | .semRel m k _ => some (m, 0x07010004 + 0x10 * k, true)
  | .semRenew m k _ => some (m, 0x07010008 + 0x10 * k, true)
  | .fcuXreset m _ => some (m, 0x07C00000, true)
  | .pmcCfgWrite m u c hi _ => some (m, 0x07D00000 + 0x40 * u + 8 * c + (if hi then 4 else 0), true)
  | .pmcClr m u c _ => some (m, 0x07D00000 + 0x40 * u + 8 * c, true)
  | .counterViewRead m n u c hi => some (m, 0x08010000 + 0x100000 * n + 0x40 * u + 8 * c + (if hi then 4 else 0), false)
  | .twnCtlWrite m _ => some (m, 0x07E00000, true)
  | .devBootLoadWrite m _ => some (m, 0x1C, true)
  | _ => none

/-- The number and the opcode of the command in flight that a row's effect belongs to. -/
def commandOf : Instr → Option (Nat × Nat)
  | .nop id => some (id, 0x00)
  | .devReset id => some (id, 0x01)
  | .fcuHistRead id _ => some (id, 0x03)
  | .ptnReset id => some (id, 0x05)
  | .tbAdjust id => some (id, 0x08)
  | .camWrite id => some (id, 0x10)
  | .camInvalidate id => some (id, 0x11)
  | .camLookup id => some (id, 0x12)
  | .camStep id => some (id, 0x13)
  | .fdbWrite id => some (id, 0x18)
  | .fdbDelete id => some (id, 0x19)
  | .fdbFlush id => some (id, 0x1A)
  | .fdbRead id => some (id, 0x1B)
  | .cfgOpen id => some (id, 0x20)
  | .cfgSet id => some (id, 0x21)
  | .cfgCommit id => some (id, 0x22)
  | .cfgAbort id => some (id, 0x23)
  | .t2Stage id _ _ => some (id, 0x28)
  | .pmcCensus id => some (id, 0x30)
  | .pmcRead id _ => some (id, 0x31)
  | .prmStore id _ _ => some (id, 0x34)
  | .prmRead id _ _ => some (id, 0x35)
  | .fwInfo id => some (id, 0x40)
  | .cfgImageApply id _ _ => some (id, 0x44)
  | .ptpInstance id => some (id, 0x48)
  | .keyGenerate id => some (id, 0x50)
  | .keyImport id _ _ => some (id, 0x51)
  | .keyExport id _ => some (id, 0x52)
  | .keyPublic id _ => some (id, 0x53)
  | .keyZeroise id => some (id, 0x54)
  | .pkaSign id _ _ => some (id, 0x58)
  | .pkaVerify id _ _ => some (id, 0x59)
  | .pkaAgree id _ _ => some (id, 0x5A)
  | .rngRead id _ => some (id, 0x5B)
  | .tagFlowSet id => some (id, 0x5C)
  | .tdmChainSet id => some (id, 0x60)
  | .radioNodeAdd id => some (id, 0x61)
  | .radioNodeDel id => some (id, 0x62)
  | .mdmShapeSet id _ _ => some (id, 0x63)
  | .hupMeasure id => some (id, 0x70)
  | .twinRejoin id => some (id, 0x78)
  | _ => none

end Sys2Proof.Machine
end

