-- ==== Sys2Proof/Certificates/Slice0/Obligations.lean ====
section
/-! DEFINITION. The statements for the provers: what reset leaves, what one step does, and what each command of the table does
where its conditions hold, family by family in the order of the spec's chapters. -/

open Sys2Proof Sys2Proof.Machine

/-- For every command c, every queue rest and every state s, a step of s with c at the front of the queue is the meaning of c on s with the rest of the queue. On an empty queue a step answers the same state: this idling is the model's own choice (log entry 1). -/
def Obligations.StepRunsFrontCommand : Prop :=
  ∀ (s : State) (c : Instr) (rest : List Instr),
    step { s with pending := c :: rest } = exec c { s with pending := rest } ∧
    step { s with pending := [] } = .next { s with pending := [] }

/-- For every command and every state: where the command is well formed, that is, each index operand names a unit the device has, the command answers a next state; where it is not, the command stops with the fault noSuchUnit. No command is refused. The fault for operands that name no unit is the model's own (log entry 2). -/
def Obligations.WellFormedCommandsAnswerAState : Prop :=
  ∀ (i : Instr) (s : State),
    (i.wf = true → ∃ t, exec i s = .next t) ∧ (i.wf = false → exec i s = .fault .noSuchUnit)

/-- For every command and state, when the command answers a next state, the queue of waiting commands of that state is the queue it had. A step from a queue with a front command that answers a next state therefore leaves exactly the rest of the queue. The queue is the model's own (log entry 1). -/
def Obligations.CommandsLeaveTheQueue : Prop :=
  (∀ (i : Instr) (s t : State), exec i s = .next t → t.pending = s.pending) ∧
  (∀ (s t : State) (c : Instr) (rest : List Instr), s.pending = c :: rest → step s = .next t → t.pending = rest)

/-- For every state s, if a step of s answers next t, then the SVN floor of t is at or above that of s, the revoke bits are the same, and the board hash is the same or is the value whose programming was under way in s. -/
def Obligations.SvnFloorNeverFalls : Prop :=
  ∀ (s t : State), step s = .next t →
    s.fuse.floor.toNat ≤ t.fuse.floor.toNat ∧ t.fuse.revoked = s.fuse.revoked ∧
    (t.fuse.boardHash = s.fuse.boardHash ∨ (s.cc.progBusy = true ∧ t.fuse.boardHash = s.cc.progVal))

/-- For every register command of the table and every state: where one of R26 to R30 refuses the access of its master to its register, the command answers the state in which the refusal is one more input for the sequencer, a class K fault of the master's source with the cause, the address and the direction; a read returns 0 as well. The register, and everything else, keeps its value. -/
def Obligations.RefusedRegisterCommands : Prop :=
  (∀ (i : Instr) (s : State) (m : Master) (a c : Nat) (w : Bool),
    registerOf i = some (m, a, w) → i.wf = true → refusal s m a 4 w true = some c →
    exec i s = .next (if w then refuse s m a true c else readBack (refuse s m a false c) 0)) ∧
  (∀ (s : State) (m : Master) (a c : Nat) (w : Bool),
    let cc := decide (m = .cc)
    let src := if cc then 32 else 16 + masterPt s m
    let isl := if c = 5 then (servedBy a).getD 0 else 0
    refuse s m a w c = { s with gr := { s.gr with seen := s.gr.seen ++ [⟨1, src, .fault
      { cls := 1, src := src, cause := c, pt := if cc then none else some (masterPt s m),
        data := a % 2 ^ 32 + 2 ^ 32 * b1 w + 2 ^ 36 * isl }⟩] } })

/-- A write that is not four bytes or not aligned is refused with ACCESS_WIDTH whatever else holds; an aligned one outside its master's reach with ACCESS_OWNER; one in reach to an address at which no register lies with ACCESS_UNMAPPED; one whose island is not clocked with ISLAND_DOWN; one to a fenced unit with ACCESS_FENCED, while a read of a fenced unit is allowed. Registers with a bar of their own (the PKA datapath, the fuses, the TSU view) are left to their own rules. -/
def Obligations.AccessCausesInOrder : Prop :=
  ∀ (s : State) (m : Master) (a size : Nat) (v : W32), m.wf = true →
    (size ≠ 4 ∨ a % 4 ≠ 0 → exec (.registerWrite m a size v) s = .next (refuse s m a true 1)) ∧
    (a % 4 = 0 → reaches s m a = false → exec (.registerWrite m a 4 v) s = .next (refuse s m a true 3)) ∧
    (a % 4 = 0 → reaches s m a = true → barred s m a true = false → regValue s m a = none →
      exec (.registerWrite m a 4 v) s = .next (refuse s m a true 2)) ∧
    (∀ d, a % 4 = 0 → reaches s m a = true → barred s m a true = false → (regValue s m a).isSome = true → servedBy a = some d →
      clkOk s d = false → exec (.registerWrite m a 4 v) s = .next (refuse s m a true 5)) ∧
    (a % 4 = 0 → reaches s m a = true → barred s m a true = false → (regValue s m a).isSome = true →
      (∀ d, servedBy a = some d → clkOk s d = true) → unitFencedAt s a = true →
      exec (.registerWrite m a 4 v) s = .next (refuse s m a true 4))

/-- A write of TB_HOLD_RATE that no rule refuses sets the field at once; a write of TB_VALID waits for the next boundary with its address and word; a write of the read-only DEV_ID changes nothing. MAX_FIELD_READ of GR_BACKLOG returns the depth and the greatest depth and restarts the maximum at the depth; of GR_HOLD_CNT it returns the count and clears it; of DEV_ID it returns the identity and takes nothing. Reading GR_COUNT_LO returns the low word of the count of grains and latches the high one. -/
def Obligations.PlainRegisterAccesses : Prop :=
  ∀ (s : State) (m : Master) (v : W32),
    (allowed s m 0x00200048 true → exec (.registerWrite m 0x00200048 4 v) s = .next
      { s with tb := { s.tb with holdRate := BitVec.ofNat 24 (fld v 0 24) } }) ∧
    (allowed s m 0x00200040 true → exec (.registerWrite m 0x00200040 4 v) s = .next
      { s with bus := { s.bus with pend := s.bus.pend ++ [(0x00200040, v)] } }) ∧
    (allowed s m 0x00000000 true → exec (.registerWrite m 0x00000000 4 v) s = .next s) ∧
    (allowed s m 0x0010000C false → exec (.maxFieldRead m 0x0010000C) s = .next { s with
      gr := { s.gr with maxDepth := s.gr.backlog.length },
      bus := { s.bus with lastRead := w32 (s.gr.backlog.length + 2 ^ 16 * max s.gr.maxDepth s.gr.backlog.length) } }) ∧
    (allowed s m 0x00100010 false → exec (.maxFieldRead m 0x00100010) s = .next { s with
      gr := { s.gr with holdCnt := 0 }, bus := { s.bus with lastRead := s.gr.holdCnt } }) ∧
    (allowed s m 0x00000000 false → exec (.maxFieldRead m 0x00000000) s = .next
      { s with bus := { s.bus with lastRead := w32 (0x09600100 + 16 * Config.grade.toNat) } }) ∧
    (allowed s m 0x00100000 false → exec (.grCountLoRead m) s = .next { s with
      gr := { s.gr with hiLatch := BitVec.ofNat 32 (s.gr.count.toNat / 2 ^ 32) },
      bus := { s.bus with lastRead := w32 s.gr.count.toNat } })

/-- For every row that is the effect of an opcode on a command in flight, and every state: where no command has the row's number, or the command is not ready, spells another opcode, is done already, or an earlier command on the same object has not taken its effect, the state stays as it is. That such a row is then no event is the model's own (log entry 2). -/
def Obligations.CommandsThatDoNotRun : Prop :=
  ∀ (i : Instr) (s : State) (id op : Nat), commandOf i = some (id, op) →
    (∀ c, cmdAt s id = some c → c.state ≠ .ready ∨ opOf c ≠ op ∨ c.done = true ∨ objectHeld s c = true) → exec i s = .next s

/-- Where D1's clock runs and the device is out of reset, GRAIN_BOUNDARY answers a state whose count of grains is one more, modulo 2^64, whose LOCK is set and whose XO_PPM is the measured deviation. Where D1's clock does not run or the device is in reset, there is no grain and the state stays as it is. The measured deviation is an operand of the model (log entry 4). -/
def Obligations.GrainBoundaryCountsOne : Prop :=
  ∀ (s : State) (x : BitVec 12),
    (clkOk s 1 = true → s.dev.inReset = false → ∃ t, exec (.grainBoundary x) s = .next t ∧
      t.gr.count = s.gr.count + 1 ∧ t.gr.lock = true ∧ t.gr.xoPpm = x) ∧
    (clkOk s 1 = false ∨ s.dev.inReset = true → exec (.grainBoundary x) s = .next s)

/-- The admission of a boundary never lets the backlog grow over 4,096 entries; every input of classes P0 to P5 that was seen or waited is after it in the backlog, in its source's pending queue or still at its source, so that none is discarded; and while the backlog holds 3,584 or more entries, or any input waits in a pending queue, no input of classes P6 or P7 is appended. -/
def Obligations.BacklogAdmission : Prop :=
  ∀ (s : State),
    (s.gr.backlog.length ≤ 4096 →
      (admitHigh s).gr.backlog.length ≤ 4096 ∧ (admitLow (admitHigh s)).gr.backlog.length ≤ 4096) ∧
    ((admitHigh s).gr.backlog.length + (admitHigh s).gr.waiting.length + (admitHigh s).gr.seen.length =
      s.gr.backlog.length + s.gr.waiting.length + s.gr.seen.length) ∧
    (∀ x, x.cls ≤ 5 → x ∈ s.gr.seen →
      (∃ e, (e ∈ (admitHigh s).gr.backlog ∨ e ∈ (admitHigh s).gr.waiting) ∧ e.inp = x ∧ e.stamp = s.gr.count) ∨
      x ∈ (admitHigh s).gr.seen) ∧
    (∀ e, e ∈ s.gr.waiting → e ∈ (admitHigh s).gr.backlog ∨ e ∈ (admitHigh s).gr.waiting) ∧
    (3584 ≤ s.gr.backlog.length ∨ s.gr.waiting ≠ [] → (admitLow s).gr.backlog = s.gr.backlog)

/-- Where the head of the backlog is a link change, and no shared decision precedes it, LINK_DECISION takes it: an Ethernet port goes up or down, with the stamp as its grain of decision, its queues flushed and its match table cleared on the way down, and its link event; a radio port takes its new level. A learning event at the head is taken and applied to the FDB by LEARN_DECISION with its stamp, a sweep step by AGEING_SWEEP_STEP. BACKLOG_APPLY takes four radio link changes that stand at the head in their order. Where the head is of another kind the three rows are no event; BACKLOG_APPLY of an empty backlog changes nothing. -/
def Obligations.DecisionsTakeTheHead : Prop :=
  ∀ (s : State) (g : Grain) (ci p : Nat) (c : BitVec 4) (r : List Entry), s.twn.shared = [] →
    (s.gr.backlog = ⟨g, ⟨4, ci, .link p true c⟩⟩ :: r → p < 96 → exec .linkDecision s = .next
      (let s1 := setPort { s with gr := { s.gr with backlog := r } } p { portAt s p with up := true, down := false, decAt := g }
       raiseAt (setSched s1 p { schedAt s p with verify := if portPreempt s p then 1 else 0 }) (4 * p) 1 0 g)) ∧
    (s.gr.backlog = ⟨g, ⟨4, ci, .link p false c⟩⟩ :: r → p < 96 → exec .linkDecision s = .next
      (let s1 := flushPort (setPort { s with gr := { s.gr with backlog := r } } p
         { portAt s p with up := false, down := true, decAt := g, cause := c, downs := satInc (portAt s p).downs }) p
       let s2 := setTsu s1 p { tsuAt s1 p with table := [] }
       raiseAt (setSched s2 p { schedAt s2 p with verify := 0 }) (4 * p) 0 c.toNat g)) ∧
    (∀ u, s.gr.backlog = ⟨g, ⟨4, ci, .link p u c⟩⟩ :: r → 96 ≤ p → exec .linkDecision s = .next
      (setRadio { s with gr := { s.gr with backlog := r } } (p - 96) { radioAt s (p - 96) with up := u, decAt := g })) ∧
    (∀ e, s.gr.backlog = ⟨g, ⟨6, ci, .learn e⟩⟩ :: r → exec .learnDecision s = .next
      (learnApply { s with gr := { s.gr with backlog := r } } e g false)) ∧
    (∀ b, s.gr.backlog = ⟨g, ⟨6, ci, .sweep b⟩⟩ :: r → exec .ageingSweepStep s = .next
      (sweepApply { s with gr := { s.gr with backlog := r } } b g false)) ∧
    (∀ b, s.gr.backlog = ⟨g, ⟨6, ci, .sweep b⟩⟩ :: r →
      exec .linkDecision s = .next s ∧ exec .learnDecision s = .next s) ∧
    (∀ e, s.gr.backlog = ⟨g, ⟨6, ci, .learn e⟩⟩ :: r → exec .ageingSweepStep s = .next s) ∧
    (s.gr.backlog = [] → exec .backlogApply s = .next s) ∧
    (∀ u1 u2 u3 u4, s.gr.backlog = ⟨g, ⟨4, 96, .link 96 u1 c⟩⟩ :: ⟨g, ⟨4, 97, .link 97 u2 c⟩⟩ :: ⟨g, ⟨4, 98, .link 98 u3 c⟩⟩ ::
        ⟨g, ⟨4, 99, .link 99 u4 c⟩⟩ :: r → exec .backlogApply s = .next
      (let f := fun (t : State) (m : Nat) (u : Bool) => setRadio t m { radioAt t m with up := u, decAt := g }
       f (f (f (f { s with gr := { s.gr with backlog := r } } 0 u1) 1 u2) 2 u3) 3 u4))

/-- An access of the time base that R26-R30 do not refuse completes. Reading TB_TIME_NS returns NS and latches SEC and FRAC; reading TB_FREQ_LO returns the low word in force and latches its high byte; reading TB_SMP_W2 returns the grain stamp at the front of the sample FIFO, or 0, and pops it. Writing TB_FREQ_LO stages its word and TB_FREQ_HI commits it with the staged low word for the next boundary; TB_ERR_EST and TB_REF_CTL are staged for the next boundary. The junior of a pair discards TB_FREQ and TB_ERR_EST, SOLO-HOLD discards TB_FREQ_HI, and the senior carries TB_FREQ_HI and TB_ERR_EST to LAG ahead on both devices. Nothing else changes. -/
def Obligations.TimeBaseRegisters : Prop :=
  ∀ (s : State) (m : Master) (v : W32),
    (allowed s m 0x00200000 false → exec (.tbTimeNsRead m) s = .next { s with
      tb := { s.tb with
        secLoLatch := w32 (tSec s.tb.t),
        hiLatch := BitVec.ofNat 24 (tSec s.tb.t / 2 ^ 32 % 65536 + 65536 * tFrac s.tb.t) },
      bus := { s.bus with lastRead := w32 (tNs s.tb.t) } }) ∧
    (allowed s m 0x00200010 false → exec (.tbFreqLoRead m) s = .next { s with
      tb := { s.tb with fHiLatch := BitVec.ofNat 8 (s.tb.f.toNat / 2 ^ 32) },
      bus := { s.bus with lastRead := w32 s.tb.f.toNat } }) ∧
    (allowed s m 0x00200038 false → exec (.tbSmpPop m) s = .next { s with
      tb := { s.tb with fifo := s.tb.fifo.tail },
      bus := { s.bus with lastRead := (match s.tb.fifo with | [] => 0 | r :: _ => w32 r.grain.toNat) } }) ∧
    (allowed s m 0x00200010 true → exec (.tbFreqLoWrite m v) s = .next
      (if paired s ∧ ¬ senior s then s else { s with tb := { s.tb with stageLo := v } })) ∧
    (allowed s m 0x00200014 true → exec (.tbFreqHiWrite m v) s = .next
      (let f : BitVec 40 := BitVec.ofNat 40 (s.tb.stageLo.toNat + 2 ^ 32 * (v.toNat % 256))
       if (paired s ∧ ¬ senior s) ∨ s.twn.state = twSOLO then s
       else if paired s then timeChange s { noChange s (pairGrain s + lagOf s) with setF := some f }
       else { s with tb := { s.tb with pendF := some f } })) ∧
    (allowed s m 0x00200020 true → exec (.tbRefCtlWrite m v) s = .next { s with tb := { s.tb with pRef := some v } }) ∧
    (allowed s m 0x00200044 true → exec (.tbErrEstWrite m v) s = .next
      (if paired s ∧ ¬ senior s then s
       else if paired s then timeChange s { noChange s (pairGrain s + lagOf s) with est := some v }
       else { s with tb := { s.tb with pEst := some v } }))

/-- At the end of a 1 ms window REFx_OK clears outside plus or minus 100 ppm, with TB_REF_DEGRADED where it was set, keeps its value where the window held a gap of 256 grains, and otherwise sets; at any other grain there is no window end. 256 grains without an edge clear it. A REF edge becomes the last edge, and one of the selected source at or after the sampling boundary is stamped. A PPS edge is stamped; its interval within 1,000,000,000 plus or minus 100,000 grains counts up to ten, and the tenth qualifies the input; an interval outside clears it; a limit of 1,100,000,000 grains clears it. The input of the selected source ends holdover where it qualifies again, and begins it where the limit passes. -/
def Obligations.ReferenceQualification : Prop :=
  ∀ (s : State) (b : Bool) (ppb : Int) (sub : Nat),
    (s.gr.count.toNat % 1000000 = 0 → s.gr.count ≠ 0 → exec (.refWindowEnd b ppb) s = .next
      (let r := refIn s b
       let clear := setRef s b { r with gap := refSilent s b, ok := false }
       if ppb < -100000 ∨ 100000 < ppb then
         (if r.ok then raise clear 579 (if b then 2 else 1) 0 else clear)
       else setRef s b { r with gap := refSilent s b, ok := r.ok || !r.gap })) ∧
    (s.gr.count.toNat % 1000000 ≠ 0 ∨ s.gr.count = 0 → exec (.refWindowEnd b ppb) s = .next s) ∧
    (refSilent s b = true → exec (.refEdgeTimeout b) s = .next
      (let clear := setRef s b { refIn s b with gap := true, ok := false }
       if (refIn s b).ok then raise clear 579 (if b then 2 else 1) 0 else clear)) ∧
    (sub < 65536 → exec (.refEdge b sub) s = .next
      (let s1 := setRef s b { refIn s b with last := some s.gr.count }
       let t := stampOf s sub
       if s.tb.src.toNat = (if b then 2 else 1) ∧ smpSpacing s ≠ 0 ∧ s.tb.smpFrom ≤ t then
         pushSmp { s1 with tb := { s1.tb with smpFrom := (t / smpSpacing s + 1) * smpSpacing s } } (if b then 1 else 0) t
       else s1)) ∧
    (sub < 65536 → (ppsIn s b).last = none → exec (.ppsEdge b sub) s = .next
      (setPps (pushSmp s (if b then 3 else 2) (stampOf s sub)) b { ppsIn s b with last := some s.gr.count })) ∧
    (∀ g, sub < 65536 → (ppsIn s b).last = some g → exec (.ppsEdge b sub) s = .next
      (let p := ppsIn s b
       let s1 := pushSmp s (if b then 3 else 2) (stampOf s sub)
       let good := decide (999900000 ≤ since s g ∧ since s g ≤ 1000100000)
       let n := if good then min 10 (p.good + 1) else 0
       let ok := good && (p.ok || decide (n = 10))
       let s2 := setPps s1 b { ok := ok, last := some s.gr.count, good := n }
       if ok && !p.ok && selects s2 b then { s2 with tb := { s2.tb with holdover := false } } else s2)) ∧
    (∀ g, (ppsIn s b).last = some g → 1100000000 ≤ since s g → exec (.ppsTimeout b) s = .next
      (let s1 := setPps s b { ppsIn s b with ok := false, good := 0 }
       if (ppsIn s b).ok ∧ s.tb.src.toNat = (if b then 2 else 1) ∧ s.tb.holdover = false then
         holdoverEntry (if paired s then s1 else { s1 with tb := { s1.tb with f := s.tb.fPrev } })
       else s1))

/-- At a boundary whose GR_COUNT is a nonzero multiple of 2^20, where HOLDOVER was 0 in the grain before and no sample of this boundary stands, HOLDOVER_SAMPLE records the word that was in force during that grain and keeps the samples of the last 1,024 s; in holdover nothing is sampled. When the growth counter has reached 10^9, ERR_EST_GROWTH adds HOLD_RATE in 1/16 ns rounded up to TB_ERR_EST, saturating, restarts the counter and judges TIME_VALID. At a boundary at which the selected source is of type A or B, not qualified and HOLDOVER is 0, the word written is discarded and holdover is entered; at any other the word written is in force. Entering holdover outside a pair sets HOLDOVER, loads F with the mean, the sample of that boundary taken, or keeps F, and raises TB_HOLDOVER; in holdover nothing happens. -/
def Obligations.HoldoverSamplingAndGrowth : Prop :=
  ∀ (s : State),
    (s.gr.count.toNat % 2 ^ 20 = 0 → s.gr.count ≠ 0 → s.tb.holdPrev = false →
      (s.tb.means.head?.map (·.1)) ≠ some s.gr.count →
      exec .holdoverSample s = .next { s with tb := { s.tb with
        means := (s.gr.count, s.tb.fPrev) :: s.tb.means.filter fun m => decide (since s m.1 < 1024 * 1000000000) } }) ∧
    (s.tb.holdPrev = true → exec .holdoverSample s = .next s) ∧
    (1000000000 ≤ s.tb.growth → exec .errEstGrowth s = .next
      (validUpdate { s with tb := { s.tb with
        errEst := BitVec.ofNat 32 (min (2 ^ 32 - 1) (s.tb.errEst.toNat + (s.tb.holdRate.toNat * 16 + 999) / 1000)),
        growth := 0 } })) ∧
    (s.tb.growth < 1000000000 → exec .errEstGrowth s = .next s) ∧
    (s.tb.pRef = none → s.twn.times = [] →
      let u : State := { s with tb := { s.tb with
        t := (((s.tb.t : Int) + 2 ^ 48 + s.tb.f.toInt) % (tMod : Int)).toNat
        fPrev := s.tb.f, holdPrev := s.tb.holdover, pendF := none
        growth := if s.tb.pEst.isSome then 0 else s.tb.growth + 1, errEst := s.tb.pEst.getD s.tb.errEst, pEst := none } }
      tbBoundary s = if srcOk s s.tb.src.toNat = false ∧ s.tb.holdover = false ∧ juniorPaired s = false then holdoverEntry u
        else { u with tb := { u.tb with f := s.tb.pendF.getD s.tb.f } }) ∧
    (s.tb.holdover = false → paired s = false →
      let u := holdoverSample s
      let m := meanF u
      holdoverEntry s = raise { u with tb := { u.tb with holdover := true, f := m.getD u.tb.f } } 577 0
        (s.tb.src.toNat + 256 * b1 m.isSome)) ∧
    (s.tb.holdover = true → holdoverEntry s = s)

/-- On an enabled capture input an edge of an enabled direction outside the 8 ns after the last stamped edge is pushed with its stamp compensated by DLY and the grain stamp of the next boundary, or discarded and counted in LOST with LOSS for the next record where the FIFO holds 64; an edge within the 8 ns counts in DEAD; a disabled input or direction ignores it. The capture event is raised when the level rises to THRESH, and again only after it fell below. Reading EVC_REC3 returns the grain stamp of the oldest record, or 0, and pops the record. -/
def Obligations.CaptureInputs : Prop :=
  ∀ (s : State) (m : Master) (n sub : Nat) (rising : Bool), n < 32 →
    (allowed s m (0x00400000 + 0x20 * n + 0x1C) false → exec (.evcRecPop m n) s = .next
      (let x := evcAt s n
       readBack (setEvc s n { x with
           fifo := x.fifo.tail, raised := x.raised && decide (x.thresh.toNat ≤ x.fifo.length - 1) })
         (match x.fifo with | [] => 0 | r :: _ => w32 r.grain.toNat))) ∧
    (sub < 65536 → (evcAt s n).en = false → exec (.ecapEdge n rising sub) s = .next s) ∧
    (∀ g p, sub < 65536 → (evcAt s n).en = true → (evcAt s n).lastAt = some (g, p) → since s g * 65536 + sub < p + 8 * 65536 →
      exec (.ecapEdge n rising sub) s = .next (setEvc s n { evcAt s n with dead := satInc (evcAt s n).dead })) ∧
    (sub < 65536 → (evcAt s n).en = true → (evcAt s n).edge.getLsbD (if rising then 0 else 1) = true →
      (∀ g p, (evcAt s n).lastAt = some (g, p) → p + 8 * 65536 ≤ since s g * 65536 + sub) →
      exec (.ecapEdge n rising sub) s = .next
        (let x := { evcAt s n with lastAt := some (s.gr.count, sub) }
         if 64 ≤ x.fifo.length then setEvc s n { x with lost := satInc x.lost, fifoLoss := true }
         else
           let hit := decide (x.thresh ≠ 0) && !x.raised && decide (x.thresh.toNat ≤ x.fifo.length + 1)
           let s1 := setEvc s n { x with
             fifo := x.fifo ++ [{ stamp := compensate (stampOf s sub) x.dly.toInt, falling := !rising, loss := x.fifoLoss, grain := s.gr.count + 1 }],
             fifoLoss := false, raised := x.raised || hit }
           if hit then raiseAt s1 (608 + n) 0 0 (s.gr.count + 1) else s1)) ∧
    (sub < 65536 → (evcAt s n).en = true → (evcAt s n).edge.getLsbD (if rising then 0 else 1) = false →
      (∀ g p, (evcAt s n).lastAt = some (g, p) → p + 8 * 65536 ≤ since s g * 65536 + sub) →
      exec (.ecapEdge n rising sub) s = .next s)

/-- An output whose schedule is high goes low at the end of its high time, and one that is low rises at its next scheduled edge with the values last written, each edge driven to the ball as SQUELCH and POL say. Near a second boundary a mode 3 output takes the frame of that second. A write of POL, SQUELCH and PFRAC that keeps a scheduled mode, and of and of START, PERIOD, HIGH and DLY inside their ranges, is kept for its edge; an out-of-range value changes nothing. TOU_LEAP and TOU_IRIG take their fields and LOCAL -32 keeps LOCAL; an arming whose LEAP_SEC is not ahead is cleared with TB_LEAP_REFUSED; the end of the armed leap second moves TAI_UTC by one and disarms. -/
def Obligations.TimeOutputs : Prop :=
  ∀ (s : State) (m : Master) (k : Nat) (v : W32), k < 8 →
    ((touAt s k).level = true → touDue s (touAt s k) ((touAt s k).riseAt + highTime (touAt s k)) = true →
      exec (.toutEdge k) s = .next
        (let x := touAt s k
         let y := { x with level := false, seekFrom := x.riseAt + 1, irigIdx := if x.mode = 3 then x.irigIdx + 1 else x.irigIdx }
         emit (setTou s k y) (.tout k (ballLevel s y)))) ∧
    (∀ r, (touAt s k).level = false → nextRise s (touAt s k) (touAt s k).seekFrom = some r → touDue s (touAt s k) r = true →
      exec (.toutEdge k) s = .next
        (let y := { touLoad (touAt s k) with level := true, riseAt := r }
         emit (setTou s k y) (.tout k (ballLevel s y)))) ∧
    ((touAt s k).mode = 0 → (touAt s k).level = false → exec (.toutEdge k) s = .next s) ∧
    ((touAt s k).mode = 3 → (s.tb.t + 2048 * 2 ^ 48) % secUnits < 4096 * 2 ^ 48 → (touAt s k).level = false →
      (touAt s k).irigBits = [] →
      exec (.irigFrameStart k) s = .next
        (let t := (s.tb.t + 2048 * 2 ^ 48) / secUnits
         setTou s k { touAt s k with irigBits := irigFrame s t, irigIdx := 0, seekFrom := t * secUnits })) ∧
    (allowed s m (0x00401000 + 0x20 * k) true → (touAt s k).mode ≠ 0 → fld v 0 2 = (touAt s k).mode.toNat →
      exec (.touWrite m k 0 v) s = .next
        (let y := { touAt s k with pol := bit v 2, squelch := bit v 3, pPfrac := some (BitVec.ofNat 8 (fld v 8 8)) }
         if ballLevel s (touAt s k) = ballLevel s y then setTou s k y else emit (setTou s k y) (.tout k (ballLevel s y)))) ∧
    ((touAt s k).mode ≠ 0 → ∀ off, 1 ≤ off → off < 6 → allowed s m (0x00401000 + 0x20 * k + 4 * off) true →
      exec (.touWrite m k off v) s = .next
        (let x := touAt s k
         let w : BitVec 30 := BitVec.ofNat 30 (fld v 0 30)
         setTou s k
          (if off = 1 then { x with pStartSec := some v }
           else if off = 2 then (if fld v 0 30 < 1000000000 then { x with pStartNs := some w } else x)
           else if off = 3 then
             (if 20 ≤ fld v 0 30 ∧ fld v 0 30 ≤ 1000000000 ∧ highOk x.mode.toNat (x.pHigh.getD x.high).toNat (fld v 0 30) = true then
               { x with pPeriod := some w } else x)
           else if off = 4 then
             (if highOk x.mode.toNat (fld v 0 30) (x.pPeriod.getD x.period).toNat = true then { x with pHigh := some w } else x)
           else { x with dly := BitVec.ofNat 16 (fld v 0 16) }))) ∧
    (allowed s m 0x00401104 true → s.irig.leapArm = false →
      exec (.touIrigWrite m true v) s = .next { s with irig := { s.irig with leapSec := v } }) ∧
    (allowed s m 0x00401100 true → bit v 24 = false →
      exec (.touIrigWrite m false v) s = .next { s with irig := { s.irig with
        taiUtc := BitVec.ofNat 16 (fld v 0 16), local_ := if fld v 16 6 = 32 then s.irig.local_ else BitVec.ofNat 6 (fld v 16 6),
        dst := bit v 22, dsp := bit v 23, leapArm := false, leapDel := bit v 25 } }) ∧
    (allowed s m 0x00401104 true → s.irig.leapArm = true → v.toNat ≤ tSec s.tb.t % 2 ^ 32 →
      exec (.touIrigWrite m true v) s = .next
        (raise { s with irig := { s.irig with leapSec := v, leapArm := false } } 580 0 v.toNat)) ∧
    (s.irig.leapArm = true → s.irig.leapSec.toNat < tSec s.tb.t % 2 ^ 32 → exec .leapSecondEnd s = .next { s with irig := { s.irig with
        leapArm := false, taiUtc := if s.irig.leapDel then s.irig.taiUtc - 1 else s.irig.taiUtc + 1 } }) ∧
    (s.irig.leapArm = false → exec .leapSecondEnd s = .next s)

/-- A TB_ADJUST that is ready for its effect completes with NOT_OWNER on the junior of a pair and in SOLO-HOLD and with BAD_PARAM where AT is not in the future; away from a pair it otherwise becomes the pending adjustment, stays under way, and cancels the one that was pending with ADJUST_CANCELLED. When grain AT has come, a STEP moves TB_TIME by its value and a SET loads its value and clears TRACEABLE, the pending adjustment is gone and its command completes DONE with the grain of application; before AT nothing happens. -/
def Obligations.TimeAdjustments : Prop :=
  ∀ (s : State) (c : Cmd) (id : Nat),
    (readyCmd s id 0x08 c → (paired s ∧ senior s = false) ∨ s.twn.state = twSOLO →
      exec (.tbAdjust id) s = .next (complete s c.id stNOT_OWNER [])) ∧
    (readyCmd s id 0x08 c → paired s = false → s.twn.state ≠ twSOLO → future s (BitVec.ofNat 64 (par c 16 8)) = false →
      exec (.tbAdjust id) s = .next (complete s c.id stBAD_PARAM [])) ∧
    (readyCmd s id 0x08 c → paired s = false → s.twn.state ≠ twSOLO → future s (BitVec.ofNat 64 (par c 16 8)) = true →
      exec (.tbAdjust id) s = .next
        (let s1 := match s.tb.adj with | some a => completeOpt s a.cmd stADJUST_CANCELLED [] | none => s
         let a : Adj := if parBits c 8 0 1 = 1 then
             { set := true, at_ := BitVec.ofNat 64 (par c 16 8), step := 0,
               value := tMake (par c 24 6) (par c 32 4) (par c 36 1), cmd := some c.id }
           else { set := false, at_ := BitVec.ofNat 64 (par c 16 8), step := stepOf c, value := 0, cmd := some c.id }
         running { s1 with tb := { s1.tb with adj := some a } } c.id)) ∧
    (∀ a, s.tb.adj = some a → reached s a.at_ = true → a.set = false →
      exec .tbAdjustApply s = .next
        (completeOpt (adjustTo { s with tb := { s.tb with adj := none } } (tAdd s.tb.t a.step) a.step) a.cmd stDONE
          (leBytes 8 a.at_.toNat))) ∧
    (∀ a, s.tb.adj = some a → reached s a.at_ = true → a.set = true →
      exec .tbAdjustApply s = .next
        (let s1 := adjustTo { s with tb := { s.tb with adj := none } } a.value ((a.value : Int) - s.tb.t)
         completeOpt (validUpdate { s1 with tb := { s1.tb with traceable := false } }) a.cmd stDONE (leBytes 8 a.at_.toNat))) ∧
    (∀ a, s.tb.adj = some a → reached s a.at_ = false → exec .tbAdjustApply s = .next s) ∧
    (s.tb.adj = none → exec .tbAdjustApply s = .next s)

/-- Before a shed, a start of frame on an Ethernet port whose receive path is on, with none arriving there, brings one packet into the device: of that port, with the port's next number, the ingress stamp less the port's ingress delay, this grain and the newest epoch; the port's next number advances by one and nothing else changes. On a port whose receive path is off nothing happens. At a grain that is a multiple of 1,000 a policing interval begins: of each of the 16 partitions nothing is offered or admitted and the weight is that of the newest epoch, and nothing but the partitions changes; at any other grain none begins. -/
def Obligations.FrameStartAndPolicingInterval : Prop :=
  ∀ (s : State) (port sub : Nat),
    (port < 96 → sub < 65536 → s.pwr.shed = none → (portAt s port).state ≠ 0 → arrivingOn s port = none →
      ∃ p : Pkt, exec (.frameStart port sub) s = .next
          (let s1 := setRsq s port { rsqAt s port with next := (rsqAt s port).next + 1 }
           { s1 with qm := { s1.qm with pkts := s.qm.pkts ++ [p], nextPkt := s.qm.nextPkt + 1 } }) ∧
        p.id = s.qm.nextPkt ∧ p.port = port ∧ p.seq = (rsqAt s port).next ∧ p.grain = s.gr.count ∧ p.epoch = (newest s).num ∧
        p.stamp = compensate (stampOf s sub) (-((tsuAt s port).ing.toNat : Int)) ∧ p.stage = .arriving) ∧
    (port < 96 → sub < 65536 → (portAt s port).state = 0 → exec (.frameStart port sub) s = .next s) ∧
    (s.gr.count.toNat % 1000 = 0 → ∃ t, exec .policingIntervalStart s = .next t ∧ t = { s with ptn := t.ptn } ∧
      ∀ n, ptnAt t n = if n < 16 then { ptnAt s n with offered := 0, admitted := 0, polW := weightOf s n } else ptnAt s n) ∧
    (s.gr.count.toNat % 1000 ≠ 0 → exec .policingIntervalStart s = .next s)

/-- With the FEC counts of the port brought up to date, a frame of a port that does not accept it counts in RX_NOT_UP and gives its number back; one that the MAC discards counts under its cause; one of a resetting partition counts in the drops of the reset; one of a port that a drain names counts as lost to it; and any other is attributed to the partition its key names, counted as one packet and its octets, and dispatched. A dispatched packet that stays within its partition's sure share is admitted to the end of the dispatch queue of the engine that serves its bucket; where no engine is live, or that queue holds 256, it counts as a drop of the partition. -/
def Obligations.ReceivedFramesAndDispatch : Prop :=
  ∀ (s : State) (port work corr uncorr : Nat) (bytes : List Byte) (ok : Bool), port < 96 → s.pwr.shed = none →
    let s1 := fecCount s port corr uncorr
    (arrivingOn s1 port = none → exec (.frameReceived port bytes ok work corr uncorr) s = .next s1) ∧
    (∀ p, arrivingOn s1 port = some p → accepts s1 port p.grain = false →
      exec (.frameReceived port bytes ok work corr uncorr) s = .next
        (let s2 := delPkt (setPort s1 port { portAt s1 port with rxNotUp := satInc (portAt s1 port).rxNotUp }) p.id
         setRsq s2 p.port { rsqAt s2 p.port with next := p.seq })) ∧
    (∀ p sel, arrivingOn s1 port = some p → accepts s1 port p.grain = true → macReject bytes ok = some sel →
      exec (.frameReceived port bytes ok work corr uncorr) s = .next
        (rejectPkt (count s1 port sel 1 (portOwner s1 port)) p)) ∧
    (∀ p, arrivingOn s1 port = some p → accepts s1 port p.grain = true → macReject bytes ok = none →
      exec (.frameReceived port bytes ok work corr uncorr) s = .next
        (let n := framePart s1 (epochOf s1 p.epoch) port bytes
         let q := { p with bytes := bytes, part := n, work := work }
         let s2 := count (count (setPkt s1 q) port 1 1 n) port 2 (bytes.length + 4) n
         if (ptnAt s2 n).resetting then discardPkt (rstDrop s2 n) q
         else if s1.cfg.quiesces.any (fun x => x.ingress.contains port) then
           discardPkt (drainLost s2 fun x => x.ingress.contains port) q
         else dispatch s2 q)) ∧
    (∀ (p : Pkt) (k : Nat),
      let w := max 96 p.work
      let x := ptnAt s p.part
      let s2 : State := setPtn (setPtn { s with pwr := { s.pwr with offered := s.pwr.offered + w } } p.part
        { x with offered := x.offered + w }) p.part { x with offered := x.offered + w, admitted := x.admitted + w }
      (x.admitted + w) * 1000 ≤ surePart (setPtn { s with pwr := { s.pwr with offered := s.pwr.offered + w } } p.part
        { x with offered := x.offered + w }) p.part →
      effEngine s2 (epochOf s2 p.epoch) (bucketOf s2 (epochOf s2 p.epoch) p.port p.seq.toNat p.bytes) = some k →
      engDepth (engAt s2 k) < 256 →
      ∃ q : Pkt, ∃ l, dispatch s p = setPkt (setEng { s2 with qm := { s2.qm with lastEng := l } } k
          { engAt s2 k with disp := (engAt s2 k).disp ++ [p.id] }) q ∧
        q.id = p.id ∧ q.stage = .dispatched ∧ q.engine = some k ∧ q.core = s.gr.count ∧ q.bytes = p.bytes)

/-- A read of TSU_TXS_W3 of an Ethernet port that no rule refuses returns the upper seconds of the oldest two-step record, or 0 where there is none, and pops it. MATCH_ENTRY_TIMEOUT keeps exactly the entries of the port's match table that are younger than 10^9 grains. Nothing else changes. -/
def Obligations.TimestampUnitRows : Prop :=
  ∀ (s : State) (m : Master) (p : Nat), p < 96 →
    (allowed s m (0x0030001C + 0x1000 * p) false → exec (.tsuTxsPop m p) s = .next
      (readBack (setTsu s p { tsuAt s p with txs := (tsuAt s p).txs.tail })
        (match (tsuAt s p).txs with | r :: _ => w32 (tSec r.stamp / 65536) | [] => 0))) ∧
    (exec (.matchEntryTimeout p) s = .next
      (setTsu s p { tsuAt s p with table := (tsuAt s p).table.filter fun e => decide (since s e.made < 1000000000) }))

/-- Before a shed, PACKET_ENQUEUE of a finished packet that is the first of its engine and ingress port releases it from its engine, and then discards it as a stray where its number was declared lost, as a drop of the reset where its partition resets, as lost where a drain has it in scope; otherwise a frame of the send ring goes to its port where the partition owns it and is discarded in PTN_XDROP where not; a punted packet goes to logical port 100, or 101 where its destination names it; and one without a destination and without a copy to pass on counts as NO_DEST of its engine and is discarded. A packet that is not finished, or not the first, stays. A queue manager request within the partition's guarantee is admitted whole, one above its ceiling not at all. A number done that is DONE(i), with nothing else outstanding, advances DONE(i) by one. A missing number is declared lost, counted, done and reported once in its window when GAP microseconds have passed since its open grain, and not before. -/
def Obligations.FinishedPacketsLeaveTheirEngine : Prop :=
  (∀ (s : State) (id : Nat) (p : Pkt), s.pwr.shed = none → pktAt s id = some p →
    (p.stage ≠ .finished ∨ firstOfEngine s p = false → exec (.packetEnqueue id) s = .next s) ∧
    (p.stage = .finished → firstOfEngine s p = true →
      let s1 := engineDone s p
      let x := rsqAt s1 p.port
      (x.lostSet.contains p.seq = true →
        exec (.packetEnqueue id) s = .next (discardPkt (setRsq s1 p.port { x with stray := satInc x.stray }) p)) ∧
      (x.lostSet.contains p.seq = false → (ptnAt s1 p.part).resetting = true →
        exec (.packetEnqueue id) s = .next
          (discardPkt (setPtn s1 p.part { ptnAt s1 p.part with rstDrop := satInc (ptnAt s1 p.part).rstDrop }) p)) ∧
      (x.lostSet.contains p.seq = false → (ptnAt s1 p.part).resetting = false →
        s1.cfg.quiesces.any (fun d => d.all || d.parts.contains p.part || d.ingress.contains p.port) = true →
        exec (.packetEnqueue id) s = .next
          (discardPkt (drainLost s1 fun d => d.all || d.parts.contains p.part || d.ingress.contains p.port) p)) ∧
      (x.lostSet.contains p.seq = false → (ptnAt s1 p.part).resetting = false →
        s1.cfg.quiesces.any (fun d => d.all || d.parts.contains p.part || d.ingress.contains p.port) = false →
        (∀ q, p.direct = some q → portOwner s1 q = p.part → q < 100 → exec (.packetEnqueue id) s = .next
          (takeCopies s1 p [(q, mkCopy s1 (epochOf s1 p.epoch) p q p.bytes false)])) ∧
        (∀ q, p.direct = some q → portOwner s1 q ≠ p.part → exec (.packetEnqueue id) s = .next
          (discardPkt (setPtn s1 p.part { ptnAt s1 p.part with xdrop := satAdd (ptnAt s1 p.part).xdrop 1 }) p)) ∧
        (∀ r, p.direct = none → p.punt = some r → exec (.packetEnqueue id) s = .next
          (puntTo s1 (epochOf s1 p.epoch) p r.toNat (if p.dest = some 101 then 101 else 100))) ∧
        (∀ k, p.direct = none → p.punt = none → rewriteOk s1 (epochOf s1 p.epoch) p = true →
          ttlPunt s1 (epochOf s1 p.epoch) p = false → destWord s1 (epochOf s1 p.epoch) p = none → p.pass = none →
          p.engine = some k → exec (.packetEnqueue id) s = .next (discardPkt (count s1 (100 + k) 3 1 p.part) p))))) ∧
  (∀ (s : State) (p : Pkt) (l : List (Nat × Copy)),
    ((ptnAt s p.part).usedCells + cellsOf p.bytes ≤ guarNow s p.part → admitted s p l = l) ∧
    (guarNow s p.part < (ptnAt s p.part).usedCells + cellsOf p.bytes →
      ceilNow s p.part < (ptnAt s p.part).usedCells + cellsOf p.bytes → admitted s p l = [])) ∧
  (∀ (s : State) (p : Pkt), (rsqAt s p.port).lostSet = [] → (rsqAt s p.port).doneSet = [] → (rsqAt s p.port).missing = [] →
    p.seq = (rsqAt s p.port).doneTo →
    rsqAt (discardPkt s p) p.port = { rsqAt s p.port with doneTo := p.seq + 1 }) ∧
  (∀ (s : State) (i : Nat) (q : BitVec 16), i < 102 →
    (∀ g, (rsqAt s i).missing.find? (fun m => decide (m.1 = q)) = some (q, g) →
      (since s g < s.qm.gap.toNat * 1000 → exec (.reseqGapTimeout i q) s = .next s) ∧
      (s.qm.gap.toNat * 1000 ≤ since s g →
        let s2 := doneMark (setRsq s i { rsqAt s i with lost := satInc (rsqAt s i).lost }) i q
        exec (.reseqGapTimeout i q) s = .next
          (raiseOnce (if stillComing s2 i q then setRsq s2 i { rsqAt s2 i with lostSet := q :: (rsqAt s2 i).lostSet } else s2)
            2 0 663 0 (i + 65536 * q.toNat)))) ∧
    ((rsqAt s i).missing.find? (fun m => decide (m.1 = q)) = none → exec (.reseqGapTimeout i q) s = .next s))

/-- Before a shed: an Ethernet port that may not send, and a radio port, starts nothing. A port whose timed copies are due serves none of its prompt ones. A free port with no copy due and none of its heads too long starts the highest-numbered queue's eligible head. Port 101 hands the head of its queues by strict priority to the cluster. TIMED_RELEASE marks and counts the copies that are held back, starts the due copy that is first in order where the wire is free and it is on time or held, drops it where it is late under LATE_ACT 1, and otherwise sends it counted as late. FRAME_TX_END of a frame whose bits have left, or of a port whose mode has no rate, frees the wire and the queue's cells, pays the credit of a prompt copy and drops the packet's reference. GATE_ENTRY_START gives an Ethernet port the entry, gate states, activity and hold that the newest epoch's list has at this instant. The verify procedure of a port that verifies ends verified, or failed with its event. -/
def Obligations.TransmissionAndRelease : Prop :=
  (∀ (s : State) (p : Nat) (dev : Int), p < 102 → s.pwr.shed = none →
    (portSends s p = false → p ≠ 101 → exec (.portTransmitStart p dev) s = .next s) ∧
    (portSends s p = false → exec (.timedRelease p dev) s = .next s) ∧
    (portSends s p = true → (nextTimed s p).isSome = true → exec (.portTransmitStart p dev) s = .next s) ∧
    (∀ c, portSends s p = true → nextTimed s p = none → (∀ q < 8, (promptHead s p q).all (fun d => !tooLong s p d) = true) →
      nextPrompt s p = some c → (schedAt s p).tx = none → exec (.portTransmitStart p dev) s = .next (startCopy s p c dev)) ∧
    (∀ c, p = 101 → plainHead s 101 = some c →
      let s1 := { s with out := Output.frame 101 c.stamp c.frame :: s.out }
      exec (.portTransmitStart p dev) s = .next
        (unref (setQueue s1 101 c.queue { queueAt s1 101 c.queue with
          copies := (queueAt s1 101 c.queue).copies.filter (fun d => decide (d.pkt ≠ c.pkt)),
          cells := (queueAt s1 101 c.queue).cells - c.cells }) c.pkt)) ∧
    (let s1 := markHeld s p
     portSends s p = true →
      (nextTimed s1 p = none → exec (.timedRelease p dev) s = .next s1) ∧
      (∀ c, nextTimed s1 p = some c → (onTime s1 c = true ∨ c.held = true) → (schedAt s1 p).tx = none →
        exec (.timedRelease p dev) s = .next (startCopy s1 p c dev)) ∧
      (∀ c, nextTimed s1 p = some c → onTime s1 c = false → c.held = false → qLateDrop s1 (epochOf s1 c.epoch) p c.queue = true →
        exec (.timedRelease p dev) s = .next (lateDropCopy s1 p c)) ∧
      (∀ c, nextTimed s1 p = some c → onTime s1 c = false → c.held = false → qLateDrop s1 (epochOf s1 c.epoch) p c.queue = false →
        (schedAt s1 p).tx = none → exec (.timedRelease p dev) s = .next (startCopy (lateSentCount s1 p c) p c dev)))) ∧
  (∀ (s : State) (p : Nat), p < 102 →
    ((schedAt s p).tx = none → exec (.frameTxEnd p) s = .next s) ∧
    (∀ x, (schedAt s p).tx = some x → (x.bits * 1000000 ≤ since s x.start * portRate s p ∨ portRate s p = 0) →
      let s1 := setSched s p { schedAt s p with tx := none }
      let s2 := setQueue s1 p x.queue { queueAt s p x.queue with cells := (queueAt s p x.queue).cells - x.copy.cells }
      exec (.frameTxEnd p) s = .next
        (unref (if x.copy.relAt.isNone then payCredit s2 p x.queue (epochOf s2 x.copy.epoch) x.bits else s2) x.copy.pkt)) ∧
    (p < 96 → (schedAt s p).tx = none → exec (.gateEntryStart p) s = .next (setSched s p { schedAt s p with
      entry := BitVec.ofNat 6 (gateNow s (newest s) p).1, gates := BitVec.ofNat 8 (gateNow s (newest s) p).2,
      active := gateActive s (newest s) p, hold := gateHold s (newest s) p })) ∧
    (p < 96 → (schedAt s p).verify = 1 →
      exec (.preemptVerify p true) s = .next (setSched s p { schedAt s p with verify := 2 }) ∧
      exec (.preemptVerify p false) s = .next (raise (setSched s p { schedAt s p with verify := 3 }) (4 * p + 3) 8 0)) ∧
    (∀ ok, p < 96 → (schedAt s p).verify ≠ 1 → exec (.preemptVerify p ok) s = .next s))

/-- Before a shed, for a packet in flight in a live engine that waits for no lookup: its 1,025th microword is a machine check of cause 5; a word that fails its parity is a machine check of cause 1, and of a word that failed within the last 10^6 grains also a fault of the engine; END with DISCARD discards it; END with a destination finishes it; any other word leaves the packet after extract, ALU, action, cursor and sequencing, or raises the machine check that the sequencing finds. A region that holds the base program as loaded runs it: a PRP or HSR supervision frame is punted to the cluster with reason 5. The packet at the head of its engine's dispatch queue enters with its entry registers where fewer than eight are in flight. A fenced engine, and a packet of another engine, execute nothing. G0 reads 0 and is not written; ADD, SUB and CMP set Z, N and C; an extract beyond the window sets END and 0. -/
def Obligations.EnginesExecutePackets : Prop :=
  (∀ (s : State) (e id : Nat) (p : Pkt) (bad : Bool), e < 64 → s.pwr.shed = none → pktAt s id = some p →
    let s0 := setEng s e { engAt s e with stepped := true }
    let ep := epochOf s p.epoch
    let base := ucodeBase s ep
    let w := ucodeWord s (base + p.ctx.pc)
    let c := mwAlu w (mwExtract p w { p.ctx with steps := p.ctx.steps + 1 })
    let a := mwAct s0 e w { p with ctx := c }
    let q : Pkt := { a.2 with ctx := { a.2.ctx with cursor := min 256 (a.2.ctx.cursor + mf w 21 8) } }
    (p.engine ≠ some e ∨ engFenced s e = true → exec (.microwordExecute e id bad) s = .next s) ∧
    (p.engine = some e → engFenced s e = false → p.stage = .inEngine → p.ctx.wait = none →
      (runsBase s ep = false → (engAt s e).badWords.contains (base + p.ctx.pc) = false →
        exec (.microwordExecute e id true) s = .next (parityCheck s0 e p base p.ctx.pc)) ∧
      (runsBase s ep = false → (engAt s e).badWords.contains (base + p.ctx.pc) = false → 1024 ≤ p.ctx.steps →
        exec (.microwordExecute e id false) s = .next (machineCheck s0 e p 5 p.ctx.pc)) ∧
      (runsBase s ep = false → (engAt s e).badWords.contains (base + p.ctx.pc) = false → p.ctx.steps < 1024 →
        (mf w 37 5 = 14 → mf w 29 1 = 1 → exec (.microwordExecute e id false) s = .next (engineDiscard a.1 q)) ∧
        (mf w 37 5 = 14 → mf w 29 1 ≠ 1 → q.dest.isSome = true →
          exec (.microwordExecute e id false) s = .next (finishPkt a.1 q)) ∧
        (mf w 37 5 ≠ 14 → (mwNext a.1 w q (ucodeLen s)).2 = none →
          exec (.microwordExecute e id false) s = .next (setPkt a.1 { q with ctx := (mwNext a.1 w q (ucodeLen s)).1 })) ∧
        (∀ k, mf w 37 5 ≠ 14 → (mwNext a.1 w q (ucodeLen s)).2 = some k →
          exec (.microwordExecute e id false) s = .next (machineCheck a.1 e q k p.ctx.pc))) ∧
      (runsBase s ep = true → (engAt s e).badWords = [] → p.ctx.pc = 0 → etherType p.bytes = 0x88FB →
        exec (.microwordExecute e id false) s = .next
          (setPkt s0 { p with punt := some 5, dest := some 101, stage := .finished })))) ∧
  (∀ (s : State) (e : Nat) (p : Pkt), p.stage = .dispatched → (engAt s e).disp.head? = some p.id → (engAt s e).held.length < 8 →
    enterEngine s e p = some (setPkt (setEng s e { engAt s e with disp := (engAt s e).disp.tail, held := (engAt s e).held ++ [p.id] })
      { p with stage := .inEngine, ctx := { ctxZero with g := entryRegs s p } })) ∧
  (∀ (w : BitVec 128) (c : EngCtx) (p : Pkt) (v : W32),
    let a := reg c (mf w 81 4)
    let b := if mf w 76 1 = 1 then w32 (mf w 60 16) else reg c (mf w 77 4)
    reg c 0 = 0 ∧ setReg c 0 v = c ∧
    (mf w 89 4 = 2 → mwAlu w c = { setReg c (mf w 85 4) (a + b) with
      z := decide (a + b = 0), n := (a + b).getLsbD 31, c := decide (2 ^ 32 ≤ a.toNat + b.toNat) }) ∧
    (mf w 89 4 = 3 → mwAlu w c = { setReg c (mf w 85 4) (a - b) with
      z := decide (a - b = 0), n := (a - b).getLsbD 31, c := decide (a.toNat < b.toNat) }) ∧
    (mf w 89 4 = 9 → mwAlu w c = { c with
      z := decide (a - b = 0), n := (a - b).getLsbD 31, c := decide (a.toNat < b.toNat) }) ∧
    (mf w 59 1 = 1 → (p.bytes.take 256).length * 8 < (c.cursor + mf w 53 6) * 8 + mf w 50 3 + (mf w 46 4 + 1) →
      mwExtract p w c = setReg { c with end_ := true } (mf w 42 4) 0)) ∧
  (∀ (s : State) (e : Nat) (p : Pkt) (base rel : Nat) (g : Grain),
    (base + rel, g) ∈ (engAt s e).parityAt → since s g < 1000000 → ∃ t : State,
      parityCheck s e p base rel = { t with gr := { t.gr with seen := t.gr.seen ++
        [⟨1, 64 + e, .fault { cls := 2, src := 64 + e, cause := 0x21, pt := none, data := base + rel }⟩] } })

/-- UCODE_PARITY_REWRITE clears a failed word where another live engine's copy passes, faults the engine where none does, and is no event for a word that passes. ENGINE_WEDGE of a live engine whose watchdog has reached 50,000 is a class F fault whose DATA names the packets and commands held and the microword of the oldest; before that, or of a fenced engine, it is no event. At the last grain of a latency window after the first, QM_LAT_WORST takes the worst latency and the lowest engine it occurred on, QM_LAT_BOUND the bound of the confirmed row and the LOAD_CAP in force; the once-per-window events may rise again, the next window is the next multiple of 10^6 grains and a LOAD_CAP written comes into force. Before its last grain, and in device reset, a window does not end. -/
def Obligations.EngineFaultsAndLatencyWindows : Prop :=
  (∀ (s : State) (e w : Nat), e < 64 → w < 4096 →
    ((engAt s e).badWords.contains w = false → exec (.ucodeParityRewrite e w) s = .next s) ∧
    ((engAt s e).badWords.contains w = true → (∃ k, k < 64 ∧ k ≠ e ∧ (engAt s k).fence = 0 ∧ w ∉ (engAt s k).badWords) →
      exec (.ucodeParityRewrite e w) s =
        .next (setEng s e { engAt s e with badWords := (engAt s e).badWords.filter fun k => decide (k ≠ w) })) ∧
    ((engAt s e).badWords.contains w = true → (∀ k, k < 64 → k ≠ e → (engAt s k).fence = 0 → w ∈ (engAt s k).badWords) →
      exec (.ucodeParityRewrite e w) s = .next (fFault s (64 + e) 0x21 w)) ∧
    (50000 ≤ (engAt s e).watch.toNat → (engAt s e).fence = 0 →
      let pc := match (engAt s e).held.head?.bind (pktAt s) with | some p => p.ctx.pc | none => 0
      exec (.engineWedge e) s =
        .next (fFault s (64 + e) 0x20 (engInFlight (engAt s e) + 256 * min 255 (engAt s e).cmds.length + 65536 * pc))) ∧
    ((engAt s e).watch.toNat < 50000 ∨ (engAt s e).fence ≠ 0 → exec (.engineWedge e) s = .next s)) ∧
  (∀ (s : State) (ok : Bool) (mode : BitVec 8),
    (s.gr.count.toNat < s.core.win * 1000000 + 999999 ∨ s.dev.inReset = true → exec (.latencyWindowEnd ok mode) s = .next s) ∧
    (s.core.win * 1000000 + 999999 ≤ s.gr.count.toNat → s.dev.inReset = false →
      let b := latBound s.pwr.conf.toNat s.core.loadCap.toNat
      let x := windowWorst s
      let m : Int := (b : Int) - (min 65535 x.1 : Nat)
      let v := latchEngines s (decide (0 < s.core.win))
      let v1 : State := { v with core := { v.core with worst := BitVec.ofNat 16 (min 65535 x.1), eng := BitVec.ofNat 6 x.2,
                                                       bound := BitVec.ofNat 16 b, margin := BitVec.ofInt 16 m } }
      let v2 := if s.core.win = 0 then v else if b < x.1 then raise v1 656 0 (min 65535 x.1 + 2 ^ 16 * x.2) else v1
      let u := vcoreStep v2 ok mode m
      exec (.latencyWindowEnd ok mode) s = .next { u with core := { u.core with
        once := [], win := u.gr.count.toNat / 1000000 + 1, loadCap := u.core.pLoadCap.getD u.core.loadCap, pLoadCap := none } }))

/-- Before a shed, LOOKUP_RETURN of a packet in an engine: an FDB lookup sets HIT and, on a hit, G11 to the port; a CAM lookup of a profile its partition has not clears HIT and MULTI; a T2 read returns the word its table holds, corrected and counted where the burst was corrected, and sets LFAIL with a fault where it was not, or where the address is outside the table or DDR5 is not trained; a state load of flow 0 reads 0 and a store does nothing. A packet that waits for nothing is no event. A tile on the move arrives at its engine and is counted. A request that found no tile for 2,000 grains counts in NOSTATE and returns 0, and is no event before. A DDR5 read without an answer sets LFAIL and reports its tile. In the redundancy window a number ahead of TOP by less than 32,768 is accepted and becomes TOP; one inside the window already marked is a duplicate; one inside and not marked is accepted and marked; one behind the window is accepted as out of window. -/
def Obligations.LookupsReturn : Prop :=
  (∀ (s : State) (id e : Nat) (p : Pkt) (ddr : BitVec 2), s.pwr.shed = none → pktAt s id = some p → p.engine = some e →
    (p.ctx.wait = none → exec (.lookupReturn id ddr) s = .next s) ∧
    (p.ctx.wait = some .fdb →
      let a := fdbLookup s p.part (BitVec.ofNat 48 ((wd p.ctx.key 0).toNat + 2 ^ 32 * (wd p.ctx.key 1).toNat))
        (BitVec.ofNat 12 (wd p.ctx.key 2).toNat)
      (∀ x, a.1 = some x → exec (.lookupReturn id ddr) s = .next (count (setPkt s { p with ctx := { p.ctx with
        g := p.ctx.g.set 11 (w32 x.port), hit := true, lfail := a.2, wait := none } }) 166 2 1 p.part)) ∧
      (a.1 = none → exec (.lookupReturn id ddr) s = .next (count (setPkt s { p with ctx := { p.ctx with
        hit := false, lfail := a.2, wait := none } }) 166 3 1 p.part))) ∧
    (∀ k, p.ctx.wait = some (.cam k) → camProfile s (epochOf s p.epoch) p.part k = none →
      exec (.lookupReturn id ddr) s = .next (setPkt s { p with ctx := { p.ctx with
        hit := false, multi := false, lfail := false, wait := none } })) ∧
    (∀ k d, p.ctx.wait = some (.cam k) → camProfile s (epochOf s p.epoch) p.part k = some d → d.casc = false →
      exec (.lookupReturn id ddr) s = .next (camReturn s p (camLocal s p.part d (pktKey p)))) ∧
    (∀ t a, p.ctx.wait = some (.t2 t a) →
      (t2Tile s (epochOf s p.epoch) t a = none → exec (.lookupReturn id ddr) s = .next
        (setPkt s { p with ctx := { setReg p.ctx 11 0 with lfail := true, wait := none } })) ∧
      (∀ tile, t2Tile s (epochOf s p.epoch) t a = some tile →
        (ddr = 0 → exec (.lookupReturn id ddr) s = .next (setPkt s { p with
          ctx := { setReg p.ctx 11 (t2Word s tile a) with lfail := false, wait := none } })) ∧
        (ddr = 1 → exec (.lookupReturn id ddr) s = .next
          (setPkt (cFault { s with t2 := { s.t2 with corr := satInc s.t2.corr } } 8 0x0060 tile) { p with
            ctx := { setReg p.ctx 11 (t2Word s tile a) with lfail := false, wait := none } })) ∧
        (ddr = 2 → exec (.lookupReturn id ddr) s = .next
          (setPkt (ddrUncorr s tile (some p.part)) { p with ctx := { setReg p.ctx 11 0 with lfail := true, wait := none } })))) ∧
    (∀ w, p.ctx.wait = some (.stateLd w) → p.flow = 0 → exec (.lookupReturn id ddr) s = .next
      (setPkt s { p with ctx := { setReg p.ctx 11 0 with wait := none } })) ∧
    (∀ w v, p.ctx.wait = some (.stateSt w v) → p.flow = 0 → exec (.lookupReturn id ddr) s = .next
      (setPkt s { p with ctx := { p.ctx with wait := none } }))) ∧
  (∀ (s : State) (t e : Nat) (x : Tile), t < 14336 → tileAt s t = some x →
    (x.moving = some e → exec (.tileTransferComplete t) s = .next
      (count (setTile (makeRoom s e) t (some { x with home := some e, moving := none })) 167 2 1 x.pt)) ∧
    (x.moving = none → exec (.tileTransferComplete t) s = .next s)) ∧
  (∀ (s : State) (id : Nat) (r : TileReq) (p : Pkt),
    s.mt.reqs.find? (fun r => decide (r.pkt = id) && r.tile.isNone) = some r → pktAt s id = some p →
    (since s r.since < 2000 → exec (.stateRequestTimeout id) s = .next s) ∧
    (∀ w, 2000 ≤ since s r.since → p.ctx.wait = some (.stateLd w) →
      let s1 : State := { s with mt := { s.mt with reqs := s.mt.reqs.filter fun x => decide (x.pkt ≠ id) } }
      exec (.stateRequestTimeout id) s = .next
        (setPkt (setPtn s1 p.part { ptnAt s p.part with noState := satInc (ptnAt s p.part).noState })
          { p with ctx := { setReg p.ctx 11 0 with wait := none } }))) ∧
  (∀ (s : State) (id t a tile : Nat) (p : Pkt), pktAt s id = some p → p.ctx.wait = some (.t2 t a) →
    t2Tile s (epochOf s p.epoch) t a = some tile → exec (.ddrTimeout id) s = .next
      (kFault (setPkt s { p with ctx := { setReg p.ctx 11 0 with lfail := true, wait := none } }) 8 0x0062 (some p.part) tile)) ∧
  (∀ (r : RedRec) (q : BitVec 16),
    (1 ≤ (q - r.top).toNat → (q - r.top).toNat ≤ 32767 → ∃ d p, redTest r q false = ({ r with top := q, deliver := d, pass := p }, true, false)) ∧
    (32768 ≤ (q - r.top).toNat ∨ q = r.top → (r.top - q).toNat < 64 →
      (r.deliver.toNat.testBit (r.top - q).toNat = true → redTest r q false = (r, false, false)) ∧
      (r.deliver.toNat.testBit (r.top - q).toNat = false →
        redTest r q false = ({ r with deliver := r.deliver ||| BitVec.ofNat 64 (2 ^ (r.top - q).toNat) }, true, false))) ∧
    (32768 ≤ (q - r.top).toNat → 64 ≤ (r.top - q).toNat → redTest r q false = (r, true, true)))

/-- T2_STAGE completes with UNIT_FENCED where DDR5 is not trained, with T2_NO_STAGE where its table has no staging side or its data goes beyond it, with BUFFER_FAULT where its read fails, and otherwise runs as the last of the stages, writing at once where it may. T2_STAGE_WRITE_START starts exactly the waiting stages of its command that may write. T2_STAGE_COMPLETE of a writing stage puts its words into its side at their tiles, ends the stage and completes the command. The patrol scrub counts a corrected burst as a class C fault and an uncorrectable one as a fault and an event, and does nothing where DDR5 is not trained or the burst is good. Training of both channels sets A_OK, B_OK, RATE and GIB and T2_DONE; of one, T2_DONE alone; it is no event in reset, before a directory names a rate, or a second time. The case temperature sets HOT. -/
def Obligations.TierTwoRows : Prop :=
  (∀ (s : State) (id : Nat) (c : Cmd) (data : List Byte) (ok : Bool), readyCmd s id 0x28 c →
    (ddrOk s = false → exec (.t2Stage id data ok) s = .next (complete s c.id stUNIT_FENCED [])) ∧
    (ddrOk s = true → (t2Stages s (parBits c 8 0 2) = false ∨ t2Size s (parBits c 8 0 2) < par c 12 4 + bufLen c / 2048) →
      exec (.t2Stage id data ok) s = .next (complete s c.id stT2_NO_STAGE [])) ∧
    (ddrOk s = true → t2Stages s (parBits c 8 0 2) = true → par c 12 4 + bufLen c / 2048 ≤ t2Size s (parBits c 8 0 2) →
      exec (.t2Stage id data false) s = .next (complete s c.id stBUFFER_FAULT []) ∧
      ∃ g : Stage, exec (.t2Stage id data true) s = .next (running { s with t2 := { s.t2 with stages := s.t2.stages ++ [g] } } c.id) ∧
        g.cmd = some c.id ∧ g.pt = c.pt ∧ g.table = parBits c 8 0 2 ∧ g.side = !t2Side s (newest s) (parBits c 8 0 2) ∧
        g.tile = par c 12 4 ∧ g.words = wordsLE (bufLen c / 4) (padTo (bufLen c) data) 0 ∧
        g.writing = stageFree s { g with writing := false })) ∧
  (∀ (s : State) (id : Nat),
    (exec (.t2StageWriteStart id) s = .next { s with t2 := { s.t2 with
      stages := s.t2.stages.map fun g => { g with writing := g.writing || (decide (g.cmd = some id) && stageFree s g) } } }) ∧
    (∀ g, s.t2.stages.find? (fun g => decide (g.cmd = some id) && g.writing) = some g →
      exec (.t2StageComplete id) s = .next (complete { s with t2 := { s.t2 with
        mem := tputs (fun _ => 0) s.t2.mem (512 * (t2Base s g.table g.side + g.tile)) g.words,
        stages := s.t2.stages.filter fun x => decide (x.cmd ≠ some id) } } id stDONE [])) ∧
    (s.t2.stages.find? (fun g => decide (g.cmd = some id) && g.writing) = none → exec (.t2StageComplete id) s = .next s)) ∧
  (∀ (s : State) (a gib : Nat) (hot : Bool) (rate : BitVec 2) (x y : Bool) (st : BitVec 2),
    (ddrOk s = false → exec (.ddrPatrolScrub a st) s = .next s) ∧
    (ddrOk s = true → exec (.ddrPatrolScrub a 0) s = .next s) ∧
    (ddrOk s = true → exec (.ddrPatrolScrub a 1) s = .next
      (cFault { s with t2 := { s.t2 with corr := satInc s.t2.corr } } 8 0x0060 (a / 32))) ∧
    (ddrOk s = true → exec (.ddrPatrolScrub a 2) s = .next
      (raise (kFault { s with t2 := { s.t2 with uncorr := satInc s.t2.uncorr, errAddr := w32 (a / 32 + 2 ^ 31 * (a / 32 % 2)) } }
        8 0x0061 none (a / 32)) 665 0 (w32 (a / 32 + 2 ^ 31 * (a / 32 % 2))).toNat)) ∧
    (exec (.ddrCaseTemperatureChange hot) s = .next { s with t2 := { s.t2 with hot := hot } }) ∧
    (s.dev.inReset = true ∨ s.dev.t2Done = true ∨ s.dev.dirOk = false →
      exec (.ddrTrainingComplete x y rate (BitVec.ofNat 8 gib)) s = .next s) ∧
    (s.dev.inReset = false → s.dev.t2Done = false → s.dev.dirOk = true →
      exec (.ddrTrainingComplete true true rate (BitVec.ofNat 8 gib)) s = .next { s with
        dev := { s.dev with t2Done := true },
        t2 := { s.t2 with aOk := true, bOk := true, rate := rate, gib := BitVec.ofNat 8 gib } } ∧
      (x = false ∨ y = false → exec (.ddrTrainingComplete x y rate (BitVec.ofNat 8 gib)) s = .next { s with
        dev := { s.dev with t2Done := true } })))

/-- A write of PTN_BIND that no rule refuses sets EN, and PT where the function was disabled and the value is not 0; function 0 keeps its binding. A write of the reset key into a window asks for the reset of its partition, any other value does nothing. PTN_RESET of another partition by a partition other than PT0 completes with NOT_OWNER; else the command waits for the reset, which it asks for where none is in progress. The P2 decision at the head puts the partition into RESETTING at its stamp with its commands and pending work discarded; of one that resets already it is taken and does nothing; a head of another kind is no event. The reset completes where no packet of the partition is left, and at its deadline with what is left discarded and counted; before, and where no reset is in progress, neither row is an event. A function reset clears the function's MSI-X table and pending bits. -/
def Obligations.PartitionResetRows : Prop :=
  (∀ (s : State) (m : Master) (f : Nat) (v : W32), f < 16 → allowed s m (0x05400000 + 4 * f) true →
    (f = 0 → exec (.ptnBindWrite m f v) s = .next s) ∧
    (f ≠ 0 → ((bindAt s f).en = true ∨ fld v 0 4 = 0) →
      exec (.ptnBindWrite m f v) s = .next (setBind s f { bindAt s f with en := bit v 4 })) ∧
    (f ≠ 0 → (bindAt s f).en = false → fld v 0 4 ≠ 0 →
      exec (.ptnBindWrite m f v) s = .next (setBind s f { pt := BitVec.ofNat 4 (fld v 0 4), en := bit v 4 }))) ∧
  (∀ (s : State) (m : Master) (n : Nat) (v : W32), n < 16 → allowed s m (0x08000004 + 0x100000 * n) true →
    (fld v 0 16 = 0xC1EA → exec (.ptnWinResetWrite m n v) s = .next
      { s with gr := { s.gr with seen := s.gr.seen ++ [⟨2, 2 + n, .ptnReset n⟩] } }) ∧
    (fld v 0 16 ≠ 0xC1EA → exec (.ptnWinResetWrite m n v) s = .next s)) ∧
  (∀ (s : State) (id : Nat) (c : Cmd), readyCmd s id 0x05 c →
    let n := parBits c 8 0 4
    let s1 := running (setPtn s n { ptnAt s n with rstCmds := (ptnAt s n).rstCmds ++ [(c.id, (ptnAt s n).resetting)] }) c.id
    (c.pt ≠ 0 → n ≠ c.pt → exec (.ptnReset id) s = .next (complete s c.id stNOT_OWNER [])) ∧
    ((c.pt = 0 ∨ n = c.pt) → (ptnAt s n).resetting = true → exec (.ptnReset id) s = .next s1) ∧
    ((c.pt = 0 ∨ n = c.pt) → (ptnAt s n).resetting = false → exec (.ptnReset id) s = .next
      { s1 with gr := { s1.gr with seen := s1.gr.seen ++ [⟨2, 2 + n, .ptnReset n⟩] } })) ∧
  (∀ (s : State) (n : Nat) (g : Grain) (r : List Entry) (d : Decision) (a b : Nat), n < 16 →
    s.gr.backlog = ⟨g, ⟨a, b, d⟩⟩ :: r → s.twn.shared = [] →
    let s1 : State := { s with gr := { s.gr with backlog := r } }
    (d ≠ .ptnReset n → exec (.partitionReset n) s = .next s) ∧
    (d = .ptnReset n → (ptnAt s n).resetting = true → exec (.partitionReset n) s = .next s1) ∧
    (d = .ptnReset n → (ptnAt s n).resetting = false →
      ∃ t, exec (.partitionReset n) s = .next t ∧ (ptnAt t n).resetting = true ∧ (ptnAt t n).rstAt = g ∧
        (ptnAt t n).rstEnd = false ∧ t.fdb.learnQ = s.fdb.learnQ.filter (fun e => decide (e.pt ≠ n)))) ∧
  (∀ (s : State) (n f : Nat), n < 16 → f < 16 →
    let x := ptnAt s n
    let none_ := !s.qm.pkts.any (fun p => decide (p.part = n) && decide (p.stage ≠ .arriving))
    (x.resetting = false ∨ x.rstEnd = true →
      exec (.partitionResetComplete n) s = .next s ∧ exec (.partitionResetDeadline n) s = .next s) ∧
    (none_ = false → exec (.partitionResetComplete n) s = .next s) ∧
    (since s x.rstAt < x.rstT + 64000 → exec (.partitionResetDeadline n) s = .next s) ∧
    (x.resetting = true → x.rstEnd = false → none_ = true → exec (.partitionResetComplete n) s = .next (ptnComplete s n)) ∧
    (x.resetting = true → x.rstEnd = false → x.rstT + 64000 ≤ since s x.rstAt →
      exec (.partitionResetDeadline n) s = .next
        (ptnComplete (purgeAll s (fun p => decide (p.part = n) && decide (p.stage ≠ .arriving)) fun s _ => rstDrop s n) n)) ∧
    (exec (.pcieFunctionReset f) s = .next { s with cq := { s.cq with
      msix := s.cq.msix.filter (fun e => decide (e.1 / 256 ≠ f)), pba := tset (fun _ => 0) s.cq.pba f 0 } }))

/-- For accesses that no rule refuses. A doorbell of a resetting partition is discarded. An SQ tail below the entries is taken; one not below sets ERR 3 and reports it. A CQ or ER head below the entries is taken, the queue is armed, and it signals where entries wait; one not below sets ERR 3 and reports it. A write of a disabled SQ's control word with EN takes CQ and SIZE and enables it with both indices 0, or, where its function is not bound to the partition or a second on-die queue is asked for, sets ERR and stays disabled; without EN it takes CQ and SIZE; of an enabled SQ it writes EN only. A write of a CQ's or ER's control word does the same with VEC and SIZE, always takes COAL_CNT and COAL_TIME, and enables it with PHASE 1, armed and empty. A coalescing timeout of a queue signals it. -/
def Obligations.DoorbellsAndEnables : Prop :=
  (∀ (s : State) (m : Master) (n i : Nat) (v : W32), n < 16 → i < 8 → allowed s m (0x0800100C + 0x100000 * n + 0x20 * i) true →
    ((ptnAt s n).resetting = true → exec (.sqDoorbell m n i v) s = .next s) ∧
    ((ptnAt s n).resetting = false → fld v 0 12 < sqSize (sqAt s n i) →
      exec (.sqDoorbell m n i v) s = .next (setSq s n i { sqAt s n i with tail := fld v 0 12 })) ∧
    ((ptnAt s n).resetting = false → sqSize (sqAt s n i) ≤ fld v 0 12 →
      exec (.sqDoorbell m n i v) s = .next
        (raise (setSq s n i { sqAt s n i with err := 3 }) (448 + 8 * n + 4) 0 (i + 16 * 0 + 256 * 3)))) ∧
  (∀ (s : State) (m : Master) (n i : Nat) (v : W32), n < 16 → i < 4 → allowed s m (0x0800200C + 0x100000 * n + 0x20 * i) true →
    ((ptnAt s n).resetting = true → exec (.headDoorbell m n true i v) s = .next s) ∧
    ((ptnAt s n).resetting = false → fld v 0 12 < ringSize (erAt s n i).loc (erAt s n i).size 64 →
      exec (.headDoorbell m n true i v) s = .next (erSignal (setEr s n i { erAt s n i with
        head := fld v 0 12, armed := true, stalled := false,
        oldest := if fld v 0 12 = (erAt s n i).tail then none else (erAt s n i).oldest }) n i)) ∧
    ((ptnAt s n).resetting = false → ringSize (erAt s n i).loc (erAt s n i).size 64 ≤ fld v 0 12 →
      exec (.headDoorbell m n true i v) s = .next (ringError (setEr s n i { erAt s n i with err := 3 }) n i 2 3))) ∧
  (∀ (s : State) (m : Master) (n i : Nat) (v : W32), n < 16 → i < 8 → allowed s m (0x0800110C + 0x100000 * n + 0x20 * i) true →
    ((ptnAt s n).resetting = true → exec (.headDoorbell m n false i v) s = .next s) ∧
    ((ptnAt s n).resetting = false → fld v 0 12 < ringSize (cqAt s n i).loc (cqAt s n i).size 32 →
      exec (.headDoorbell m n false i v) s = .next (cqSignal (setCq s n i { cqAt s n i with
        head := fld v 0 12, armed := true, stalled := false,
        oldest := if fld v 0 12 = (cqAt s n i).tail then none else (cqAt s n i).oldest }) n i)) ∧
    ((ptnAt s n).resetting = false → ringSize (cqAt s n i).loc (cqAt s n i).size 32 ≤ fld v 0 12 →
      exec (.headDoorbell m n false i v) s = .next (ringError (setCq s n i { cqAt s n i with err := 3 }) n i 1 3))) ∧
  (∀ (s : State) (m : Master) (n i : Nat) (v : W32), n < 16 → i < 8 → allowed s m (0x08001008 + 0x100000 * n + 0x20 * i) true →
    let q := sqAt s n i
    let q' : Sq := { q with size := newSize q.size v, cq := BitVec.ofNat 3 (fld v 4 3) }
    let other := (List.range 8).any fun k => decide (k ≠ i) && (sqAt s n k).en && (sqAt s n k).loc
    (q.en = true → exec (.queueEnWrite m n .sq i v) s = .next (setSq s n i { q with en := bit v 7 })) ∧
    (q.en = false → bit v 7 = false → exec (.queueEnWrite m n .sq i v) s = .next (setSq s n i q')) ∧
    (q.en = false → bit v 7 = true → enableRefused s n q.loc q.fn other = none →
      exec (.queueEnWrite m n .sq i v) s = .next (setSq s n i { q' with en := true, head := 0, tail := 0 })) ∧
    (∀ e, q.en = false → bit v 7 = true → enableRefused s n q.loc q.fn other = some e →
      exec (.queueEnWrite m n .sq i v) s = .next (ringError (setSq s n i { q' with err := e }) n i 0 e.toNat))) ∧
  (∀ (s : State) (m : Master) (n i : Nat) (v : W32), n < 16 → i < 8 → allowed s m (0x08001108 + 0x100000 * n + 0x20 * i) true →
    let r := cqAt s n i
    let r1 : Ring := { r with coalCnt := BitVec.ofNat 8 (fld v 16 8), coalTime := BitVec.ofNat 8 (fld v 24 8) }
    let r' : Ring := { r1 with size := newSize r.size v, vec := BitVec.ofNat 6 (fld v 4 6) }
    let other := (List.range 8).any fun k => decide (k ≠ i) && (cqAt s n k).en && (cqAt s n k).loc
    (r.en = true → exec (.queueEnWrite m n .cq i v) s = .next (setCq s n i { r1 with en := bit v 10 })) ∧
    (r.en = false → bit v 10 = false → exec (.queueEnWrite m n .cq i v) s = .next (setCq s n i r')) ∧
    (r.en = false → bit v 10 = true → enableRefused s n r.loc r.fn other = none →
      exec (.queueEnWrite m n .cq i v) s = .next (setCq s n i { r' with
        en := true, head := 0, tail := 0, phase := true, armed := true, stalled := false, oldest := none })) ∧
    (∀ e, r.en = false → bit v 10 = true → enableRefused s n r.loc r.fn other = some e →
      exec (.queueEnWrite m n .cq i v) s = .next (ringError (setCq s n i { r' with err := e }) n i 1 e.toNat))) ∧
  (∀ (s : State) (m : Master) (n i : Nat) (v : W32), n < 16 → i < 4 → allowed s m (0x08002008 + 0x100000 * n + 0x20 * i) true →
    let r := erAt s n i
    let r1 : Ring := { r with coalCnt := BitVec.ofNat 8 (fld v 16 8), coalTime := BitVec.ofNat 8 (fld v 24 8) }
    let r' : Ring := { r1 with size := newSize r.size v, vec := BitVec.ofNat 6 (fld v 4 6) }
    let other := (List.range 4).any fun k => decide (k ≠ i) && (erAt s n k).en && (erAt s n k).loc
    (r.en = true → exec (.queueEnWrite m n .er i v) s = .next (setEr s n i { r1 with en := bit v 10 })) ∧
    (r.en = false → bit v 10 = false → exec (.queueEnWrite m n .er i v) s = .next (setEr s n i r')) ∧
    (∀ e, r.en = false → bit v 10 = true → enableRefused s n r.loc r.fn other = some e →
      exec (.queueEnWrite m n .er i v) s = .next (ringError (setEr s n i { r' with err := e }) n i 2 e.toNat)) ∧
    (r.en = false → bit v 10 = true → enableRefused s n r.loc r.fn other = none →
      exec (.queueEnWrite m n .er i v) s = .next (setEr s n i { r' with
        en := true, head := 0, tail := 0, phase := true, armed := true, stalled := false, oldest := none }))) ∧
  (∀ (s : State) (n i : Nat), n < 16 →
    (i < 4 → exec (.interruptCoalesceTimeout n true i) s = .next (erSignal s n i)) ∧
    (i < 8 → exec (.interruptCoalesceTimeout n false i) s = .next (cqSignal s n i)) ∧
    (∀ loc fn other, (loc = true → other = true → enableRefused s n loc fn other = some 1) ∧
      (loc = true → other = false → enableRefused s n loc fn other = none) ∧
      (loc = false → (bindAt s fn.toNat).pt.toNat = n → enableRefused s n loc fn other = none) ∧
      (loc = false → (bindAt s fn.toNat).pt.toNat ≠ n → enableRefused s n loc fn other = some 2)))

/-- COMMAND_FETCH takes a burst of the next submission queue of the round robin, in its memory or on the die, and moves the round robin on; a failed read stops the queue with ERR 4; where nothing may be fetched it is no event. COMMAND_ARRIVAL at the head of the backlog ends a command that fails a check with that check's status, holds a fenced one behind an earlier command of its queue, and a CFG_COMMIT that fails behind those of its transaction, and makes any other ready, on the least-loaded live engine where its opcode takes one. A held command starts when no earlier one is in flight. NOP completes with DONE. A completion carries the partition, tag, queue, status, arrival and completion grains, and its result only with DONE or DONE_NOTE; it is formed once. COMPLETION_WRITE writes the oldest completion of a queue at its tail, frees the command and signals; without room it reports the stall once; a failed write stops the queue with ERR 5; with none waiting it is no event. -/
def Obligations.CommandsFetchedCheckedAndCompleted : Prop :=
  (∀ (s : State) (data : List Byte) (ok : Bool),
    (fetchOn s = false ∨ nextSq s = none → exec (.commandFetch data ok) s = .next s) ∧
    (∀ n i, fetchOn s = true → nextSq s = some (n, i) →
      let s1 : State := { s with cq := { s.cq with
        rrPt := (n + 1) % 16, rrSq := tset (fun _ => 0) s.cq.rrSq n ((i + 1) % 8) } }
      ((sqAt s n i).loc = false → exec (.commandFetch data false) s = .next
        (ringError (setSq s1 n i { sqAt s n i with en := false, err := 4 }) n i 0 4)) ∧
      ((sqAt s n i).loc = false → exec (.commandFetch data true) s = .next
        (takeBurst s1 n i (chunks64 (burstLen (sqAt s n i)) data))) ∧
      ((sqAt s n i).loc = true → exec (.commandFetch data ok) s = .next
        (takeBurst s1 n i (chunks64 (burstLen (sqAt s n i))
          (tgets (fun _ => 0) s.cq.onSq (2048 * n + 64 * (sqAt s n i).head) (64 * burstLen (sqAt s n i)))))))) ∧
  (∀ (s : State) (id : Nat) (c : Cmd) (g : Grain) (r : List Entry) (a b : Nat) (d : Decision),
    s.gr.backlog = ⟨g, ⟨a, b, d⟩⟩ :: r → s.twn.shared = [] → cmdAt s id = some c → c.state = .arriving → c.done = false →
    let s1 : State := { s with gr := { s.gr with backlog := r } }
    (d ≠ .command id → exec (.commandArrival id) s = .next s) ∧
    (∀ f, d = .command id → firstFail s1 c = some f → opOf c ≠ 0x22 →
      exec (.commandArrival id) s = .next (completeDup s1 c.id f.1 f.2 [])) ∧
    (∀ f, d = .command id → firstFail s1 c = some f → f.2 = false → opOf c = 0x22 → objectHeld s1 c = true →
      exec (.commandArrival id) s = .next (modCmd s1 c.id fun c => { c with state := .fenced })) ∧
    (d = .command id → firstFail s1 c = none → heldByFence s1 c = true →
      exec (.commandArrival id) s = .next (modCmd s1 c.id fun c => { c with state := .fenced })) ∧
    (d = .command id → firstFail s1 c = none → heldByFence s1 c = false → opEngine (opOf c) = false →
      exec (.commandArrival id) s = .next (modCmd s1 c.id fun c => { c with state := .ready })) ∧
    (∀ e, d = .command id → firstFail s1 c = none → heldByFence s1 c = false → opEngine (opOf c) = true → leastEngine s1 = some e →
      exec (.commandArrival id) s = .next (modCmd (setEng s1 e { engAt s1 e with cmds := (engAt s1 e).cmds ++ [c.id] }) c.id
        fun c => { c with state := .ready, engine := some e })) ∧
    (d = .command id → firstFail s1 c = none → heldByFence s1 c = false → opEngine (opOf c) = true → leastEngine s1 = none →
      exec (.commandArrival id) s = .next (complete s1 c.id stRETRY []))) ∧
  (∀ (s : State) (id : Nat) (c : Cmd), cmdAt s id = some c → c.done = false → c.state = .fenced →
    (heldByFence s c = true → exec (.fenceCommandStart id) s = .next s) ∧
    (opOf c = 0x22 → objectHeld s c = true → exec (.fenceCommandStart id) s = .next s) ∧
    (heldByFence s c = false → opOf c ≠ 0x22 → namesFenced s c = false → opEngine (opOf c) = false →
      exec (.fenceCommandStart id) s = .next (modCmd s c.id fun c => { c with state := .ready })) ∧
    (heldByFence s c = false → namesFenced s c = true → opOf c ≠ 0x22 →
      exec (.fenceCommandStart id) s = .next (complete s c.id stUNIT_FENCED []))) ∧
  (∀ (s : State) (id : Nat) (c : Cmd), readyCmd s id 0x00 c → exec (.nop id) s = .next (complete s c.id stDONE [])) ∧
  (∀ (s : State) (id status i : Nat) (c : Cmd) (dup : Bool) (result : List Byte), cmdAt s id = some c →
    (c.done = true → completeDup s id status dup result = s) ∧
    (c.done = false → c.sq = some i → c.engine = none → ∃ x : Cpl,
      completeDup s id status dup result =
        (let s1 := modCmd s id fun c => { c with done := true, state := .running }
         { s1 with cq := { s1.cq with cpls := s.cq.cpls ++ [x] } }) ∧
      x.cmd = id ∧ x.pt = c.pt ∧ x.cq = (sqAt s c.pt i).cq.toNat ∧ x.tag = BitVec.ofNat 12 (tagOf c) ∧ x.sq = BitVec.ofNat 3 i ∧
      x.status = BitVec.ofNat 8 status ∧ x.dup = dup ∧ x.arrive = c.arrive ∧ x.done = s.gr.count ∧
      x.result = if status ≤ 1 then padTo 16 result else List.replicate 16 0)) ∧
  (∀ (s : State) (n j : Nat) (ok : Bool), n < 16 → j < 8 →
    let mine := fun (c : Cpl) => decide (c.pt = n) && decide (c.cq = j)
    let r := cqAt s n j
    (s.cq.cpls.find? mine = none → exec (.completionWrite n j ok) s = .next s) ∧
    (∀ c, s.cq.cpls.find? mine = some c →
      (cqNoRoom s n j = true → r.stalled = true → exec (.completionWrite n j ok) s = .next s) ∧
      (cqNoRoom s n j = true → r.stalled = false → exec (.completionWrite n j ok) s = .next
        (raise (setCq s n j { r with stalled := true }) (448 + 8 * n + 2) 0 j)) ∧
      (cqNoRoom s n j = false → r.loc = false → (ok = false ∨ s.dev.perst = false) →
        exec (.completionWrite n j ok) s = .next
          (ringError (setCq (dropCmd s c.cmd) n j { r with en := false, err := 5 }) n j 1 5)) ∧
      (cqNoRoom s n j = false → r.loc = true ∨ (ok = true ∧ s.dev.perst = true) → exec (.completionWrite n j ok) s = .next
        (cqSignal (setCq (dropCmd (cqStore s n r (cplBytes s c r.phase)) c.cmd) n j
          (ringAdvance r (ringSize r.loc r.size 32) s.gr.count)) n j))))

/-- CAM_WRITE with the mode of its block writes the entry and completes with DONE, or DONE_NOTE where it was valid; with the other mode it completes with CAM_BLOCK_MODE. CAM_INVALIDATE clears its entries and completes with DONE where all were valid, else DONE_NOTE. CAM_LOOKUP of a profile that is not the issuer's completes with NOT_OWNER; of one whose owned blocks are all fenced with UNIT_FENCED; of a local one with this device's answer; of a cascaded one with the local answer marked where the cascade is not used, and otherwise it joins the slot queue. CAM_STEP of a context not in use completes with CAM_STALE, of an exhausted one or with nothing left with CAM_STEP_END, and of a local walk with its next match. A context idle for 1,000,000 grains is freed, not before. A ternary entry matches a key that differs from it only outside its mask. -/
def Obligations.CamCommands : Prop :=
  (∀ (s : State) (id : Nat) (c : Cmd), readyCmd s id 0x10 c →
    let b := parBits c 8 0 5
    let e := par c 10 2
    ((parBits c 12 0 1 = 1 ↔ camRange s b = true) → exec (.camWrite id) s = .next
      (complete (setCamEnt s b e (some (camEntOf c))) c.id (if (camEnt s b e).isSome then stNOTE else stDONE) [])) ∧
    (¬(parBits c 12 0 1 = 1 ↔ camRange s b = true) → exec (.camWrite id) s = .next (complete s c.id stCAM_BLOCK_MODE []))) ∧
  (∀ (s : State) (id : Nat) (c : Cmd), readyCmd s id 0x11 c →
    let lo := 4096 * parBits c 8 0 5 + par c 10 2
    let hit := fun (e : Nat × Option CamEnt) => decide (lo ≤ e.1) && decide (e.1 < lo + par c 12 2)
    exec (.camInvalidate id) s = .next (complete { s with cam := { s.cam with ents := s.cam.ents.filter fun e => !hit e } } c.id
      (if (s.cam.ents.filter hit).length < par c 12 2 then stNOTE else stDONE) [])) ∧
  (∀ (s : State) (id : Nat) (c : Cmd), readyCmd s id 0x12 c →
    let p := parBits c 8 0 6
    let key := keyOf (slice c.bytes 16 24)
    (camProfile s (newest s) c.pt p = none → exec (.camLookup id) s = .next (complete s c.id stNOT_OWNER [])) ∧
    (∀ d, camProfile s (newest s) c.pt p = some d →
      (camAllFenced s c.pt d = true → exec (.camLookup id) s = .next (complete s c.id stUNIT_FENCED [])) ∧
      (camAllFenced s c.pt d = false → d.casc = false → (camMatches s c.pt d key = [] ∨ d.multi = false) →
        exec (.camLookup id) s = .next (complete s c.id (if camLfail s c.pt d then stNOTE else stDONE)
          (lookupResult (camLocal s c.pt d key) 0xFFFF))) ∧
      (camAllFenced s c.pt d = false → d.casc = false → exec (.camLookup id) s = .next
        (lookupDone s c p d key (camLocal s c.pt d key))) ∧
      (camAllFenced s c.pt d = false → d.casc = true → (s.cam.cascEn = false ∨ s.cam.aligned = false) →
        exec (.camLookup id) s = .next
          (lookupDone s c p d key ((camLocal s c.pt d key).1, (camLocal s c.pt d key).2.1, true))) ∧
      (camAllFenced s c.pt d = false → d.casc = true → s.cam.cascEn = true → s.cam.aligned = true → s.cam.slotQ.length < 64 →
        exec (.camLookup id) s = .next
          (running (slotPut s (cascReq none (some c.id) c.pt p d key false 0)) c.id)))) ∧
  (∀ (s : State) (id : Nat) (c : Cmd), readyCmd s id 0x13 c → par c 8 2 < 16 →
    let k := par c 8 2
    (walkAt s c.pt k = none → exec (.camStep id) s = .next (complete s c.id stCAM_STALE [])) ∧
    (∀ w, walkAt s c.pt k = some w →
      (w.live = false → exec (.camStep id) s = .next (complete s c.id (if w.exhausted then stCAM_STEP_END else stCAM_STALE) [])) ∧
      (w.live = true → w.remain = 0 → exec (.camStep id) s = .next
        (complete (setWalk s c.pt k (some { w with live := false, exhausted := true })) c.id stCAM_STEP_END [])) ∧
      (∀ i, w.live = true → w.remain ≠ 0 → w.prof.casc = false → (camLocalAfter s c.pt w.prof w.key w.last).1 = some i →
        exec (.camStep id) s = .next
          (complete (setWalk s c.pt k (some { w with last := i, remain := w.remain - 1, used := s.gr.count })) c.id
            (if camLfail s c.pt w.prof then stNOTE else stDONE) ([0, BitVec.ofNat 8 (w.remain - 1), 0, 0] ++ leBytes 4 i))))) ∧
  (∀ (s : State) (n k : Nat) (w : Walk), n < 16 → k < 16 → walkAt s n k = some w → w.live = true →
    (since s w.used < 1000000 → exec (.camContextTimeout n k) s = .next s) ∧
    (1000000 ≤ since s w.used → exec (.camContextTimeout n k) s = .next (setWalk s n k none))) ∧
  (∀ (x : CamEnt) (key : BitVec 192), x.range = false → (camMatch x key = true ↔ key &&& x.mask = x.key &&& x.mask))

/-- FDB_WRITE of a key puts the entry into the way that holds the key with DONE_NOTE, else into the lowest free way with DONE, and completes with FDB_FULL where the partition has no region; FDB_DELETE removes the key's entry with DONE or completes with DONE_NOTE; FDB_FLUSH removes the selected entries and returns how many; FDB_READ returns the entry's flags, port, moves and touch, or zeros. A twin-scoped one completes with TWIN_SEPARATED or TWIN_ABSENT while the pair does not stand, and otherwise waits for its grain among the shared decisions. A learning decision of a new key on a port its partition holds takes the lowest free way and counts; one held on its port is touched; a static or flapping entry is not moved; a move outside the window is counted and restarts it. -/
def Obligations.ForwardingDatabaseRows : Prop :=
  (∀ (s : State) (id : Nat) (c : Cmd), twinOf c = false →
    (readyCmd s id 0x18 c →
      (fdbBucket s c.pt (fdbMac c.bytes) (fdbVid c.bytes) = none →
        exec (.fdbWrite id) s = .next (complete s c.id stFDB_FULL [])) ∧
      (∀ b, fdbBucket s c.pt (fdbMac c.bytes) (fdbVid c.bytes) = some b →
        (∀ w x, fdbFind s b (fdbMac c.bytes) (fdbVid c.bytes) = some (w, x) → exec (.fdbWrite id) s = .next
          (complete (setFdbEnt s b w (some (writtenEnt c.bytes c.arrive false))) c.id stNOTE (leBytes 4 b ++ [BitVec.ofNat 8 w]))) ∧
        (∀ w, fdbFind s b (fdbMac c.bytes) (fdbVid c.bytes) = none → freeWay s b = some w → exec (.fdbWrite id) s = .next
          (complete (count (setFdbEnt s b w (some (writtenEnt c.bytes c.arrive false))) 166 1 1 0) c.id stDONE
            (leBytes 4 b ++ [BitVec.ofNat 8 w]))))) ∧
    (readyCmd s id 0x19 c → ∀ b, fdbBucket s c.pt (fdbMac c.bytes) (fdbVid c.bytes) = some b →
      (∀ w x, fdbFind s b (fdbMac c.bytes) (fdbVid c.bytes) = some (w, x) →
        exec (.fdbDelete id) s = .next (complete (setFdbEnt s b w none) c.id stDONE [])) ∧
      (fdbFind s b (fdbMac c.bytes) (fdbVid c.bytes) = none → exec (.fdbDelete id) s = .next (complete s c.id stNOTE []))) ∧
    (readyCmd s id 0x1A c →
      let t := fdbRemove s (flushSel s c.pt c.bytes)
      exec (.fdbFlush id) s = .next (complete t c.id stDONE (leBytes 4 (s.fdb.ents.length - t.fdb.ents.length)))) ∧
    (readyCmd s id 0x1B c →
      (∀ x, (fdbLookup s c.pt (fdbMac c.bytes) (fdbVid c.bytes)).1 = some x → exec (.fdbRead id) s = .next
        (complete s c.id stDONE ([BitVec.ofNat 8 (1 + 2 * b1 x.static + 4 * b1 x.flapping + 8 * b1 x.twin), BitVec.ofNat 8 x.port] ++
          leBytes 2 x.moves ++ leBytes 8 x.touch.toNat))) ∧
      ((fdbLookup s c.pt (fdbMac c.bytes) (fdbVid c.bytes)).1 = none → exec (.fdbRead id) s = .next (complete s c.id stDONE [])))) ∧
  (∀ (s : State) (id : Nat) (c : Cmd), readyCmd s id 0x18 c → twinOf c = true →
    (paired s = false → exec (.fdbWrite id) s = .next
      (complete s c.id (if s.twn.state = twSEPARATED then stTWIN_SEPARATED else stTWIN_ABSENT) [])) ∧
    (paired s = true → s.twn.shared.length < 16384 → exec (.fdbWrite id) s = .next
      (let g := toPair s c.arrive + lagOf s
       let d : Shared := { apply := g, remote := false, index := 8 * c.pt + c.sq.getD 0, learn := none, bucket := none,
                           cmd := some c.id, carried := none, ok := false }
       torvSend (running { s with twn := { s.twn with shared := s.twn.shared ++ [d] } } c.id) 0x04
        (leBytes 8 g.toNat ++ [BitVec.ofNat 8 c.pt] ++ List.replicate 7 0 ++ c.bytes)))) ∧
  (∀ (s : State) (e : LearnEv) (g : Grain) (b : Nat), (ptnAt s e.pt).resetting = false → learnsOn s e.pt e.port e.vid = true →
    lateLearn s e.port g = false → bit (wd (cur s sFDB_AGE e.pt) 2) 0 = true → fdbBucket s e.pt e.mac e.vid = some b →
    fdbFenced s b = false →
    (∀ w, fdbFind s b e.mac e.vid = none → freeWay s b = some w → learnApply s e g false =
      (let x : FdbEnt := { mac := e.mac, vid := e.vid, port := e.port, static := false, flapping := false, pair := false,
                           twin := false, moves := 0, wstart := g, touch := g, chg := some g }
       count (setFdbEnt s b w (some x)) 166 1 1 e.pt)) ∧
    (∀ w x, fdbFind s b e.mac e.vid = some (w, x) → x.port = e.port → learnApply s e g false =
      setFdbEnt s b w (some { x with touch := later x.touch g })) ∧
    (∀ w x, fdbFind s b e.mac e.vid = some (w, x) → x.chg ≠ some g → heldOn s x e.port = false → partners s x.port e.port = false →
      (x.static = true ∨ x.flapping = true → learnApply s e g false = s) ∧
      (x.static = false → x.flapping = false → fld (wd (cur s sFDB_AGE e.pt) 1) 0 24 * 1000 ≤ (g - x.wstart).toNat →
        learnApply s e g false =
          (let y : FdbEnt := { x with port := e.port, moves := 1, wstart := g, touch := g, twin := false, pair := false, chg := some g }
           countMove (setFdbEnt s b w (some y)) e.pt))))

/-- A write of CASC_CTL that no rule refuses sets EN, and LAST only while EN was 0; setting EN starts training, clearing it stops training and queues the end of the alignment. Training that has locked every lane sets ALIGNED, D and U. The loss of a used lane that was locked clears its lock and ALIGNED, restarts training and is a class F fault. In this device's slot the head of the slot queue takes the next SEQ and this grain, waits for its results with this device's own answer first, and is sent on every used lane; out of the slot nothing is sent. A request record that fails its CRC counts, is a class K fault and drives the match line low. A good result record for this device joins its lookup's records; one for another origin goes on where its lane is used. At t + 112 the oldest lookup forms its answer, not before; a winner below every error record is the answer, and an error below every winner makes it a miss with LFAIL. -/
def Obligations.CascadeRows : Prop :=
  (∀ (s : State) (m : Master) (v : W32), allowed s m 0x07F00000 true →
    (s.cam.cascEn = false → exec (.cascCtlWrite m v) s = .next { s with cam := { s.cam with
      cascEn := bit v 0, cascLast := BitVec.ofNat 2 (fld v 1 2), trainAt := if bit v 0 then some s.gr.count else none } }) ∧
    (s.cam.cascEn = true → bit v 0 = true → exec (.cascCtlWrite m v) s = .next s) ∧
    (s.cam.cascEn = true → bit v 0 = false → exec (.cascCtlWrite m v) s = .next { s with
      cam := { s.cam with cascEn := false, trainAt := none },
      bus := { s.bus with pend := s.bus.pend ++ [(0x07F00000, v)] } })) ∧
  (∀ (s : State) (up mi : Bool) (r : CascReq) (q : List CascReq),
    (s.cam.cascEn = true → s.cam.trainAt.isSome = true → s.cam.aligned = false → ∃ g, exec .cascAligned s = .next { s with
      cam := { s.cam with aligned := true, dLock := true, uLock := true, trainAt := none, cycleAt := g }, freeCtr := s.freeCtr + 1 }) ∧
    (s.cam.cascEn = false ∨ s.cam.trainAt = none ∨ s.cam.aligned = true → exec .cascAligned s = .next s) ∧
    (s.cam.cascEn = true → laneUsed s true = true → s.cam.uLock = true → exec (.cascLaneLoss true) s = .next
      (fFault { s with cam := { s.cam with aligned := false, uLock := false, trainAt := some s.gr.count } } 10 0x0042 2)) ∧
    (s.cam.cascEn = true → laneUsed s false = true → s.cam.dLock = true → exec (.cascLaneLoss false) s = .next
      (fFault { s with cam := { s.cam with aligned := false, dLock := false, trainAt := some s.gr.count } } 10 0x0042 1)) ∧
    (s.cam.cascEn = false ∨ laneUsed s up = false → exec (.cascLaneLoss up) s = .next s) ∧
    (s.cam.slotQ = [] ∨ inSlot s = false → exec (.cascLookupIssue mi) s = .next s) ∧
    (s.cam.slotQ = r :: q → cascUp s = true → inSlot s = true → (cascAnswer s r.pt r.def_ r.key r.walk r.after).1 = none → mi = true →
      let r' : CascReq := { r with seq := s.cam.seq, sent := some s.gr.count, recs := [] }
      let s1 : State := { s with cam := { s.cam with slotQ := q, seq := s.cam.seq + 1, pendCasc := s.cam.pendCasc ++ [r'] } }
      exec (.cascLookupIssue mi) s = .next { s1 with out :=
        (if laneUsed s true then [Output.casc false (reqBytes s r')] else []) ++
        (if laneUsed s false then [Output.casc true (reqBytes s r')] else []) ++ s.out })) ∧
  (∀ (s : State) (b : List Byte) (up mi : Bool),
    (s.cam.cascEn = false ∨ s.cam.aligned = false → exec (.cascRequest b up mi) s = .next s) ∧
    (s.cam.cascEn = true → s.cam.aligned = true → b.length ≠ 40 → mi = false → exec (.cascRequest b up mi) s = .next
      (let s1 := relay s up b
       moDrive (kFault { s1 with cam := { s1.cam with crcErr := satInc s1.cam.crcErr } } 10 0x0041 none (le b 4 2))
         (s.gr.count + 20 + BitVec.ofNat 64 (4 * cpos s)))) ∧
    (∀ d i, s.cam.cascEn = true → s.cam.aligned = true → b.length = 40 → le b 38 2 = (crc16 (b.take 38)).toNat → le b 0 1 = 1 →
      camProfile s (newest s) (le b 1 1 / 16) (le b 2 1 % 64) = some d → mi = true →
      (cascAnswer s (le b 1 1 / 16) d (keyOf (slice b 8 24)) false (le b 32 4)).1 = some i →
      exec (.cascRequest b up mi) s = .next
        (let s2 := moDrive (relay s up b) (s.gr.count + 20 + BitVec.ofNat 64 (4 * cpos s))
         { s2 with out := Output.casc (!up) (resBytes 0x10 (cpos s) (le b 1 1 % 4) (le b 4 2) i
           (cascAnswer s (le b 1 1 / 16) d (keyOf (slice b 8 24)) false (le b 32 4)).2.1) :: s2.out }))) ∧
  (∀ (s : State) (b : List Byte) (up : Bool), b.length = 16 → le b 14 2 = (crc16 (b.take 14)).toNat →
    (le b 1 1 / 4 % 4 ≠ cpos s → exec (.cascResult b up) s = .next
      (if laneUsed s (!up) then { s with out := Output.casc up b :: s.out } else s)) ∧
    (le b 1 1 / 4 % 4 = cpos s → le b 0 1 = 0x10 → exec (.cascResult b up) s = .next { s with cam := { s.cam with
      pendCasc := s.cam.pendCasc.map fun r =>
        if r.seq.toNat = le b 2 2 then
          { r with recs := r.recs ++ [⟨le b 1 1 % 4, 0x10, le b 4 4, le b 8 1⟩] }
        else r } })) ∧
  (∀ (s : State) (r : CascReq) (l : List CascReq) (g : Grain) (id : Nat) (p : Pkt), s.cam.pendCasc = r :: l → r.sent = some g →
    r.pkt = some id → pktAt s id = some p →
    (since s g < 112 → exec .cascResultForm s = .next s) ∧
    (112 ≤ since s g → exec .cascResultForm s = .next
      (camReturn { s with cam := { s.cam with pendCasc := l } } p (cascForm r (!s.cam.aligned || camLfail s r.pt r.def_))))) ∧
  (∀ (s : State), s.cam.pendCasc = [] → exec .cascResultForm s = .next s) ∧
  (∀ (r : CascReq) (w e : CascRes) (x : Bool),
    (lowestOf r.recs 0x10 = some w → lowestOf r.recs 0x12 = none → (cascForm r x).1 = some w.index ∧ (cascForm r x).2.2 = x) ∧
    (lowestOf r.recs 0x10 = some w → lowestOf r.recs 0x12 = some e → w.pos < e.pos → (cascForm r x).1 = some w.index) ∧
    (lowestOf r.recs 0x10 = some w → lowestOf r.recs 0x12 = some e → e.pos ≤ w.pos → cascForm r x = (none, 0, true)))

/-- While semaphore 16 + n is free: CFG_OPEN opens a transaction and returns the newest epoch, or completes with CFG_TXN_OPEN; CFG_SET of an open transaction puts the setting in place of an earlier one of its key, or completes with CFG_NO_TXN without one or with a commit that has arrived, or with QUEUE_FULL beyond 4,096; CFG_COMMIT states the transaction's commit for its grain and goes on running; CFG_ABORT cancels a pending commit, which completes with CFG_NO_TXN, and closes the transaction, with DONE, or DONE_NOTE where there was none. While the semaphore is held by another holder with room to wait, a CFG command joins its waiters; the command that holds it acts and gives it back. CFG_IMAGE_APPLY completes with BUFFER_FAULT, CFG_FORMAT, CFG_SIG, NOT_OWNER or CFG_TXN_OPEN in that order; after a lost lease it completes with 0x19 and clears LOST; while the HCU holds the semaphore it waits. -/
def Obligations.ConfigurationCommands : Prop :=
  (∀ (s : State) (id : Nat) (c : Cmd), semAt s (16 + c.pt) = none →
    (readyCmd s id 0x20 c →
      ((txnOf s c.pt).isSome = true → exec (.cfgOpen id) s = .next (complete s c.id stCFG_TXN_OPEN [])) ∧
      (txnOf s c.pt = none → exec (.cfgOpen id) s = .next (complete { s with cfg := { s.cfg with
        txns := s.cfg.txns ++ [⟨c.pt, false, []⟩] } } c.id stDONE (leBytes 2 (newest s).num.toNat)))) ∧
    (readyCmd s id 0x21 c →
      (txnOf s c.pt = none ∨ (commitOf s c.pt).isSome = true → exec (.cfgSet id) s = .next (complete s c.id stCFG_NO_TXN [])) ∧
      (∀ t, txnOf s c.pt = some t → commitOf s c.pt = none →
        (4096 ≤ t.sets.length → t.sets.all (fun x => decide (x.1 ≠ setKey c)) = true →
          exec (.cfgSet id) s = .next (complete s c.id stQUEUE_FULL [])) ∧
        (t.sets.length < 4096 → exec (.cfgSet id) s = .next
          (let f := fun (x : Txn) =>
             if !x.remote && decide (x.pt = c.pt) then { x with sets := putSet x.sets (setKey c) (setWords c) } else x
           complete { s with cfg := { s.cfg with txns := s.cfg.txns.map f } } c.id stDONE [])))) ∧
    (readyCmd s id 0x22 c →
      (txnOf s c.pt = none ∨ (commitOf s c.pt).isSome = true → exec (.cfgCommit id) s = .next (complete s c.id stCFG_NO_TXN [])) ∧
      (∀ t, txnOf s c.pt = some t → commitOf s c.pt = none → exec (.cfgCommit id) s = .next
        (let k : Commit := { pt := c.pt, twin := twinOf c, at_ := BitVec.ofNat 64 (par c 16 8), cmd := some c.id,
                             drainOk := drainOf c, image := none, sets := t.sets, waiting := false, until_ := 0, remote := false }
         running { s with cfg := { s.cfg with commits := insCommit k s.cfg.commits } } c.id))) ∧
    (readyCmd s id 0x23 c →
      (∀ k, commitOf s c.pt = some k → exec (.cfgAbort id) s = .next
        (complete (completeOpt (dropCommit s k) k.cmd stCFG_NO_TXN []) c.id stDONE [])) ∧
      (commitOf s c.pt = none → exec (.cfgAbort id) s = .next
        (complete { s with cfg := { s.cfg with txns := s.cfg.txns.filter fun t => t.remote || decide (t.pt ≠ c.pt) } } c.id
          (if (txnOf s c.pt).isSome then stDONE else stNOTE) [])))) ∧
  (∀ (s : State) (id : Nat) (c : Cmd) (x : Sem), readyCmd s id 0x20 c → semAt s (16 + c.pt) = some x →
    (x.holder.hcu = false → x.waiters = [] → exec (.cfgOpen id) s = .next (setSem s (16 + c.pt)
      (some { x with waiters := [⟨true, 0, 0, some id⟩] }))) ∧
    (x.holder.hcu = true → x.holder.cmd = some id → exec (.cfgOpen id) s = .next (semFree (cfgOpen s c) (16 + c.pt)))) ∧
  (∀ (s : State) (id : Nat) (c : Cmd) (image : List Byte) (ok : Bool), readyCmd s id 0x44 c →
    (s.cc.semLost.getLsbD (16 + c.pt) = true → exec (.cfgImageApply id image ok) s = .next
      (complete { s with cc := { s.cc with semLost := s.cc.semLost &&& ~~~BitVec.ofNat 64 (2 ^ (16 + c.pt)) } } c.id 0x19 [])) ∧
    (∀ x, s.cc.semLost.getLsbD (16 + c.pt) = false → semAt s (16 + c.pt) = some x → x.holder.hcu = true →
      exec (.cfgImageApply id image ok) s = .next s) ∧
    (s.cc.semLost.getLsbD (16 + c.pt) = false → semAt s (16 + c.pt) = none →
      let b := image.take (bufLen c)
      (exec (.cfgImageApply id image false) s = .next (complete s c.id stBUFFER_FAULT [])) ∧
      ((b.length ≠ bufLen c ∨ imageForm b = false) → exec (.cfgImageApply id image true) s = .next (complete s c.id stCFG_FORMAT [])) ∧
      (b.length = bufLen c → imageForm b = true → imageSigned s b = false →
        exec (.cfgImageApply id image true) s = .next (complete s c.id stCFG_SIG [])) ∧
      (b.length = bufLen c → imageForm b = true → imageSigned s b = true → le b 6 1 ≠ c.pt →
        exec (.cfgImageApply id image true) s = .next (complete s c.id stNOT_OWNER [])) ∧
      (b.length = bufLen c → imageForm b = true → imageSigned s b = true → le b 6 1 = c.pt → (txnOf s c.pt).isSome = true →
        exec (.cfgImageApply id image true) s = .next (complete s c.id stCFG_TXN_OPEN [])) ∧
      (b.length = bufLen c → imageForm b = true → imageSigned s b = true → le b 6 1 = c.pt → txnOf s c.pt = none →
        let s1 : State := { s with cfg := { s.cfg with txns := s.cfg.txns ++ [⟨c.pt, false, []⟩] } }
        let r := imageEntries s1 c.pt ((List.range (le b 12 4)).map fun i => slice b (64 + 56 * i) 56)
        exec (.cfgImageApply id image true) s = .next
          (if r.2 = stDONE then imageCommit r.1 c b else complete (closeTxn r.1 c.pt) c.id r.2 []))))

/-- Where the only commit of an index is due and its P5 decision is at the head: one that changes nothing completes with DONE_NOTE and the epoch in force; one past its bound completes with EPOCH_BUSY and counts; one that may not open waits; otherwise, apart from a pair, it completes with the status of the first check that fails, or opens. A commit that opens without a drain leaves one more epoch with the next number opened at its grain, and no commit. A head of another kind is no event. A waiting commit whose bound is reached is EPOCH_BUSY. Where no packet carries the older of two live epochs, and the newest opened before this grain, it retires and its bank is mirrored. A mirror copy ends at its grain and the next begins. A drain of which nothing remains takes effect; none ends before. At its bound the drain discards what remains and takes effect; before it is no event. -/
def Obligations.CommitsOpenEpochsAndDrain : Prop :=
  (∀ (s : State) (g : Grain) (r : List Entry) (k : Commit), s.gr.backlog = ⟨g, ⟨5, k.pt, .commit k.pt⟩⟩ :: r → s.twn.shared = [] →
    s.cfg.commits = [k] → k.twin = false → k.remote = false → k.waiting = true → before g k.at_ = false → s.twn.state = twOFF → s.twn.ready = none →
    let s1 : State := { s with gr := { s.gr with backlog := r } }
    (changing s1 k.sets = [] → exec .commitApply s = .next (commitIdle s1 k)) ∧
    (changing s1 k.sets ≠ [] → before k.until_ g = true → exec .commitApply s = .next
      (completeOpt (dropCommit { s1 with cfg := { s1.cfg with busyCnt := satInc s.cfg.busyCnt } } k) k.cmd stEPOCH_BUSY [])) ∧
    (changing s1 k.sets ≠ [] → before k.until_ g = false → mayOpen s1 g k = false →
      ∃ t, exec .commitApply s = .next t ∧ t.cfg.commits = [k] ∧ t.cfg.epochs = s.cfg.epochs) ∧
    (∀ st, changing s1 k.sets ≠ [] → before k.until_ g = false → mayOpen s1 g k = true → commitCheck s1 k g = some st →
      exec .commitApply s = .next (completeOpt (dropCommit s1 k) k.cmd st [])) ∧
    (changing s1 k.sets ≠ [] → before k.until_ g = false → mayOpen s1 g k = true → commitCheck s1 k g = none →
      exec .commitApply s = .next (commitOpen s1 k g))) ∧
  (∀ (s : State) (g : Grain), (joins s g = false →
      (newest (openEpoch s g)).num = (newest s).num + 1 ∧ (newest (openEpoch s g)).opened = g ∧
      (openEpoch s g).cfg.epochs.length = s.cfg.epochs.length + 1 ∧ (newest (openEpoch s g)).vals = (newest s).vals) ∧
    (joins s g = true → openEpoch s g = s)) ∧
  (∀ (s : State) (e : Entry) (r : List Entry), s.gr.backlog = e :: r → (∀ i, e.inp.what ≠ .commit i) → exec .commitApply s = .next s) ∧
  (∀ (s : State),
    (∀ c, s.cfg.commits.find? (fun c => c.waiting && reached s c.until_) = some c → exec .commitWaitTimeout s = .next
      (completeOpt (dropCommit { s with cfg := { s.cfg with busyCnt := satInc s.cfg.busyCnt } } c) c.cmd stEPOCH_BUSY [])) ∧
    (s.cfg.commits.find? (fun c => c.waiting && reached s c.until_) = none → exec .commitWaitTimeout s = .next s) ∧
    (∀ a b, s.cfg.epochs = [a, b] →
      (a.opened ≠ s.gr.count → openingPends s = false → (∀ p ∈ s.qm.pkts, p.epoch ≠ b.num) → exec .epochRetire s = .next
        (mirrorPush { s with cfg := { s.cfg with epochs := [a] } } b.bank b.region false)) ∧
      (a.opened = s.gr.count ∨ (∃ p ∈ s.qm.pkts, p.epoch = b.num) → exec .epochRetire s = .next s)) ∧
    (∀ m r, s.cfg.mirrors = m :: r →
      (reached s m.doneAt = true → exec .mirrorComplete s = .next (mirrorStart { s with cfg := { s.cfg with mirrors := r } })) ∧
      (reached s m.doneAt = false → exec .mirrorComplete s = .next s)) ∧
    (∀ x, s.cfg.quiesces.find? (fun x => !remains s x) = some x → exec .quiesceEnd s = .next (quiesceApply s x)) ∧
    (s.cfg.quiesces.find? (fun x => !remains s x) = none → exec .quiesceEnd s = .next s) ∧
    (s.cfg.quiesces.find? (fun x => reached s x.until_) = none → exec .quiesceDeadline s = .next s) ∧
    (∀ x y, s.cfg.quiesces.find? (fun x => reached s x.until_) = some x →
      (quiescePurge s x).cfg.quiesces.find? (fun y => decide (y.at_ = x.at_) && decide (y.pt = x.pt) && decide (y.num = x.num)) = some y →
      exec .quiesceDeadline s = .next (quiesceApply (quiescePurge s x) y)))

/-- A write of PMC_CFG that no rule refuses waits for the boundary, PMC_CLR with CLR set. At the boundary word +0 sets OWN, ALL and EN, sets SEL where the unit's row lists it and else keeps it, and clears COUNT only with CLR; word +4 sets THRESH; every other counter keeps its value. In the view, LO of a counter of the window's partition returns the low word and latches the high one, HI returns the latch, and a counter of another partition reads 0 and keeps its latch. PMC_CENSUS waits for its grain (AT 0: the grain after the arrival stamp), joins a pending census of its grain, or completes with CENSUS_BUSY. The pending census is captured once its grain is reached, not before, with the next number; its completion puts it first of at most four slots and completes every waiting command with its grain and number. PMC_READ writes the header and the issuer's entries, cut to LEN, or completes with BUFFER_FAULT where the write fails and with BAD_PARAM where the census is not held. -/
def Obligations.CountersAndCensus : Prop :=
  (∀ (s : State) (m : Master) (u c : Nat) (hi : Bool) (v : W32), u < 168 → c < 8 →
    let a := 0x07D00000 + u * 0x40 + c * 8
    (allowed s m (a + 4 * b1 hi) true → exec (.pmcCfgWrite m u c hi v) s = .next
      { s with bus := { s.bus with pend := s.bus.pend ++ [(a + 4 * b1 hi, v)] } }) ∧
    (allowed s m a true → exec (.pmcClr m u c v) s = .next
      { s with bus := { s.bus with pend := s.bus.pend ++ [(a, v ||| 0x80000000)] } }) ∧
    (let t := pmcApply s (u * 0x40 + c * 8) v
     ctrAt t u c = { ctrAt s u c with
       sel := if selOk u (fld v 0 8) then BitVec.ofNat 8 (fld v 0 8) else (ctrAt s u c).sel, own := BitVec.ofNat 4 (fld v 8 4),
       all := bit v 12, en := bit v 13, count := if bit v 31 then 0 else (ctrAt s u c).count }) ∧
    (ctrAt (pmcApply s (u * 0x40 + c * 8 + 4) v) u c = { ctrAt s u c with thresh := BitVec.ofNat 24 (fld v 0 24) }) ∧
    (∀ j d, d < 8 → (j, d) ≠ (u, c) → ctrAt (pmcApply s (u * 0x40 + c * 8 + 4 * b1 hi) v) j d = ctrAt s j d)) ∧
  (∀ (s : State) (m : Master) (n u c : Nat), n < 16 → u < 168 → c < 8 →
    let a := winBase n + 0x10000 + u * 0x40 + c * 8
    (allowed s m a false → ctrOf n (ctrAt s u c) = true → exec (.counterViewRead m n u c false) s = .next
      (readBack (setCtr s u c { ctrAt s u c with hi := BitVec.ofNat 16 ((ctrAt s u c).count.toNat / 2 ^ 32) }) (w32 (ctrAt s u c).count.toNat))) ∧
    (allowed s m (a + 4) false → ctrOf n (ctrAt s u c) = true → exec (.counterViewRead m n u c true) s = .next
      (readBack s (w32 (ctrAt s u c).hi.toNat))) ∧
    (∀ hi, allowed s m (a + 4 * b1 hi) false → ctrOf n (ctrAt s u c) = false → exec (.counterViewRead m n u c hi) s = .next (readBack s 0))) ∧
  (∀ (s : State) (id : Nat) (c : Cmd), readyCmd s id 0x30 c →
    let g : Grain := if par c 16 8 = 0 then c.arrive + 1 else BitVec.ofNat 64 (par c 16 8)
    (s.pmc.pend = none → s.pmc.writing = none → exec (.pmcCensus id) s = .next
      (running { s with pmc := { s.pmc with pend := some g, pendCmds := [(c.id, false)], snap := none } } c.id)) ∧
    (s.pmc.pend = some g → exec (.pmcCensus id) s = .next
      (running { s with pmc := { s.pmc with pendCmds := s.pmc.pendCmds ++ [(c.id, true)] } } c.id)) ∧
    ((∃ p, s.pmc.pend = some p ∧ p ≠ g) ∨ (s.pmc.pend = none ∧ s.pmc.writing.isSome = true) →
      exec (.pmcCensus id) s = .next (complete s c.id stCENSUS_BUSY []))) ∧
  (∀ (s : State),
    (∀ g, s.pmc.pend = some g → reached s g = true → exec .censusCapture s = .next { s with pmc := { s.pmc with
      pend := none, snap := none, writing := some (s.pmc.snap.getD (censusOf s g)), next := s.pmc.next + 1 } }) ∧
    ((∀ g, s.pmc.pend = some g → reached s g = false) → exec .censusCapture s = .next s) ∧
    (∀ x, s.pmc.writing = some x → exec .censusComplete s = .next
      (s.pmc.pendCmds.foldl (fun s c => complete s c.1 (if c.2 then stNOTE else stDONE) (leBytes 8 x.at_.toNat ++ leBytes 2 x.num.toNat))
        { s with pmc := { s.pmc with writing := none, pendCmds := [], slots := (x :: s.pmc.slots).take 4 } })) ∧
    (s.pmc.writing = none → exec .censusComplete s = .next s)) ∧
  (∀ (s : State) (id : Nat) (c : Cmd), readyCmd s id 0x31 c →
    (∀ x, s.pmc.slots.find? (fun x => decide (x.num.toNat = par c 8 2)) = some x →
      exec (.pmcRead id true) s = .next (complete (bufWrite s c 0 ((censusBytes x c.pt).take (bufLen c))) c.id stDONE []) ∧
      exec (.pmcRead id false) s = .next (complete s c.id stBUFFER_FAULT [])) ∧
    (∀ ok, s.pmc.slots.find? (fun x => decide (x.num.toNat = par c 8 2)) = none →
      exec (.pmcRead id ok) s = .next (complete s c.id stBAD_PARAM [])))

/-- PRM_STORE whose buffer is read becomes an input for the sequencer and goes on running, or completes with BUFFER_FAULT. At its decision the owner's first waiting request completes with BAD_PARAM outside the region, with QUEUE_FULL where the owner has 64 stores, with ENERGY_SHORT after a shed, in LOW or where the bank does not cover it, and else is the last admitted store and stays running. The first store ends when its last line's time has come, not before: its SCRUB units are zeroed, its lines are written in order, the next store starts and it completes with its admission grain and its energy. PRM_READ of no bad line writes the lines read into its buffer; of a line that a store holds it reads that store's data, of a SCRUB line zeros, of a bad line zeros with a class K fault and event 671. A SCRUB unit loses one line at a time, none within 1 us of another, with a store admitted, in LOW or after a shed. A write of PRM_REGION that no rule refuses waits for the boundary, where an overlap or an admitted store of the partition refuses it. -/
def Obligations.PersistentRecordRows : Prop :=
  (∀ (s : State) (id : Nat) (c : Cmd) (data : List Byte), readyCmd s id 0x34 c →
    (exec (.prmStore id data false) s = .next (complete s c.id stBUFFER_FAULT [])) ∧
    (exec (.prmStore id data true) s = .next
      (running (see { s with prm := { s.prm with wait := s.prm.wait ++ [(c.id, padTo (bufLen c) data)] } } 0 (16 + c.pt) (.store c.pt)) c.id))) ∧
  (∀ (s : State) (g : Grain) (k i n : Nat) (r : List Entry) (w : Nat × List Byte) (c : Cmd),
    s.gr.backlog = ⟨g, ⟨k, i, .store n⟩⟩ :: r → s.twn.shared = [] →
    s.prm.wait.find? (fun w => match cmdAt s w.1 with | some c => decide (c.pt = n) | none => false) = some w → cmdAt s w.1 = some c →
    let s1 : State := { s with gr := { s.gr with backlog := r }, prm := { s.prm with wait := s.prm.wait.filter fun y => decide (y.1 ≠ w.1) } }
    let mine := (s.prm.stores.filter fun y => decide (y.owner = c.pt)).length
    (rangePrm s c = false → exec .prmStoreAdmit s = .next (complete s1 c.id stBAD_PARAM [])) ∧
    (rangePrm s c = true → 64 ≤ mine → exec .prmStoreAdmit s = .next (complete s1 c.id stQUEUE_FULL [])) ∧
    (rangePrm s c = true → mine < 64 → s.pwr.shed.isSome = true ∨ s.hup.low = true ∨ covers s (storeFor s c w.2).energy = false →
      exec .prmStoreAdmit s = .next (complete s1 c.id stENERGY_SHORT [])) ∧
    (rangePrm s c = true → mine < 64 → s.pwr.shed = none → s.hup.low = false → covers s (storeFor s c w.2).energy = true →
      exec .prmStoreAdmit s = .next { s1 with prm := { s1.prm with stores := s1.prm.stores ++ [storeFor s c w.2] } })) ∧
  (∀ (s : State) (x : Store) (r : List Store), s.prm.stores = x :: r →
    (storeEnds s x = false → exec .prmStoreComplete s = .next s) ∧
    (storeEnds s x = true → x.scrub = [] → exec .prmStoreComplete s = .next
      (let t := linesWrite s x.first x.lines
       let next := match r with
        | y :: l => { y with startAt := some t.gr.count } :: l
        | [] => []
       completeOpt { t with prm := { t.prm with stores := next } } x.cmd stDONE
         (leBytes 8 x.admitAt.toNat ++ leBytes 4 (energyUj x.energy))))) ∧
  (∀ (s : State) (id : Nat) (c : Cmd), readyCmd s id 0x35 c →
    let l := linesRead s c.pt ((regionOf s c.pt).1 + par c 8 4) (par c 12 2)
    exec (.prmRead id [] true) s = .next (complete (bufWrite l.1 c 0 l.2) c.id stDONE []) ∧
    exec (.prmRead id [] false) s = .next (complete l.1 c.id stBUFFER_FAULT [])) ∧
  (∀ (s : State) (n l : Nat),
    (∀ b, lineStored s l = some b → lineRead s n l = (s, b)) ∧
    (∀ u, lineStored s l = none → unitOf l = some u → s.prm.scrub.contains u = true → lineRead s n l = (s, zeroLine)) ∧
    (∀ u, lineStored s l = none → unitOf l = some u → s.prm.scrub.contains u = false → s.prm.badLines.contains l = false →
      lineRead s n l = (s, lineAt s l)) ∧
    (∀ u, lineStored s l = none → unitOf l = some u → s.prm.scrub.contains u = false → s.prm.badLines.contains l = true →
      lineRead s n l = (let t := kFault s 9 0xB0 (some n) l
        raise { t with prm := { t.prm with uncorr := satInc t.prm.uncorr } } 671 2 l, zeroLine))) ∧
  (∀ (s : State) (u : Nat), u < 1008 →
    (s.prm.scrub.contains u = false ∨ s.prm.stores ≠ [] ∨ s.hup.low = true ∨ s.pwr.shed.isSome = true ∨
      (∃ g, s.prm.scrubLast = some g ∧ since s g < 1000) → exec (.prmScrubLine u) s = .next s) ∧
    (s.prm.scrub.contains u = true → s.prm.scrubLast = none → s.prm.stores = [] → s.hup.low = false → s.pwr.shed = none →
      exec (.prmScrubLine u) s = .next
        (let k := tget (fun _ => 0) s.prm.scrubAt u
         let t := lineWrite s (4096 + 256 * u + k) zeroLine
         { t with prm := { t.prm with
            scrubLast := some t.gr.count
            scrubAt := tset (fun _ => 0) t.prm.scrubAt u (if 255 ≤ k then 0 else k + 1)
            scrub := if 255 ≤ k then t.prm.scrub.filter fun j => decide (j ≠ u) else t.prm.scrub } }))) ∧
  (∀ (s : State) (m : Master) (n : Nat) (v : W32), n < 16 →
    (allowed s m (0x07820000 + 4 * n) true → exec (.prmRegionWrite m n v) s = .next
      { s with bus := { s.bus with pend := s.bus.pend ++ [(0x07820000 + 4 * n, v)] } }) ∧
    ((∃ x ∈ s.prm.stores, x.owner = n) → regionApply s n v = s) ∧
    (∀ k, k < 16 → k ≠ n → fld v 0 10 < (tget (fun _ => ((0, 0) : Nat × Nat)) s.prm.regions k).1 + (tget (fun _ => ((0, 0) : Nat × Nat)) s.prm.regions k).2 →
      (tget (fun _ => ((0, 0) : Nat × Nat)) s.prm.regions k).1 < fld v 0 10 + fld v 16 10 → regionApply s n v = s))

/-- A sample with V_MIN set sets V and E_BANK from its code and takes HOLD_W and SHED_W into the ledger, then judges it: in LOW the refusals end where the bank covers the ledger with 1,000 uJ more; else a bank below the stores and the reserve sets LOW and raises event 670 CODE 3. With V_MIN 0 E_BANK is a free value. A periodic test is not due with PERIOD 0, after a shed or before its period; one due while a test runs is dropped, one without the energy is counted, and else one starts with E_TEST held. HUP_MEASURE waits while a test runs, completes with HUP_BUSY without the energy, and else starts a test and runs on. A test does not end before 2 ms; a discarded one counts and its command completes with free results; any other replaces CAP and ESR, sets VALID, raises event 670 CODE 1, with CODE 2 too below CAP_MIN, and completes its command with CAP, ESR and the grain. The free values are the model's own form of what the spec leaves open (log entries 92 to 94). -/
def Obligations.HoldUpBankRows : Prop :=
  (∀ (s : State) (code : BitVec 12),
    let mv := bankMv s code.toNat
    (s.hup.vMin ≠ 0 → exec (.hupSample code) s = .next (ledgerJudge { s with hup := { s.hup with
      v := BitVec.ofNat 16 (min 65535 mv), eBank := bankEnergy s mv, pHold := s.hup.holdW.toNat, pShed := s.hup.shedW.toNat } })) ∧
    (s.hup.vMin = 0 → exec (.hupSample code) s = .next (ledgerJudge { s with freeCtr := s.freeCtr + 1, hup := { s.hup with
      v := BitVec.ofNat 16 (min 65535 mv), eBank := (freeVal s).toNat % 2 ^ 32, pHold := s.hup.holdW.toNat, pShed := s.hup.shedW.toNat } })) ∧
    (s.hup.low = true → held s + 2000000 ≤ 2000 * s.hup.eBank → ledgerJudge s = { s with hup := { s.hup with low := false } }) ∧
    (s.hup.low = true → 2000 * s.hup.eBank < held s + 2000000 → ledgerJudge s = s) ∧
    (s.hup.low = false → 2000 * s.hup.eBank < heldStores s + reserve s →
      ledgerJudge s = raise { s with hup := { s.hup with low := true } } 670 3 s.hup.cap.toNat) ∧
    (s.hup.low = false → heldStores s + reserve s ≤ 2000 * s.hup.eBank → ledgerJudge s = s)) ∧
  (∀ (s : State),
    let due : State := { s with hup := { s.hup with dueAt := s.gr.count } }
    (s.hup.period = 0 ∨ s.pwr.shed.isSome = true ∨ since s s.hup.dueAt < s.hup.period.toNat * 1000000000 →
      exec .hupTestStart s = .next s) ∧
    (s.hup.period ≠ 0 → s.pwr.shed = none → s.hup.period.toNat * 1000000000 ≤ since s s.hup.dueAt →
      (s.hup.test.isSome = true → exec .hupTestStart s = .next due) ∧
      (s.hup.test = none → covers s (testEnergy s) = false → exec .hupTestStart s = .next
        { due with hup := { due.hup with skipped := satInc s.hup.skipped } }) ∧
      (s.hup.test = none → covers s (testEnergy s) = true → exec .hupTestStart s = .next
        { due with hup := { due.hup with test := some none, eTest := testEnergy s, testAt := s.gr.count } }))) ∧
  (∀ (s : State) (id : Nat) (c : Cmd), readyCmd s id 0x70 c →
    (s.hup.test.isSome = true → exec (.hupMeasure id) s = .next s) ∧
    (s.hup.test = none → covers s (testEnergy s) = false → exec (.hupMeasure id) s = .next (complete s c.id stHUP_BUSY [])) ∧
    (s.hup.test = none → covers s (testEnergy s) = true → exec (.hupMeasure id) s = .next
      (running { s with hup := { s.hup with test := some (some c.id), eTest := testEnergy s, testAt := s.gr.count } } c.id))) ∧
  (∀ (s : State) (v0 v1 v2 : Nat),
    (s.hup.test = none → exec (.hupTestEnd v0 v1 v2) s = .next s) ∧
    (since s s.hup.testAt < 2000000 → exec (.hupTestEnd v0 v1 v2) s = .next s) ∧
    (∀ k, s.hup.test = some k → 2000000 ≤ since s s.hup.testAt →
      (testBad s v0 v1 v2 = true →
        let t : State := { s with hup := { s.hup with test := none, skipped := satInc s.hup.skipped } }
        (k = none → exec (.hupTestEnd v0 v1 v2) s = .next t) ∧
        (∀ i, k = some i → exec (.hupTestEnd v0 v1 v2) s = .next (complete { t with freeCtr := s.freeCtr + 1 } i stDONE
          (leBytes 8 (freeVal s).toNat ++ leBytes 8 s.gr.count.toNat)))) ∧
      (testBad s v0 v1 v2 = false →
        let n := BitVec.ofNat 24 (testCap s v1 v2)
        let t : State := { s with hup := { s.hup with test := none, cap := n, esr := BitVec.ofNat 32 (testEsr s v0 v1 v2).toNat, valid := true } }
        let r := raise t 670 1 n.toNat
        let u := if r.hup.cap.toNat < r.hup.capMin.toNat then raise r 670 2 r.hup.cap.toNat else r
        (k = none → exec (.hupTestEnd v0 v1 v2) s = .next u) ∧
        (∀ i, k = some i → exec (.hupTestEnd v0 v1 v2) s = .next (complete u i stDONE
          (leBytes 4 u.hup.cap.toNat ++ leBytes 4 u.hup.esr.toNat ++ leBytes 8 u.gr.count.toNat))))))

/-- A command of a service whose buffer is read joins the order of services and runs on; one whose buffer is not read completes with BUFFER_FAULT. The head begins only with the unit free, the firmware running, no earlier service command missing and its slots not busy; what it finds is fixed then, and its end lies its time later. An RSA generation that may begin reseeds, draws and runs in slices of 1 ms. A service finds NOT_OWNER for slots of others; KEY_OCCUPIED, KEY_EMPTY, KEY_TYPE, BAD_PARAM, ENTROPY_FAIL or POINT where the rules say so; else its key or output. At the end of its phase, not before, the order goes on, the key is in its slot, and the command completes: with its output in the buffer, with BUFFER_FAULT where that write fails, with its status alone where there is no output. The end of a slice puts the generation behind the others, or stores the key and completes. The times that R483 gives per message block and the key of a drawn number are the model's reading (log entries 112, 115). -/
def Obligations.KeyServices : Prop :=
  (∀ (s : State) (id : Nat) (c : Cmd) (buf : List Byte),
    let v := fun (op : Nat) (input : List Byte) => (
      { cmd := id, pt := c.pt, op := BitVec.ofNat 8 op, alg := par c 9 1, slot := par c 8 1, dest := par c 10 1, len := bufLen c,
        input := input, endAt := none, slices := false, status := 0, output := [], outAt := 0, key := none } : Service)
    let into := fun (x : Service) => ({ running s id with pka := { (running s id).pka with queue := insService x s.pka.queue } } : State)
    (readyCmd s id 0x50 c → exec (.keyGenerate id) s = .next (into (v 0x50 []))) ∧
    (readyCmd s id 0x51 c → exec (.keyImport id buf true) s = .next (into (v 0x51 (padTo (bufLen c) buf))) ∧
      exec (.keyImport id buf false) s = .next (complete s id stBUFFER_FAULT [])) ∧
    (readyCmd s id 0x52 c → exec (.keyExport id true) s = .next (into (v 0x52 []))) ∧
    (readyCmd s id 0x58 c → exec (.pkaSign id buf true) s = .next (into (v 0x58 (padTo (bufLen c) buf))) ∧
      exec (.pkaSign id buf false) s = .next (complete s id stBUFFER_FAULT [])) ∧
    (readyCmd s id 0x59 c → exec (.pkaVerify id buf true) s = .next (into (v 0x59 (padTo (bufLen c) buf))) ∧
      exec (.pkaVerify id buf false) s = .next (complete s id stBUFFER_FAULT [])) ∧
    (readyCmd s id 0x5A c → exec (.pkaAgree id buf true) s = .next (into (v 0x5A (padTo (bufLen c) buf))) ∧
      exec (.pkaAgree id buf false) s = .next (complete s id stBUFFER_FAULT [])) ∧
    (readyCmd s id 0x5B c → exec (.rngRead id true) s = .next (into (v 0x5B [])))) ∧
  (∀ (s : State) (v : Service) (r : List Service),
    s.pka.queue.filter (fun v => v.endAt.isSome || v.slices || serves s v) = v :: r →
    let s1 : State := { s with pka := { s.pka with queue := v :: r } }
    let l := if v.op = 0x5A then [v.slot, v.dest] else [v.slot]
    let rsa := isRsaGen v = true ∧ keyOwner s v.slot = v.pt ∧ keyAt s v.slot = none ∧ s.pka.entOk = true ∧ s.pka.drbgOk = true
    (v.endAt.isSome = true ∨ ccFenced s = true ∨ s.dbg.halted = true → exec .pkaServiceStart s = .next s1) ∧
    (v.slices = false → serviceMissing s1 v.cmd = true ∨ slotBusy s1 v.cmd l = true → exec .pkaServiceStart s = .next s1) ∧
    (v.endAt = none → ccFenced s = false → s.dbg.halted = false →
      (v.slices = true → exec .pkaServiceStart s = .next
        { s with pka := { s.pka with queue := { v with endAt := some (s.gr.count + 1000000) } :: r } }) ∧
      (v.slices = false → serviceMissing s1 v.cmd = false → slotBusy s1 v.cmd l = false →
        (rsa → exec .pkaServiceStart s = .next
          (let x : Service := { v with endAt := some (s.gr.count + 1000000), slices := true }
           { s with pka := { s.pka with queue := x :: r, reqs := 1, seedAt := s.gr.count } })) ∧
        (¬ rsa → exec .pkaServiceStart s = .next
          (let a := findService s1 v
           let x : Service := { v with
             endAt := some (s.gr.count + BitVec.ofNat 64 a.2.time)
             status := a.2.status
             output := a.2.output
             outAt := a.2.outAt
             key := a.2.key }
           { a.1 with pka := { a.1.pka with queue := x :: r } }))))) ∧
  (∀ (s : State) (v : Service),
    (keyOwner s v.slot ≠ v.pt → v.op ≠ 0x59 → v.op ≠ 0x5B → findService s v = (s, foundFail stNOT_OWNER 0)) ∧
    (keyOwner s v.slot = v.pt → v.op = 0x50 →
      ((keyAt s v.slot).isSome = true → findService s v = (s, foundFail stKEY_OCCUPIED 0)) ∧
      (keyAt s v.slot = none → s.pka.entOk = false ∨ s.pka.drbgOk = false → findService s v = (s, foundFail stENTROPY_FAIL 0)) ∧
      (keyAt s v.slot = none → s.pka.entOk = true → s.pka.drbgOk = true → 3 < v.alg →
        let a := drawReq (reseed s) 32
        findService s v = (a.1, foundDone (genTime v.alg) [] 0
          (some (v.slot, if v.alg ≤ 5 then privKey v.alg a.2 else secretKey v.alg a.2)))) ∧
      (keyAt s v.slot = none → s.pka.entOk = true → s.pka.drbgOk = true → v.alg ≤ 3 →
        let a := drawReq (reseed s) ((curveOf v.alg).len + 8)
        findService s v = (a.1, foundDone (genTime v.alg) [] 0
          (some (v.slot, privKey v.alg (beBytes (curveOf v.alg).len (beNat a.2 % ((curveOf v.alg).n - 1) + 1))))))) ∧
    (keyOwner s v.slot = v.pt → v.op = 0x51 →
      (∀ x st, importKey s v.pt v.slot v.input v.len = (st, some x) → findService s v = (s, foundDone 8000 [] 0 (some (v.slot, x)))) ∧
      (∀ st, importKey s v.pt v.slot v.input v.len = (st, none) → findService s v = (s, foundFail st 8000))) ∧
    (keyOwner s v.slot = v.pt → v.op = 0x52 →
      (keyAt s v.slot = none → findService s v = (s, foundFail stKEY_EMPTY 0)) ∧
      (∀ x, keyAt s v.slot = some x → v.len < 44 + (formOf x).length → findService s v = (s, foundFail stBAD_PARAM 0)) ∧
      (∀ x, keyAt s v.slot = some x → 44 + (formOf x).length ≤ v.len →
        findService s v = ((drawReq s 12).1, foundDone 8000 (blobSeal v.pt x (drawReq s 12).2) 0 none))) ∧
    (keyOwner s v.slot = v.pt → v.op = 0x58 → zeros v.input 3 1 = true → v.len = 4 + le v.input 0 2 → le v.input 2 1 ≤ 1 →
      (keyAt s v.slot = none → findService s v = (s, foundFail stKEY_EMPTY 0)) ∧
      (∀ x, keyAt s v.slot = some x → x.kind ≠ 1 ∨ x.alg = 5 → findService s v = (s, foundFail stKEY_TYPE 0)) ∧
      (∀ x, keyAt s v.slot = some x → x.kind = 1 → x.alg ≠ 5 → mlenOk x.alg.toNat (le v.input 0 2) = true →
        (x.alg.toNat ≤ 4 → le v.input 2 1 = 0) →
        let a := signWith s x (le v.input 2 1) (slice v.input 4 (le v.input 0 2))
        findService s v = (a.1, foundDone (signTime x.alg.toNat (le v.input 0 2)) a.2 v.len none))) ∧
    (keyOwner s v.slot = v.pt → keyOwner s v.dest = v.pt → v.op = 0x5A → (pubLens v.alg).contains v.len = true →
      (keyAt s v.slot = none → findService s v = (s, foundFail stKEY_EMPTY 0)) ∧
      (∀ x, keyAt s v.slot = some x → (keyAt s v.dest).isSome = true → findService s v = (s, foundFail stKEY_OCCUPIED 0)) ∧
      (∀ x, keyAt s v.slot = some x → keyAt s v.dest = none → x.kind = 1 → x.alg.toNat = v.alg →
        (agreeZ v.alg x v.input = none → findService s v = (s, foundFail stPOINT (agreeTime v.alg))) ∧
        (∀ z, agreeZ v.alg x v.input = some z → findService s v = (s, foundDone (agreeTime v.alg) [] 0
          (some (v.dest, secretKey 10 (hmac256 (List.replicate 32 0) z))))))) ∧
    (v.op = 0x5B → s.pka.entOk = false ∨ s.pka.drbgOk = false → findService s v = (s, foundFail stENTROPY_FAIL 0)) ∧
    (v.op = 0x5B → s.pka.entOk = true → s.pka.drbgOk = true → findService s v =
      ((drawReq (reseed s) v.len).1, foundDone (1000 * ((v.len + 63) / 64)) (drawReq (reseed s) v.len).2 0 none)) ∧
    (v.op = 0x59 → findService s v = (s,
      let r := verifyStatus v.alg v.input v.len
      if r.1 = stDONE then foundDone r.2 [] 0 none else foundFail r.1 r.2))) ∧
  (∀ (s : State) (v : Service) (r : List Service) (ok : Bool), s.pka.queue = v :: r →
    let s1 : State := { s with pka := { s.pka with queue := r } }
    (v.endAt = none ∨ v.slices = true ∨ (∃ g, v.endAt = some g ∧ reached s g = false) → exec (.pkaServiceRelease ok) s = .next s) ∧
    (∀ g c, v.endAt = some g → v.slices = false → reached s g = true → cmdAt s v.cmd = some c →
      let s2 := match v.key with
        | some (k, x) => setKeySlot s1 k (some x)
        | none => s1
      (v.status ≠ stDONE ∨ v.output = [] → exec (.pkaServiceRelease ok) s = .next (complete s2 v.cmd v.status [])) ∧
      (v.status = stDONE → v.output ≠ [] →
        exec (.pkaServiceRelease true) s = .next (complete (bufWrite s2 c v.outAt v.output) c.id stDONE (outLen v)) ∧
        exec (.pkaServiceRelease false) s = .next (complete s2 c.id stBUFFER_FAULT []))) ∧
    (v.slices = false ∨ v.endAt = none → exec (.keygenSliceEnd ok) s = .next s) ∧
    (v.slices = true → v.endAt.isSome = true →
      exec (.keygenSliceEnd false) s = .next { s with pka := { s.pka with queue := r ++ [{ v with endAt := none }] } } ∧
      (∀ c, v.output = [] → cmdAt s v.cmd = some c → exec (.keygenSliceEnd true) s = .next (complete
        (setKeySlot s1 v.slot (some (privKey v.alg (rsaForm v.alg s.pka.draws)))) v.cmd stDONE []))))

/-- With no earlier command in the way, KEY_PUBLIC writes the public form, or completes with KEY_EMPTY, KEY_TYPE for a secret or BAD_PARAM for a short buffer; KEY_ZEROISE empties its slot, or completes with DONE_NOTE; TAG_FLOW_SET frees a flow, claims it with a secret of ALG 11 for MODE 1 and 10 for MODE 2, or completes with KEY_EMPTY or KEY_TYPE; in the way, they wait. An integrity error of a full slot empties it, is a class K fault of its owner and event 667; of an empty one it is none. A failed health test counts, ends ENT_OK and raises event 666; the start-up test sets ENT_OK, and instantiates the DRBG the first time. A reseed falls due after 4,096 requests or 1 s with ENT_OK, and at its limit without it the DRBG ends as a class F fault. Only the control cluster writes PKA_DP_OP; while BUSY it sets OVR; ranges that pass word 4,095 or meet X set ERR; else the operation is BUSY for 1 + T grains. At the end, not before, OP 0 adds A times B into X and the carry into CY; late work is PKA_TIMING. OP 3 as no operation is presumed by the model (log entry 119). -/
def Obligations.KeySlotsEntropyAndDatapath : Prop :=
  (∀ (s : State) (id : Nat) (c : Cmd),
    (readyCmd s id 0x53 c → slotBusy s id [par c 8 1] = true → ∀ ok, exec (.keyPublic id ok) s = .next s) ∧
    (readyCmd s id 0x53 c → slotBusy s id [par c 8 1] = false →
      (∀ ok, keyAt s (par c 8 1) = none → exec (.keyPublic id ok) s = .next (complete s id stKEY_EMPTY [])) ∧
      (∀ ok x, keyAt s (par c 8 1) = some x → x.kind = 3 → exec (.keyPublic id ok) s = .next (complete s id stKEY_TYPE [])) ∧
      (∀ x, keyAt s (par c 8 1) = some x → x.kind ≠ 3 →
        (∀ ok, bufLen c < x.pub.length → exec (.keyPublic id ok) s = .next (complete s id stBAD_PARAM [])) ∧
        (x.pub.length ≤ bufLen c →
          exec (.keyPublic id true) s = .next (complete (bufWrite s c 0 x.pub) c.id stDONE (leBytes 2 x.pub.length)) ∧
          exec (.keyPublic id false) s = .next (complete s c.id stBUFFER_FAULT [])))) ∧
    (readyCmd s id 0x54 c → slotBusy s id [par c 8 1] = true → exec (.keyZeroise id) s = .next s) ∧
    (readyCmd s id 0x54 c → slotBusy s id [par c 8 1] = false →
      (keyAt s (par c 8 1) = none → exec (.keyZeroise id) s = .next (complete s id stNOTE [])) ∧
      ((keyAt s (par c 8 1)).isSome = true → exec (.keyZeroise id) s = .next (complete (setKeySlot s (par c 8 1) none) id stDONE []))) ∧
    (readyCmd s id 0x5C c → slotBusy s id (slotsNamed c) = true → exec (.tagFlowSet id) s = .next s) ∧
    (readyCmd s id 0x5C c → slotBusy s id (slotsNamed c) = false →
      let f := parBits c 10 0 12
      let mode := par c 12 1
      let put := fun (w : BitVec 16) => complete { s with fwd := { s.fwd with tagFlows := tset (fun _ => 0) s.fwd.tagFlows f w } } id stDONE []
      (mode = 0 → exec (.tagFlowSet id) s = .next (put 0)) ∧
      (mode ≠ 0 → keyAt s (par c 8 1) = none → exec (.tagFlowSet id) s = .next (complete s id stKEY_EMPTY [])) ∧
      (∀ x, mode ≠ 0 → keyAt s (par c 8 1) = some x →
        (x.kind = 3 → x.alg.toNat = (if mode = 1 then 11 else 10) →
          exec (.tagFlowSet id) s = .next (put (BitVec.ofNat 16 (mode + 4 * par c 8 1 + 256 * c.pt)))) ∧
        (x.kind ≠ 3 ∨ x.alg.toNat ≠ (if mode = 1 then 11 else 10) → exec (.tagFlowSet id) s = .next (complete s id stKEY_TYPE []))))) ∧
  (∀ (s : State) (k : Nat), k < 64 →
    (keyAt s k = none → exec (.pkaKeystore k) s = .next s) ∧
    ((keyAt s k).isSome = true → exec (.pkaKeystore k) s = .next
      (raise (kFault (setKeySlot s k none) 7 0x84 (some (keyOwner s k)) k) 667 0 k))) ∧
  (∀ (s : State),
    (exec (.entropyHealthFail false) s = .next
      (raise { s with pka := { s.pka with rct := satInc s.pka.rct, entOk := false } } 666 1 1)) ∧
    (exec (.entropyHealthFail true) s = .next
      (raise { s with pka := { s.pka with apt := satInc s.pka.apt, entOk := false } } 666 1 2)) ∧
    (s.pka.entOk = true ∨ s.dev.inReset = true → exec .entropyStartupPass s = .next s) ∧
    (s.pka.entOk = false → s.dev.inReset = false →
      (s.pka.inst = true → exec .entropyStartupPass s = .next (raise { s with pka := { s.pka with entOk := true } } 666 2 0)) ∧
      (s.pka.inst = false → exec .entropyStartupPass s = .next
        { s with pka := { s.pka with entOk := true, inst := true, drbgOk := true, reqs := 0, seedAt := s.gr.count } })) ∧
    (let due := s.pka.drbgOk = true ∧ s.pka.entOk = true ∧ (4096 ≤ s.pka.reqs ∨ 1000000000 ≤ since s s.pka.seedAt)
     (due → exec .drbgReseed s = .next { s with pka := { s.pka with reqs := 0, seedAt := s.gr.count } }) ∧
     (¬ due → exec .drbgReseed s = .next s)) ∧
    (let lost := s.pka.drbgOk = true ∧ s.pka.entOk = false ∧ (65536 ≤ s.pka.reqs ∨ 60000000000 ≤ since s s.pka.seedAt)
     (lost → exec .drbgReseedLimit s = .next (fFault { s with pka := { s.pka with drbgOk := false } } 6 0x83 0)) ∧
     (¬ lost → exec .drbgReseedLimit s = .next s))) ∧
  (∀ (s : State) (m : Master) (v : W32), allowed s m 0x06C00000 true →
    let op := fld v 0 2
    let l := fld v 2 7 + 1
    (m ≠ .cc → exec (.pkaDpOp m v) s = .next (refuse s m 0x06C00000 true 3)) ∧
    (m = .cc → s.pka.busyTo.isSome = true → exec (.pkaDpOp m v) s = .next { s with pka := { s.pka with ovr := true } }) ∧
    (m = .cc → s.pka.busyTo = none → op = 3 → exec (.pkaDpOp m v) s = .next s) ∧
    (m = .cc → s.pka.busyTo = none → op ≠ 3 → dpRefused s op l = true →
      exec (.pkaDpOp m v) s = .next { s with pka := { s.pka with err := true } }) ∧
    (m = .cc → s.pka.busyTo = none → op ≠ 3 → dpRefused s op l = false → exec (.pkaDpOp m v) s = .next
      { s with pka := { s.pka with
        op := BitVec.ofNat 2 op, lm1 := BitVec.ofNat 7 (l - 1), opX := s.pka.x, opA := s.pka.a, opB := s.pka.b,
        busyTo := some (s.gr.count + BitVec.ofNat 64 (1 + dpTime op l)) } })) ∧
  (∀ (s : State) (late : Bool),
    (s.pka.busyTo = none ∨ (∃ g, s.pka.busyTo = some g ∧ reached s g = false) → exec (.pkaDpComplete late) s = .next s) ∧
    (∀ g, s.pka.busyTo = some g → reached s g = true →
      let s1 : State := { s with pka := { s.pka with busyTo := none } }
      let l := s.pka.lm1.toNat + 1
      let x := s.pka.opX.toNat
      (exec (.pkaDpComplete true) s = .next (fFault s1 6 0x81 (s.pka.op.toNat + 256 * s.pka.lm1.toNat))) ∧
      (s.pka.op = 0 → exec (.pkaDpComplete false) s = .next
        (let n := ramInt s x (2 * l) + ramInt s s.pka.opA.toNat l * ramInt s s.pka.opB.toNat l
         let t := ramPut s1 x (2 * l) n
         { t with pka := { t.pka with cy := s.pka.cy + BitVec.ofNat 64 (n / 2 ^ (128 * l)) } })) ∧
      (s.pka.op = 1 → exec (.pkaDpComplete false) s = .next
        (let n := ramInt s x (l + 1) + ramInt s s.pka.opA.toNat l * (ramWord s s.pka.opB.toNat).toNat
         let t := ramPut s1 x (l + 1) n
         { t with pka := { t.pka with cy := s.pka.cy + BitVec.ofNat 64 (n / 2 ^ (64 * (l + 1))) } })) ∧
      (s.pka.op = 2 → exec (.pkaDpComplete false) s = .next
        (let n := ramInt s x l + s.pka.cy.toNat
         let t := ramPut s1 x l n
         { t with pka := { t.pka with cy := BitVec.ofNat 64 (n / 2 ^ (64 * l)) } }))))

/-- In OFF a change of conditions is none. Else the conditions are stored and judged: in ACQUIRE with all good the port waits in UP_WAIT; a bad one in UP_WAIT returns to ACQUIRE; a bad one in UP goes to ACQUIRE with a P4 down decision of its cause where DN_HOLD is 0 and else to DOWN_WAIT; all good in DOWN_WAIT returns to UP, counts a hit and raises the port error event with CODE 2. An SGMII PHY that drops the link of a port that is UP is a class C fault with cause AN; a refused negotiation raises CODE 4. The holds expire, in UP_WAIT and DOWN_WAIT only, after UP_HOLD or DN_HOLD thousand grains, with the P4 decision. A write of PRT_CTL that no rule refuses waits for the boundary; there ADMIN_DOWN sends a port that is not OFF to OFF with one P4 decision of cause ADMIN: from UP or DOWN_WAIT, in place of a down input of its grain, and none where it withdraws an up input of it; its end sends an OFF port with a mode to ACQUIRE. A redundancy record of the named node and source goes after FORGET ms without a frame, and every other record stays. -/
def Obligations.LinkStateMachine : Prop :=
  (∀ (s : State) (p : Nat) (c : LinkCond), p < 96 →
    let x := portAt s p
    let t := setPort s p { x with
      sig := c.sig, cdr := c.cdr, sync := c.sync, fec := c.fec || decide (portFec s p = 0), an := c.an || !anApplies s p, lf := c.lf, rf := c.rf,
      hiBer := c.hiBer }
    let phy := portMode s p = 3 ∧ x.state = 3 ∧ x.an = true ∧ c.an = false
    (x.state = 0 → exec (.linkConditionChange p c) s = .next s) ∧
    (x.state ≠ 0 → c.anRefused = false ∨ anApplies s p = false → ¬ phy →
      exec (.linkConditionChange p c) s = .next (linkJudge t p)) ∧
    (phy → c.anRefused = false → exec (.linkConditionChange p c) s = .next (cFault (linkJudge t p) (256 + p) 0xD0 0)) ∧
    (x.state ≠ 0 → c.anRefused = true → anApplies s p = true →
      exec (.linkConditionChange p c) s = .next (raiseAt (linkJudge t p) (4 * p + 3) 4 0 (s.gr.count + 1)))) ∧
  (∀ (s : State) (p : Nat),
    let x := portAt s p
    let bad := badConds s p x
    (x.state = 1 → bad = [] → linkJudge s p = upHold (setPort s p { x with state := 2, upSince := s.gr.count }) p) ∧
    (x.state = 2 → bad ≠ [] → linkJudge s p = setPort s p { x with state := 1 }) ∧
    (∀ c l, x.state = 3 → bad = c :: l →
      (x.dnHold = 0 → linkJudge s p = see (setPort s p { x with state := 1 }) 4 p (.link p false (BitVec.ofNat 4 c))) ∧
      (x.dnHold ≠ 0 → linkJudge s p = setPort s p { x with state := 4, badSince := s.gr.count, badCause := BitVec.ofNat 4 c })) ∧
    (x.state = 4 → bad = [] → linkJudge s p = raiseAt (setPort s p { x with state := 3, hits := satInc x.hits }) (4 * p + 3) 2 0 (s.gr.count + 1)) ∧
    ((x.state = 1 ∨ x.state = 4) → bad ≠ [] → linkJudge s p = s) ∧
    ((x.state = 2 ∨ x.state = 3) → bad = [] → linkJudge s p = s)) ∧
  (∀ (s : State) (p : Nat), p < 96 →
    let x := portAt s p
    (x.state = 2 → x.upHold.toNat * 1000 ≤ since s x.upSince → exec (.upHoldExpiry p) s = .next
      (see (setPort s p { x with state := 3 }) 4 p (.link p true 0))) ∧
    (x.state ≠ 2 ∨ since s x.upSince < x.upHold.toNat * 1000 → exec (.upHoldExpiry p) s = .next s) ∧
    (x.state = 4 → x.dnHold.toNat * 1000 ≤ since s x.badSince → exec (.downHoldExpiry p) s = .next
      (see (setPort s p { x with state := 1 }) 4 p (.link p false x.badCause))) ∧
    (x.state ≠ 4 ∨ since s x.badSince < x.dnHold.toNat * 1000 → exec (.downHoldExpiry p) s = .next s)) ∧
  (∀ (s : State) (m : Master) (p : Nat) (v : W32), p < 96 →
    let x := portAt s p
    let t := setPort s p { x with adminDown := bit v 0, dnHold := BitVec.ofNat 8 (fld v 8 8), upHold := BitVec.ofNat 16 (fld v 16 16) }
    (allowed s m (0x01000000 + p * 0x10000) true → exec (.prtCtlWrite m p v) s = .next
      { s with bus := { s.bus with pend := s.bus.pend ++ [(0x01000000 + p * 0x10000, v)] } }) ∧
    (bit v 0 = true → x.state = 0 → portCtlApply s p v = t) ∧
    (bit v 0 = true → x.state ≠ 0 →
      let u := setPort t p { dropLocks (portAt t p) with state := 0, squelched := true }
      portCtlApply s p v = match linkSeen s p with
        | none => if 3 ≤ x.state.toNat then see u 4 p (.link p false 1) else u
        | some d => match d with
          | .link _ true _ => linkUnsee u p
          | _ => see (linkUnsee u p) 4 p (.link p false 1)) ∧
    (bit v 0 = false → x.state = 0 → x.adminDown = true → portMode s p ≠ 0 → s.fcu.xDue = none → s.fcu.holding = false →
      s.pwr.shed = none → portCtlApply s p v = setPort t p { dropLocks (portAt t p) with state := 1, squelched := false })) ∧
  (∀ (s : State) (node : Nat) (mac : BitVec 48),
    let old := fun (r : RedRec) => r.node = node ∧ r.mac = mac ∧ forgetOf s node * 1000000 ≤ since s r.last
    ∃ t, exec (.redWindowForget node mac) s = .next t ∧ { t with mt := { t.mt with tiles := s.mt.tiles } } = s ∧
      (∀ i y, (i, some y) ∈ t.mt.tiles → ∀ r ∈ y.reds, ¬ old r.2) ∧
      (∀ i x, (i, some x) ∈ s.mt.tiles → ∀ r ∈ x.reds, ¬ old r.2 →
        ∃ y, (i, some y) ∈ t.mt.tiles ∧ r ∈ y.reds ∧ y.flows = x.flows ∧ y.pt = x.pt))

/-- With the head of logical port 100 a frame of the row's partition and packet, before a shed: a ring that is off or stopped, or a descriptor with OWN 0, drops it as PUNT_DROP; a DMA error stops the ring with RING_ERROR kind 3 index 0 cause 5; else the frame, cut to BUFLEN, goes to ADDR, then the descriptor with byte 15 last, the ring goes on by one, the delivery counts and the vector is sent at once or deferred where one went within 1,024 grains. Any other head is none. A deferred vector goes at the end of its interval, not before. The head of a working send ring is read where no descriptor is held and, after one with OWN 0, 1,024 grains have passed: OWN 1 holds the descriptor, OWN 0 starts the interval, an error stops the ring with index 1. The frame of a held descriptor clears OWN and steps the ring; a LEN of 60 to 9,212 enters logical port 100, a DIRECT one waiting for its queue and any other dispatched; another LEN sends nothing, which is the model's choice (log entry 65). -/
def Obligations.PuntAndSendRings : Prop :=
  (∀ (s : State) (n id : Nat) (desc : List Byte) (ok : Bool) (c : Copy) (p : Pkt), n < 16 → s.pwr.shed = none → plainHead s 100 = some c →
    pktAt s id = some p →
    let x := ptnAt s n
    let own := (le desc 15 1).testBit 0
    let fn := ringFn s n false
    (c.pkt ≠ id ∨ c.part ≠ n → exec (.puntRingWrite n id desc ok) s = .next s) ∧
    (c.pkt = id → c.part = n → ringOn s n false = false ∨ x.puntStop = true ∨ own = false →
      exec (.puntRingWrite n id desc ok) s = .next (count (takeOut s 100 c) 164 8 1 n)) ∧
    (c.pkt = id → c.part = n → ringOn s n false = true → x.puntStop = false → own = true → ok = false ∨ fnDma s fn = false →
      exec (.puntRingWrite n id desc ok) s = .next (ringStop (takeOut s 100 c) n false)) ∧
    (c.pkt = id → c.part = n → ringOn s n false = true → x.puntStop = false → own = true → ok = true → fnDma s fn = true →
      exec (.puntRingWrite n id desc ok) s = .next
        (let buf := le desc 8 4
         let d := ringDesc s n false x.puntHead
         let b := puntDesc s p c.frame.length (decide (buf < c.frame.length))
         let s1 := emit (emit (emit (emit s (.dma fn (le desc 0 8) (c.frame.take buf))) (.dma fn (d + 12) (b.take 3)))
           (.dma fn (d + 16) (b.drop 4))) (.dma fn (d + 15) (slice b 3 1))
         let s2 := setPtn s1 n { x with puntHead := (x.puntHead + 1) % ringLen s1 n false }
         puntVector (count (takeOut s2 100 c) 164 15 1 n) n))) ∧
  (∀ (s : State) (n : Nat), n < 16 →
    let x := ptnAt s n
    (x.puntVecAt = none ∨ (∃ g, x.puntVecAt = some g ∧ 1024 ≤ since s g) → puntVector s n =
      msixSend (setPtn s n { x with puntVecAt := some s.gr.count }) (ringFn s n false) (ringVec s n)) ∧
    (∀ g, x.puntVecAt = some g → since s g < 1024 → puntVector s n = setPtn s n { x with puntDefer := true }) ∧
    (x.puntDefer = false ∨ (∃ g, x.puntVecAt = some g ∧ since s g < 1024) → exec (.puntVectorDeferred n) s = .next s) ∧
    (x.puntDefer = true → x.puntVecAt = none ∨ (∃ g, x.puntVecAt = some g ∧ 1024 ≤ since s g) →
      exec (.puntVectorDeferred n) s = .next (puntVector (setPtn s n { x with puntDefer := false }) n))) ∧
  (∀ (s : State) (n : Nat) (desc : List Byte) (ok : Bool), n < 16 → s.pwr.shed = none →
    let x := ptnAt s n
    (sendOn s n = false ∨ x.sendDesc.isSome = true ∨ (∃ g, x.sendPollAt = some g ∧ since s g < 1024) →
      exec (.sendRingPoll n desc ok) s = .next s) ∧
    (sendOn s n = true → x.sendDesc = none → x.sendPollAt = none ∨ (∃ g, x.sendPollAt = some g ∧ 1024 ≤ since s g) →
      (ok = false ∨ fnDma s (ringFn s n true) = false → exec (.sendRingPoll n desc ok) s = .next (ringStop s n true)) ∧
      (ok = true → fnDma s (ringFn s n true) = true →
        ((le desc 15 1).testBit 0 = true → exec (.sendRingPoll n desc ok) s = .next
          (setPtn s n { x with sendDesc := some (padTo 32 desc), sendPollAt := none })) ∧
        ((le desc 15 1).testBit 0 = false → exec (.sendRingPoll n desc ok) s = .next
          (setPtn s n { x with sendPollAt := some s.gr.count }))))) ∧
  (∀ (s : State) (n work : Nat) (frame : List Byte) (ok : Bool), n < 16 → s.pwr.shed = none →
    let x := ptnAt s n
    (x.sendDesc = none ∨ sendOn s n = false → exec (.sendRingRead n frame ok work) s = .next s) ∧
    (∀ d, x.sendDesc = some d → sendOn s n = true →
      (ok = false ∨ fnDma s (ringFn s n true) = false → exec (.sendRingRead n frame ok work) s = .next (ringStop s n true)) ∧
      (ok = true → fnDma s (ringFn s n true) = true →
        let len := le d 8 2 % 2 ^ 14
        let s1 := emit s (.dma (ringFn s n true) (ringDesc s n true x.sendHead + 15) [0])
        let s2 := setPtn s1 n { x with sendDesc := none, sendHead := (x.sendHead + 1) % ringLen s1 n true }
        (len < 60 ∨ 9212 < len → exec (.sendRingRead n frame ok work) s = .next s2) ∧
        (60 ≤ len → len ≤ 9212 →
          let p := sendPkt s2 n d (padTo len frame) work
          (p.direct.isSome = true → exec (.sendRingRead n frame ok work) s = .next (addPkt s2 p)) ∧
          (p.direct = none → exec (.sendRingRead n frame ok work) s = .next (dispatch (addPkt s2 p) p))))))

/-- TDM_CHAIN_SET completes with SCHED where the spans pass the chain, a span is no longer than two hems, or START is not after TB_TIME; else its schedule waits for START. RADIO_NODE_ADD completes with NODE_FULL beyond 250 nodes, with SYNC_IN_USE where another node has its sync word; else its node waits for the next chain start, with DONE_NOTE where it was there. RADIO_NODE_DEL of a node that is there waits likewise; of another it completes with DONE_NOTE. A node that comes takes its spans from their holders. MDM_SHAPE_SET waits for an earlier one, completes with BUFFER_FAULT or BAD_PARAM, and else is installed at once where no burst is on air and the firmware runs, and waits otherwise; installing it completes the command, drops updates not applied and ends a hold but a fence's. Writing 1 to HELD ends a hold but a fence's. GO starts a transaction of the low BITS bits unless one runs, BITS outside 8 to 32 keeps the field, and its end stores the bits shifted in; without one it is none. -/
def Obligations.RadioConfigurationCommands : Prop :=
  (∀ (s : State) (id : Nat) (c : Cmd), readyCmd s id 0x60 c →
    let m := parBits c 8 0 2
    let x : TdmSched := { spans := par c 10 2, chain := par c 12 4, span := par c 16 4, hem := par c 20 4, start := par c 24 8 }
    let bad := x.chain * 1000 < x.spans * x.span ∨ x.span ≤ 2 * x.hem ∨ x.start * secUnits ≤ s.tb.t
    (bad → exec (.tdmChainSet id) s = .next (complete s id stSCHED [])) ∧
    (¬ bad → exec (.tdmChainSet id) s = .next (complete (setRadio s m { radioAt s m with nextSched := some x }) id stDONE []))) ∧
  (∀ (s : State) (id : Nat) (c : Cmd),
    let m := parBits c 8 0 2
    let j := par c 9 1
    let r := radioAt s m
    let t := nodesNext r
    let sync := BitVec.ofNat 32 (par c 16 4)
    let n := if par c 12 1 = 0 then 256 else par c 12 1
    let e : NodeEnt := { state := 1, count := 0, mask := spanMask (par c 10 2) n, sync := sync, offset := 0 }
    (readyCmd s id 0x61 c →
      (nodeGet t j = none → 250 ≤ (nodeList t).length → exec (.radioNodeAdd id) s = .next (complete s id stNODE_FULL [])) ∧
      (((nodeGet t j).isSome = true ∨ (nodeList t).length < 250) →
        ((∃ x ∈ nodeList t, x.1 ≠ j ∧ x.2.sync = sync) → exec (.radioNodeAdd id) s = .next (complete s id stSYNC_IN_USE [])) ∧
        ((∀ x ∈ nodeList t, x.1 ≠ j → x.2.sync ≠ sync) → exec (.radioNodeAdd id) s = .next (complete
          (setRadio s m { r with nodePend := r.nodePend ++ [(j, some e)] }) id (if (nodeGet t j).isSome then stNOTE else stDONE) [])))) ∧
    (readyCmd s id 0x62 c →
      ((nodeGet t j).isSome = true → exec (.radioNodeDel id) s = .next (complete
        (setRadio s m { r with nodePend := r.nodePend ++ [(j, none)] }) id stDONE [])) ∧
      (nodeGet t j = none → exec (.radioNodeDel id) s = .next (complete s id stNOTE [])))) ∧
  (∀ (t : Tab (Option NodeEnt)) (j : Nat) (e : NodeEnt),
    (nodeGet (nodeApply t (j, some e)).1 j = some e) ∧ (nodeGet (nodeApply t (j, none)).1 j = none) ∧
    (∀ k, k ≠ j → nodeGet (nodeApply t (j, none)).1 k = nodeGet t k)) ∧
  (∀ (s : State) (id : Nat) (c : Cmd) (buf : List Byte) (ok : Bool), readyCmd s id 0x63 c →
    let m := parBits c 8 0 2
    let b := padTo (bufLen c) buf
    ((radioAt s m).shapeCmd.isSome = true → exec (.mdmShapeSet id buf ok) s = .next s) ∧
    ((radioAt s m).shapeCmd = none →
      (exec (.mdmShapeSet id buf false) s = .next (complete s id stBUFFER_FAULT [])) ∧
      (shapeOf (decide (parBits c 9 0 1 = 1)) b = none → exec (.mdmShapeSet id buf true) s = .next (complete s id stBAD_PARAM [])) ∧
      (∀ h, shapeOf (decide (parBits c 9 0 1 = 1)) b = some h →
        let t := setRadio (running s id) m { radioAt s m with shapeCmd := some (id, h) }
        ((radioAt s m).burst = none → ccFenced s = false → exec (.mdmShapeSet id buf true) s = .next (shapeInstall t m id h)) ∧
        ((radioAt s m).burst.isSome = true ∨ ccFenced s = true → exec (.mdmShapeSet id buf true) s = .next t)))) ∧
  (∀ (s : State) (m id : Nat) (h : Shape), shapeInstall s m id h = complete (setRadio s m { radioAt s m with
    shape := h, shapeCmd := none, newCoef := none, preNmse := none, prevCoef := [], overN := 0, captures := 0, fitDue := false,
    held := (radioAt s m).held && decide ((radioAt s m).holdCause = 3),
    holdCause := if (radioAt s m).holdCause = 3 then (radioAt s m).holdCause else 0 }) id stDONE []) ∧
  (∀ (s : State) (k : Master) (m : Nat) (v rx : W32), m < 4 →
    let r := radioAt s m
    let n := fld v 0 6
    let bits := if 8 ≤ n ∧ n ≤ 32 then BitVec.ofNat 6 n else r.spiBits
    let t := setRadio (setRadio s m { r with spiBits := bits }) m { r with spiBits := bits, spiBusy := true }
    (allowed s k (0x06000008 + 0x1000 * m) true →
      (r.holdCause = 3 → exec (.mdmHeldRelease k m) s = .next s) ∧
      (r.holdCause ≠ 3 → exec (.mdmHeldRelease k m) s = .next (setRadio s m { r with held := false, holdCause := 0 }))) ∧
    (allowed s k (0x06000034 + 0x1000 * m) true →
      (bit v 6 = true → r.spiBusy = false → exec (.rfSpiGo k m v) s = .next
        { t with out := .spi m bits.toNat (w32 (r.spiTx.toNat % 2 ^ bits.toNat)) :: t.out }) ∧
      (bit v 6 = false ∨ r.spiBusy = true → exec (.rfSpiGo k m v) s = .next (setRadio s m { r with spiBits := bits }))) ∧
    (r.spiBusy = true → exec (.rfSpiComplete m rx) s = .next
      (setRadio s m { r with spiBusy := false, spiRx := w32 (rx.toNat % 2 ^ r.spiBits.toNat) })) ∧
    (r.spiBusy = false → exec (.rfSpiComplete m rx) s = .next s))

/-- A schedule that waits takes effect once TB_TIME reaches its START out of reset, not before. A chain that is not in progress starts: nodes that answered are ACTIVE, waiting node changes take effect, the roles are fixed, and a chain without a beacon span raises TDM CODE 6; a chain in progress is none. A span start moves the span, or the quiet tail, and none without a schedule. No burst starts on a channel that does not work, is held, or transmits, or out of its slot; in a beacon slot the beacon goes with the entries that fit while the firmware runs; in a downlink slot the head of the port's queues goes where it fits, one that fits no window is dropped, and one that fits later waits. At its end, not before, PA_EN falls, the burst counts, its copy leaves; a mask violation counts and holds the channel with cause 1, an update that raises NMSE by more than 3 dB is reverted. New coefficients wait where they follow the fit. PA_EN high for 41 ms is cut with MDM_LINK CODE 3 and a class F fault. The loss of DCLK cuts the burst with CODE 1; its return raises CODE 2. -/
def Obligations.ChainsSpansAndBursts : Prop :=
  (∀ (s : State) (m : Nat), m < 4 →
    let r := radioAt s m
    (∀ x, r.nextSched = some x → x.start * secUnits ≤ s.tb.t → s.dev.inReset = false → exec (.scheduleStart m) s = .next
      (cutSpans (setRadio s m { r with sched := some x, nextSched := none, chainOn := false, inTail := false }) m x.spans)) ∧
    ((∀ x, r.nextSched = some x → s.tb.t < x.start * secUnits ∨ s.dev.inReset = true) → exec (.scheduleStart m) s = .next s) ∧
    (∀ x k c0 sp, r.sched = some x → posAt x s.tb.t = some (k, c0, sp) →
      (r.chainOn = true ∧ r.chain = k ∨ s.dev.inReset = true → exec (.chainStart m) s = .next s) ∧
      (r.chainOn = false ∨ r.chain ≠ k → s.dev.inReset = false → exec (.chainStart m) s = .next
        (let s1 := cutSpans (applyNodes (setRadio s m (applyActive r)) m) m x.spans
         let r1 := radioAt s1 m
         let roles := rolesOf r1.nodes x.spans
         let b := roles.findIdx? (· == 0)
         let t := setRadio s1 m { r1 with
           chainOn := true, chain := k, roles := roles, noBeacon := b.isNone, beaconSpan := BitVec.ofNat 8 (b.getD 0),
           released := (nodeList r1.nodes).filterMap (fun e => if e.2.state = 2 then some e.1 else none), nodeRx := rmEn s1 m,
           spanIdx := sp.getD r1.spanIdx, inTail := sp.isNone, spanBusy := r1.pa }
         if b.isNone then tdmEvent t m 6 (k % 2 ^ 32) else t))) ∧
    ((∀ x, r.sched = some x → posAt x s.tb.t = none) → exec (.chainStart m) s = .next s) ∧
    (schedOn r = none → exec (.spanStart m) s = .next s) ∧
    (∀ x, schedOn r = some x →
      (posAt x s.tb.t = none → exec (.spanStart m) s = .next (setRadio s m { r with chainOn := false })) ∧
      (∀ k c0 sp, posAt x s.tb.t = some (k, c0, sp) →
        (k ≠ r.chain ∨ (sp.isNone = r.inTail ∧ sp.getD r.spanIdx = r.spanIdx) → exec (.spanStart m) s = .next s) ∧
        (k = r.chain → sp.isNone ≠ r.inTail ∨ sp.getD r.spanIdx ≠ r.spanIdx → exec (.spanStart m) s = .next
          (setRadio s m { r with spanIdx := sp.getD r.spanIdx, inTail := sp.isNone, spanBusy := r.pa }))))) ∧
  (∀ (s : State) (m : Nat), m < 4 →
    let r := radioAt s m
    let free := rWorks s m = true ∧ r.held = false ∧ r.pa = false ∧ r.burst = none
    (¬ free → exec (.burstStart m) s = .next s) ∧
    (r.sched = none ∨ burstSlot s m = none → exec (.burstStart m) s = .next s) ∧
    (∀ x w c0 start, free → r.sched = some x → burstSlot s m = some (w, c0, start) →
      (w.1 = 0 → fwRuns s = true → exec (.burstStart m) s = .next (beaconGo s m x w c0 start)) ∧
      (w.1 = 0 → fwRuns s = false → exec (.burstStart m) s = .next s) ∧
      (w.1 ≠ 0 → exec (.burstStart m) s = .next (downlinkGo m x w c0 start ((portCopies s (96 + m)).length + 1) s)))) ∧
  (∀ (s : State) (m c0 start f : Nat) (x : TdmSched) (w : BitVec 8 × Nat × Nat),
    (plainHead s (96 + m) = none → downlinkGo m x w c0 start (f + 1) s = s) ∧
    (∀ c, plainHead s (96 + m) = some c →
      (neverFits s m x c.frame.length = true → downlinkGo m x w c0 start (f + 1) s = downlinkGo m x w c0 start f (dropHead s (96 + m) c)) ∧
      (neverFits s m x c.frame.length = false → start + burstT s m c.frame.length ≤ c0 + w.2.2 * spanU x - hemU x →
        downlinkGo m x w c0 start (f + 1) s = burstGo (setQueue s (96 + m) c.queue { queueAt s (96 + m) c.queue with
          copies := (queueAt s (96 + m) c.queue).copies.filter fun d => decide (d.pkt ≠ c.pkt) }) m start false (some c) c.frame) ∧
      (neverFits s m x c.frame.length = false → c0 + w.2.2 * spanU x - hemU x < start + burstT s m c.frame.length →
        downlinkGo m x w c0 start (f + 1) s = s))) ∧
  (∀ (s : State) (m : Nat) (bins : List (Nat × Int)) (nmse : BitVec 16), m < 4 →
    ((radioAt s m).burst = none → exec (.burstEnd m bins nmse) s = .next s) ∧
    (∀ b, (radioAt s m).burst = some b →
      (reached s b.endAt = false → exec (.burstEnd m bins nmse) s = .next s) ∧
      (reached s b.endAt = true → exec (.burstEnd m bins nmse) s = .next
        (let s1 := burstCopyGone s m
         let r := radioAt s1 m
         let s2 := setRadio s1 m { r with burst := none, bursts := satInc r.bursts, lastEnd := some (s1.gr.count, b.end_) }
         let s3 := maskCheck (paFall s2 m) m bins
         shapeDue (if (radioAt s3 m).shape.dpd then dpdCapture s3 m nmse else s3) m))) ∧
    (let r := radioAt s m
     (r.shape.dpd = true ∨ worstBin r.shape.mask bins = none → maskCheck s m bins = s) ∧
     (∀ f, r.shape.dpd = false → worstBin r.shape.mask bins = some f →
       maskCheck s m bins = holdSet (setRadio s m { r with maskViol := satInc r.maskViol }) m 1 f) ∧
     (r.held = true → ∀ c d, holdSet s m c d = s) ∧
     (r.held = false → ∀ c d, holdSet s m c d = mdmEvent (setRadio s m { r with held := true, holdCause := c }) m 0 c.toNat d) ∧
     (∀ old, r.preNmse = some old → old.toInt + 12 < nmse.toInt → judgeUpdate s m nmse = mdmEvent (setRadio s m { r with
       preNmse := none, newCoef := none, shape := { r.shape with coef := r.prevCoef }, reverts := satInc r.reverts }) m 2 2
         (old.toNat + 65536 * nmse.toNat)))) ∧
  (∀ (s : State) (m : Nat) (ls coef : List W32), m < 4 →
    let r := radioAt s m
    let ok := r.shape.dpd && r.fitDue && !ccFenced s && coefOk r.shape ls coef
    (ok = true → exec (.dpdUpdate m ls coef) s = .next (setRadio s m { r with newCoef := some coef, fitDue := false })) ∧
    (ok = false → exec (.dpdUpdate m ls coef) s = .next s) ∧
    (r.pa = true → 41000000 ≤ since s r.paAt →
      exec (.paLimit m) s = .next (fFault (mdmEvent (shapeDue (paCut s m) m) m 1 3 0) (224 + m) 0x71 0)) ∧
    (r.pa = false ∨ since s r.paAt < 41000000 → exec (.paLimit m) s = .next s) ∧
    (r.dclkOk = false → exec (.dclkLoss m) s = .next s) ∧
    (r.dclkOk = true → exec (.dclkLoss m) s = .next
      (let t := paCut s m
       shapeDue (mdmEvent (setRadio t m { radioAt t m with dclkOk := false, tracked := (radioAt t m).tracked.filter (·.decoded) }) m 1 1 0) m)) ∧
    (r.dclkOk = true ∨ s.dev.inReset = true → exec (.dclkReturn m) s = .next s) ∧
    (r.dclkOk = false → s.dev.inReset = false → exec (.dclkReturn m) s = .next
      (mdmEvent (setRadio s m { r with dclkOk := true }) m 1 2 0)))

/-- A sync is none while the receiver does not listen or no expected word lies within SYNC_ERR; with two bursts tracked it counts in OVERRUN; else it counts in SYNC and its burst is tracked with the sync stamp less RX_DLY. A burst is not decoded before its last sample. Then its result counts, its report is the latest one, its node keeps its OFFSET, and its frame, kept where RESULT is 0, the node is ACTIVE and it is not bad, is held to the end of the last span it overlaps; overlapping bursts collide; a burst of a node that is gone is classed no further; of an ACTIVE node it is NORMAL, which sets the count to 0, or an intrusion; of a node in REACQ it is an answer, or counts in SPAN_INTR. Once TB_TIME reaches its instant a collided frame and one not kept go, a bad one counts in BAD, and a kept one, with its report where RPT_APPEND is set, becomes a packet that counts and is dispatched. At the end of an idle span without sync or PA the level joins the last 16 measurements, unless a sample reached full scale. Inside a node's window a burst is NORMAL. -/
def Obligations.RadioReception : Prop :=
  (∀ (s : State) (m sub : Nat) (word : BitVec 32), m < 4 → sub < 65536 →
    let r := radioAt s m
    (rListens s m = false ∨ syncNode r word = none → exec (.syncDetect m word sub) s = .next s) ∧
    (∀ j, rListens s m = true → syncNode r word = some j →
      (2 ≤ (r.tracked.filter fun b => !b.decoded).length → exec (.syncDetect m word sub) s = .next
        (setRadio s m { r with overrun := satInc r.overrun, spanBusy := true })) ∧
      ((r.tracked.filter fun b => !b.decoded).length < 2 → exec (.syncDetect m word sub) s = .next
        (let b : RxBurst := { node := j, sync := compensate (stampOf s sub) (-(16 * r.rxDly.toNat : Int)), from_ := 0, to_ := 0,
                              type_ := 0, hdrNode := 0, payload := [], report := [], result := 0, decoded := false, collided := false,
                              keep := false, bad := false, relAt := 0, inScope := false }
         setRadio s m { r with tracked := r.tracked ++ [b], sync := satInc r.sync, spanBusy := true })))) ∧
  (∀ (s : State) (m : Nat) (coded : List Byte) (level cfo : BitVec 16), m < 4 →
    let r := radioAt s m
    (r.tracked.find? (fun b => !b.decoded) = none → exec (.burstDecoded m coded level cfo) s = .next s) ∧
    (∀ b, r.tracked.find? (fun b => !b.decoded) = some b →
      let d := burstDecode (rmK s m) (rmTwoT s m) (rmDepth s m) coded
      (rxComplete s m b d = false → exec (.burstDecoded m coded level cfo) s = .next s) ∧
      (rxComplete s m b d = true →
        let est := tAdd b.sync (-((symU s m (rmPre s m + 32) : Nat) : Int))
        let a := tAdd est (-((rmRamp s m * usU : Nat) : Int))
        let z := if d.result = 1 then tAdd b.sync (symU s m (96 / rmBits s m) : Nat) else a + burstT s m d.len
        let rep := burstReport s m b d level cfo
        let x := (schedOn r).getD { spans := 0, chain := 0, span := 0, hem := 0, start := 0 }
        let reacq := match nodeOf r b.node with | some e => decide (e.state = 2) | none => true
        let off := (offsetOf s m x r b.node est).getD 0
        let good := decide (d.result = 0) && !reacq
        let keep := good && !frameBad b.node d
        let lost := keep && (b.inScope || rDrains s m)
        let e : RxBurst := { b with
          from_ := a, to_ := z, type_ := d.type_, hdrNode := d.node, payload := d.payload, report := rep,
          result := BitVec.ofNat 3 d.result, decoded := true, keep := keep && !lost, bad := good && frameBad b.node d,
          relAt := holdTo x a z, inScope := false }
        let s1 := if lost then drainLost s (fun q => q.ingress.contains (96 + m)) else s
        let r1 := radioAt s1 m
        let s2 := setRadio s1 m { resultCount r1 d.result with
          tracked := r1.tracked.map (fun k => if k.sync = b.sync ∧ !k.decoded then e else k), lastRep := rep }
        let s3 := collide (setNode s2 m b.node fun n => { n with offset := off }) m e
        (nodeOf r1 b.node = none → exec (.burstDecoded m coded level cfo) s = .next s3) ∧
        ((nodeOf r1 b.node).isSome = true → reacq = false →
          exec (.burstDecoded m coded level cfo) s = .next (classActive s3 m b.node (placement x r1 b.node est) off)) ∧
        ((nodeOf r1 b.node).isSome = true → reacq = true → exec (.burstDecoded m coded level cfo) s = .next
          (classReacq s3 m b.node (decide (d.result = 0) && decide (d.type_ = 2) && decide (d.node = b.node) && inReleased x r1 b.node est &&
            !((radioAt s3 m).tracked.any fun k => decide (k.sync = e.sync) && k.collided)) off))))) ∧
  (∀ (s : State) (m j : Nat) (off : Int) (x : TdmSched) (t : Nat),
    (classActive s m j 0 off = setNode s m j fun e => { e with count := 0 }) ∧
    (classReacq s m j false off = setRadio s m { radioAt s m with spanIntr := satInc (radioAt s m).spanIntr }) ∧
    ((∃ w ∈ nodeWindows x (radioAt s m) j t, w.1 + (hemU x : Nat) ≤ (t : Int) ∧ (t : Int) < w.2.1 - (hemU x : Nat)) →
      placement x (radioAt s m) j t = 0) ∧
    (nodeWindows x (radioAt s m) j t = [] → placement x (radioAt s m) j t = 2)) ∧
  (∀ (s : State) (m work : Nat), m < 4 →
    let r := radioAt s m
    (r.tracked.find? (fun b => b.decoded && decide (b.relAt ≤ s.tb.t)) = none → exec (.radioFrameRelease m work) s = .next s) ∧
    (∀ b, r.tracked.find? (fun b => b.decoded && decide (b.relAt ≤ s.tb.t)) = some b →
      let l := r.tracked.filter fun k => decide (k ≠ b)
      (b.collided = true ∨ (b.bad = false ∧ b.keep = false) → exec (.radioFrameRelease m work) s = .next (setRadio s m { r with tracked := l })) ∧
      (b.collided = false → b.bad = true → exec (.radioFrameRelease m work) s = .next
        (setRadio s m { r with tracked := l, bad := satInc r.bad })) ∧
      (b.collided = false → b.bad = false → b.keep = true → exec (.radioFrameRelease m work) s = .next
        (radioPacket (setRadio s m { r with tracked := l }) m b work))) ∧
    (∀ b : RxBurst,
      let f := if r.rptAppend then b.payload ++ b.report else b.payload
      let n := framePart s (newest s) (96 + m) f
      let k : Pkt := { newPkt s (96 + m) n (stampOf s 0) 0 f .arriving with work := work }
      let t := count (count (addPkt s k) (96 + m) 1 1 n) (96 + m) 3 b.payload.length n
      ((ptnAt t n).resetting = false → rDrains t m = false → radioPacket s m b work = dispatch t k) ∧
      ((ptnAt t n).resetting = true → radioPacket s m b work = discardPkt (rstDrop t n) k))) ∧
  (∀ (s : State) (m : Nat) (level : BitVec 16) (full : Bool), m < 4 →
    let r := radioAt s m
    (rWorks s m = false ∨ idleSpan s m = false ∨ r.spanBusy = true ∨ r.pa = true → exec (.noiseFloorMeasure m level full) s = .next s) ∧
    (∀ x k c0 i, rWorks s m = true → idleSpan s m = true → r.spanBusy = false → r.pa = false → schedOn r = some x →
      posAt x s.tb.t = some (k, c0, some i) →
      (i ≠ r.spanIdx ∨ s.tb.t + hemU x < c0 + (i + 1) * spanU x → exec (.noiseFloorMeasure m level full) s = .next s) ∧
      (i = r.spanIdx → c0 + (i + 1) * spanU x ≤ s.tb.t + hemU x → exec (.noiseFloorMeasure m level full) s = .next
        (setRadio s m { r with spanBusy := true, nf := if full then r.nf else ((level + r.rxCal) :: r.nf).take 16 }))))

/-- While the cores are live a self-test that is due moves to the next bit: caught it passes, else it is the class F fault COMPARATOR; one not due, or without live cores, is none. Detected causes are one class F fault of the lowest code with the others in its data, and none while the cluster is fenced. A corrected TCM word counts and is a class C fault. A write of CC_WDOG that no rule refuses sets a TIME of 1 to 1,000, restarts the count with the key under that TIME, and lets an image with ADVANCE raise the SVN floor; the count at TIME is FW_WATCHDOG. GO from a LEVEL 2 session is logged and programs a blank field with VIO_18 in range, or sets REFUSED; from a master it is refused, as ACCESS_OWNER where no other cause holds. Programming ends with the field at its value and DONE. FW_INFO returns VERSION, BUILD and SIGNER; PTP_INSTANCE stores its instance, none with PROFILE 0. That one write of CC_WDOG starts the count under the TIME it carries is the model's reading (log entry 120). -/
def Obligations.ControlClusterRows : Prop :=
  (∀ (s : State) (caught : Bool),
    let due := ccLive s = true ∧ s.cc.period.toNat * 1000 ≤ since s s.cc.testAt
    let t : State := { s with cc := { s.cc with testAt := s.gr.count, testBit := (s.cc.testBit + 1) % 256 } }
    (¬ due → exec (.lockstepSelfTest caught) s = .next s) ∧
    (due → exec (.lockstepSelfTest true) s = .next { t with cc := { t.cc with passes := satInc s.cc.passes } }) ∧
    (due → exec (.lockstepSelfTest false) s = .next (fFault t 5 0x93 0))) ∧
  (∀ (s : State) (causes : BitVec 4), causes ≠ 0 →
    (ccLive s = false → exec (.lockstepFault causes) s = .next s) ∧
    (ccLive s = true →
      (causes.getLsbD 0 = true → exec (.lockstepFault causes) s = .next (fFault s 5 0x91 (causes.toNat - 1))) ∧
      (causes.getLsbD 0 = false → causes.getLsbD 1 = true → exec (.lockstepFault causes) s = .next (fFault s 5 0x92 (causes.toNat - 2))) ∧
      (causes = 4 → exec (.lockstepFault causes) s = .next (fFault s 5 0x93 0)) ∧
      (causes = 12 → exec (.lockstepFault causes) s = .next (fFault s 5 0x93 8)) ∧
      (causes = 8 → exec (.lockstepFault causes) s = .next (fFault s 5 0x94 0)))) ∧
  (∀ (s : State) (addr : Nat),
    (ccLive s = true → exec (.tcmCorr addr) s = .next (cFault { s with cc := { s.cc with corr := satInc s.cc.corr } } 5 0x97 addr)) ∧
    (ccLive s = false → exec (.tcmCorr addr) s = .next s)) ∧
  (∀ (s : State) (m : Master) (v : W32), allowed s m 0x07000020 true →
    let time := if 1 ≤ fld v 0 10 ∧ fld v 0 10 ≤ 1000 then BitVec.ofNat 10 (fld v 0 10) else s.cc.wdTime
    (fld v 16 16 ≠ 0x5A17 → exec (.ccWdogKick m v) s = .next { s with cc := { s.cc with wdTime := time } }) ∧
    (fld v 16 16 = 0x5A17 → s.cc.advance = false → exec (.ccWdogKick m v) s = .next
      { s with cc := { s.cc with wdTime := time, wdCount := 0, wdForce := time } }) ∧
    (fld v 16 16 = 0x5A17 → s.cc.advance = true → exec (.ccWdogKick m v) s = .next
      { s with cc := { s.cc with wdTime := time, wdCount := 0, wdForce := time, advance := false },
               fuse := { s.fuse with floor := BitVec.ofNat 6 (max s.fuse.floor.toNat s.cc.svn.toNat) } })) ∧
  (∀ (s : State),
    (ccLive s = true → s.cc.wdForce.toNat * 1000000 ≤ s.cc.wdCount → exec .fwWatchdog s = .next (fFault s 5 0x96 0)) ∧
    (ccLive s = false ∨ s.cc.wdCount < s.cc.wdForce.toNat * 1000000 → exec .fwWatchdog s = .next s) ∧
    (s.cc.progBusy = true → exec .fuseProgDone s = .next { s with
      cc := { s.cc with progBusy := false, progDone := true }, fuse := { s.fuse with boardHash := s.cc.progVal } }) ∧
    (s.cc.progBusy = false → exec .fuseProgDone s = .next s)) ∧
  (∀ (s : State) (v : W32) (vio : Bool),
    (∀ m c, m.wf = true → refusal s m 0x07000080 4 true true = some c →
      exec (.ccFuseProgGo (some m) v vio) s = .next (refuse s m 0x07000080 true c)) ∧
    (∀ m, allowed s m 0x07000080 true → exec (.ccFuseProgGo (some m) v vio) s = .next (refuse s m 0x07000080 true 3)) ∧
    (s.dbg.level ≠ 2 ∨ ccFenced s = true → exec (.ccFuseProgGo none v vio) s = .next s) ∧
    (s.dbg.level = 2 → ccFenced s = false →
      let l := dbgLog s 0x07000080 true
      let t : State := { l with cc := { l.cc with progRef := l.cc.progRef && !bit v 17, progDone := l.cc.progDone && !bit v 18 } }
      (fld v 0 16 ≠ 0xF05E ∨ t.cc.progBusy = true → exec (.ccFuseProgGo none v vio) s = .next t) ∧
      (fld v 0 16 = 0xF05E → t.cc.progBusy = false → t.fuse.boardHash ≠ 0 →
        exec (.ccFuseProgGo none v vio) s = .next { t with cc := { t.cc with progRef := true } }) ∧
      (fld v 0 16 = 0xF05E → t.cc.progBusy = false → t.fuse.boardHash = 0 →
        exec (.ccFuseProgGo none v true) s = .next { t with cc := { t.cc with progBusy := true, progVal := fuseStage t } } ∧
        exec (.ccFuseProgGo none v false) s = .next t))) ∧
  (∀ (s : State) (id : Nat) (c : Cmd),
    (readyCmd s id 0x40 c → exec (.fwInfo id) s = .next (complete s c.id stDONE
      (leBytes 4 s.cc.version.toNat ++ leBytes 4 s.cc.build.toNat ++ leBytes 2 s.cc.signer.toNat))) ∧
    (readyCmd s id 0x48 c → exec (.ptpInstance id) s = .next (complete { s with cc := { s.cc with
      ptp := tset (fun _ => []) s.cc.ptp (parBits c 8 0 2) (if par c 10 1 = 0 then [] else slice c.bytes 9 19) } } c.id stDONE [])))

/-- A write of ACQ, REL or RENEW that no rule refuses waits for the boundary. There an ACQ of a free semaphore grants it for LEASE thousand grains, on a held one it joins fewer than 8 waiters, with 8 it sets QFULL, and LEASE 0 changes nothing; a REL or RENEW whose token or holder does not match changes nothing; a REL of the holder passes the semaphore to the head waiter, whose lease runs from this grain, or frees it; a RENEW of the holder moves the end of its lease. A lease that has ended is revoked: LOST is set where the cluster held it, and the head waiter receives the semaphore; one that has not ended, or is frozen, stays. A free semaphore has no expiry. -/
def Obligations.SemaphoresAndLeases : Prop :=
  (∀ (s : State) (m : Master) (k : Nat) (v : W32), k < 64 →
    (allowed s m (0x07010000 + 0x10 * k) true → exec (.semAcq m k v) s = .next
      { s with bus := { s.bus with pend := s.bus.pend ++ [(0x07010000 + 0x10 * k, v)] } }) ∧
    (allowed s m (0x07010000 + 0x10 * k + 4) true → exec (.semRel m k v) s = .next
      { s with bus := { s.bus with pend := s.bus.pend ++ [(0x07010000 + 0x10 * k + 4, v)] } }) ∧
    (allowed s m (0x07010000 + 0x10 * k + 8) true → exec (.semRenew m k v) s = .next
      { s with bus := { s.bus with pend := s.bus.pend ++ [(0x07010000 + 0x10 * k + 8, v)] } })) ∧
  (∀ (s : State) (k : Nat) (v : W32),
    let x : Lease := { hcu := false, token := BitVec.ofNat 16 (fld v 0 16), lease := fld v 16 16, cmd := none }
    (fld v 16 16 = 0 → semApply s k 0 v = s) ∧
    (fld v 16 16 ≠ 0 → semAt s k = none → leasesFrozen s = false → semApply s k 0 v = setSem s k
      (some { holder := x, until_ := s.gr.count + BitVec.ofNat 64 (fld v 16 16 * 1000), frozen := none, waiters := [] })) ∧
    (∀ y, fld v 16 16 ≠ 0 → semAt s k = some y →
      (y.waiters.length < 8 → semApply s k 0 v = setSem s k (some { y with waiters := y.waiters ++ [x] })) ∧
      (8 ≤ y.waiters.length → semApply s k 0 v = { s with cc := { s.cc with semFull := s.cc.semFull ||| BitVec.ofNat 64 (2 ^ k) } })) ∧
    (semMine s k (fld v 0 16) = false → semApply s k 4 v = s ∧ semApply s k 8 v = s) ∧
    (∀ y, semMine s k (fld v 0 16) = true → semAt s k = some y →
      (y.waiters = [] → semApply s k 4 v = setSem s k none) ∧
      (∀ h w, y.waiters = h :: w → semApply s k 4 v = setSem s k (some (semGranted s h w))) ∧
      (fld v 16 16 ≠ 0 → y.frozen = none → semApply s k 8 v = setSem s k
        (some { y with until_ := s.gr.count + BitVec.ofNat 64 (fld v 16 16 * 1000), frozen := none })))) ∧
  (∀ (s : State) (k : Nat), k < 64 →
    (semAt s k = none → exec (.semLeaseExpiry k) s = .next s) ∧
    (∀ y, semAt s k = some y →
      (y.frozen.isSome = true ∨ reached s y.until_ = false → exec (.semLeaseExpiry k) s = .next s) ∧
      (y.frozen = none → reached s y.until_ = true →
        let t : State := if y.holder.hcu then s else { s with cc := { s.cc with semLost := s.cc.semLost ||| BitVec.ofNat 64 (2 ^ k) } }
        (y.waiters = [] → exec (.semLeaseExpiry k) s = .next (setSem t k none)) ∧
        (∀ h w, y.waiters = h :: w → exec (.semLeaseExpiry k) s = .next (setSem t k (some (semGranted t h w)))))))

/-- Each instruction becomes the instruction in force with its register: IDCODE 0x10960A4B, the pins for SAMPLE/PRELOAD, which also loads the boundary register, the boundary register for EXTEST and its AC forms, one bit for CLAMP, HIGHZ and BYPASS. The five intrusive ones act while RESET_N is low, and no other one does; a code that names no instruction is BYPASS, and the row with a code that names one is no event. DBG_AUTH issues a nonce of the DRBG and the serial, but none within 1 s of a failed response. A response to the nonce opens a session at the least of LEVEL, 2 and ALLOW and raises event 668 CODE 1 where it is the expected one, else counts, blocks nonces for 1 s and raises CODE 5; it uses the nonce up; without one it is none. DBG_CLOSE and the reset of the TAP end the session with CODE 2. The byte order of the response's input is the model's reading (log entry 121). -/
def Obligations.TapInstructionsAndSessions : Prop :=
  (∀ (s : State) (pins load : List Bool) (code : BitVec 8),
    let acts := !s.dev.resetN
    let put := fun (t : State) (ir : BitVec 8) (a : Bool) (dr : List Bool) => ({ t with dbg := { t.dbg with ir := ir, acting := a, dr := dr } } : State)
    (exec .idcode s = .next (put s 0x01 false ((List.range 32).map fun i => Nat.testBit 0x10960A4B i))) ∧
    (exec (.samplePreload pins load) s = .next { put s 0x02 false pins with dbg := { (put s 0x02 false pins).dbg with bsr := load } }) ∧
    (exec .clamp s = .next (put s 0x04 acts [false])) ∧
    (exec .highz s = .next (put s 0x05 acts [false])) ∧
    (exec .extest s = .next (put s 0x06 acts s.dbg.bsr)) ∧
    (exec .extestPulse s = .next (put s 0x08 acts s.dbg.bsr)) ∧
    (exec .extestTrain s = .next (put s 0x09 acts s.dbg.bsr)) ∧
    (tapCodes.contains code.toNat = false → exec (.bypass code) s = .next (put s code false [false])) ∧
    (tapCodes.contains code.toNat = true → exec (.bypass code) s = .next s) ∧
    (s.dbg.level = 0 → exec .dbgClose s = .next (put s 0x22 false []) ∧ exec .tapReset s = .next (put s 0x01 false s.dbg.dr)) ∧
    (s.dbg.level ≠ 0 →
      (let t := put s 0x22 false []
       exec .dbgClose s = .next (raise { t with dbg := { t.dbg with level := 0 } } 668 2 0)) ∧
      (let t := put s 0x01 false s.dbg.dr
       exec .tapReset s = .next (raise { t with dbg := { t.dbg with level := 0 } } 668 2 0))) ∧
    (s.dbg.blockTo = none ∨ (∃ g, s.dbg.blockTo = some g ∧ g ≤ s.pwr.aon.toNat) → exec .dbgAuth s = .next
      (let t := put s 0x20 false []
       let b := (List.range 32).map fun i => Config.drbgByte (s.pka.draws + i)
       { t with pka := { t.pka with draws := s.pka.draws + 32 },
                dbg := { t.dbg with nonce := some (BitVec.ofNat 256 (leNat b)), serialOut := Config.serial, blockTo := none } })) ∧
    (∀ g, s.dbg.blockTo = some g → s.pwr.aon.toNat < g → exec .dbgAuth s = .next (put s 0x20 false []))) ∧
  (∀ (s : State) (level : BitVec 2) (mac : List Byte),
    (s.dbg.nonce = none → exec (.dbgAuthResponse level mac) s = .next s) ∧
    (∀ n, s.dbg.nonce = some n →
      let t : State := { s with dbg := { s.dbg with nonce := none } }
      let l := min (min level.toNat 2) s.dbg.allow.toNat
      (dbgExpected s n level = some mac → l = 0 → exec (.dbgAuthResponse level mac) s = .next t) ∧
      (dbgExpected s n level = some mac → l ≠ 0 → exec (.dbgAuthResponse level mac) s = .next
        (raise { t with dbg := { t.dbg with level := BitVec.ofNat 2 l } } 668 1 l)) ∧
      (dbgExpected s n level ≠ some mac → exec (.dbgAuthResponse level mac) s = .next
        (raise { t with dbg := { t.dbg with authFail := satInc s.dbg.authFail, blockTo := some (s.pwr.aon.toNat + 32768) } } 668 5 0)))) ∧
  (∀ (s : State) (n : BitVec 256) (level : BitVec 2),
    (keyAt s s.dbg.slot.toNat = none → dbgExpected s n level = none) ∧
    (∀ x, keyAt s s.dbg.slot.toNat = some x →
      (x.kind ≠ 3 ∨ x.alg ≠ 11 ∨ keyOwner s s.dbg.slot.toNat ≠ 0 → dbgExpected s n level = none) ∧
      (x.kind = 3 → x.alg = 11 → keyOwner s s.dbg.slot.toNat = 0 → dbgExpected s n level =
        some (hmac256 x.priv (leBytes 32 n.toNat ++ leBytes 8 Config.serial.toNat ++ [level.setWidth 8])))))

/-- Without a session a debug access or request answers STATUS 4, and below its level STATUS 1, and changes nothing else. A peek of the core space returns the leading core's word and sets TCM_DIFF where the trailing one differs, or STATUS 2 out of the space; of the control space it returns the value, 0xDEAD5EE0 with PEEK_REFUSED where it cannot be produced without its side effect, or STATUS 2 and the recorded refusal. A take is a normal read and is logged; a write acts, on both cores alike in the core space, and is logged; each is refused with STATUS 2. A HALT while the cluster is fenced or booting only sets HALT_REFUSED; while already halted it has no effect; else the cores are halted, the cluster's leases freeze under FREEZE_LEASES, and event 668 CODE 3 is raised. A RESUME of the halted cores lets them and the leases go on with CODE 4, and while running has no effect. -/
def Obligations.DebugAccesses : Prop :=
  (∀ (s : State) (core : Bool) (a : Nat) (v : W32),
    let low := fun (st : BitVec 5) => ({ s with dbg := { s.dbg with status := st, result := 0 } } : State)
    (s.dbg.level = 0 → exec (.debugPeek core a) s = .next (low 4) ∧ exec (.debugTake a) s = .next (low 4) ∧
      exec (.debugWrite core a v) s = .next (low 4) ∧
      exec .debugHalt s = .next { s with dbg := { s.dbg with status := 4 } } ∧
      exec .debugResume s = .next { s with dbg := { s.dbg with status := 4 } }) ∧
    (s.dbg.level = 1 → exec (.debugTake a) s = .next (low 1) ∧ exec (.debugWrite core a v) s = .next (low 1) ∧
      exec .debugHalt s = .next { s with dbg := { s.dbg with status := 1 } } ∧
      exec .debugResume s = .next { s with dbg := { s.dbg with status := 1 } }) ∧
    (1 ≤ s.dbg.level.toNat →
      (∀ w, coreWord s.cc.tcm s.cc.coreRegs a = some w → exec (.debugPeek true a) s = .next { s with dbg := { s.dbg with
        status := 0, result := w, tcmDiff := s.dbg.tcmDiff || decide (coreWord s.cc.tcm2 s.cc.coreRegs2 a ≠ some w) } }) ∧
      (coreWord s.cc.tcm s.cc.coreRegs a = none → exec (.debugPeek true a) s = .next (low 2)) ∧
      (∀ c, accessCause s .cc a 4 false = some c → exec (.debugPeek false a) s = .next
        (let t := refuse s .cc a false c
         { t with dbg := { t.dbg with status := 2, result := 0 } })) ∧
      (accessCause s .cc a 4 false = none → peekRefused s a = true → exec (.debugPeek false a) s = .next
        { s with dbg := { s.dbg with status := 0, result := 0xDEAD5EE0, peekRef := true } }) ∧
      (accessCause s .cc a 4 false = none → peekRefused s a = false → exec (.debugPeek false a) s = .next
        { s with dbg := { s.dbg with status := 0, result := (regValue s .cc a).getD 0 } }))) ∧
  (∀ (s : State) (a : Nat) (v : W32), 2 ≤ s.dbg.level.toNat →
    let done := fun (t : State) (r : W32) => ({ t with dbg := { t.dbg with status := 0, result := r } } : State)
    let bad := fun (t : State) => ({ t with dbg := { t.dbg with status := 2, result := 0 } } : State)
    (∀ c, accessCause s .cc a 4 false = some c → exec (.debugTake a) s = .next (bad (refuse s .cc a false c))) ∧
    (accessCause s .cc a 4 false = none → exec (.debugTake a) s = .next
      (done (cFault (regTake s a) 11 0xC0 (a % 2 ^ 32 + 2 ^ 32 * b1 false)) ((regValue s .cc a).getD 0))) ∧
    ((coreWord s.cc.tcm s.cc.coreRegs a).isSome = true → exec (.debugWrite true a v) s = .next
      (done (cFault (coreWrite_ s a v) 11 0xC0 (a % 2 ^ 32 + 2 ^ 32 * b1 true)) 0)) ∧
    (coreWord s.cc.tcm s.cc.coreRegs a = none → exec (.debugWrite true a v) s = .next (bad s)) ∧
    (∀ c, debugCause s a = some c → exec (.debugWrite false a v) s = .next (bad (refuse s .cc a true c))) ∧
    (debugCause s a = none → exec (.debugWrite false a v) s = .next
      (done (cFault (if fuseRegister a then ccWrite s (a - 0x07000000) v true else regEffect s .cc a v) 11 0xC0
        (a % 2 ^ 32 + 2 ^ 32 * b1 true)) 0))) ∧
  (∀ (s : State), 2 ≤ s.dbg.level.toNat →
    let t : State := { s with dbg := { s.dbg with status := 0 } }
    (s.cc.state = 0 ∨ s.cc.state = 3 → exec .debugHalt s = .next { t with dbg := { t.dbg with haltRef := true } }) ∧
    (s.cc.state ≠ 0 → s.cc.state ≠ 3 → s.dbg.halted = true → exec .debugHalt s = .next t) ∧
    (s.cc.state ≠ 0 → s.cc.state ≠ 3 → s.dbg.halted = false → exec .debugHalt s = .next
      (let u : State := { t with dbg := { t.dbg with halted := true }, cc := { t.cc with state := 2 } }
       raise (if s.dbg.freeze then semFreeze u else u) 668 3 0)) ∧
    (s.dbg.halted = true → s.cc.state = 2 → exec .debugResume s = .next
      (raise (semThaw { t with dbg := { t.dbg with halted := false }, cc := { t.cc with state := 1 } }) 668 4 0)) ∧
    (s.dbg.halted = false ∨ s.cc.state ≠ 2 → exec .debugResume s = .next t))

/-- VAON starts the ROM sequence at rail 0; applied again to a device that already runs it changes nothing. A rail not good in time lowers every enable, is a class X fault with cause RAIL_TIMEOUT, and is retried. In SERVICES with firmware the sequencer store is loaded once: a refused image raises event 672 CODE 1, an accepted one is stored, SEQ_OK is set and TRIM runs. An OP of 10 or more, and an address past the store, fail the entry; a failed entry is a fault with cause SEQ_FAIL, class X for WAKE and class C otherwise, with event 672 CODE 2, after which the ROM sequence completes the work and TRIM clears SEQ_OK. PMB_ALERT raises event 672 CODE 3. A poll of the regulator acts in RUN only: a failed one is PMB_FAIL, a reading within 10 mV of the row confirms a rise, and one more than 20 mV below FLOOR, but after a fall, is the class K fault VCORE_LOW. A rise not confirmed in 1 ms is the class C fault VCORE_SLOW, with event 669 CODE 3, and the row returns to the confirmed one. Standby is a device reset that keeps REASON and drains the stores, then lowers the rails by entry STBY or in ROM; it does not interrupt a shed. A wake from an enabled source in standby sets REASON 5 and brings the rails up by entry WAKE or in ROM; otherwise it is none. The ticks that PWR_AON gains by a timeout and a retry are the model's choice (log entry 85). -/
def Obligations.RailsSequencesAndRegulator : Prop :=
  (∀ s : State,
    let p := s.pwr
    (p.vaon = false ∨ (p.upSeq = false ∧ p.railFail = false ∧ p.off = false ∧ p.state ≠ 3 ∧ p.en = 0 ∧ s.dev.inReset = true) →
      exec .powerOn s = .next (railsUp { s with pwr := { p with vaon := true } })) ∧
    (p.vaon = true → (p.upSeq = true ∨ p.railFail = true ∨ p.off = true ∨ p.state = 3 ∨ p.en ≠ 0 ∨ s.dev.inReset = false) →
      exec .powerOn s = .next s) ∧
    (railsUp s).pwr = { p with en := p.en ||| 1, railNext := 0, upSeq := true, railFail := false }) ∧
  (∀ (s : State) (rail : Nat), rail < 8 →
    let p := s.pwr
    (p.upSeq = false → exec (.railTimeout rail) s = .next s) ∧
    (p.upSeq = true → exec (.railTimeout rail) s = .next
      (xFault { s with pwr := { p with en := 0, good := 0, upSeq := false, aon := p.aon + 328, railFail := true, railNext := rail } }
        4 0xA0 rail)) ∧
    (p.railFail = false → exec .railRetry s = .next s) ∧
    (p.railFail = true → exec .railRetry s = .next (railsUp { s with pwr := { p with aon := p.aon + 32768 } }))) ∧
  (∀ (s : State) (image : List Byte) (io : List Nat),
    (s.dev.phase ≠ 5 ∨ s.dev.fwOk = false ∨ ccFenced s = true ∨ s.pwr.seqOk = true ∨ image = [] →
      exec (.sequencerLoad image io) s = .next s) ∧
    (s.dev.phase = 5 → s.dev.fwOk = true → ccFenced s = false → s.pwr.seqOk = false → image ≠ [] →
      (∀ d, seqImageBad s image = some d → exec (.sequencerLoad image io) s = .next (raise s 672 1 d)) ∧
      (seqImageBad s image = none → exec (.sequencerLoad image io) s = .next
        (let words := (List.range (le image 6 2)).map fun k => (BitVec.ofNat 64 (le image (64 + 8 * k) 8) : BitVec 64)
         seqEntry { s with pwr := { s.pwr with store := words, seqOk := true } } 3 io)))) ∧
  (∀ (store : List (BitVec 64)) (k pc : Nat) (stack : List Nat) (en : BitVec 8) (io : List Nat) (out : List Output),
    (store[pc]? = none → seqRun store (k + 1) pc stack en io out = (en, out, some (some pc))) ∧
    (∀ w, store[pc]? = some w → 10 ≤ sqf w 59 5 → seqRun store (k + 1) pc stack en io out = (en, out, some (some pc))) ∧
    (∀ w, store[pc]? = some w → sqf w 59 5 = 0 → seqRun store (k + 1) pc stack en io out = (en, out, some none))) ∧
  (∀ s : State,
    (s.pwr.seqFail = none → exec .seqFail s = .next s) ∧
    (∀ e a, s.pwr.seqFail = some (e, a) →
      let d := e + 65536 * a
      let t : State := { s with pwr := { s.pwr with seqFail := none } }
      (e = 2 → exec .seqFail s = .next (railsUp (raise (xFault t 4 0xA2 d) 672 2 d))) ∧
      (e = 3 → exec .seqFail s = .next
        (let u := raise (cFault t 4 0xA2 d) 672 2 d
         { u with pwr := { u.pwr with seqOk := false } })) ∧
      (e ≠ 2 → e ≠ 3 → exec .seqFail s = .next (railsDown (raise (cFault t 4 0xA2 d) 672 2 d)))) ∧
    exec .pmbAlert s = .next (raise s 672 3 0)) ∧
  (∀ (s : State) (mv : BitVec 16) (ok : Bool),
    let p := s.pwr
    let sure := p.riseAt.isSome ∧ rowMv p.row.toNat ≤ mv.toNat + 10
    let low := mv.toNat + 20 < rowMv p.floor.toNat ∧ p.falling = false
    let t : State := { s with pwr := { p with readMv := mv, falling := false } }
    let u : State := { s with pwr := { p with readMv := mv, falling := false, conf := p.row, riseAt := none } }
    (p.state ≠ 1 → exec (.voutPoll mv ok) s = .next s) ∧
    (p.state = 1 → ok = false → exec (.voutPoll mv ok) s = .next (cFault s 4 0xA3 (p.vaddr.toNat + 256 * 0x8B))) ∧
    (p.state = 1 → ok = true → ¬ low → ¬ sure → exec (.voutPoll mv ok) s = .next t) ∧
    (p.state = 1 → ok = true → ¬ low → sure → exec (.voutPoll mv ok) s = .next u) ∧
    (p.state = 1 → ok = true → low → ¬ sure → exec (.voutPoll mv ok) s = .next (kFault t 4 0xA6 none mv.toNat)) ∧
    (p.state = 1 → ok = true → low → sure → exec (.voutPoll mv ok) s = .next (kFault u 4 0xA6 none mv.toNat)) ∧
    (p.riseAt = none → exec .vcoreSlow s = .next s) ∧
    (∀ g, p.riseAt = some g →
      (since s g < 1000000 → exec .vcoreSlow s = .next s) ∧
      (1000000 ≤ since s g → exec .vcoreSlow s = .next
        (raise (cFault { s with pwr := { p with riseAt := none, row := p.conf, down := 0 } } 4 0xA5 p.row.toNat) 669 3 p.row.toNat)))) ∧
  (∀ (s : State) (io : List Nat),
    (s.pwr.shed ≠ none ∨ railsOff s = true → exec (.standbyEntry io) s = .next s) ∧
    (s.pwr.shed = none → railsOff s = false →
      let t := drainStores (deviceReset s s.dev.reason true)
      t.pwr.state = 3 ∧ t.dev.reason = s.dev.reason ∧ t.prm.stores = [] ∧
      (s.pwr.seqOk = true → exec (.standbyEntry io) s = .next (seqEntry t 1 io)) ∧
      (s.pwr.seqOk = false → exec (.standbyEntry io) s = .next (railsDown t)))) ∧
  (∀ (s : State) (src : BitVec 2) (io : List Nat),
    (s.pwr.state ≠ 3 ∨ s.pwr.vaon = false ∨ wakes s src = false → exec (.wake src io) s = .next s) ∧
    (s.pwr.state = 3 → s.pwr.vaon = true → wakes s src = true →
      let t : State := { s with
        pwr := { s.pwr with state := 0, aon := if src = 2 then s.pwr.wakeAt else s.pwr.aon }
        dev := { s.dev with reason := 5, intReset := true } }
      (s.pwr.seqOk = true → exec (.wake src io) s = .next (seqEntry t 2 io)) ∧
      (s.pwr.seqOk = false → exec (.wake src io) s = .next (railsUp t))) ∧
    (wakes s 0 = s.pwr.wakeEn ∧ wakes s 1 = true ∧ wakes s 3 = false ∧ (s.pwr.alarmEn = false → wakes s 2 = false)))

/-- A record has 16 bytes with SRC, LOSS, PHASE, CODE, DATA and GRAIN. Raising an event writes event rings, their on-die area, pending MSI-X bits, messages and the kept records of the SOE ring, and nothing else in the whole state. A port's event goes to the owner of the port, an engine's to all partitions, a partition's own to it alone, a power or fault event to PT0. A source without EN in EV_SEL writes nothing. A disabled ring discards uncounted, a full one counts the record in ER_LOST and owes LOSS, one whose function cannot be written stops with ERR 5, and an on-die ring with space takes the record at its tail, which advances, PHASE changing as it wraps. The SOE ring keeps the latest 512 records of sources 4p and of 576 and above. That a ring stops while PCI_PERST_N is low is how the model reads R652. -/
def Obligations.EventRecordsAndRings : Prop :=
  (∀ (src code data : Nat) (loss phase : Bool) (g : Grain),
    let r := evRecord src loss phase code data g
    r.length = 16 ∧ r = leBytes 2 (src % 1024 + 2 ^ 14 * b1 loss + 2 ^ 15 * b1 phase) ++ leBytes 2 code ++ leBytes 4 data ++ leBytes 8 g.toNat) ∧
  (∀ (s : State) (src code data : Nat) (g : Grain),
    let t := raiseAt s src code data g
    { t with cq := { t.cq with er := s.cq.er, onEr := s.cq.onEr, pba := s.cq.pba }, prm := { t.prm with soe := s.prm.soe }, out := s.out } = s) ∧
  (∀ (s : State) (n src : Nat),
    (src < 384 → routed s n src = decide (portOwner s (src / 4) = n)) ∧
    (384 ≤ src → src < 448 → routed s n src = true) ∧
    (448 ≤ src → src < 576 → routed s n src = decide ((src - 448) / 8 = n)) ∧
    (576 ≤ src → src < 608 → routed s n src = (decide (n = 0) || (ptnAt s n).timeSub)) ∧
    (656 ≤ src → routed s n src = decide (n = 0))) ∧
  (∀ (s : State) (n src code data : Nat) (g : Grain),
    (evRing s n src = none → deliver s n src code data g = s) ∧
    (∀ k, evRing s n src = some k → erWouldLose s n k = false → erWouldFail s n k = false →
      deliver s n src code data g = erPut s n k src code data g) ∧
    (∀ k, evRing s n src = some k → erWouldLose s n k = true → evRing (erPut s n k src code data g) n (448 + 8 * n + 3) = some k →
      deliver s n src code data g = erPut s n k src code data g) ∧
    (∀ k, evRing s n src = some k → erWouldLose s n k = true → evRing (erPut s n k src code data g) n (448 + 8 * n + 3) ≠ some k →
      deliver s n src code data g = deliverLast (erPut s n k src code data g) n (448 + 8 * n + 3) 0 k (now (erPut s n k src code data g)))) ∧
  (∀ (s : State) (n k src code data : Nat) (g : Grain),
    let r := erAt s n k
    let sz := ringSize r.loc r.size 64
    (r.en = false → erPut s n k src code data g = s) ∧
    (r.en = true → ringFull r sz = true → erPut s n k src code data g = setEr s n k { r with lost := satInc r.lost, lossPend := true }) ∧
    (r.en = true → ringFull r sz = false → r.loc = false → s.dev.perst = false →
      erPut s n k src code data g = setEr s n k { r with en := false, err := 5, lossPend := false }) ∧
    (r.en = true → ringFull r sz = false → r.loc = true → erPut s n k src code data g = erSignal
      (setEr { s with cq := { s.cq with
          onEr := tputs (fun _ => 0) s.cq.onEr (1024 * n + 16 * r.tail) (evRecord src r.lossPend r.phase code data g) } } n k
        { r with
            tail := (r.tail + 1) % sz
            phase := if (r.tail + 1) % sz = 0 then !r.phase else r.phase
            oldest := some (r.oldest.getD (now s))
            lossPend := false }) n k)) ∧
  (∀ (s : State) (src code data : Nat) (g : Grain),
    ((src < 384 ∧ src % 4 = 0) ∨ 576 ≤ src →
      (soeKeep s src code data g).prm.soe = (evRecord src false false code data g :: s.prm.soe).take 512) ∧
    (¬ ((src < 384 ∧ src % 4 = 0) ∨ 576 ≤ src) → soeKeep s src code data g = s))

/-- A cause that its source may report is seen as a P1 decision, unless the unit is fenced; any other is none. At the head of the backlog it is applied at its stamp; while D1 is stopped, the first one seen is applied. A fenced unit records no further fault but a class F one of the grain of its fence. A class X fault is recorded and, unless it is from source 4 or in a shed, takes the fatal action. A class F fault fences its unit and raises event 673, but CASC_LINK fences nothing, and a fence that would leave no live engine or buffer bank is a class X fault NO_ENGINE or NO_BUFFER. Any other is recorded, sets the access record where it is a refused access, and raises K_FAULT of its partition. A class C fault merges with a record like it; every other adds a record and takes SEQ, and a 33rd one overwrites the oldest, counted in LOST. A fatal fault that does not hold resets the device with REASON 3 after 10 us; XRESET ends a hold, and does nothing otherwise. FCU_HIST_READ copies the history. The grain monitor reports GRAIN_LOST beyond 2000 ppm or after 100 ns without a boundary. -/
def Obligations.FaultRecordsFencesAndFatalActions : Prop :=
  (∀ (s : State) (src cause data : Nat),
    (detectClass src cause = none ∨ srcFenced s src = true → exec (.faultDetected (some (src, cause, data))) s = .next s) ∧
    (∀ c, detectClass src cause = some c → srcFenced s src = false → exec (.faultDetected (some (src, cause, data))) s = .next
      (see s 1 src (.fault { cls := c, src := src, cause := cause, pt := none, data := data % 2 ^ 64 })))) ∧
  (∀ (s : State) (e : Entry) (r : List Entry) (f : Rec), clkOk s 1 = true → s.gr.backlog = e :: r → e.inp.what = .fault f →
    (s.twn.shared.any (fun d => sharedDue s d && sharedAhead s d e) = false →
      exec (.faultDetected none) s = .next (applyFault { s with gr := { s.gr with backlog := r } } f e.stamp)) ∧
    (s.twn.shared.any (fun d => sharedDue s d && sharedAhead s d e) = true → exec (.faultDetected none) s = .next s)) ∧
  (∀ s : State, clkOk s 1 = false →
    (s.gr.seen.find? (fun i => (faultOf i.what).isSome) = none → exec (.faultDetected none) s = .next s) ∧
    (∀ i f, s.gr.seen.find? (fun i => (faultOf i.what).isSome) = some i → i.what = .fault f → exec (.faultDetected none) s = .next
      (applyFault { s with gr := { s.gr with seen := s.gr.seen.erase i } } f s.gr.count))) ∧
  (∀ (s : State) (r : Rec) (g : Grain),
    (srcFenced s r.src = true → r.cls ≠ 2 ∨ fencedAt s r.src g = false → applyFault s r g = s) ∧
    (srcFenced s r.src = true → r.cls = 2 → fencedAt s r.src g = true → applyFault s r g = fcuRecord s r false g) ∧
    (srcFenced s r.src = false → r.cls = 3 → isFatal s r = false → applyFault s r g = fcuRecord s r false g) ∧
    (srcFenced s r.src = false → r.cls = 3 → isFatal s r = true → applyFault s r g = fatalAction (fcuRecord s r false g) g) ∧
    (srcFenced s r.src = false → r.cls = 2 → r.cause ≠ 0x42 → lastUnit s r = none → applyFault s r g = fenceApply s r g) ∧
    (∀ c, srcFenced s r.src = false → r.cls = 2 → r.cause ≠ 0x42 → lastUnit s r = some c →
      applyFault s r g = fatalApply s { r with cls := 3, cause := c, data := r.cause } g) ∧
    (srcFenced s r.src = false → (r.cls = 2 ∧ r.cause = 0x42) ∨ r.cls = 0 → applyFault s r g = fcuRecord s r false g) ∧
    (∀ n, srcFenced s r.src = false → r.cls = 1 → r.pt = some n →
      applyFault s r g = raiseAt (accessRecord (fcuRecord s r false g) r) (448 + 8 * n) r.cause r.src g) ∧
    (srcFenced s r.src = false → r.cls = 1 → r.pt = none → applyFault s r g = accessRecord (fcuRecord s r false g) r)) ∧
  (∀ (s : State) (r : Rec) (fence : Bool) (g : Grain), clkOk s 1 = true →
    let f := (fcuCount s r.cls).fcu
    let t := fcuRecord s r fence g
    f.hist = s.fcu.hist ∧ f.seq = s.fcu.seq ∧
    (∀ x, s.fcu.hist.getLast? = some x → merges x r g = true →
      t.fcu = { f with hist := modLast (fun x => { x with count := satInc x.count, last := g.setWidth 32 }) f.hist }) ∧
    ((∀ x, s.fcu.hist.getLast? = some x → merges x r g = false) →
      t.fcu.seq = f.seq + 1 ∧ t.fcu.hist.getLast? = some
        { rec_ := r, fence := fence, count := 1, epoch := (newest s).num, grain := g, seq := f.seq + 1, last := g.setWidth 32 } ∧
      t.fcu.lost = (if 32 ≤ s.fcu.hist.length then satInc f.lost else f.lost)) ∧
    (r.cls = 0 → f.cntC = satInc s.fcu.cntC) ∧ (r.cls = 1 → f.cntK = satInc s.fcu.cntK) ∧
    (r.cls = 2 → f.cntF = satInc s.fcu.cntF) ∧ (r.cls = 3 → f.cntX = satInc s.fcu.cntX)) ∧
  (∀ (s : State) (g : Grain),
    (s.fcu.xDue ≠ none → fatalAction s g = s) ∧
    (s.fcu.xDue = none → exec .fatalReset s = .next s) ∧
    (∀ x, s.fcu.xDue = some x →
      (s.fcu.holding = true ∨ (since s x < 10000 ∧ clkOk s 1 = true) → exec .fatalReset s = .next s) ∧
      (s.fcu.holding = false → 10000 ≤ since s x ∨ clkOk s 1 = false → exec .fatalReset s = .next (deviceReset s 3 false)))) ∧
  (∀ (s : State) (m : Master) (v : W32), allowed s m 0x07C00000 true →
    let t : State := { s with fcu := { s.fcu with xHold := bit v 0 } }
    (fld v 16 16 ≠ 0xD5E7 ∨ s.fcu.holding = false → exec (.fcuXreset m v) s = .next t) ∧
    (fld v 16 16 = 0xD5E7 → s.fcu.holding = true → exec (.fcuXreset m v) s = .next (deviceReset t 4 false))) ∧
  (∀ (s : State) (id : Nat) (c : Cmd) (ok : Bool), readyCmd s id 0x03 c → exec (.fcuHistRead id ok) s = .next
    (bufOut s c ok 0 (s.fcu.hist.flatMap frecBytes) 0 (leBytes 1 s.fcu.hist.length))) ∧
  (∀ (s : State) (ppm : Int) (gap : Nat),
    let t := see s 1 0 (.fault { cls := 3, src := 0, cause := 0x10, pt := none, data := (BitVec.ofInt 64 ppm).toNat })
    (clkOk s 1 = false ∨ (ppm.natAbs ≤ 2000 ∧ gap < 100) → exec (.grainLost ppm gap) s = .next s) ∧
    (clkOk s 1 = true → 2000 < ppm.natAbs → gap < 100 → exec (.grainLost ppm gap) s = .next t) ∧
    (clkOk s 1 = true → 100 ≤ gap → exec (.grainLost ppm gap) s = .next
      { t with dev := { s.dev with clkOk := s.dev.clkOk &&& ~~~2#14 } }))

/-- PFAIL_N with EN_PFAIL, HUP_SENSE falling below V_TRIP with EN_MON, and PWR_GOOD[n] falling while PWR_EN[n] is high each start a shed with CAUSE 0, 1 or 3 + n; the last also records RAIL_LOST. A shed begins only while the rails are up: STATE becomes 2, transmitters are squelched, PA_EN falls, the hold-up test ends, TWN_ALIVE_OUT stops and the record is captured. In a shed a second source of a later grain, or of a higher index, starts nothing; of the same grain the lowest index is CAUSE. The record goes into the slot that does not hold the newest valid one, once. When it is written and no admitted store is left, SHED or the ROM sequence lowers the rails and the islands stop; before that, and again after it, the command does nothing. The input restored gives a device reset with REASON 6 and the ROM sequence; else it is none. When all supplies vanish, PRM, the lines the running store had written, and the fuses hold, with the pins driven from outside; all else is as at power-on. -/
def Obligations.PowerFailShedAndLossOfSupply : Prop :=
  (∀ s : State,
    let t : State := { s with pwr := { s.pwr with pfailN := false } }
    (s.pwr.enPfail = true → exec .pfailNAssert s = .next (shedStart t 0)) ∧
    (s.pwr.enPfail = false → exec .pfailNAssert s = .next t)) ∧
  (∀ (s : State) (code : BitVec 12),
    let t := hupSample code s
    (s.hup.vTrip.toNat ≤ s.hup.v.toNat → t.hup.v.toNat < t.hup.vTrip.toNat → t.pwr.enMon = true →
      exec (.monitorTrip code) s = .next (shedStart t 1)) ∧
    (s.hup.v.toNat < s.hup.vTrip.toNat ∨ t.hup.vTrip.toNat ≤ t.hup.v.toNat ∨ t.pwr.enMon = false →
      exec (.monitorTrip code) s = .next t)) ∧
  (∀ (s : State) (n : Nat), n < 8 →
    let high := s.pwr.en.toNat.testBit n = true ∧ s.pwr.good.toNat.testBit n = true ∧ supplied s = true
    (high → exec (.pwrGoodLoss n) s = .next
      (xFault (shedStart { s with pwr := { s.pwr with good := s.pwr.good &&& ~~~BitVec.ofNat 8 (2 ^ n) } } (3 + n)) 4 0xA1 n)) ∧
    (¬ high → exec (.pwrGoodLoss n) s = .next s)) ∧
  (∀ (s : State) (idx : Nat),
    (s.pwr.shed = none → supplied s = false → shedStart s idx = s) ∧
    (s.pwr.shed = none → supplied s = true →
      shedStart s idx = validUpdate (shedEnter (paCutAll (squelchAll s)) idx (lgCapture s idx))) ∧
    (∀ l, shedEnter s idx l = { s with
        pwr := { s.pwr with shed := some (idx, s.gr.count), shedDone := false, state := 2, lg := some l }
        hup := { s.hup with test := none }
        twn := { s.twn with aliveRun := false } }) ∧
    (∀ c p, s.pwr.shed = some (c, p) →
      (p ≠ s.gr.count ∨ c ≤ idx → shedStart s idx = s) ∧
      (p = s.gr.count → idx < c → shedStart s idx = { s with
        pwr := { s.pwr with shed := some (idx, p), lg := s.pwr.lg.map fun l => l.take 8 ++ leBytes 1 idx ++ l.drop 9 } }))) ∧
  (∀ s : State,
    (s.pwr.shed = none ∨ s.pwr.lg = none ∨ s.pwr.shedDone = true → exec .lastGaspWrite s = .next s) ∧
    (∀ c p l, s.pwr.shed = some (c, p) → s.pwr.lg = some l → s.pwr.shedDone = false →
      exec .lastGaspWrite s = .next
        (let t := linesWrite s (152 * lgFree s) (linesOf 152 (lgRecord s l p))
         { t with pwr := { t.pwr with shedDone := true, lg := none } })) ∧
    (lgNewest s = none → lgFree s = 0) ∧ (∀ k q, lgNewest s = some (k, q) → lgFree s = 1 - k)) ∧
  (∀ (s : State) (io : List Nat),
    let t : State := { s with
      pwr := { s.pwr with off := true }
      dev := { s.dev with clkOk := 1, inReset := true, intReset := true, phase := 0 } }
    (s.pwr.shed = none ∨ s.pwr.shedDone = false ∨ s.prm.stores ≠ [] ∨ s.pwr.off = true → exec (.shedComplete io) s = .next s) ∧
    (s.pwr.shed ≠ none → s.pwr.shedDone = true → s.prm.stores = [] → s.pwr.off = false →
      (s.pwr.seqOk = true → exec (.shedComplete io) s = .next (seqEntry t 0 io)) ∧
      (s.pwr.seqOk = false → exec (.shedComplete io) s = .next (railsDown t)))) ∧
  (∀ s : State,
    (s.pwr.off = false ∨ s.pwr.vaon = false → exec .inputRestored s = .next s) ∧
    (s.pwr.off = true → s.pwr.vaon = true → exec .inputRestored s = .next
      (railsUp (deviceReset { s with pwr := { s.pwr with pfailN := true } } 6 false)))) ∧
  (∀ s : State, ∃ t, exec .supplyLoss s = .next t ∧
    t.prm.lines = (storeCut s).prm.lines ∧ t.prm.wear = (storeCut s).prm.wear ∧ t.prm.regions = (storeCut s).prm.regions ∧
    t.prm.stores = [] ∧ t.fuse = (storeCut s).fuse ∧ t.dev.resetN = (storeCut s).dev.resetN ∧ t.dev.perst = (storeCut s).dev.perst ∧
    t.fcu = Fcu.reset ∧ t.pwr.vaon = false ∧ t.pwr.aon = 0 ∧ t.tb = State.reset.tb ∧ t.cfg = State.reset.cfg ∧ t.qm = State.reset.qm ∧
    t.pending = (storeCut s).pending ∧ (s.prm.stores = [] → storeCut s = s))

/-- A device reset sets REASON and keeps the fuses, PRM, PWR_AON, PWR_WAKE_AT, the history and FCU_SEQ with the faults seen before it, in standby the sequencer store, and the pins driven from outside; the time, settings, tables, queues, ports, radio, key slots, counters, cluster, hold-up bank and twin return to reset. A fault seen before it is recorded, and recording writes nothing but the FCU. RESET_N low gives a device reset with REASON 1, or 3 where a fatal fault is of the same grain; in a shed or with the rails down it only holds the device. DEV_RESET is one with REASON 2 and writes no completion. RESET_N high and the end of the internal reset, each once the other holds no longer, latch the straps and begin PHASE 1; with the rails down, in a shed or after a failed rail the internal reset holds on. PCI_PERST_N low clears CLK_OK bit 3, returns the MSI-X state to reset (its Enable as log entry 20 has it) and changes nothing else; high sets the pin. In reset transmitters idle, PA_EN, TIME_VALID and TWN_ALIVE_OUT are low, TOUT is pulled down and the open-drain lines are released; in a shed none of these pins is driven. That pins, rails and the model's own counters stay is its reading of R632. -/
def Obligations.DeviceResetKeepsAndReleases : Prop :=
  (∀ (s : State) (r : BitVec 3) (b : Bool),
    let t := deviceReset s r b
    let f := flushFaults s
    { f with fcu := s.fcu } = s ∧
    t.dev.reason = r ∧ t.dev.phase = Dev.reset.phase ∧ t.dev.clkOk = Dev.reset.clkOk ∧ t.dev.inReset = Dev.reset.inReset ∧
    t.dev.resetN = s.dev.resetN ∧ t.dev.perst = s.dev.perst ∧
    t.fuse = s.fuse ∧ t.prm.lines = s.prm.lines ∧ t.prm.regions = s.prm.regions ∧ t.prm.wear = s.prm.wear ∧ t.prm.scrub = s.prm.scrub ∧
    t.prm.stores = s.prm.stores.map (fun x => { x with cmd := none }) ∧
    t.pwr.aon = s.pwr.aon ∧ t.pwr.wakeAt = s.pwr.wakeAt ∧ t.pwr.store = (if b then s.pwr.store else []) ∧ t.pwr.shed = Pwr.reset.shed ∧
    t.fcu.hist = f.fcu.hist ∧ t.fcu.seq = f.fcu.seq ∧ t.fcu.cntX = 0 ∧ t.fcu.xDue = none ∧ t.fcu.holding = false ∧
    t.tb = State.reset.tb ∧ t.gr = State.reset.gr ∧ t.cfg = State.reset.cfg ∧ t.cam = State.reset.cam ∧ t.fdb = State.reset.fdb ∧
    t.qm = State.reset.qm ∧ t.mt = State.reset.mt ∧ t.ports = State.reset.ports ∧ t.radio = State.reset.radio ∧ t.eng = State.reset.eng ∧
    t.ptn = State.reset.ptn ∧ t.bind_ = State.reset.bind_ ∧ t.pka = State.reset.pka ∧ t.cc = State.reset.cc ∧ t.hup = State.reset.hup ∧
    t.pmc = State.reset.pmc ∧ t.twn = State.reset.twn ∧ t.t2 = State.reset.t2 ∧ t.fwd = State.reset.fwd ∧ t.cq.cmds = [] ∧
    t.tou = State.reset.tou ∧ t.evc = State.reset.evc ∧ t.tsu = State.reset.tsu ∧ t.irig = State.reset.irig) ∧
  (∀ s : State,
    let low : State := { s with dev := { s.dev with resetN := false } }
    (s.pwr.shed ≠ none ∨ railsOff s = true → exec .resetNAssert s = .next low) ∧
    (s.pwr.shed = none → railsOff s = false → exec .resetNAssert s = .next
      (let t := deviceReset low (if fatalNow low then 3 else 1) false
       { t with dev := { t.dev with intReset := s.dev.intReset } }))) ∧
  (∀ (s : State) (id : Nat) (c : Cmd), readyCmd s id 0x01 c → exec (.devReset id) s = .next (deviceReset s 2 false)) ∧
  (∀ (s : State) (straps : BitVec 6),
    let high : State := { s with dev := { s.dev with resetN := true }, dbg := { s.dbg with acting := false } }
    (s.dev.resetN = true → exec (.resetNRelease straps) s = .next s) ∧
    (s.dev.resetN = false → s.dev.inReset = false ∨ s.dev.intReset = true ∨ railsOff s = true →
      exec (.resetNRelease straps) s = .next high) ∧
    (s.dev.resetN = false → s.dev.inReset = true → s.dev.intReset = false → railsOff s = false →
      exec (.resetNRelease straps) s = .next (bootBegin high straps))) ∧
  (∀ (s : State) (straps : BitVec 6),
    let free : State := { s with
      dev := { s.dev with intReset := false }
      pwr := { s.pwr with
        en := if s.pwr.upSeq then 0xFF else s.pwr.en
        good := if s.pwr.upSeq then 0xFF else s.pwr.en
        upSeq := false } }
    (s.dev.intReset = false ∨ railsOff s = true ∨ s.pwr.railFail = true ∨ s.pwr.shed ≠ none →
      exec (.internalResetRelease straps) s = .next s) ∧
    (s.dev.intReset = true → railsOff s = false → s.pwr.railFail = false → s.pwr.shed = none →
      (s.dev.resetN = false → exec (.internalResetRelease straps) s = .next free) ∧
      (s.dev.resetN = true → exec (.internalResetRelease straps) s = .next (bootBegin free straps)))) ∧
  (∀ (s : State) (straps : BitVec 6), bootBegin s straps = { s with
    dev := { s.dev with
      inReset := false, phase := 1, bootStart := s.pwr.aon.toNat, sBootSrc := BitVec.ofNat 2 straps.toNat,
      sSenior := straps.getLsbD 2, sCascPos := BitVec.ofNat 2 (straps.toNat / 8), sMgtMode := straps.getLsbD 5 }
    pwr := { s.pwr with store := [], seqOk := false, seqFail := none, wakeEn := true, alarmEn := false }
    fuse := { s.fuse with bootHash := s.fuse.boardHash } }) ∧
  (∀ s : State,
    exec (.pciPerst true) s = .next { s with
      dev := { s.dev with perst := false, clkOk := s.dev.clkOk &&& ~~~8#14 }
      cq := { s.cq with msix := [], pba := [], msixEn := Cq.reset.msixEn, msixMask := Cq.reset.msixMask } } ∧
    exec (.pciPerst false) s = .next { s with dev := { s.dev with perst := true } }) ∧
  (∀ (s : State) (p : Nat), s.pwr.vaon = true →
    (s.pwr.shed = none → railsOff s = false → s.dev.inReset = true →
      portTxPin s p = .idle ∧ torvTxPin s = .idle ∧ paEnPin s p = .low ∧ timeValidPin s = .low ∧ toutPin s p = .pulledDown ∧
      aliveOutPin s = .low ∧ witnessPin s = .released ∧ intPin s p = .released ∧ cascMoPin s = .released ∧ rfCsPin s p = .high) ∧
    (s.pwr.shed ≠ none →
      portTxPin s p = .undriven ∧ torvTxPin s = .undriven ∧ paEnPin s p = .undriven ∧ timeValidPin s = .undriven ∧
      toutPin s p = .undriven ∧ aliveOutPin s = .undriven ∧ witnessPin s = .released ∧ intPin s p = .released ∧ cascMoPin s = .released))

/-- An island out of reset whose condition holds sets its CLK_OK bit, D1 with the grain count at 0. STORES ends once no admitted store is left, CLOCKS once D1, D6, D12 and D13 run, LOAD with the images read, from a boot stream only when it holds all that its directory names; VERIFY takes the first copy in strap order that holds, its firmware then running from both TCMs with its COPY code, and with none the cluster fence BOOT_AUTH follows. A copy holds where MAGIC, FORMAT, CHECK, its reserved bytes and the firmware image hold. SERVICES ends with BOOT_DONE and PHASE 6: TWN_ALIVE_OUT runs, the power manager is in RUN, and PRIOR_X raises event 674 with GRAIN 0. A word written to DEV_BOOT_LOAD joins the stream in PHASE 3 with BOOT_SRC 2 and is ignored otherwise; a stream not complete in time fails with BOOT_AUTH. A temperature sample is kept; at or above ALARM it sets HOT with event 677 CODE 1, and at or below ALARM - 20 it clears HOT with CODE 2. Which condition the device tells by itself is the model's reading of R635. -/
def Obligations.IslandsBootPhasesAndTemperature : Prop :=
  (∀ (s : State) (d : Nat), d < 14 →
    (s.dev.inReset = true ∨ clkOk s d = true ∨ islandMay s d = false → exec (.islandClockOk d) s = .next s) ∧
    (s.dev.inReset = false → clkOk s d = false → islandMay s d = true →
      let t : State := { s with dev := { s.dev with clkOk := s.dev.clkOk ||| BitVec.ofNat 14 (2 ^ d) } }
      (d ≠ 1 → exec (.islandClockOk d) s = .next t) ∧
      (d = 1 → exec (.islandClockOk d) s = .next { t with gr := { t.gr with count := 0 } }))) ∧
  (∀ (s : State) (n0 n1 : List Byte),
    (s.dev.inReset = true ∨ s.dev.phase.toNat = 0 ∨ 5 ≤ s.dev.phase.toNat → exec (.bootPhaseEnd n0 n1) s = .next s) ∧
    (s.dev.inReset = false → s.dev.phase = 1 →
      (s.prm.stores = [] → exec (.bootPhaseEnd n0 n1) s = .next { s with dev := { s.dev with phase := 2 } }) ∧
      (s.prm.stores ≠ [] → exec (.bootPhaseEnd n0 n1) s = .next s)) ∧
    (s.dev.inReset = false → s.dev.phase = 2 →
      let run := clkOk s 1 && clkOk s 6 && clkOk s 12 && clkOk s 13
      (run = true → exec (.bootPhaseEnd n0 n1) s = .next { s with dev := { s.dev with phase := 3 } }) ∧
      (run = false → exec (.bootPhaseEnd n0 n1) s = .next s)) ∧
    (s.dev.inReset = false → s.dev.phase = 3 →
      (s.dev.sBootSrc = 2 → streamWhole s = false → exec (.bootPhaseEnd n0 n1) s = .next s) ∧
      (s.dev.sBootSrc ≠ 2 ∨ streamWhole s = true → exec (.bootPhaseEnd n0 n1) s = .next (bootLoad s (bootCopies s n0 n1)))) ∧
    (s.dev.inReset = false → s.dev.phase = 4 → exec (.bootPhaseEnd n0 n1) s = .next (bootVerify s (bootCopies s n0 n1)))) ∧
  (∀ (s : State) (n0 n1 : List Byte) (l : List (Nat × List Byte)),
    (s.dev.sBootSrc = 0 → bootCopies s n0 n1 = [(0, n0), (1, n1)]) ∧ (s.dev.sBootSrc = 1 → bootCopies s n0 n1 = [(1, n1), (0, n0)]) ∧
    (s.dev.sBootSrc = 2 → bootCopies s n0 n1 = [(2, streamBytes s)]) ∧ (s.dev.sBootSrc = 3 → bootCopies s n0 n1 = []) ∧
    (l.find? (fun x => dirGood x.2) = none → bootLoad s l = { s with dev := { s.dev with phase := 4 } }) ∧
    (∀ x, l.find? (fun x => dirGood x.2) = some x → bootLoad s l =
      (let t := tcmLoad s (fwImage x.2)
       { t with dev := { t.dev with phase := 4, fwRead := true, dirOk := decide (le x.2 24 1 ≠ 0) } })) ∧
    (l.find? (fun x => copyGood s x.2) = none → bootVerify s l = fFault { s with dev := { s.dev with phase := 5 } } 5 0x95 0) ∧
    (∀ x, l.find? (fun x => copyGood s x.2) = some x →
      let t := bootVerify s l
      let f := fwImage x.2
      t.dev = { s.dev with phase := 5, fwRead := true, fwOk := true, copy := BitVec.ofNat 2 x.1 } ∧ t.cc.state = 1 ∧
      t.cc.tcm = tputs (fun _ => 0) [] 0 (slice f 192 (le f 20 4)) ∧ t.cc.tcm2 = t.cc.tcm ∧
      t.cc.svn = BitVec.ofNat 6 (le f 16 1) ∧ t.cc.signer = BitVec.ofNat 2 (le f 6 1) ∧ t.cc.version = BitVec.ofNat 32 (le f 8 4) ∧
      { t with dev := s.dev, cc := s.cc } = s) ∧
    (∀ b, copyGood s b = true ↔ dirGood b = true ∧ dirZeros b = true ∧ fwGood s (fwImage b) = true)) ∧
  (∀ s : State,
    (s.dev.phase ≠ 5 ∨ s.dev.inReset = true → exec .bootDone s = .next s) ∧
    (s.dev.phase = 5 → s.dev.inReset = false →
      let t : State := { s with
        dev := { s.dev with phase := 6, bootDone := true, bootTime := w32 (min (2 ^ 32 - 1) s.gr.count.toNat) }
        twn := { s.twn with aliveRun := true }
        pwr := { s.pwr with state := 1 } }
      (s.fcu.priorX = false → exec .bootDone s = .next t) ∧
      (s.fcu.priorX = true → exec .bootDone s = .next (raiseAt t 674 0 (xSeq t) 0)))) ∧
  (∀ (s : State) (m : Master) (v : W32), allowed s m 0x1C true →
    (s.dev.phase = 3 → s.dev.sBootSrc = 2 → exec (.devBootLoadWrite m v) s = .next
      { s with dev := { s.dev with bootStream := v :: s.dev.bootStream } }) ∧
    (s.dev.phase ≠ 3 ∨ s.dev.sBootSrc ≠ 2 → exec (.devBootLoadWrite m v) s = .next s)) ∧
  (∀ s : State,
    (s.dev.phase = 3 → s.dev.sBootSrc = 2 → streamWhole s = false → exec .bootStreamTimeout s = .next
      (fFault { s with dev := { s.dev with phase := 5, bootStream := [] } } 5 0x95 0)) ∧
    (s.dev.phase ≠ 3 ∨ s.dev.sBootSrc ≠ 2 ∨ streamWhole s = true → exec .bootStreamTimeout s = .next s)) ∧
  (∀ (s : State) (tj : BitVec 12),
    let t : State := { s with dev := { s.dev with tj := tj } }
    let a := s.dev.alarmTj.toInt
    (s.dev.inReset = true → exec (.tjSample tj) s = .next s) ∧
    (s.dev.inReset = false →
      (s.dev.hot = false → tj.toInt < a → exec (.tjSample tj) s = .next t) ∧
      (s.dev.hot = false → a ≤ tj.toInt → exec (.tjSample tj) s = .next
        (raise { s with dev := { s.dev with tj := tj, hot := true } } 677 1 tj.toNat)) ∧
      (s.dev.hot = true → a - 20 < tj.toInt → exec (.tjSample tj) s = .next t) ∧
      (s.dev.hot = true → tj.toInt ≤ a - 20 → exec (.tjSample tj) s = .next
        (raise { s with dev := { s.dev with tj := tj, hot := false } } 677 2 tj.toNat))))

/-- While the link is up, a frame with its type, the LEN of the table, a good CHECK and no gap in FSEQ takes its FSEQ and acts; any other is lost and the link goes down with CAUSE LINK; while it is down a frame is none. A good frame has 20 + LEN bytes with CHECK the CRC-32 of header and body. Link down: waiting TWIN_REJOIN commands complete with TWIN_SEPARATED; a PAIRED device with A separates, a JOINING one fails its rejoin. The link comes up with A, out of reset and not in OFF, and the rejoin conditions are judged; 4 us without a keep-alive takes it down. KEEPALIVE keeps the sender's STATE and CC_FENCED. ROLE keeps the strap: equal straps fail with CAUSE ROLE. PROBE is answered by a joining senior in step 1; a joining junior takes each reply as a measurement and after 16 sets GOFF, where all agree and the delay allows LAG, or fails with CAUSE LAG. TIME at a junior joins the waiting changes, one that comes late counts in LATE and takes the link down, and a senior ignores it. NOTICE raises event 676. The order of the digest check is the model's (log entry 134). -/
def Obligations.TorvFramesAndLink : Prop :=
  (∀ (s : State) (f : List Byte),
    let takes := fun (i : Instr) (type len : Nat) (k : State → List Byte → State) =>
      (s.twn.link = false → exec i s = .next s) ∧
      (s.twn.link = true → frameGood type len f = true → frameNext s f = true → exec i s = .next
        (k { s with twn := { s.twn with fseqRx := some (BitVec.ofNat 32 (le f 4 4)) } } (slice f 16 len))) ∧
      (s.twn.link = true → frameGood type len f = false ∨ frameNext s f = false → exec i s = .next (linkDown s 1))
    takes (.torvKeepalive f) 0x01 8 keepaliveRx ∧ takes (.torvDecision f) 0x02 32 decisionRx ∧ takes (.torvTouch f) 0x03 24 touchRx ∧
    takes (.torvCommand f) 0x04 80 commandRx ∧ takes (.torvVerdict f) 0x05 16 verdictRx ∧ takes (.torvTime f) 0x06 40 timeRx ∧
    takes (.torvReady f) 0x07 48 (fun s b => readyAnswer (readyRx s b)) ∧ takes (.torvProbe f) 0x08 8 probeRx ∧
    takes (.torvProbeReply f) 0x09 24 probeReplyRx ∧ takes (.torvBulk f) 0x0A 136 bulkRx ∧ takes (.torvBulkEnd f) 0x0B 8 bulkEndRx ∧
    takes (.torvNotice f) 0x0C 8 noticeRx ∧ takes (.torvRole f) 0x0D 8 roleRx) ∧
  (∀ (s : State) (f : List Byte) (type len : Nat),
    (frameGood type len f = true ↔ f.length = 20 + len ∧ le f 0 1 = type ∧ le f 2 2 = len ∧
      le f (16 + len) 4 = (crc32 (f.take (16 + len))).toNat) ∧
    (s.twn.fseqRx = none → frameNext s f = true) ∧
    (∀ n, s.twn.fseqRx = some n → (frameNext s f = true ↔ BitVec.ofNat 32 (le f 4 4) = n + 1))) ∧
  (∀ (s : State) (cause : Nat),
    let u := joinsEnd (linkOff s) 0x16 []
    (s.twn.link = false → linkDown s cause = s) ∧
    (s.twn.link = true → paired u = true → u.twn.alive = true → linkDown s cause = twinTo u 3 cause) ∧
    (s.twn.link = true → paired u = true → u.twn.alive = false → linkDown s cause = u) ∧
    (s.twn.link = true → u.twn.state = 1 → linkDown s cause = joinFail u cause) ∧
    (s.twn.link = true → paired u = false → u.twn.state ≠ 1 → linkDown s cause = u) ∧
    (linkOff s).twn.link = false) ∧
  (∀ s : State,
    exec .torvLinkDown s = .next (linkDown { s with twn := { s.twn with lanes := 0 } } 1) ∧
    (s.twn.lastKa = none → exec .torvKeepaliveTimeout s = .next s) ∧
    (∀ g, s.twn.lastKa = some g →
      (since s g < 4000 → exec .torvKeepaliveTimeout s = .next s) ∧
      (4000 ≤ since s g → exec .torvKeepaliveTimeout s = .next (linkDown s 1))) ∧
    (s.pwr.shed ≠ none ∨ s.twn.link = true ∨ s.twn.state = 0 ∨ s.twn.alive = false ∨ s.dev.inReset = true →
      exec .torvLinkUp s = .next s) ∧
    (s.pwr.shed = none → s.twn.link = false → s.twn.state ≠ 0 → s.twn.alive = true → s.dev.inReset = false → exec .torvLinkUp s = .next
      (linkHolds { s with twn := { s.twn with link := true, lanes := 15, lastKa := some s.gr.count, fseqRx := none } }))) ∧
  (∀ (s : State) (b : List Byte),
    keepaliveRx s b = sendPass { s with twn := { s.twn with
      lastKa := some s.gr.count, partState := BitVec.ofNat 3 (le b 0 1), partCcFenced := (le b 1 1).testBit 0 } } ∧
    noticeRx s b = raise s 676 (le b 0 2) (le b 2 2) ∧
    (let p := (le b 0 1).testBit 0
     let t : State := { s with twn := { s.twn with partSenior := some p } }
     (joining t = true → s.twn.joinStep = 1 →
       (p = senior s → roleRx s b = joinFail t 3) ∧
       (p ≠ senior s → senior s = false → s.twn.probes = [] → roleRx s b = torvSend t 0x08 (leBytes 8 s.gr.count.toNat)) ∧
       (p ≠ senior s → senior s = true ∨ s.twn.probes ≠ [] → roleRx s b = t)) ∧
     (joining t = false ∨ s.twn.joinStep ≠ 1 → roleRx s b = t)) ∧
    (joining s = true → s.twn.joinStep = 1 → senior s = true → probeRx s b =
      torvSend s 0x09 (b ++ leBytes 8 s.gr.count.toNat ++ leBytes 8 s.gr.count.toNat)) ∧
    (joining s = false ∨ s.twn.joinStep ≠ 1 ∨ senior s = false → probeRx s b = s) ∧
    (joining s = false ∨ s.twn.joinStep ≠ 1 ∨ senior s = true → probeReplyRx s b = s) ∧
    (joining s = true → s.twn.joinStep = 1 → senior s = false →
      let l := s.twn.probes ++ [probeResult (grainAt b 0) (grainAt b 8) (grainAt b 16) s.gr.count]
      let t : State := { s with twn := { s.twn with probes := l } }
      (l.length < 16 → probeReplyRx s b = torvSend t 0x08 (leBytes 8 s.gr.count.toNat)) ∧
      (16 ≤ l.length → probesGood t = false → probeReplyRx s b = joinFail t 4) ∧
      (16 ≤ l.length → probesGood t = true → probeReplyRx s b =
        digestSend { t with twn := { t.twn with goff := (l.head?.map (·.1)).getD s.twn.goff } })) ∧
    (let c := timeOf b
     (senior s = true ∨ (paired s = false ∧ (joining s = false ∨ c.load = false)) → timeRx s b = s) ∧
     (senior s = false → paired s = true ∨ (joining s = true ∧ c.load = true) →
       (before c.apply (pairGrain s) = true → timeRx s b = linkDown { s with twn := { s.twn with late := satInc s.twn.late } } 6) ∧
       (before c.apply (pairGrain s) = false → timeRx s b = { s with twn := { s.twn with times := s.twn.times ++ [c] } })))) ∧
  (∀ (s : State) (p : BitVec 64 × BitVec 64) (l : List (BitVec 64 × BitVec 64)), s.twn.probes = p :: l →
    (probesGood s = true ↔ (∀ q ∈ l, q.1 = p.1) ∧ ∀ q ∈ p :: l, 2 * q.2.toInt + 128 ≤ (s.twn.lag.toNat : Int)))

/-- A carried decision is ignored unless PAIRED or joining; late, it counts in LATE and takes the link down; else it waits. A touch sets TOUCH to the larger of TOUCH and the carried value, and a touch of no entry is none. A carried command runs the checks as if PT n had issued it: its verdict goes back, and it waits for its grain or is dropped. A verdict of the partner's other status completes the waiting command with that status, and an accepting one lets it apply. READY is kept while PAIRED, and with TWIN its entries become a commit; in step 3 of a rejoin it is kept, and in step 1 it is the digest check. BULK replaces the four ways of an awaited bucket and does nothing else otherwise; BULK_END of no bucket ends step 2, and PASS 0 asks for a region. The first due shared decision is applied where no earlier entry of the backlog stands: learning, sweep, or a command, which completes with its own status, or where the pair is gone with TWIN_SEPARATED or TWIN_ABSENT; with none due, an agreed opening opens once both may. That PASS 0 asks for a region is the model's (log entry 126), and so is the status of a command no verdict admits (log entry 136). -/
def Obligations.SharedDecisionsAndTransfers : Prop :=
  (∀ (s : State) (b : List Byte),
    let g := grainAt b 0
    let n := le b 9 1 % 16
    (paired s = false → joining s = false → decisionRx s b = s) ∧
    (paired s = true ∨ joining s = true →
      (before g (pairGrain s) = true → decisionRx s b = linkDown { s with twn := { s.twn with late := satInc s.twn.late } } 6) ∧
      (before g (pairGrain s) = false → 2 ≤ le b 8 1 → decisionRx s b = s) ∧
      (before g (pairGrain s) = false → le b 8 1 = 0 → decisionRx s b = { s with twn := { s.twn with shared := s.twn.shared ++
        [{ apply := g, remote := true, index := le b 10 2, cmd := none, carried := none, ok := true, bucket := none,
           learn := some { pt := n, mac := BitVec.ofNat 48 (be b 16 6), vid := BitVec.ofNat 12 (le b 22 2), port := le b 24 1 } }] } }) ∧
      (before g (pairGrain s) = false → le b 8 1 = 1 → decisionRx s b = { s with twn := { s.twn with shared := s.twn.shared ++
        [{ apply := g, remote := true, index := le b 10 2, cmd := none, carried := none, ok := true, bucket := some (le b 16 4),
           learn := none }] } }))) ∧
  (∀ (s : State) (b : List Byte),
    let n := le b 8 1 % 16
    let mac := BitVec.ofNat 48 (be b 0 6)
    let vid := BitVec.ofNat 12 (le b 6 2)
    (fdbBucket s n mac vid = none → touchRx s b = s) ∧
    (∀ k, fdbBucket s n mac vid = some k →
      (fdbFind s k mac vid = none → touchRx s b = s) ∧
      (∀ w x, fdbFind s k mac vid = some (w, x) →
        touchRx s b = setFdbEnt s k w (some { x with touch := later x.touch (fromPair s (grainAt b 16)) })))) ∧
  (∀ (s : State) (b : List Byte),
    let g := grainAt b 0
    let n := le b 8 1 % 16
    let bytes := slice b 16 64
    (paired s = false → commandRx s b = s) ∧
    (paired s = true → le bytes 0 1 = 0x21 → commandRx s b = entryRx s n bytes) ∧
    (paired s = true → le bytes 0 1 ≠ 0x21 →
      (before g (pairGrain s) = true → commandRx s b = linkDown { s with twn := { s.twn with late := satInc s.twn.late } } 6) ∧
      (before g (pairGrain s) = false →
        let t := addCmd s n none bytes s.gr.count
        ∀ c, cmdAt t s.cq.nextCmd = some c →
          let verdict := fun (st : Nat) => torvSend t 0x05
            (leBytes 8 g.toNat ++ leBytes 1 n ++ leBytes 1 st ++ leBytes 2 (tagOf c) ++ leBytes 4 0)
          (firstFail t c = none → commandRx s b =
            (let u := verdict 0
             running { u with twn := { u.twn with shared := u.twn.shared ++
               [{ apply := g, remote := true, index := 128, learn := none, bucket := none, cmd := some s.cq.nextCmd,
                  carried := some (n, bytes), ok := true }] } } s.cq.nextCmd)) ∧
          (∀ f, firstFail t c = some f → f.1 ≠ 0 → commandRx s b = dropCmd (verdict f.1) s.cq.nextCmd)))) ∧
  (∀ (s : State) (b : List Byte),
    let g := grainAt b 0
    let st := le b 9 1
    let which := verdictOf s g (le b 8 1 % 16) (le b 10 2 % 4096)
    (s.twn.shared.find? which = none → verdictRx s b = s) ∧
    (∀ d, s.twn.shared.find? which = some d →
      (before g (pairGrain s) = true → verdictRx s b = linkDown { s with twn := { s.twn with late := satInc s.twn.late } } 6) ∧
      (before g (pairGrain s) = false → st ≤ 1 → verdictRx s b =
        { s with twn := { s.twn with shared := s.twn.shared.map fun x => if x = d then { x with ok := true } else x } }) ∧
      (before g (pairGrain s) = false → 1 < st → verdictRx s b =
        completeOpt { s with twn := { s.twn with shared := s.twn.shared.filter fun x => decide (x ≠ d) } } d.cmd st []))) ∧
  (∀ (s : State) (b : List Byte),
    let twin := (le b 10 1).testBit 0
    let align := (le b 10 1).testBit 1
    let kept : State := { s with twn := { s.twn with partReady := some (grainAt b 0, BitVec.ofNat 16 (le b 8 2), twin), digest := slice b 16 32 } }
    (paired s = true → twin = true → readyRx s b = remoteCommit kept (grainAt b 0)) ∧
    (paired s = true → twin = false → readyRx s b = kept) ∧
    (paired s = false → joining s = false → readyRx s b = s) ∧
    (paired s = false → joining s = true → align = true → readyRx s b = kept) ∧
    (paired s = false → joining s = true → align = false → s.twn.joinStep = 1 → readyRx s b = digestJudge s (slice b 16 32)) ∧
    (paired s = false → joining s = true → align = false → s.twn.joinStep ≠ 1 → readyRx s b = s)) ∧
  (∀ (s : State) (b : List Byte),
    (takesBulk s (le b 4 4) = false → bulkRx s b = s) ∧
    (takesBulk s (le b 4 4) = true → bulkRx s b =
      (List.range 4).foldl (fun t w => setFdbEnt t (le b 4 4) w (wayOf s (slice b (8 + 32 * w) 32))) s) ∧
    (∀ r : List Byte, (le r 9 1).testBit 0 = false → wayOf s r = none) ∧
    (∀ r : List Byte, (le r 9 1).testBit 0 = true → ∃ x, wayOf s r = some x ∧ x.twin = true ∧ x.mac = BitVec.ofNat 48 (be r 0 6) ∧
      x.port = le r 8 1 ∧ x.touch = fromPair s (grainAt r 20) ∧ x.static = (le r 9 1).testBit 1) ∧
    (let n := le b 4 4
     let t : State := { s with twn := { s.twn with holdLearn := s.twn.holdLearn.filter fun n => s.twn.xfer.contains n } }
     (le b 0 1 ≠ 0 → n ≠ 0 → bulkEndRx s b = s) ∧
     (le b 0 1 ≠ 0 → n = 0 → joining t = true → s.twn.joinStep = 2 → senior s = false →
       bulkEndRx s b = { t with twn := { t.twn with joinStep := 3 } }) ∧
     (le b 0 1 ≠ 0 → n = 0 → joining t = false ∨ s.twn.joinStep ≠ 2 ∨ senior s = true → bulkEndRx s b = t) ∧
     (le b 0 1 = 0 → paired s = true → n < 16 → bulkEndRx s b = sendPass { s with twn := { s.twn with
        holdLearn := (n :: s.twn.holdLearn).eraseDups, xfer := (n :: s.twn.xfer).eraseDups } }) ∧
     (le b 0 1 = 0 → paired s = false ∨ 16 ≤ n → bulkEndRx s b = s))) ∧
  (∀ s : State,
    (s.pwr.shed ≠ none → exec .sharedDecisionApply s = .next s) ∧
    (s.pwr.shed = none →
      (∀ d, sharedFirst s = some d →
        (s.gr.backlog.all (sharedAhead s d) = true → exec .sharedDecisionApply s = .next (sharedApply s d)) ∧
        (s.gr.backlog.all (sharedAhead s d) = false → exec .sharedDecisionApply s = .next s)) ∧
      (sharedFirst s = none → openAt s = none → exec .sharedDecisionApply s = .next s) ∧
      (∀ a, sharedFirst s = none → openAt s = some a →
        let may := before (pairGrain s) a = false ∧ s.cfg.epochs.length < 2 ∧ (paired s = true ∨ joining s = true) ∧
          (paired s && ownOpening s) = false
        (may → exec .sharedDecisionApply s = .next (sharedOpening s a)) ∧
        (¬ may → exec .sharedDecisionApply s = .next s)))) ∧
  (∀ (s : State) (d : Shared),
    let t : State := { s with twn := { s.twn with shared := s.twn.shared.erase d } }
    let g := fromPair s d.apply
    (∀ e, d.learn = some e → sharedApply s d = learnApply t e g d.remote) ∧
    (∀ b, d.learn = none → d.bucket = some b → sharedApply s d = sweepApply t b g d.remote) ∧
    (∀ c, d.learn = none → d.bucket = none → d.cmd.bind (cmdAt t) = some c →
      (d.ok = true → sharedApply s d = (let r := fdbEff t c.pt c.bytes g d.remote
                                        complete r.1 c.id r.2.1 r.2.2)) ∧
      (d.ok = false → s.twn.state = 3 → sharedApply s d = complete t c.id 0x16 []) ∧
      (d.ok = false → s.twn.state ≠ 3 → sharedApply s d = complete t c.id 0xA8 [])))

/-- A change of state sets STATE and CAUSE and raises event 675; leaving PAIRED clears the exchange under way; SEPARATED counts, PARTNER_LOST clears TWIN flags, PAIRED is remembered. TWN_ALIVE_OUT toggles while it runs. TWN_ALIVE_IN stopped clears A and takes the link down with CAUSE ALIVE; toggling again it sets A, and a PAIRED or SOLO-HOLD device whose link is down is SEPARATED with CAUSE LINK. A witness sample counts only after the first PAIRED state, out of reset and at the device's own pair grain; with A stopped before it, PAIRED and SEPARATED go to SOLO-HOLD at a junior whose partner holds the line and to PARTNER_LOST otherwise, SOLO-HOLD to PARTNER_LOST once the line is released. With L and A a JOINING or PARTNER_LOST device begins its rejoin, and a SEPARATED or SOLO-HOLD one with AUTO or a waiting TWIN_REJOIN. A write of TWN_CTL sets EN and AUTO, and JSRC and a LAG from 256 in OFF only; EN 0 gives OFF, EN 1 in OFF gives JOINING. A failed rejoin is tried again after 1 s. TWIN_REJOIN completes at once when PAIRED, in OFF or PARTNER_LOST, with a fenced partner or without link, and else waits. At grain t both devices are PAIRED and it completes with DONE and t. -/
def Obligations.TwinStatesPresenceAndRejoin : Prop :=
  (∀ (s : State) (st : BitVec 3) (cause : Nat),
    let t : State := raise { s with twn := { s.twn with state := st, cause := BitVec.ofNat 4 cause } } 675 st.toNat cause
    let u := if s.twn.state = 2 then leavePaired t else t
    t.twn = { s.twn with state := st, cause := BitVec.ofNat 4 cause } ∧
    (s.twn.state = st → twinTo s st cause = s) ∧
    (s.twn.state ≠ st →
      (st = 3 → twinTo s st cause = { u with twn := { u.twn with seps := satInc u.twn.seps } }) ∧
      (st = 4 → twinTo s st cause = twinCleared u) ∧
      (st = 2 → twinTo s st cause = { u with twn := { u.twn with pairedOnce := true } }) ∧
      (st ≠ 2 → st ≠ 3 → st ≠ 4 → twinTo s st cause = u)) ∧
    (senior t = true → leavePaired t = readyClear t)) ∧
  (∀ s : State,
    (s.twn.aliveRun = true → exec .aliveToggle s = .next { s with twn := { s.twn with aliveOut := !s.twn.aliveOut } }) ∧
    (s.twn.aliveRun = false → exec .aliveToggle s = .next s) ∧
    (s.twn.alive = false → exec .aliveInStopped s = .next s) ∧
    (s.twn.alive = true → exec .aliveInStopped s = .next
      (linkDown { s with twn := { s.twn with alive := false, aliveStop := some s.gr.count } } 2)) ∧
    (s.twn.alive = true ∨ s.dev.inReset = true → exec .aliveInReturn s = .next s) ∧
    (s.twn.alive = false → s.dev.inReset = false →
      let t : State := { s with twn := { s.twn with alive := true, aliveStop := none } }
      (s.twn.link = false → s.twn.state = 2 ∨ s.twn.state = 5 → exec .aliveInReturn s = .next (twinTo t 3 1)) ∧
      (s.twn.link = true ∨ (s.twn.state ≠ 2 ∧ s.twn.state ≠ 5) → exec .aliveInReturn s = .next (linkHolds t)))) ∧
  (∀ (s : State) (level : Bool),
    let own := s.twn.pairedOnce = true ∧ s.dev.inReset = false ∧ (pairGrain s).toNat % 16000 = (if senior s then 750 else 8750)
    let t : State := { s with twn := { s.twn with witness := !level } }
    (¬ own → exec (.witnessSample level) s = .next s) ∧
    (own → s.twn.aliveStop = none ∨ s.twn.alive = true ∨ s.twn.aliveStop = some s.gr.count → exec (.witnessSample level) s = .next t) ∧
    (∀ g, own → s.twn.aliveStop = some g → g ≠ s.gr.count → s.twn.alive = false →
      exec (.witnessSample level) s = .next (aliveLost t (!level)))) ∧
  (∀ (s : State) (held : Bool),
    (s.twn.state = 2 ∨ s.twn.state = 3 → held = true → senior s = false → aliveLost s held = twinTo s 5 2) ∧
    (s.twn.state = 2 ∨ s.twn.state = 3 → held = false ∨ senior s = true → aliveLost s held = twinTo s 4 2) ∧
    (s.twn.state = 5 → held = false → aliveLost s held = twinTo s 4 2) ∧
    (s.twn.state = 5 → held = true → aliveLost s held = s) ∧
    (s.twn.state ≠ 2 → s.twn.state ≠ 3 → s.twn.state ≠ 5 → aliveLost s held = s)) ∧
  (∀ s : State,
    (s.twn.link = false ∨ s.twn.alive = false → linkHolds s = s) ∧
    (s.twn.link = true → s.twn.alive = true →
      (s.twn.state = 1 ∨ s.twn.state = 4 → linkHolds s = joinEnter s) ∧
      (s.twn.state = 3 ∨ s.twn.state = 5 → s.twn.auto = true ∨ s.twn.joinCmds ≠ [] → linkHolds s = joinEnter s) ∧
      (s.twn.state = 3 ∨ s.twn.state = 5 → s.twn.auto = false → s.twn.joinCmds = [] → linkHolds s = s) ∧
      (s.twn.state = 0 ∨ s.twn.state = 2 → linkHolds s = s)) ∧
    (ccFenced s = true → joinEnter s = s)) ∧
  (∀ (s : State) (m : Master) (v : W32), allowed s m 0x07E00000 true →
    let off := s.twn.state = 0
    let t : State := { s with twn := { s.twn with
      en := bit v 0, auto := bit v 1
      jsrc := if off then BitVec.ofNat 2 (fld v 2 2) else s.twn.jsrc
      lag := if off ∧ 256 ≤ fld v 16 12 then BitVec.ofNat 12 (fld v 16 12) else s.twn.lag } }
    (bit v 0 = false → off → exec (.twnCtlWrite m v) s = .next t) ∧
    (bit v 0 = false → ¬ off → exec (.twnCtlWrite m v) s = .next (twinOff t)) ∧
    (bit v 0 = true → off → exec (.twnCtlWrite m v) s = .next
      { twinTo t 1 0 with twn := { (twinTo t 1 0).twn with joinFrom := 0 } }) ∧
    (bit v 0 = true → ¬ off → exec (.twnCtlWrite m v) s = .next (autoJoin t))) ∧
  (∀ s : State,
    let again := s.twn.retry = true ∧ s.twn.link = true ∧ s.twn.alive = true ∧ s.twn.state ≠ 0 ∧ s.twn.state ≠ 2 ∧
      1000000000 ≤ since s s.twn.failAt
    (again → exec .rejoinRetry s = .next (joinEnter s)) ∧ (¬ again → exec .rejoinRetry s = .next s)) ∧
  (∀ s : State,
    let loads := s.twn.times.filter (·.load)
    let due := joining s = true ∧ s.twn.joinStep = 4 ∧ before (pairGrain s) s.twn.joinAt = false ∧ (senior s = true ∨ loads ≠ [])
    let t : State := { s with twn := { s.twn with times := s.twn.times.filter fun c => !c.load, joinStep := 0, retry := false } }
    (¬ due → exec .rejoinComplete s = .next s) ∧
    (due → senior s = true → exec .rejoinComplete s = .next
      (joinsEnd (twinTo t 2 0) 0 (leBytes 8 s.twn.joinAt.toNat))) ∧
    (due → senior s = false → exec .rejoinComplete s = .next
      (let u := loads.foldl timeChgApply t
       let w := validUpdate { u with tb := { u.tb with holdover := false } }
       joinsEnd (twinTo w 2 0) 0 (leBytes 8 w.twn.joinAt.toNat)))) ∧
  (∀ (s : State) (id : Nat) (c : Cmd), readyCmd s id 0x78 c →
    (s.twn.state = 2 → exec (.twinRejoin id) s = .next (complete s c.id 1 (leBytes 8 s.twn.joinAt.toNat))) ∧
    (s.twn.state = 0 ∨ s.twn.state = 4 ∨ (s.twn.state ≠ 2 ∧ s.twn.partCcFenced = true) →
      exec (.twinRejoin id) s = .next (complete s c.id 0xA8 [])) ∧
    (s.twn.state = 1 ∨ s.twn.state = 3 ∨ s.twn.state = 5 → s.twn.partCcFenced = false →
      let t := running { s with twn := { s.twn with joinCmds := s.twn.joinCmds ++ [c.id] } } c.id
      (s.twn.link = false → exec (.twinRejoin id) s = .next (complete s c.id 0x16 [])) ∧
      (s.twn.link = true → t.twn.state = 1 → exec (.twinRejoin id) s = .next t) ∧
      (s.twn.link = true → t.twn.state ≠ 1 → exec (.twinRejoin id) s = .next (linkHolds t))))

/-- After reset GR_COUNT is 0, D0 alone runs, PHASE is 0, COPY is 3, epoch 0 alone is live and no transaction or commit is open. The power, twin and fault registers read the reset values of R560, R626 and R583: among them HEAD 2, MARGIN_MIN 100, DN_WIN 10, PF_FILT 10 with both enables, WAKE_EN, AUTO 1 and JSRC 1 with LAG 1024, and 393216 live cells; hold-up powers are 2000 and 1300 with V_MIN 0xFFFF; ALARM is 400 or 440 by grade; every port is disabled and every counter of the history is 0. That the queue of commands is empty and no packet is in the device is the model's own start (log entry 1). -/
def Obligations.ResetValues : Prop :=
  let s := State.reset
  s.gr.count = 0 ∧ s.dev.clkOk = 1 ∧ s.dev.phase = 0 ∧ s.dev.copy = 3 ∧ s.dev.bootDone = false ∧ s.dev.fwOk = false ∧ s.dev.t2Done = false ∧
  s.dev.inReset = true ∧ s.dev.tj = 0 ∧ s.dev.hot = false ∧ s.dev.alarmTj = (if Config.gradeXA then 440 else 400) ∧
  s.tb.t = 0 ∧ s.tb.f = 0 ∧ s.tb.timeValid = false ∧ s.tb.traceable = false ∧
  s.cfg.epochs.map (·.num) = [0] ∧ s.cfg.txns = [] ∧ s.cfg.commits = [] ∧ (∀ p, p < 96 → portMode s p = 0) ∧
  pwrRead s 0x00 = some 0 ∧ pwrRead s 0x04 = some 0x0A006420 ∧ pwrRead s 0x08 = some 0 ∧ pwrRead s 0x0C = some 0x20 ∧
  pwrRead s 0x10 = some 0x30A ∧ pwrRead s 0x14 = some 1 ∧ pwrRead s 0x20 = some 0 ∧ pwrRead s 0x24 = some 0 ∧
  s.hup.vMin = 0xFFFF ∧ s.hup.period = 10 ∧ s.hup.holdW = 2000 ∧ s.hup.shedW = 1300 ∧ s.hup.eBank = 0 ∧
  twnRead s 0x00 = some 0x04000006 ∧ twnRead s 0x08 = some 0 ∧ twnRead s 0x0C = some 0 ∧ twnRead s 0x10 = some 0 ∧ twnRead s 0x14 = some 0 ∧
  fcuRead s 0x00 = some 0 ∧ fcuRead s 0x04 = some 0 ∧ fcuRead s 0x08 = some 0 ∧ fcuRead s 0x0C = some 0 ∧ fcuRead s 0x28 = some 0 ∧
  fcuRead s 0x40 = some 393216 ∧ s.cc.wdTime = 100 ∧ s.qm.pkts = [] ∧ s.cq.cmds = [] ∧ s.prm.stores = [] ∧ s.out = [] ∧ s.pending = []

/-- After a device reset of any state, of any kind and reason, no transaction is open and no commit pends, every setting of the drain class and of the epoch class, at every index, has its reset value, and the one live epoch is epoch 0, opened at grain 0, with the count of grains at 0, and no drain is in progress. -/
def Obligations.DeviceResetRestoresSettings : Prop :=
  ∀ (s : State) (reason : BitVec 3) (standby : Bool),
    let t := deviceReset s reason standby
    t.cfg.txns = [] ∧ t.cfg.commits = [] ∧ t.cfg.quiesces = [] ∧
    (∀ sid idx n, settingWords sid idx = some n → idx < 65536 → cur t sid idx = settingReset (skey sid idx)) ∧
    (∃ e, t.cfg.epochs = [e] ∧ e.num = 0 ∧ e.opened = 0) ∧ t.gr.count = 0 ∧
    (∀ id c, readyCmd s id 0x01 c → exec (.devReset id) s = .next (deviceReset s 2 false))

/-- In a shed begun at grain p with cause c: PFAIL_N then sets only its own pin level, a sample of the bank only what a sample sets, and the loss of a PWR_GOOD only its own level and the fault RAIL_LOST that is to be recorded. Only at grain p itself does a source with a lower index take the place of the cause, in the shed and in byte 8 of the record, so that the cause is the first of the sources at p in their order. -/
def Obligations.SecondSupplySourceInAShed : Prop :=
  ∀ (s : State) (c : Nat) (p : Grain), s.pwr.shed = some (c, p) → c < 11 →
    let pin : State := { s with pwr := { s.pwr with pfailN := false } }
    let fall := fun (n : Nat) => ({ s with pwr := { s.pwr with good := s.pwr.good &&& ~~~BitVec.ofNat 8 (2 ^ n) } } : State)
    (p ≠ s.gr.count → exec .pfailNAssert s = .next pin) ∧
    (s.gr.count ≠ p → ∀ n, n < 8 → exec (.pwrGoodLoss n) s = .next s ∨
      exec (.pwrGoodLoss n) s = .next (xFault (fall n) 4 0xA1 n)) ∧
    (∀ code, (hupSample code s).pwr.shed = some (c, p) → (hupSample code s).gr.count ≠ p →
      exec (.monitorTrip code) s = .next (hupSample code s)) ∧
    (∀ idx, p = s.gr.count → (shedStart s idx).pwr.shed = some (min c idx, p)) ∧
    (∀ idx l, p = s.gr.count → s.pwr.lg = some l → l.length = 9728 → l[8]? = some (BitVec.ofNat 8 c) →
      ∃ l', (shedStart s idx).pwr.lg = some l' ∧ l'.length = 9728 ∧ l'[8]? = some (BitVec.ofNat 8 (min c idx))) ∧
    (∀ idx, shedStart s idx = { s with pwr := (shedStart s idx).pwr })
end

