-- ==== Sys2Proof/Laws/EventFrame.lean ====
section
/-! SUPPORT. What raising an event can write: event rings with their on-die area, pending MSI-X bits, the records kept for the
last-gasp record, and messages. Everything else stays. -/

namespace Sys2Proof.Machine

/-- A state without what an event can write. -/
def unev (s : State) : State :=
  { s with cq := { s.cq with er := [], onEr := [], pba := [] }, prm := { s.prm with soe := [] }, out := [] }

/-- A choice of two states. -/
@[simp] theorem unev_ite (c : Prop) [Decidable c] (s t : State) : unev (if c then s else t) = if c then unev s else unev t :=
  apply_ite _ _ _ _

/-- A fold whose every step writes only that. -/
theorem unev_foldl {α : Type} (f : State → α → State) (l : List α) (s : State) (h : ∀ t a, unev (f t a) = unev t) :
    unev (l.foldl f s) = unev s := by
  induction l generalizing s with
  | nil => rfl
  | cons a r ih => rw [List.foldl_cons, ih, h]

@[simp] theorem emit_unev (s : State) (o : Output) : unev (emit s o) = unev s := rfl

@[simp] theorem setEr_unev (s : State) (n k : Nat) (x : Ring) : unev (setEr s n k x) = unev s := rfl

@[simp] theorem setPba_unev (s : State) (f v : Nat) (b : Bool) : unev (setPba s f v b) = unev s := rfl

@[simp] theorem msixSend_unev (s : State) (f v : Nat) : unev (msixSend s f v) = unev s := by
  unfold msixSend
  split
  · rfl
  · split <;> simp

@[simp] theorem ringMsix_unev (s : State) (n : Nat) (r : Ring) : unev (ringMsix s n r) = unev s := by
  unfold ringMsix
  split
  · split <;> simp
  · simp

@[simp] theorem erSignal_unev (s : State) (n k : Nat) : unev (erSignal s n k) = unev s := by
  unfold erSignal
  dsimp only
  split <;> simp

@[simp] theorem soeKeep_unev (s : State) (src code data : Nat) (g : Grain) : unev (soeKeep s src code data g) = unev s := by
  unfold soeKeep
  split <;> rfl

@[simp] theorem erStore_unev (s : State) (n : Nat) (r : Ring) (b : List Byte) : unev (erStore s n r b) = unev s := by
  unfold erStore
  split
  · rfl
  · simp

@[simp] theorem erPut_unev (s : State) (n k src code data : Nat) (g : Grain) : unev (erPut s n k src code data g) = unev s := by
  unfold erPut
  dsimp only
  split
  · rfl
  · split
    · simp
    · split <;> simp

@[simp] theorem deliverLast_unev (s : State) (n src code data : Nat) (g : Grain) :
    unev (deliverLast s n src code data g) = unev s := by
  unfold deliverLast
  split <;> simp

@[simp] theorem deliver_unev (s : State) (n src code data : Nat) (g : Grain) : unev (deliver s n src code data g) = unev s := by
  unfold deliver
  split
  · rfl
  · dsimp only
    split
    · split <;> simp
    · split <;> simp

@[simp] theorem raiseAt_unev (s : State) (src code data : Nat) (g : Grain) : unev (raiseAt s src code data g) = unev s := by
  unfold raiseAt
  refine (unev_foldl _ _ _ ?_).trans (soeKeep_unev _ _ _ _ _)
  intro t a
  split <;> simp

/-- Raising an event writes nothing but what the rings, the interrupts and the kept records hold. -/
@[simp] theorem raise_unev (s : State) (src code data : Nat) : unev (raise s src code data) = unev s := raiseAt_unev _ _ _ _ _

theorem raiseAt_dev (s : State) (src code data : Nat) (g : Grain) : (raiseAt s src code data g).dev = s.dev :=
  (congrArg State.dev (raiseAt_unev s src code data g) : (unev (raiseAt s src code data g)).dev = (unev s).dev)

theorem raiseAt_pwr (s : State) (src code data : Nat) (g : Grain) : (raiseAt s src code data g).pwr = s.pwr :=
  (congrArg State.pwr (raiseAt_unev s src code data g) : (unev (raiseAt s src code data g)).pwr = (unev s).pwr)

theorem raise_dev (s : State) (src code data : Nat) : (raise s src code data).dev = s.dev := raiseAt_dev _ _ _ _ _

theorem raise_pwr (s : State) (src code data : Nat) : (raise s src code data).pwr = s.pwr := raiseAt_pwr _ _ _ _ _

end Sys2Proof.Machine
end

