-- ==== Sys2Proof/Laws/Keeps.lean ====
section
/-! SUPPORT. The part of the state that hardly any operation writes: the fuses and the queue of commands. One lemma per
operation, in the files Keeps<Module>, says that it keeps both. -/

namespace Sys2Proof.Machine

/-- The programmed fuses and the commands that wait. -/
def kp (s : State) : BitVec 6 × BitVec 4 × BitVec 256 × List Instr := (s.fuse.floor, s.fuse.revoked, s.fuse.boardHash, s.pending)

/-- A state written field by field keeps the fuses and the queue it names. -/
@[simp] theorem kp_mk (dev bus gr tb evc tou irig tsu eng core ptn bind_ cq cam fdb cfg t2 mt qm ports fwd radio pka cc fuse dbg pwr hup
    prm fcu pmc twn out freeCtr pending) :
    kp (State.mk dev bus gr tb evc tou irig tsu eng core ptn bind_ cq cam fdb cfg t2 mt qm ports fwd radio pka cc fuse dbg pwr hup
      prm fcu pmc twn out freeCtr pending) = (fuse.floor, fuse.revoked, fuse.boardHash, pending) := Eq.trans rfl rfl

/-- Both parts of one state are that state's. -/
@[simp] theorem kp_eta (s : State) : (s.fuse.floor, s.fuse.revoked, s.fuse.boardHash, s.pending) = kp s := Eq.trans rfl rfl

/-- A choice of two states. -/
@[simp] theorem kp_ite (c : Prop) [Decidable c] (s t : State) : kp (if c then s else t) = if c then kp s else kp t := apply_ite _ _ _ _

/-- A fold whose every step keeps both keeps both. -/
theorem kp_foldl {α : Type} (f : State → α → State) (l : List α) (s : State) (h : ∀ t a, kp (f t a) = kp t) :
    kp (l.foldl f s) = kp s := by
  induction l generalizing s with
  | nil => rfl
  | cons a r ih => rw [List.foldl_cons, ih, h]

/-- A fold that carries a value beside the state. -/
theorem kp_foldl_pair {α β : Type} (f : State × β → α → State × β) (l : List α) (x : State × β)
    (h : ∀ t a, kp (f t a).1 = kp t.1) : kp (l.foldl f x).1 = kp x.1 := by
  induction l generalizing x with
  | nil => rfl
  | cons a r ih => rw [List.foldl_cons, ih, h]

/-- The SVN floor of a state that keeps the fuses. -/
theorem floor_of_kp {s t : State} (h : kp t = kp s) : t.fuse.floor = s.fuse.floor := congrArg Prod.fst h

/-- The revoke bits of a state that keeps the fuses. -/
theorem revoked_of_kp {s t : State} (h : kp t = kp s) : t.fuse.revoked = s.fuse.revoked := congrArg (fun x => x.2.1) h

/-- The board hash of a state that keeps the fuses. -/
theorem boardHash_of_kp {s t : State} (h : kp t = kp s) : t.fuse.boardHash = s.fuse.boardHash := congrArg (fun x => x.2.2.1) h

/-- The queue of a state that keeps both. -/
theorem pending_of_kp {s t : State} (h : kp t = kp s) : t.pending = s.pending := congrArg (fun x => x.2.2.2) h

end Sys2Proof.Machine
end

