-- ==== Sys2Proof/Laws/KeepsOps.lean ====
section
/-! SUPPORT. The operations of Machine/Ops.lean keep the fuses and the queue of commands. -/

namespace Sys2Proof.Machine

@[simp] theorem powered_keeps (s t : State) (h : kp t = kp s) : kp (powered s t) = kp s := by
  unfold powered
  split
  · rfl
  · exact h

@[simp] theorem freeNext_keeps (s : State) : kp (freeNext s) = kp s := by
  unfold freeNext
  repeat' (first | (with_reducible rfl) | simp only [implies_true, kp_foldl, kp_foldl_pair, kp_mk, kp_eta, kp_ite, ite_self] | split | (with_reducible refine (kp_foldl _ _ _ ?_).trans ?_) | (with_reducible refine (kp_foldl_pair _ _ _ ?_).trans ?_) | intro _ _)

@[simp] theorem emit_keeps (s : State) (o : Output) : kp (emit s o) = kp s := by
  unfold emit
  repeat' (first | (with_reducible rfl) | simp only [implies_true, kp_foldl, kp_foldl_pair, kp_mk, kp_eta, kp_ite, ite_self] | split | (with_reducible refine (kp_foldl _ _ _ ?_).trans ?_) | (with_reducible refine (kp_foldl_pair _ _ _ ?_).trans ?_) | intro _ _)

@[simp] theorem see_keeps (s : State) (cls idx : Nat) (d : Decision) : kp (see s cls idx d) = kp s := by
  unfold see
  repeat' (first | (with_reducible rfl) | simp only [implies_true, kp_foldl, kp_foldl_pair, kp_mk, kp_eta, kp_ite, ite_self] | split | (with_reducible refine (kp_foldl _ _ _ ?_).trans ?_) | (with_reducible refine (kp_foldl_pair _ _ _ ?_).trans ?_) | intro _ _)

@[simp] theorem seeNow_keeps (s : State) (cls idx : Nat) (d : Decision) : kp (seeNow s cls idx d) = kp s := by
  unfold seeNow
  repeat' (first | (with_reducible rfl) | simp only [implies_true, kp_foldl, kp_foldl_pair, kp_mk, kp_eta, kp_ite, ite_self] | split | (with_reducible refine (kp_foldl _ _ _ ?_).trans ?_) | (with_reducible refine (kp_foldl_pair _ _ _ ?_).trans ?_) | intro _ _)

@[simp] theorem detect_keeps (s : State) (r : Rec) : kp (detect s r) = kp s := by
  unfold detect
  repeat' (first | (with_reducible rfl) | simp only [implies_true, kp_foldl, kp_foldl_pair, kp_mk, kp_eta, kp_ite, ite_self, see_keeps] | split | (with_reducible refine (kp_foldl _ _ _ ?_).trans ?_) | (with_reducible refine (kp_foldl_pair _ _ _ ?_).trans ?_) | intro _ _)

@[simp] theorem kFault_keeps (s : State) (src cause : Nat) (pt : Option Nat) (data : Nat) : kp (kFault s src cause pt data) = kp s := by
  unfold kFault
  repeat' (first | (with_reducible rfl) | simp only [implies_true, kp_foldl, kp_foldl_pair, kp_mk, kp_eta, kp_ite, ite_self, detect_keeps] | split | (with_reducible refine (kp_foldl _ _ _ ?_).trans ?_) | (with_reducible refine (kp_foldl_pair _ _ _ ?_).trans ?_) | intro _ _)

@[simp] theorem fFault_keeps (s : State) (src cause data : Nat) : kp (fFault s src cause data) = kp s := by
  unfold fFault
  repeat' (first | (with_reducible rfl) | simp only [implies_true, kp_foldl, kp_foldl_pair, kp_mk, kp_eta, kp_ite, ite_self, detect_keeps] | split | (with_reducible refine (kp_foldl _ _ _ ?_).trans ?_) | (with_reducible refine (kp_foldl_pair _ _ _ ?_).trans ?_) | intro _ _)

@[simp] theorem xFault_keeps (s : State) (src cause data : Nat) : kp (xFault s src cause data) = kp s := by
  unfold xFault
  repeat' (first | (with_reducible rfl) | simp only [implies_true, kp_foldl, kp_foldl_pair, kp_mk, kp_eta, kp_ite, ite_self, detect_keeps] | split | (with_reducible refine (kp_foldl _ _ _ ?_).trans ?_) | (with_reducible refine (kp_foldl_pair _ _ _ ?_).trans ?_) | intro _ _)

@[simp] theorem cFault_keeps (s : State) (src cause data : Nat) : kp (cFault s src cause data) = kp s := by
  unfold cFault
  repeat' (first | (with_reducible rfl) | simp only [implies_true, kp_foldl, kp_foldl_pair, kp_mk, kp_eta, kp_ite, ite_self, detect_keeps] | split | (with_reducible refine (kp_foldl _ _ _ ?_).trans ?_) | (with_reducible refine (kp_foldl_pair _ _ _ ?_).trans ?_) | intro _ _)

@[simp] theorem setEvc_keeps (s : State) (n : Nat) (x : Evc) : kp (setEvc s n x) = kp s := by
  unfold setEvc
  repeat' (first | (with_reducible rfl) | simp only [implies_true, kp_foldl, kp_foldl_pair, kp_mk, kp_eta, kp_ite, ite_self] | split | (with_reducible refine (kp_foldl _ _ _ ?_).trans ?_) | (with_reducible refine (kp_foldl_pair _ _ _ ?_).trans ?_) | intro _ _)

@[simp] theorem setTou_keeps (s : State) (k : Nat) (x : Tou) : kp (setTou s k x) = kp s := by
  unfold setTou
  repeat' (first | (with_reducible rfl) | simp only [implies_true, kp_foldl, kp_foldl_pair, kp_mk, kp_eta, kp_ite, ite_self] | split | (with_reducible refine (kp_foldl _ _ _ ?_).trans ?_) | (with_reducible refine (kp_foldl_pair _ _ _ ?_).trans ?_) | intro _ _)

@[simp] theorem setTsu_keeps (s : State) (p : Nat) (x : Tsu) : kp (setTsu s p x) = kp s := by
  unfold setTsu
  repeat' (first | (with_reducible rfl) | simp only [implies_true, kp_foldl, kp_foldl_pair, kp_mk, kp_eta, kp_ite, ite_self] | split | (with_reducible refine (kp_foldl _ _ _ ?_).trans ?_) | (with_reducible refine (kp_foldl_pair _ _ _ ?_).trans ?_) | intro _ _)

@[simp] theorem setEng_keeps (s : State) (e : Nat) (x : Eng) : kp (setEng s e x) = kp s := by
  unfold setEng
  repeat' (first | (with_reducible rfl) | simp only [implies_true, kp_foldl, kp_foldl_pair, kp_mk, kp_eta, kp_ite, ite_self] | split | (with_reducible refine (kp_foldl _ _ _ ?_).trans ?_) | (with_reducible refine (kp_foldl_pair _ _ _ ?_).trans ?_) | intro _ _)

@[simp] theorem setPtn_keeps (s : State) (n : Nat) (x : Ptn) : kp (setPtn s n x) = kp s := by
  unfold setPtn
  repeat' (first | (with_reducible rfl) | simp only [implies_true, kp_foldl, kp_foldl_pair, kp_mk, kp_eta, kp_ite, ite_self] | split | (with_reducible refine (kp_foldl _ _ _ ?_).trans ?_) | (with_reducible refine (kp_foldl_pair _ _ _ ?_).trans ?_) | intro _ _)

@[simp] theorem setPort_keeps (s : State) (p : Nat) (x : Port) : kp (setPort s p x) = kp s := by
  unfold setPort
  repeat' (first | (with_reducible rfl) | simp only [implies_true, kp_foldl, kp_foldl_pair, kp_mk, kp_eta, kp_ite, ite_self] | split | (with_reducible refine (kp_foldl _ _ _ ?_).trans ?_) | (with_reducible refine (kp_foldl_pair _ _ _ ?_).trans ?_) | intro _ _)

@[simp] theorem setRadio_keeps (s : State) (m : Nat) (x : Radio) : kp (setRadio s m x) = kp s := by
  unfold setRadio
  repeat' (first | (with_reducible rfl) | simp only [implies_true, kp_foldl, kp_foldl_pair, kp_mk, kp_eta, kp_ite, ite_self] | split | (with_reducible refine (kp_foldl _ _ _ ?_).trans ?_) | (with_reducible refine (kp_foldl_pair _ _ _ ?_).trans ?_) | intro _ _)

@[simp] theorem setBind_keeps (s : State) (f : Nat) (x : Bind) : kp (setBind s f x) = kp s := by
  unfold setBind
  repeat' (first | (with_reducible rfl) | simp only [implies_true, kp_foldl, kp_foldl_pair, kp_mk, kp_eta, kp_ite, ite_self] | split | (with_reducible refine (kp_foldl _ _ _ ?_).trans ?_) | (with_reducible refine (kp_foldl_pair _ _ _ ?_).trans ?_) | intro _ _)

@[simp] theorem setSq_keeps (s : State) (n i : Nat) (x : Sq) : kp (setSq s n i x) = kp s := by
  unfold setSq
  repeat' (first | (with_reducible rfl) | simp only [implies_true, kp_foldl, kp_foldl_pair, kp_mk, kp_eta, kp_ite, ite_self] | split | (with_reducible refine (kp_foldl _ _ _ ?_).trans ?_) | (with_reducible refine (kp_foldl_pair _ _ _ ?_).trans ?_) | intro _ _)

@[simp] theorem setCq_keeps (s : State) (n j : Nat) (x : Ring) : kp (setCq s n j x) = kp s := by
  unfold setCq
  repeat' (first | (with_reducible rfl) | simp only [implies_true, kp_foldl, kp_foldl_pair, kp_mk, kp_eta, kp_ite, ite_self] | split | (with_reducible refine (kp_foldl _ _ _ ?_).trans ?_) | (with_reducible refine (kp_foldl_pair _ _ _ ?_).trans ?_) | intro _ _)

@[simp] theorem setEr_keeps (s : State) (n k : Nat) (x : Ring) : kp (setEr s n k x) = kp s := by
  unfold setEr
  repeat' (first | (with_reducible rfl) | simp only [implies_true, kp_foldl, kp_foldl_pair, kp_mk, kp_eta, kp_ite, ite_self] | split | (with_reducible refine (kp_foldl _ _ _ ?_).trans ?_) | (with_reducible refine (kp_foldl_pair _ _ _ ?_).trans ?_) | intro _ _)

@[simp] theorem setQueue_keeps (s : State) (p q : Nat) (x : Queue) : kp (setQueue s p q x) = kp s := by
  unfold setQueue
  repeat' (first | (with_reducible rfl) | simp only [implies_true, kp_foldl, kp_foldl_pair, kp_mk, kp_eta, kp_ite, ite_self] | split | (with_reducible refine (kp_foldl _ _ _ ?_).trans ?_) | (with_reducible refine (kp_foldl_pair _ _ _ ?_).trans ?_) | intro _ _)

@[simp] theorem setSched_keeps (s : State) (p : Nat) (x : Sched) : kp (setSched s p x) = kp s := by
  unfold setSched
  repeat' (first | (with_reducible rfl) | simp only [implies_true, kp_foldl, kp_foldl_pair, kp_mk, kp_eta, kp_ite, ite_self] | split | (with_reducible refine (kp_foldl _ _ _ ?_).trans ?_) | (with_reducible refine (kp_foldl_pair _ _ _ ?_).trans ?_) | intro _ _)

@[simp] theorem setRsq_keeps (s : State) (i : Nat) (x : Rsq) : kp (setRsq s i x) = kp s := by
  unfold setRsq
  repeat' (first | (with_reducible rfl) | simp only [implies_true, kp_foldl, kp_foldl_pair, kp_mk, kp_eta, kp_ite, ite_self] | split | (with_reducible refine (kp_foldl _ _ _ ?_).trans ?_) | (with_reducible refine (kp_foldl_pair _ _ _ ?_).trans ?_) | intro _ _)

@[simp] theorem setCtr_keeps (s : State) (u c : Nat) (x : Ctr) : kp (setCtr s u c x) = kp s := by
  unfold setCtr
  repeat' (first | (with_reducible rfl) | simp only [implies_true, kp_foldl, kp_foldl_pair, kp_mk, kp_eta, kp_ite, ite_self] | split | (with_reducible refine (kp_foldl _ _ _ ?_).trans ?_) | (with_reducible refine (kp_foldl_pair _ _ _ ?_).trans ?_) | intro _ _)

@[simp] theorem setPkt_keeps (s : State) (p : Pkt) : kp (setPkt s p) = kp s := by
  unfold setPkt
  repeat' (first | (with_reducible rfl) | simp only [implies_true, kp_foldl, kp_foldl_pair, kp_mk, kp_eta, kp_ite, ite_self] | split | (with_reducible refine (kp_foldl _ _ _ ?_).trans ?_) | (with_reducible refine (kp_foldl_pair _ _ _ ?_).trans ?_) | intro _ _)

@[simp] theorem delPkt_keeps (s : State) (id : Nat) : kp (delPkt s id) = kp s := by
  unfold delPkt
  repeat' (first | (with_reducible rfl) | simp only [implies_true, kp_foldl, kp_foldl_pair, kp_mk, kp_eta, kp_ite, ite_self] | split | (with_reducible refine (kp_foldl _ _ _ ?_).trans ?_) | (with_reducible refine (kp_foldl_pair _ _ _ ?_).trans ?_) | intro _ _)

end Sys2Proof.Machine
end

