-- ==== Sys2Proof/Laws/KeepsEvents.lean ====
section
/-! SUPPORT. The operations of Machine/Events.lean keep the fuses and the queue of commands. -/

namespace Sys2Proof.Machine

@[simp] theorem count_keeps (s : State) (u sel n pt : Nat) : kp (count s u sel n pt) = kp s := by
  unfold count
  repeat' (first | (with_reducible rfl) | simp only [implies_true, kp_foldl, kp_foldl_pair, kp_mk, kp_eta, kp_ite, ite_self, setCtr_keeps] | split | (with_reducible refine (kp_foldl _ _ _ ?_).trans ?_) | (with_reducible refine (kp_foldl_pair _ _ _ ?_).trans ?_) | intro _ _)

@[simp] theorem setPba_keeps (s : State) (f v : Nat) (b : Bool) : kp (setPba s f v b) = kp s := by
  unfold setPba
  repeat' (first | (with_reducible rfl) | simp only [implies_true, kp_foldl, kp_foldl_pair, kp_mk, kp_eta, kp_ite, ite_self] | split | (with_reducible refine (kp_foldl _ _ _ ?_).trans ?_) | (with_reducible refine (kp_foldl_pair _ _ _ ?_).trans ?_) | intro _ _)

@[simp] theorem msixSend_keeps (s : State) (f v : Nat) : kp (msixSend s f v) = kp s := by
  unfold msixSend
  repeat' (first | (with_reducible rfl) | simp only [implies_true, kp_foldl, kp_foldl_pair, kp_mk, kp_eta, kp_ite, ite_self, setPba_keeps, emit_keeps] | split | (with_reducible refine (kp_foldl _ _ _ ?_).trans ?_) | (with_reducible refine (kp_foldl_pair _ _ _ ?_).trans ?_) | intro _ _)

@[simp] theorem ringMsix_keeps (s : State) (n : Nat) (r : Ring) : kp (ringMsix s n r) = kp s := by
  unfold ringMsix
  repeat' (first | (with_reducible rfl) | simp only [implies_true, kp_foldl, kp_foldl_pair, kp_mk, kp_eta, kp_ite, ite_self, msixSend_keeps] | split | (with_reducible refine (kp_foldl _ _ _ ?_).trans ?_) | (with_reducible refine (kp_foldl_pair _ _ _ ?_).trans ?_) | intro _ _)

@[simp] theorem cqSignal_keeps (s : State) (n j : Nat) : kp (cqSignal s n j) = kp s := by
  unfold cqSignal
  repeat' (first | (with_reducible rfl) | simp only [implies_true, kp_foldl, kp_foldl_pair, kp_mk, kp_eta, kp_ite, ite_self, ringMsix_keeps, setCq_keeps] | split | (with_reducible refine (kp_foldl _ _ _ ?_).trans ?_) | (with_reducible refine (kp_foldl_pair _ _ _ ?_).trans ?_) | intro _ _)

@[simp] theorem erSignal_keeps (s : State) (n k : Nat) : kp (erSignal s n k) = kp s := by
  unfold erSignal
  repeat' (first | (with_reducible rfl) | simp only [implies_true, kp_foldl, kp_foldl_pair, kp_mk, kp_eta, kp_ite, ite_self, ringMsix_keeps, setEr_keeps] | split | (with_reducible refine (kp_foldl _ _ _ ?_).trans ?_) | (with_reducible refine (kp_foldl_pair _ _ _ ?_).trans ?_) | intro _ _)

@[simp] theorem soeKeep_keeps (s : State) (src code data : Nat) (g : Grain) : kp (soeKeep s src code data g) = kp s := by
  unfold soeKeep
  repeat' (first | (with_reducible rfl) | simp only [implies_true, kp_foldl, kp_foldl_pair, kp_mk, kp_eta, kp_ite, ite_self] | split | (with_reducible refine (kp_foldl _ _ _ ?_).trans ?_) | (with_reducible refine (kp_foldl_pair _ _ _ ?_).trans ?_) | intro _ _)

@[simp] theorem erStore_keeps (s : State) (n : Nat) (r : Ring) (bytes : List Byte) : kp (erStore s n r bytes) = kp s := by
  unfold erStore
  repeat' (first | (with_reducible rfl) | simp only [implies_true, kp_foldl, kp_foldl_pair, kp_mk, kp_eta, kp_ite, ite_self, emit_keeps] | split | (with_reducible refine (kp_foldl _ _ _ ?_).trans ?_) | (with_reducible refine (kp_foldl_pair _ _ _ ?_).trans ?_) | intro _ _)

@[simp] theorem erPut_keeps (s : State) (n k src code data : Nat) (g : Grain) : kp (erPut s n k src code data g) = kp s := by
  unfold erPut
  repeat' (first | (with_reducible rfl) | simp only [implies_true, kp_foldl, kp_foldl_pair, kp_mk, kp_eta, kp_ite, ite_self, setEr_keeps, erStore_keeps, erSignal_keeps] | split | (with_reducible refine (kp_foldl _ _ _ ?_).trans ?_) | (with_reducible refine (kp_foldl_pair _ _ _ ?_).trans ?_) | intro _ _)

@[simp] theorem deliverLast_keeps (s : State) (n src code data : Nat) (g : Grain) : kp (deliverLast s n src code data g) = kp s := by
  unfold deliverLast
  repeat' (first | (with_reducible rfl) | simp only [implies_true, kp_foldl, kp_foldl_pair, kp_mk, kp_eta, kp_ite, ite_self, erPut_keeps] | split | (with_reducible refine (kp_foldl _ _ _ ?_).trans ?_) | (with_reducible refine (kp_foldl_pair _ _ _ ?_).trans ?_) | intro _ _)

@[simp] theorem deliver_keeps (s : State) (n src code data : Nat) (g : Grain) : kp (deliver s n src code data g) = kp s := by
  unfold deliver
  repeat' (first | (with_reducible rfl) | simp only [implies_true, kp_foldl, kp_foldl_pair, kp_mk, kp_eta, kp_ite, ite_self, erPut_keeps, deliverLast_keeps] | split | (with_reducible refine (kp_foldl _ _ _ ?_).trans ?_) | (with_reducible refine (kp_foldl_pair _ _ _ ?_).trans ?_) | intro _ _)

@[simp] theorem raiseAt_keeps (s : State) (src code data : Nat) (g : Grain) : kp (raiseAt s src code data g) = kp s := by
  unfold raiseAt
  repeat' (first | (with_reducible rfl) | simp only [implies_true, kp_foldl, kp_foldl_pair, kp_mk, kp_eta, kp_ite, ite_self, deliver_keeps, soeKeep_keeps] | split | (with_reducible refine (kp_foldl _ _ _ ?_).trans ?_) | (with_reducible refine (kp_foldl_pair _ _ _ ?_).trans ?_) | intro _ _)

@[simp] theorem raise_keeps (s : State) (src code data : Nat) : kp (raise s src code data) = kp s := by
  unfold raise
  repeat' (first | (with_reducible rfl) | simp only [implies_true, kp_foldl, kp_foldl_pair, kp_mk, kp_eta, kp_ite, ite_self, raiseAt_keeps] | split | (with_reducible refine (kp_foldl _ _ _ ?_).trans ?_) | (with_reducible refine (kp_foldl_pair _ _ _ ?_).trans ?_) | intro _ _)

@[simp] theorem raiseOnceAt_keeps (s : State) (kind unit src code data : Nat) (g : Grain) : kp (raiseOnceAt s kind unit src code data g) = kp s := by
  unfold raiseOnceAt
  repeat' (first | (with_reducible rfl) | simp only [implies_true, kp_foldl, kp_foldl_pair, kp_mk, kp_eta, kp_ite, ite_self, raiseAt_keeps] | split | (with_reducible refine (kp_foldl _ _ _ ?_).trans ?_) | (with_reducible refine (kp_foldl_pair _ _ _ ?_).trans ?_) | intro _ _)

@[simp] theorem raiseOnce_keeps (s : State) (kind unit src code data : Nat) : kp (raiseOnce s kind unit src code data) = kp s := by
  unfold raiseOnce
  repeat' (first | (with_reducible rfl) | simp only [implies_true, kp_foldl, kp_foldl_pair, kp_mk, kp_eta, kp_ite, ite_self, raiseOnceAt_keeps] | split | (with_reducible refine (kp_foldl _ _ _ ?_).trans ?_) | (with_reducible refine (kp_foldl_pair _ _ _ ?_).trans ?_) | intro _ _)

@[simp] theorem ringError_keeps (s : State) (n idx kind cause : Nat) : kp (ringError s n idx kind cause) = kp s := by
  unfold ringError
  repeat' (first | (with_reducible rfl) | simp only [implies_true, kp_foldl, kp_foldl_pair, kp_mk, kp_eta, kp_ite, ite_self, raise_keeps] | split | (with_reducible refine (kp_foldl _ _ _ ?_).trans ?_) | (with_reducible refine (kp_foldl_pair _ _ _ ?_).trans ?_) | intro _ _)

end Sys2Proof.Machine
end

