-- ==== Sys2Proof/Laws/KeepsAccess.lean ====
section
/-! SUPPORT. The operations of Machine/Access.lean keep the fuses and the queue of commands. -/

namespace Sys2Proof.Machine

@[simp] theorem refuse_keeps (s : State) (m : Master) (addr : Nat) (write : Bool) (cause : Nat) : kp (refuse s m addr write cause) = kp s := by
  unfold refuse
  repeat' (first | (with_reducible rfl) | simp only [implies_true, kp_foldl, kp_foldl_pair, kp_mk, kp_eta, kp_ite, ite_self, kFault_keeps] | split | (with_reducible refine (kp_foldl _ _ _ ?_).trans ?_) | (with_reducible refine (kp_foldl_pair _ _ _ ?_).trans ?_) | intro _ _)

@[simp] theorem readBack_keeps (s : State) (v : W32) : kp (readBack s v) = kp s := by
  unfold readBack
  repeat' (first | (with_reducible rfl) | simp only [implies_true, kp_foldl, kp_foldl_pair, kp_mk, kp_eta, kp_ite, ite_self] | split | (with_reducible refine (kp_foldl _ _ _ ?_).trans ?_) | (with_reducible refine (kp_foldl_pair _ _ _ ?_).trans ?_) | intro _ _)

@[simp] theorem regWr_keeps (s : State) (m : Master) (addr : Nat) (k : State → State) (h : ∀ t, kp (k t) = kp t) :
    kp (regWr s m addr k) = kp s := by
  unfold regWr
  split
  · exact refuse_keeps _ _ _ _ _
  · exact h s

@[simp] theorem regRd_keeps (s : State) (m : Master) (addr : Nat) (v : State → W32) (k : State → State)
    (h : ∀ t, kp (k t) = kp t) : kp (regRd s m addr v k) = kp s := by
  unfold regRd
  split
  · rw [readBack_keeps, refuse_keeps]
  · rw [readBack_keeps, h]

@[simp] theorem pendWrite_keeps (s : State) (addr : Nat) (v : W32) : kp (pendWrite s addr v) = kp s := by
  unfold pendWrite
  repeat' (first | (with_reducible rfl) | simp only [implies_true, kp_foldl, kp_foldl_pair, kp_mk, kp_eta, kp_ite, ite_self] | split | (with_reducible refine (kp_foldl _ _ _ ?_).trans ?_) | (with_reducible refine (kp_foldl_pair _ _ _ ?_).trans ?_) | intro _ _)

end Sys2Proof.Machine
end

