-- ==== Sys2Proof/Laws/KeepsCommands.lean ====
section
/-! SUPPORT. The operations of Machine/Commands.lean keep the fuses and the queue of commands. -/

namespace Sys2Proof.Machine

@[simp] theorem trackSlots_keeps (s : State) (n : Nat) : kp (trackSlots s n) = kp s := by
  unfold trackSlots
  repeat' (first | (with_reducible rfl) | simp only [implies_true, kp_foldl, kp_foldl_pair, kp_mk, kp_eta, kp_ite, ite_self, setPtn_keeps] | split | (with_reducible refine (kp_foldl _ _ _ ?_).trans ?_) | (with_reducible refine (kp_foldl_pair _ _ _ ?_).trans ?_) | intro _ _)

@[simp] theorem addCmd_keeps (s : State) (n : Nat) (sq : Option Nat) (bytes : List Byte) (g : Grain) : kp (addCmd s n sq bytes g) = kp s := by
  unfold addCmd
  repeat' (first | (with_reducible rfl) | simp only [implies_true, kp_foldl, kp_foldl_pair, kp_mk, kp_eta, kp_ite, ite_self, trackSlots_keeps] | split | (with_reducible refine (kp_foldl _ _ _ ?_).trans ?_) | (with_reducible refine (kp_foldl_pair _ _ _ ?_).trans ?_) | intro _ _)

@[simp] theorem modCmd_keeps (s : State) (id : Nat) (f : Cmd → Cmd) : kp (modCmd s id f) = kp s := by
  unfold modCmd
  repeat' (first | (with_reducible rfl) | simp only [implies_true, kp_foldl, kp_foldl_pair, kp_mk, kp_eta, kp_ite, ite_self] | split | (with_reducible refine (kp_foldl _ _ _ ?_).trans ?_) | (with_reducible refine (kp_foldl_pair _ _ _ ?_).trans ?_) | intro _ _)

@[simp] theorem leaveEngine_keeps (s : State) (id : Nat) : kp (leaveEngine s id) = kp s := by
  unfold leaveEngine
  repeat' (first | (with_reducible rfl) | simp only [implies_true, kp_foldl, kp_foldl_pair, kp_mk, kp_eta, kp_ite, ite_self, setEng_keeps] | split | (with_reducible refine (kp_foldl _ _ _ ?_).trans ?_) | (with_reducible refine (kp_foldl_pair _ _ _ ?_).trans ?_) | intro _ _)

@[simp] theorem dropCmd_keeps (s : State) (id : Nat) : kp (dropCmd s id) = kp s := by
  unfold dropCmd
  repeat' (first | (with_reducible rfl) | simp only [implies_true, kp_foldl, kp_foldl_pair, kp_mk, kp_eta, kp_ite, ite_self, leaveEngine_keeps] | split | (with_reducible refine (kp_foldl _ _ _ ?_).trans ?_) | (with_reducible refine (kp_foldl_pair _ _ _ ?_).trans ?_) | intro _ _)

@[simp] theorem completeDup_keeps (s : State) (id status : Nat) (dup : Bool) (result : List Byte) : kp (completeDup s id status dup result) = kp s := by
  unfold completeDup
  repeat' (first | (with_reducible rfl) | simp only [implies_true, kp_foldl, kp_foldl_pair, kp_mk, kp_eta, kp_ite, ite_self, leaveEngine_keeps, dropCmd_keeps, count_keeps, modCmd_keeps] | split | (with_reducible refine (kp_foldl _ _ _ ?_).trans ?_) | (with_reducible refine (kp_foldl_pair _ _ _ ?_).trans ?_) | intro _ _)

@[simp] theorem complete_keeps (s : State) (id status : Nat) (result : List Byte) : kp (complete s id status result) = kp s := by
  unfold complete
  repeat' (first | (with_reducible rfl) | simp only [implies_true, kp_foldl, kp_foldl_pair, kp_mk, kp_eta, kp_ite, ite_self, completeDup_keeps] | split | (with_reducible refine (kp_foldl _ _ _ ?_).trans ?_) | (with_reducible refine (kp_foldl_pair _ _ _ ?_).trans ?_) | intro _ _)

@[simp] theorem completeOpt_keeps (s : State) (id : Option Nat) (status : Nat) (result : List Byte) : kp (completeOpt s id status result) = kp s := by
  unfold completeOpt
  repeat' (first | (with_reducible rfl) | simp only [implies_true, kp_foldl, kp_foldl_pair, kp_mk, kp_eta, kp_ite, ite_self, complete_keeps] | split | (with_reducible refine (kp_foldl _ _ _ ?_).trans ?_) | (with_reducible refine (kp_foldl_pair _ _ _ ?_).trans ?_) | intro _ _)

@[simp] theorem runCmd_keeps (s : State) (id op : Nat) (f : State → Cmd → State) (h : ∀ t c, kp (f t c) = kp t) :
    kp (runCmd s id op f) = kp s := by
  unfold runCmd
  split
  · split
    · exact h _ _
    · rfl
  · rfl

@[simp] theorem running_keeps (s : State) (id : Nat) : kp (running s id) = kp s := by
  unfold running
  repeat' (first | (with_reducible rfl) | simp only [implies_true, kp_foldl, kp_foldl_pair, kp_mk, kp_eta, kp_ite, ite_self, modCmd_keeps] | split | (with_reducible refine (kp_foldl _ _ _ ?_).trans ?_) | (with_reducible refine (kp_foldl_pair _ _ _ ?_).trans ?_) | intro _ _)

@[simp] theorem bufWrite_keeps (s : State) (c : Cmd) (off : Nat) (bytes : List Byte) : kp (bufWrite s c off bytes) = kp s := by
  unfold bufWrite
  repeat' (first | (with_reducible rfl) | simp only [implies_true, kp_foldl, kp_foldl_pair, kp_mk, kp_eta, kp_ite, ite_self, emit_keeps] | split | (with_reducible refine (kp_foldl _ _ _ ?_).trans ?_) | (with_reducible refine (kp_foldl_pair _ _ _ ?_).trans ?_) | intro _ _)

@[simp] theorem bufOut_keeps (s : State) (c : Cmd) (ok : Bool) (off : Nat) (bytes : List Byte) (status : Nat) (result : List Byte) : kp (bufOut s c ok off bytes status result) = kp s := by
  unfold bufOut
  repeat' (first | (with_reducible rfl) | simp only [implies_true, kp_foldl, kp_foldl_pair, kp_mk, kp_eta, kp_ite, ite_self, complete_keeps, bufWrite_keeps] | split | (with_reducible refine (kp_foldl _ _ _ ?_).trans ?_) | (with_reducible refine (kp_foldl_pair _ _ _ ?_).trans ?_) | intro _ _)

end Sys2Proof.Machine
end

