-- ==== Sys2Proof/Laws/KeepsTwinBase.lean ====
section
/-! SUPPORT. The operations of Machine/TwinBase.lean keep the fuses and the queue of commands. -/

namespace Sys2Proof.Machine

@[simp] theorem torvSend_keeps (s : State) (type : Nat) (body : List Byte) : kp (torvSend s type body) = kp s := by
  unfold torvSend
  repeat' (first | (with_reducible rfl) | simp only [implies_true, kp_foldl, kp_foldl_pair, kp_mk, kp_eta, kp_ite, ite_self, emit_keeps] | split | (with_reducible refine (kp_foldl _ _ _ ?_).trans ?_) | (with_reducible refine (kp_foldl_pair _ _ _ ?_).trans ?_) | intro _ _)

@[simp] theorem timeChange_keeps (s : State) (c : TimeChg) : kp (timeChange s c) = kp s := by
  unfold timeChange
  repeat' (first | (with_reducible rfl) | simp only [implies_true, kp_foldl, kp_foldl_pair, kp_mk, kp_eta, kp_ite, ite_self, torvSend_keeps] | split | (with_reducible refine (kp_foldl _ _ _ ?_).trans ?_) | (with_reducible refine (kp_foldl_pair _ _ _ ?_).trans ?_) | intro _ _)

end Sys2Proof.Machine
end

