-- ==== Sys2Proof/Laws/KeepsCam.lean ====
section
/-! SUPPORT. The operations of Machine/Cam.lean keep the fuses and the queue of commands. -/

namespace Sys2Proof.Machine

@[simp] theorem setCamEnt_keeps (s : State) (b e : Nat) (x : Option CamEnt) : kp (setCamEnt s b e x) = kp s := by
  unfold setCamEnt
  repeat' (first | (with_reducible rfl) | simp only [implies_true, kp_foldl, kp_foldl_pair, kp_mk, kp_eta, kp_ite, ite_self] | split | (with_reducible refine (kp_foldl _ _ _ ?_).trans ?_) | (with_reducible refine (kp_foldl_pair _ _ _ ?_).trans ?_) | intro _ _)

@[simp] theorem camClear_keeps (s : State) (b : Nat) : kp (camClear s b) = kp s := by
  unfold camClear
  repeat' (first | (with_reducible rfl) | simp only [implies_true, kp_foldl, kp_foldl_pair, kp_mk, kp_eta, kp_ite, ite_self] | split | (with_reducible refine (kp_foldl _ _ _ ?_).trans ?_) | (with_reducible refine (kp_foldl_pair _ _ _ ?_).trans ?_) | intro _ _)

@[simp] theorem setWalk_keeps (s : State) (n c : Nat) (w : Option Walk) : kp (setWalk s n c w) = kp s := by
  unfold setWalk
  repeat' (first | (with_reducible rfl) | simp only [implies_true, kp_foldl, kp_foldl_pair, kp_mk, kp_eta, kp_ite, ite_self] | split | (with_reducible refine (kp_foldl _ _ _ ?_).trans ?_) | (with_reducible refine (kp_foldl_pair _ _ _ ?_).trans ?_) | intro _ _)

@[simp] theorem walkEnd_keeps (s : State) (n c : Nat) : kp (walkEnd s n c) = kp s := by
  unfold walkEnd
  repeat' (first | (with_reducible rfl) | simp only [implies_true, kp_foldl, kp_foldl_pair, kp_mk, kp_eta, kp_ite, ite_self, setWalk_keeps] | split | (with_reducible refine (kp_foldl _ _ _ ?_).trans ?_) | (with_reducible refine (kp_foldl_pair _ _ _ ?_).trans ?_) | intro _ _)

@[simp] theorem lookupDone_keeps (s : State) (c : Cmd) (p : Nat) (d : ProfDef) (key : BitVec 192) (a : CamAnswer) : kp (lookupDone s c p d key a) = kp s := by
  unfold lookupDone
  repeat' (first | (with_reducible rfl) | simp only [implies_true, kp_foldl, kp_foldl_pair, kp_mk, kp_eta, kp_ite, ite_self, count_keeps, complete_keeps, freeNext_keeps, setWalk_keeps] | split | (with_reducible refine (kp_foldl _ _ _ ?_).trans ?_) | (with_reducible refine (kp_foldl_pair _ _ _ ?_).trans ?_) | intro _ _)

@[simp] theorem stepDone_keeps (s : State) (c : Cmd) (a : CamAnswer) : kp (stepDone s c a) = kp s := by
  unfold stepDone
  repeat' (first | (with_reducible rfl) | simp only [implies_true, kp_foldl, kp_foldl_pair, kp_mk, kp_eta, kp_ite, ite_self, setWalk_keeps, count_keeps, complete_keeps, walkEnd_keeps] | split | (with_reducible refine (kp_foldl _ _ _ ?_).trans ?_) | (with_reducible refine (kp_foldl_pair _ _ _ ?_).trans ?_) | intro _ _)

@[simp] theorem slotPut_keeps (s : State) (r : CascReq) : kp (slotPut s r) = kp s := by
  unfold slotPut
  repeat' (first | (with_reducible rfl) | simp only [implies_true, kp_foldl, kp_foldl_pair, kp_mk, kp_eta, kp_ite, ite_self] | split | (with_reducible refine (kp_foldl _ _ _ ?_).trans ?_) | (with_reducible refine (kp_foldl_pair _ _ _ ?_).trans ?_) | intro _ _)

@[simp] theorem camWrite_keeps (s : State) (c : Cmd) : kp (camWrite s c) = kp s := by
  unfold camWrite
  repeat' (first | (with_reducible rfl) | simp only [implies_true, kp_foldl, kp_foldl_pair, kp_mk, kp_eta, kp_ite, ite_self, complete_keeps, setCamEnt_keeps] | split | (with_reducible refine (kp_foldl _ _ _ ?_).trans ?_) | (with_reducible refine (kp_foldl_pair _ _ _ ?_).trans ?_) | intro _ _)

@[simp] theorem camInvalidate_keeps (s : State) (c : Cmd) : kp (camInvalidate s c) = kp s := by
  unfold camInvalidate
  repeat' (first | (with_reducible rfl) | simp only [implies_true, kp_foldl, kp_foldl_pair, kp_mk, kp_eta, kp_ite, ite_self, complete_keeps] | split | (with_reducible refine (kp_foldl _ _ _ ?_).trans ?_) | (with_reducible refine (kp_foldl_pair _ _ _ ?_).trans ?_) | intro _ _)

@[simp] theorem camLookup_keeps (s : State) (c : Cmd) : kp (camLookup s c) = kp s := by
  unfold camLookup
  repeat' (first | (with_reducible rfl) | simp only [implies_true, kp_foldl, kp_foldl_pair, kp_mk, kp_eta, kp_ite, ite_self, complete_keeps, lookupDone_keeps, running_keeps, slotPut_keeps] | split | (with_reducible refine (kp_foldl _ _ _ ?_).trans ?_) | (with_reducible refine (kp_foldl_pair _ _ _ ?_).trans ?_) | intro _ _)

@[simp] theorem camStep_keeps (s : State) (c : Cmd) : kp (camStep s c) = kp s := by
  unfold camStep
  repeat' (first | (with_reducible rfl) | simp only [implies_true, kp_foldl, kp_foldl_pair, kp_mk, kp_eta, kp_ite, ite_self, complete_keeps, walkEnd_keeps, stepDone_keeps, running_keeps, slotPut_keeps] | split | (with_reducible refine (kp_foldl _ _ _ ?_).trans ?_) | (with_reducible refine (kp_foldl_pair _ _ _ ?_).trans ?_) | intro _ _)

@[simp] theorem camContextTimeout_keeps (n c : Nat) (s : State) : kp (camContextTimeout n c s) = kp s := by
  unfold camContextTimeout
  repeat' (first | (with_reducible rfl) | simp only [implies_true, kp_foldl, kp_foldl_pair, kp_mk, kp_eta, kp_ite, ite_self, setWalk_keeps] | split | (with_reducible refine (kp_foldl _ _ _ ?_).trans ?_) | (with_reducible refine (kp_foldl_pair _ _ _ ?_).trans ?_) | intro _ _)

@[simp] theorem camReturn_keeps (s : State) (p : Pkt) (a : CamAnswer) : kp (camReturn s p a) = kp s := by
  unfold camReturn
  repeat' (first | (with_reducible rfl) | simp only [implies_true, kp_foldl, kp_foldl_pair, kp_mk, kp_eta, kp_ite, ite_self, setPkt_keeps] | split | (with_reducible refine (kp_foldl _ _ _ ?_).trans ?_) | (with_reducible refine (kp_foldl_pair _ _ _ ?_).trans ?_) | intro _ _)

@[simp] theorem camPacket_keeps (s : State) (p : Pkt) (prof : Nat) : kp (camPacket s p prof) = kp s := by
  unfold camPacket
  repeat' (first | (with_reducible rfl) | simp only [implies_true, kp_foldl, kp_foldl_pair, kp_mk, kp_eta, kp_ite, ite_self, camReturn_keeps, slotPut_keeps] | split | (with_reducible refine (kp_foldl _ _ _ ?_).trans ?_) | (with_reducible refine (kp_foldl_pair _ _ _ ?_).trans ?_) | intro _ _)

@[simp] theorem moDrive_keeps (s : State) (g : Grain) : kp (moDrive s g) = kp s := by
  unfold moDrive
  repeat' (first | (with_reducible rfl) | simp only [implies_true, kp_foldl, kp_foldl_pair, kp_mk, kp_eta, kp_ite, ite_self, count_keeps] | split | (with_reducible refine (kp_foldl _ _ _ ?_).trans ?_) | (with_reducible refine (kp_foldl_pair _ _ _ ?_).trans ?_) | intro _ _)

@[simp] theorem cascCtlWrite_keeps (v : W32) (s : State) : kp (cascCtlWrite v s) = kp s := by
  unfold cascCtlWrite
  repeat' (first | (with_reducible rfl) | simp only [implies_true, kp_foldl, kp_foldl_pair, kp_mk, kp_eta, kp_ite, ite_self, count_keeps, pendWrite_keeps] | split | (with_reducible refine (kp_foldl _ _ _ ?_).trans ?_) | (with_reducible refine (kp_foldl_pair _ _ _ ?_).trans ?_) | intro _ _)

@[simp] theorem cascOff_keeps (s : State) : kp (cascOff s) = kp s := by
  unfold cascOff
  repeat' (first | (with_reducible rfl) | simp only [implies_true, kp_foldl, kp_foldl_pair, kp_mk, kp_eta, kp_ite, ite_self] | split | (with_reducible refine (kp_foldl _ _ _ ?_).trans ?_) | (with_reducible refine (kp_foldl_pair _ _ _ ?_).trans ?_) | intro _ _)

@[simp] theorem cascAligned_keeps (s : State) : kp (cascAligned s) = kp s := by
  unfold cascAligned
  repeat' (first | (with_reducible rfl) | simp only [implies_true, kp_foldl, kp_foldl_pair, kp_mk, kp_eta, kp_ite, ite_self, freeNext_keeps, count_keeps] | split | (with_reducible refine (kp_foldl _ _ _ ?_).trans ?_) | (with_reducible refine (kp_foldl_pair _ _ _ ?_).trans ?_) | intro _ _)

@[simp] theorem cascLaneLoss_keeps (up : Bool) (s : State) : kp (cascLaneLoss up s) = kp s := by
  unfold cascLaneLoss
  repeat' (first | (with_reducible rfl) | simp only [implies_true, kp_foldl, kp_foldl_pair, kp_mk, kp_eta, kp_ite, ite_self, fFault_keeps, count_keeps] | split | (with_reducible refine (kp_foldl _ _ _ ?_).trans ?_) | (with_reducible refine (kp_foldl_pair _ _ _ ?_).trans ?_) | intro _ _)

@[simp] theorem cascLookupIssue_keeps (mi : Bool) (s : State) : kp (cascLookupIssue mi s) = kp s := by
  unfold cascLookupIssue
  repeat' (first | (with_reducible rfl) | simp only [implies_true, kp_foldl, kp_foldl_pair, kp_mk, kp_eta, kp_ite, ite_self, count_keeps, emit_keeps, moDrive_keeps] | split | (with_reducible refine (kp_foldl _ _ _ ?_).trans ?_) | (with_reducible refine (kp_foldl_pair _ _ _ ?_).trans ?_) | intro _ _)

@[simp] theorem relay_keeps (s : State) (up : Bool) (b : List Byte) : kp (relay s up b) = kp s := by
  unfold relay
  repeat' (first | (with_reducible rfl) | simp only [implies_true, kp_foldl, kp_foldl_pair, kp_mk, kp_eta, kp_ite, ite_self, emit_keeps] | split | (with_reducible refine (kp_foldl _ _ _ ?_).trans ?_) | (with_reducible refine (kp_foldl_pair _ _ _ ?_).trans ?_) | intro _ _)

@[simp] theorem cascRequest_keeps (b : List Byte) (up mi : Bool) (s : State) : kp (cascRequest b up mi s) = kp s := by
  unfold cascRequest
  repeat' (first | (with_reducible rfl) | simp only [implies_true, kp_foldl, kp_foldl_pair, kp_mk, kp_eta, kp_ite, ite_self, relay_keeps, emit_keeps, count_keeps, kFault_keeps, moDrive_keeps] | split | (with_reducible refine (kp_foldl _ _ _ ?_).trans ?_) | (with_reducible refine (kp_foldl_pair _ _ _ ?_).trans ?_) | intro _ _)

@[simp] theorem cascResult_keeps (b : List Byte) (up : Bool) (s : State) : kp (cascResult b up s) = kp s := by
  unfold cascResult
  repeat' (first | (with_reducible rfl) | simp only [implies_true, kp_foldl, kp_foldl_pair, kp_mk, kp_eta, kp_ite, ite_self, relay_keeps, count_keeps] | split | (with_reducible refine (kp_foldl _ _ _ ?_).trans ?_) | (with_reducible refine (kp_foldl_pair _ _ _ ?_).trans ?_) | intro _ _)

@[simp] theorem cascResultForm_keeps (s : State) : kp (cascResultForm s) = kp s := by
  unfold cascResultForm
  repeat' (first | (with_reducible rfl) | simp only [implies_true, kp_foldl, kp_foldl_pair, kp_mk, kp_eta, kp_ite, ite_self, camReturn_keeps, stepDone_keeps, lookupDone_keeps] | split | (with_reducible refine (kp_foldl _ _ _ ?_).trans ?_) | (with_reducible refine (kp_foldl_pair _ _ _ ?_).trans ?_) | intro _ _)

@[simp] theorem camTake_keeps (s : State) (addr : Nat) : kp (camTake s addr) = kp s := by
  unfold camTake
  repeat' (first | (with_reducible rfl) | simp only [implies_true, kp_foldl, kp_foldl_pair, kp_mk, kp_eta, kp_ite, ite_self] | split | (with_reducible refine (kp_foldl _ _ _ ?_).trans ?_) | (with_reducible refine (kp_foldl_pair _ _ _ ?_).trans ?_) | intro _ _)

end Sys2Proof.Machine
end

