-- ==== Sys2Proof/Laws/KeepsPorts.lean ====
section
/-! SUPPORT. The operations of Machine/Ports.lean keep the fuses and the queue of commands. -/

namespace Sys2Proof.Machine

@[simp] theorem presentLink_keeps (s : State) (p : Nat) (up : Bool) (cause : Nat) : kp (presentLink s p up cause) = kp s := by
  unfold presentLink
  repeat' (first | (with_reducible rfl) | simp only [implies_true, kp_foldl, kp_foldl_pair, kp_mk, kp_eta, kp_ite, ite_self, see_keeps] | split | (with_reducible refine (kp_foldl _ _ _ ?_).trans ?_) | (with_reducible refine (kp_foldl_pair _ _ _ ?_).trans ?_) | intro _ _)

@[simp] theorem upHold_keeps (s : State) (p : Nat) : kp (upHold s p) = kp s := by
  unfold upHold
  repeat' (first | (with_reducible rfl) | simp only [implies_true, kp_foldl, kp_foldl_pair, kp_mk, kp_eta, kp_ite, ite_self, presentLink_keeps, setPort_keeps] | split | (with_reducible refine (kp_foldl _ _ _ ?_).trans ?_) | (with_reducible refine (kp_foldl_pair _ _ _ ?_).trans ?_) | intro _ _)

@[simp] theorem downHold_keeps (s : State) (p : Nat) : kp (downHold s p) = kp s := by
  unfold downHold
  repeat' (first | (with_reducible rfl) | simp only [implies_true, kp_foldl, kp_foldl_pair, kp_mk, kp_eta, kp_ite, ite_self, presentLink_keeps, setPort_keeps] | split | (with_reducible refine (kp_foldl _ _ _ ?_).trans ?_) | (with_reducible refine (kp_foldl_pair _ _ _ ?_).trans ?_) | intro _ _)

@[simp] theorem linkJudge_keeps (s : State) (p : Nat) : kp (linkJudge s p) = kp s := by
  unfold linkJudge
  repeat' (first | (with_reducible rfl) | simp only [implies_true, kp_foldl, kp_foldl_pair, kp_mk, kp_eta, kp_ite, ite_self, upHold_keeps, setPort_keeps, count_keeps, presentLink_keeps, raiseAt_keeps] | split | (with_reducible refine (kp_foldl _ _ _ ?_).trans ?_) | (with_reducible refine (kp_foldl_pair _ _ _ ?_).trans ?_) | intro _ _)

@[simp] theorem linkConditionChange_keeps (p : Nat) (c : LinkCond) (s : State) : kp (linkConditionChange p c s) = kp s := by
  unfold linkConditionChange
  repeat' (first | (with_reducible rfl) | simp only [implies_true, kp_foldl, kp_foldl_pair, kp_mk, kp_eta, kp_ite, ite_self, linkJudge_keeps, setPort_keeps, cFault_keeps, raiseAt_keeps, count_keeps] | split | (with_reducible refine (kp_foldl _ _ _ ?_).trans ?_) | (with_reducible refine (kp_foldl_pair _ _ _ ?_).trans ?_) | intro _ _)

@[simp] theorem linkUnsee_keeps (s : State) (p : Nat) : kp (linkUnsee s p) = kp s := by
  unfold linkUnsee
  repeat' (first | (with_reducible rfl) | simp only [implies_true, kp_foldl, kp_foldl_pair, kp_mk, kp_eta, kp_ite, ite_self] | split | (with_reducible refine (kp_foldl _ _ _ ?_).trans ?_) | (with_reducible refine (kp_foldl_pair _ _ _ ?_).trans ?_) | intro _ _)

@[simp] theorem adminDecision_keeps (s : State) (p : Nat) (st : Nat) : kp (adminDecision s p st) = kp s := by
  unfold adminDecision
  repeat' (first | (with_reducible rfl) | simp only [implies_true, kp_foldl, kp_foldl_pair, kp_mk, kp_eta, kp_ite, ite_self, linkUnsee_keeps, presentLink_keeps] | split | (with_reducible refine (kp_foldl _ _ _ ?_).trans ?_) | (with_reducible refine (kp_foldl_pair _ _ _ ?_).trans ?_) | intro _ _)

@[simp] theorem modeDecision_keeps (s : State) (p : Nat) (st : Nat) : kp (modeDecision s p st) = kp s := by
  unfold modeDecision
  repeat' (first | (with_reducible rfl) | simp only [implies_true, kp_foldl, kp_foldl_pair, kp_mk, kp_eta, kp_ite, ite_self, seeNow_keeps] | split | (with_reducible refine (kp_foldl _ _ _ ?_).trans ?_) | (with_reducible refine (kp_foldl_pair _ _ _ ?_).trans ?_) | intro _ _)

@[simp] theorem portOff_keeps (s : State) (p : Nat) : kp (portOff s p) = kp s := by
  unfold portOff
  repeat' (first | (with_reducible rfl) | simp only [implies_true, kp_foldl, kp_foldl_pair, kp_mk, kp_eta, kp_ite, ite_self, setPort_keeps] | split | (with_reducible refine (kp_foldl _ _ _ ?_).trans ?_) | (with_reducible refine (kp_foldl_pair _ _ _ ?_).trans ?_) | intro _ _)

@[simp] theorem squelchAll_keeps (s : State) : kp (squelchAll s) = kp s := by
  unfold squelchAll
  repeat' (first | (with_reducible rfl) | simp only [implies_true, kp_foldl, kp_foldl_pair, kp_mk, kp_eta, kp_ite, ite_self, setPort_keeps] | split | (with_reducible refine (kp_foldl _ _ _ ?_).trans ?_) | (with_reducible refine (kp_foldl_pair _ _ _ ?_).trans ?_) | intro _ _)

@[simp] theorem portAcquire_keeps (s : State) (p : Nat) : kp (portAcquire s p) = kp s := by
  unfold portAcquire
  repeat' (first | (with_reducible rfl) | simp only [implies_true, kp_foldl, kp_foldl_pair, kp_mk, kp_eta, kp_ite, ite_self, modeDecision_keeps, setPort_keeps] | split | (with_reducible refine (kp_foldl _ _ _ ?_).trans ?_) | (with_reducible refine (kp_foldl_pair _ _ _ ?_).trans ?_) | intro _ _)

@[simp] theorem portCtlApply_keeps (s : State) (p : Nat) (v : W32) : kp (portCtlApply s p v) = kp s := by
  unfold portCtlApply
  repeat' (first | (with_reducible rfl) | simp only [implies_true, kp_foldl, kp_foldl_pair, kp_mk, kp_eta, kp_ite, ite_self, setPort_keeps, upHold_keeps, adminDecision_keeps, portOff_keeps, portAcquire_keeps, downHold_keeps] | split | (with_reducible refine (kp_foldl _ _ _ ?_).trans ?_) | (with_reducible refine (kp_foldl_pair _ _ _ ?_).trans ?_) | intro _ _)

@[simp] theorem portModeApply_keeps (s : State) (p : Nat) : kp (portModeApply s p) = kp s := by
  unfold portModeApply
  repeat' (first | (with_reducible rfl) | simp only [implies_true, kp_foldl, kp_foldl_pair, kp_mk, kp_eta, kp_ite, ite_self, modeDecision_keeps, portOff_keeps, portAcquire_keeps] | split | (with_reducible refine (kp_foldl _ _ _ ?_).trans ?_) | (with_reducible refine (kp_foldl_pair _ _ _ ?_).trans ?_) | intro _ _)

@[simp] theorem txeqApply_keeps (s : State) (p : Nat) (v : W32) : kp (txeqApply s p v) = kp s := by
  unfold txeqApply
  repeat' (first | (with_reducible rfl) | simp only [implies_true, kp_foldl, kp_foldl_pair, kp_mk, kp_eta, kp_ite, ite_self, setPort_keeps] | split | (with_reducible refine (kp_foldl _ _ _ ?_).trans ?_) | (with_reducible refine (kp_foldl_pair _ _ _ ?_).trans ?_) | intro _ _)

@[simp] theorem prtTake_keeps (s : State) (p off : Nat) : kp (prtTake s p off) = kp s := by
  unfold prtTake
  repeat' (first | (with_reducible rfl) | simp only [implies_true, kp_foldl, kp_foldl_pair, kp_mk, kp_eta, kp_ite, ite_self, setPort_keeps] | split | (with_reducible refine (kp_foldl _ _ _ ?_).trans ?_) | (with_reducible refine (kp_foldl_pair _ _ _ ?_).trans ?_) | intro _ _)

@[simp] theorem fecCount_keeps (s : State) (p corr uncorr : Nat) : kp (fecCount s p corr uncorr) = kp s := by
  unfold fecCount
  repeat' (first | (with_reducible rfl) | simp only [implies_true, kp_foldl, kp_foldl_pair, kp_mk, kp_eta, kp_ite, ite_self, setPort_keeps, raiseOnce_keeps] | split | (with_reducible refine (kp_foldl _ _ _ ?_).trans ?_) | (with_reducible refine (kp_foldl_pair _ _ _ ?_).trans ?_) | intro _ _)

end Sys2Proof.Machine
end

