-- ==== Sys2Proof/Laws/KeepsFdb.lean ====
section
/-! SUPPORT. The operations of Machine/Fdb.lean keep the fuses and the queue of commands. -/

namespace Sys2Proof.Machine

@[simp] theorem setFdbEnt_keeps (s : State) (b w : Nat) (x : Option FdbEnt) : kp (setFdbEnt s b w x) = kp s := by
  unfold setFdbEnt
  repeat' (first | (with_reducible rfl) | simp only [implies_true, kp_foldl, kp_foldl_pair, kp_mk, kp_eta, kp_ite, ite_self] | split | (with_reducible refine (kp_foldl _ _ _ ?_).trans ?_) | (with_reducible refine (kp_foldl_pair _ _ _ ?_).trans ?_) | intro _ _)

@[simp] theorem fdbRemove_keeps (s : State) (f : Nat → FdbEnt → Bool) : kp (fdbRemove s f) = kp s := by
  unfold fdbRemove
  repeat' (first | (with_reducible rfl) | simp only [implies_true, kp_foldl, kp_foldl_pair, kp_mk, kp_eta, kp_ite, ite_self] | split | (with_reducible refine (kp_foldl _ _ _ ?_).trans ?_) | (with_reducible refine (kp_foldl_pair _ _ _ ?_).trans ?_) | intro _ _)

@[simp] theorem carryTouch_keeps (s : State) (n i : Nat) (x : FdbEnt) : kp (carryTouch s n i x) = kp s := by
  unfold carryTouch
  repeat' (first | (with_reducible rfl) | simp only [implies_true, kp_foldl, kp_foldl_pair, kp_mk, kp_eta, kp_ite, ite_self, count_keeps, torvSend_keeps] | split | (with_reducible refine (kp_foldl _ _ _ ?_).trans ?_) | (with_reducible refine (kp_foldl_pair _ _ _ ?_).trans ?_) | intro _ _)

@[simp] theorem fdbTouch_keeps (s : State) (n b w : Nat) (x : FdbEnt) (g : Grain) : kp (fdbTouch s n b w x g) = kp s := by
  unfold fdbTouch
  repeat' (first | (with_reducible rfl) | simp only [implies_true, kp_foldl, kp_foldl_pair, kp_mk, kp_eta, kp_ite, ite_self, carryTouch_keeps, setFdbEnt_keeps] | split | (with_reducible refine (kp_foldl _ _ _ ?_).trans ?_) | (with_reducible refine (kp_foldl_pair _ _ _ ?_).trans ?_) | intro _ _)

@[simp] theorem learnDrop_keeps (s : State) (n : Nat) (g : Grain) : kp (learnDrop s n g) = kp s := by
  unfold learnDrop
  repeat' (first | (with_reducible rfl) | simp only [implies_true, kp_foldl, kp_foldl_pair, kp_mk, kp_eta, kp_ite, ite_self, raiseOnceAt_keeps, setPtn_keeps] | split | (with_reducible refine (kp_foldl _ _ _ ?_).trans ?_) | (with_reducible refine (kp_foldl_pair _ _ _ ?_).trans ?_) | intro _ _)

@[simp] theorem fdbLearn_keeps (s : State) (e : LearnEv) (g : Grain) : kp (fdbLearn s e g) = kp s := by
  unfold fdbLearn
  repeat' (first | (with_reducible rfl) | simp only [implies_true, kp_foldl, kp_foldl_pair, kp_mk, kp_eta, kp_ite, ite_self, fdbTouch_keeps, learnDrop_keeps, count_keeps] | split | (with_reducible refine (kp_foldl _ _ _ ?_).trans ?_) | (with_reducible refine (kp_foldl_pair _ _ _ ?_).trans ?_) | intro _ _)

@[simp] theorem countMove_keeps (s : State) (n : Nat) : kp (countMove s n) = kp s := by
  unfold countMove
  repeat' (first | (with_reducible rfl) | simp only [implies_true, kp_foldl, kp_foldl_pair, kp_mk, kp_eta, kp_ite, ite_self, setPtn_keeps] | split | (with_reducible refine (kp_foldl _ _ _ ?_).trans ?_) | (with_reducible refine (kp_foldl_pair _ _ _ ?_).trans ?_) | intro _ _)

@[simp] theorem learnMove_keeps (s : State) (e : LearnEv) (g : Grain) (remote : Bool) (b w : Nat) (x : FdbEnt) : kp (learnMove s e g remote b w x) = kp s := by
  unfold learnMove
  repeat' (first | (with_reducible rfl) | simp only [implies_true, kp_foldl, kp_foldl_pair, kp_mk, kp_eta, kp_ite, ite_self, countMove_keeps, setFdbEnt_keeps, raiseAt_keeps] | split | (with_reducible refine (kp_foldl _ _ _ ?_).trans ?_) | (with_reducible refine (kp_foldl_pair _ _ _ ?_).trans ?_) | intro _ _)

@[simp] theorem learnApply_keeps (s : State) (e : LearnEv) (g : Grain) (remote : Bool) : kp (learnApply s e g remote) = kp s := by
  unfold learnApply
  repeat' (first | (with_reducible rfl) | simp only [implies_true, kp_foldl, kp_foldl_pair, kp_mk, kp_eta, kp_ite, ite_self, learnDrop_keeps, count_keeps, setFdbEnt_keeps, raiseAt_keeps, setPtn_keeps, learnMove_keeps] | split | (with_reducible refine (kp_foldl _ _ _ ?_).trans ?_) | (with_reducible refine (kp_foldl_pair _ _ _ ?_).trans ?_) | intro _ _)

@[simp] theorem sweepApply_keeps (s : State) (b : Nat) (g : Grain) (remote : Bool) : kp (sweepApply s b g remote) = kp s := by
  unfold sweepApply
  repeat' (first | (with_reducible rfl) | simp only [implies_true, kp_foldl, kp_foldl_pair, kp_mk, kp_eta, kp_ite, ite_self, freeNext_keeps, setPtn_keeps, setFdbEnt_keeps] | split | (with_reducible refine (kp_foldl _ _ _ ?_).trans ?_) | (with_reducible refine (kp_foldl_pair _ _ _ ?_).trans ?_) | intro _ _)

@[simp] theorem fdbWriteEff_keeps (s : State) (n : Nat) (l : List Byte) (g : Grain) (remote : Bool) : kp (fdbWriteEff s n l g remote).1 = kp s := by
  unfold fdbWriteEff
  repeat' (first | (with_reducible rfl) | simp only [implies_true, kp_foldl, kp_foldl_pair, kp_mk, kp_eta, kp_ite, ite_self, setFdbEnt_keeps, count_keeps] | split | (with_reducible refine (kp_foldl _ _ _ ?_).trans ?_) | (with_reducible refine (kp_foldl_pair _ _ _ ?_).trans ?_) | intro _ _)

@[simp] theorem fdbDeleteEff_keeps (s : State) (n : Nat) (l : List Byte) : kp (fdbDeleteEff s n l).1 = kp s := by
  unfold fdbDeleteEff
  repeat' (first | (with_reducible rfl) | simp only [implies_true, kp_foldl, kp_foldl_pair, kp_mk, kp_eta, kp_ite, ite_self, setFdbEnt_keeps] | split | (with_reducible refine (kp_foldl _ _ _ ?_).trans ?_) | (with_reducible refine (kp_foldl_pair _ _ _ ?_).trans ?_) | intro _ _)

@[simp] theorem fdbFlushEff_keeps (s : State) (n : Nat) (l : List Byte) : kp (fdbFlushEff s n l).1 = kp s := by
  unfold fdbFlushEff
  repeat' (first | (with_reducible rfl) | simp only [implies_true, kp_foldl, kp_foldl_pair, kp_mk, kp_eta, kp_ite, ite_self, fdbRemove_keeps] | split | (with_reducible refine (kp_foldl _ _ _ ?_).trans ?_) | (with_reducible refine (kp_foldl_pair _ _ _ ?_).trans ?_) | intro _ _)

@[simp] theorem fdbEff_keeps (s : State) (n : Nat) (l : List Byte) (g : Grain) (remote : Bool) : kp (fdbEff s n l g remote).1 = kp s := by
  unfold fdbEff
  repeat' (first | (with_reducible rfl) | simp only [implies_true, kp_foldl, kp_foldl_pair, kp_mk, kp_eta, kp_ite, ite_self, fdbWriteEff_keeps, fdbDeleteEff_keeps, fdbFlushEff_keeps] | split | (have h1 := congrArg (fun p => kp p.1) ‹fdbWriteEff _ _ _ _ _ = _›; simp only [implies_true, kp_foldl, kp_foldl_pair, kp_mk, kp_eta, kp_ite, ite_self, fdbWriteEff_keeps, fdbDeleteEff_keeps, fdbFlushEff_keeps] at h1; exact h1.symm) | (have h1 := congrArg (fun p => kp p.1) ‹fdbDeleteEff _ _ _ = _›; simp only [implies_true, kp_foldl, kp_foldl_pair, kp_mk, kp_eta, kp_ite, ite_self, fdbWriteEff_keeps, fdbDeleteEff_keeps, fdbFlushEff_keeps] at h1; exact h1.symm) | (have h1 := congrArg (fun p => kp p.1) ‹fdbFlushEff _ _ _ = _›; simp only [implies_true, kp_foldl, kp_foldl_pair, kp_mk, kp_eta, kp_ite, ite_self, fdbWriteEff_keeps, fdbDeleteEff_keeps, fdbFlushEff_keeps] at h1; exact h1.symm) | (with_reducible refine (kp_foldl _ _ _ ?_).trans ?_) | (with_reducible refine (kp_foldl_pair _ _ _ ?_).trans ?_) | intro _ _)

@[simp] theorem carry_keeps (s : State) (c : Cmd) : kp (carry s c) = kp s := by
  unfold carry
  repeat' (first | (with_reducible rfl) | simp only [implies_true, kp_foldl, kp_foldl_pair, kp_mk, kp_eta, kp_ite, ite_self, running_keeps, torvSend_keeps] | split | (with_reducible refine (kp_foldl _ _ _ ?_).trans ?_) | (with_reducible refine (kp_foldl_pair _ _ _ ?_).trans ?_) | intro _ _)

@[simp] theorem fdbCommand_keeps (s : State) (c : Cmd) : kp (fdbCommand s c) = kp s := by
  unfold fdbCommand
  repeat' (first | (with_reducible rfl) | simp only [implies_true, kp_foldl, kp_foldl_pair, kp_mk, kp_eta, kp_ite, ite_self, carry_keeps, complete_keeps, fdbEff_keeps] | split | (have h1 := congrArg (fun p => kp p.1) ‹fdbEff _ _ _ _ _ = _›; simp only [implies_true, kp_foldl, kp_foldl_pair, kp_mk, kp_eta, kp_ite, ite_self, carry_keeps, complete_keeps, fdbEff_keeps] at h1; exact h1.symm) | (with_reducible refine (kp_foldl _ _ _ ?_).trans ?_) | (with_reducible refine (kp_foldl_pair _ _ _ ?_).trans ?_) | intro _ _)

@[simp] theorem fdbRead_keeps (s : State) (c : Cmd) : kp (fdbRead s c) = kp s := by
  unfold fdbRead
  repeat' (first | (with_reducible rfl) | simp only [implies_true, kp_foldl, kp_foldl_pair, kp_mk, kp_eta, kp_ite, ite_self, complete_keeps] | split | (with_reducible refine (kp_foldl _ _ _ ?_).trans ?_) | (with_reducible refine (kp_foldl_pair _ _ _ ?_).trans ?_) | intro _ _)

@[simp] theorem fdbReturn_keeps (s : State) (p : Pkt) : kp (fdbReturn s p) = kp s := by
  unfold fdbReturn
  repeat' (first | (with_reducible rfl) | simp only [implies_true, kp_foldl, kp_foldl_pair, kp_mk, kp_eta, kp_ite, ite_self, count_keeps, setPkt_keeps] | split | (with_reducible refine (kp_foldl _ _ _ ?_).trans ?_) | (with_reducible refine (kp_foldl_pair _ _ _ ?_).trans ?_) | intro _ _)

@[simp] theorem fdbRegTake_keeps (s : State) (n off : Nat) : kp (fdbRegTake s n off) = kp s := by
  unfold fdbRegTake
  repeat' (first | (with_reducible rfl) | simp only [implies_true, kp_foldl, kp_foldl_pair, kp_mk, kp_eta, kp_ite, ite_self, setPtn_keeps, learnDrop_keeps] | split | (with_reducible refine (kp_foldl _ _ _ ?_).trans ?_) | (with_reducible refine (kp_foldl_pair _ _ _ ?_).trans ?_) | intro _ _)

@[simp] theorem tableEnds_keeps (s : State) : kp (tableEnds s) = kp s := by
  unfold tableEnds
  repeat' (first | (with_reducible rfl) | simp only [implies_true, kp_foldl, kp_foldl_pair, kp_mk, kp_eta, kp_ite, ite_self, complete_keeps] | split | (with_reducible refine (kp_foldl _ _ _ ?_).trans ?_) | (with_reducible refine (kp_foldl_pair _ _ _ ?_).trans ?_) | intro _ _)

end Sys2Proof.Machine
end

