-- ==== Sys2Proof/Laws/KeepsMt.lean ====
section
/-! SUPPORT. The operations of Machine/Mt.lean keep the fuses and the queue of commands. -/

namespace Sys2Proof.Machine

@[simp] theorem ddrCorr_keeps (s : State) (tile : Nat) : kp (ddrCorr s tile) = kp s := by
  unfold ddrCorr
  repeat' (first | (with_reducible rfl) | simp only [implies_true, kp_foldl, kp_foldl_pair, kp_mk, kp_eta, kp_ite, ite_self, cFault_keeps] | split | (with_reducible refine (kp_foldl _ _ _ ?_).trans ?_) | (with_reducible refine (kp_foldl_pair _ _ _ ?_).trans ?_) | intro _ _)

@[simp] theorem ddrUncorr_keeps (s : State) (tile : Nat) (pt : Option Nat) : kp (ddrUncorr s tile pt) = kp s := by
  unfold ddrUncorr
  repeat' (first | (with_reducible rfl) | simp only [implies_true, kp_foldl, kp_foldl_pair, kp_mk, kp_eta, kp_ite, ite_self, raise_keeps, kFault_keeps] | split | (with_reducible refine (kp_foldl _ _ _ ?_).trans ?_) | (with_reducible refine (kp_foldl_pair _ _ _ ?_).trans ?_) | intro _ _)

@[simp] theorem t2Read_keeps (s : State) (e : Epoch) (t w pt : Nat) (ddr : BitVec 2) : kp (t2Read s e t w pt ddr).1 = kp s := by
  unfold t2Read
  repeat' (first | (with_reducible rfl) | simp only [implies_true, kp_foldl, kp_foldl_pair, kp_mk, kp_eta, kp_ite, ite_self, ddrCorr_keeps, ddrUncorr_keeps] | split | (with_reducible refine (kp_foldl _ _ _ ?_).trans ?_) | (with_reducible refine (kp_foldl_pair _ _ _ ?_).trans ?_) | intro _ _)

@[simp] theorem ddrPatrolScrub_keeps (addr : Nat) (status : BitVec 2) (s : State) : kp (ddrPatrolScrub addr status s) = kp s := by
  unfold ddrPatrolScrub
  repeat' (first | (with_reducible rfl) | simp only [implies_true, kp_foldl, kp_foldl_pair, kp_mk, kp_eta, kp_ite, ite_self, ddrCorr_keeps, ddrUncorr_keeps] | split | (with_reducible refine (kp_foldl _ _ _ ?_).trans ?_) | (with_reducible refine (kp_foldl_pair _ _ _ ?_).trans ?_) | intro _ _)

@[simp] theorem ddrTrainingComplete_keeps (aOk bOk : Bool) (rate : BitVec 2) (gib : BitVec 8) (s : State) : kp (ddrTrainingComplete aOk bOk rate gib s) = kp s := by
  unfold ddrTrainingComplete
  repeat' (first | (with_reducible rfl) | simp only [implies_true, kp_foldl, kp_foldl_pair, kp_mk, kp_eta, kp_ite, ite_self] | split | (with_reducible refine (kp_foldl _ _ _ ?_).trans ?_) | (with_reducible refine (kp_foldl_pair _ _ _ ?_).trans ?_) | intro _ _)

@[simp] theorem ddrCaseTemperatureChange_keeps (hot : Bool) (s : State) : kp (ddrCaseTemperatureChange hot s) = kp s := by
  unfold ddrCaseTemperatureChange
  repeat' (first | (with_reducible rfl) | simp only [implies_true, kp_foldl, kp_foldl_pair, kp_mk, kp_eta, kp_ite, ite_self] | split | (with_reducible refine (kp_foldl _ _ _ ?_).trans ?_) | (with_reducible refine (kp_foldl_pair _ _ _ ?_).trans ?_) | intro _ _)

@[simp] theorem t2Stage_keeps (data : List Byte) (ok : Bool) (s : State) (c : Cmd) : kp (t2Stage data ok s c) = kp s := by
  unfold t2Stage
  repeat' (first | (with_reducible rfl) | simp only [implies_true, kp_foldl, kp_foldl_pair, kp_mk, kp_eta, kp_ite, ite_self, complete_keeps, running_keeps] | split | (with_reducible refine (kp_foldl _ _ _ ?_).trans ?_) | (with_reducible refine (kp_foldl_pair _ _ _ ?_).trans ?_) | intro _ _)

@[simp] theorem t2StageWriteStart_keeps (id : Nat) (s : State) : kp (t2StageWriteStart id s) = kp s := by
  unfold t2StageWriteStart
  repeat' (first | (with_reducible rfl) | simp only [implies_true, kp_foldl, kp_foldl_pair, kp_mk, kp_eta, kp_ite, ite_self] | split | (with_reducible refine (kp_foldl _ _ _ ?_).trans ?_) | (with_reducible refine (kp_foldl_pair _ _ _ ?_).trans ?_) | intro _ _)

@[simp] theorem t2StageComplete_keeps (id : Nat) (s : State) : kp (t2StageComplete id s) = kp s := by
  unfold t2StageComplete
  repeat' (first | (with_reducible rfl) | simp only [implies_true, kp_foldl, kp_foldl_pair, kp_mk, kp_eta, kp_ite, ite_self, complete_keeps] | split | (with_reducible refine (kp_foldl _ _ _ ?_).trans ?_) | (with_reducible refine (kp_foldl_pair _ _ _ ?_).trans ?_) | intro _ _)

@[simp] theorem setTile_keeps (s : State) (t : Nat) (x : Option Tile) : kp (setTile s t x) = kp s := by
  unfold setTile
  repeat' (first | (with_reducible rfl) | simp only [implies_true, kp_foldl, kp_foldl_pair, kp_mk, kp_eta, kp_ite, ite_self] | split | (with_reducible refine (kp_foldl _ _ _ ?_).trans ?_) | (with_reducible refine (kp_foldl_pair _ _ _ ?_).trans ?_) | intro _ _)

@[simp] theorem evict_keeps (s : State) (t : Nat) (x : Tile) : kp (evict s t x) = kp s := by
  unfold evict
  repeat' (first | (with_reducible rfl) | simp only [implies_true, kp_foldl, kp_foldl_pair, kp_mk, kp_eta, kp_ite, ite_self, setTile_keeps, setPtn_keeps] | split | (with_reducible refine (kp_foldl _ _ _ ?_).trans ?_) | (with_reducible refine (kp_foldl_pair _ _ _ ?_).trans ?_) | intro _ _)

theorem allocTile_keeps (s : State) (n : Nat) (red : Bool) (home : Option Nat) (x : State × Nat)
    (h : allocTile s n red home = some x) : kp x.1 = kp s := by
  unfold allocTile at h
  dsimp only at h
  split at h
  · cases h; simp only [setTile_keeps]
  · split at h
    · cases h; simp only [setTile_keeps, evict_keeps]
    · cases h

@[simp] theorem makeRoom_keeps (s : State) (e : Nat) : kp (makeRoom s e) = kp s := by
  unfold makeRoom
  repeat' (first | (with_reducible rfl) | simp only [implies_true, kp_foldl, kp_foldl_pair, kp_mk, kp_eta, kp_ite, ite_self, count_keeps, setTile_keeps] | split | (with_reducible refine (kp_foldl _ _ _ ?_).trans ?_) | (with_reducible refine (kp_foldl_pair _ _ _ ?_).trans ?_) | intro _ _)

@[simp] theorem stateWait_keeps (s : State) (pkt : Nat) (t : Option Nat) : kp (stateWait s pkt t) = kp s := by
  unfold stateWait
  repeat' (first | (with_reducible rfl) | simp only [implies_true, kp_foldl, kp_foldl_pair, kp_mk, kp_eta, kp_ite, ite_self, count_keeps] | split | (with_reducible refine (kp_foldl _ _ _ ?_).trans ?_) | (with_reducible refine (kp_foldl_pair _ _ _ ?_).trans ?_) | intro _ _)

@[simp] theorem stateServed_keeps (s : State) (pkt : Nat) : kp (stateServed s pkt) = kp s := by
  unfold stateServed
  repeat' (first | (with_reducible rfl) | simp only [implies_true, kp_foldl, kp_foldl_pair, kp_mk, kp_eta, kp_ite, ite_self] | split | (with_reducible refine (kp_foldl _ _ _ ?_).trans ?_) | (with_reducible refine (kp_foldl_pair _ _ _ ?_).trans ?_) | intro _ _)

@[simp] theorem stateAccess_keeps (s : State) (e pkt n : Nat) (k : StateKey) : kp (stateAccess s e pkt n k).1 = kp s := by
  unfold stateAccess
  repeat' (first | (with_reducible rfl) | simp only [implies_true, kp_foldl, kp_foldl_pair, kp_mk, kp_eta, kp_ite, ite_self, stateServed_keeps, stateWait_keeps, setTile_keeps, makeRoom_keeps] | split | (refine Eq.trans (allocTile_keeps _ _ _ _ _ ‹allocTile _ _ _ _ = some _›) ?_) | (with_reducible refine (kp_foldl _ _ _ ?_).trans ?_) | (with_reducible refine (kp_foldl_pair _ _ _ ?_).trans ?_) | intro _ _)

@[simp] theorem tileTransferComplete_keeps (t : Nat) (s : State) : kp (tileTransferComplete t s) = kp s := by
  unfold tileTransferComplete
  repeat' (first | (with_reducible rfl) | simp only [implies_true, kp_foldl, kp_foldl_pair, kp_mk, kp_eta, kp_ite, ite_self, count_keeps, setTile_keeps, makeRoom_keeps] | split | (with_reducible refine (kp_foldl _ _ _ ?_).trans ?_) | (with_reducible refine (kp_foldl_pair _ _ _ ?_).trans ?_) | intro _ _)

@[simp] theorem redWindowForget_keeps (node : Nat) (mac : BitVec 48) (s : State) : kp (redWindowForget node mac s) = kp s := by
  unfold redWindowForget
  repeat' (first | (with_reducible rfl) | simp only [implies_true, kp_foldl, kp_foldl_pair, kp_mk, kp_eta, kp_ite, ite_self] | split | (with_reducible refine (kp_foldl _ _ _ ?_).trans ?_) | (with_reducible refine (kp_foldl_pair _ _ _ ?_).trans ?_) | intro _ _)

@[simp] theorem loseTiles_keeps (s : State) (f : Nat → Tile → Bool) : kp (loseTiles s f) = kp s := by
  unfold loseTiles
  repeat' (first | (with_reducible rfl) | simp only [implies_true, kp_foldl, kp_foldl_pair, kp_mk, kp_eta, kp_ite, ite_self, setTile_keeps, setPtn_keeps] | split | (with_reducible refine (kp_foldl _ _ _ ?_).trans ?_) | (with_reducible refine (kp_foldl_pair _ _ _ ?_).trans ?_) | intro _ _)

@[simp] theorem freeTiles_keeps (s : State) (n : Nat) : kp (freeTiles s n) = kp s := by
  unfold freeTiles
  repeat' (first | (with_reducible rfl) | simp only [implies_true, kp_foldl, kp_foldl_pair, kp_mk, kp_eta, kp_ite, ite_self] | split | (with_reducible refine (kp_foldl _ _ _ ?_).trans ?_) | (with_reducible refine (kp_foldl_pair _ _ _ ?_).trans ?_) | intro _ _)

@[simp] theorem mtTake_keeps (s : State) (addr : Nat) : kp (mtTake s addr) = kp s := by
  unfold mtTake
  repeat' (first | (with_reducible rfl) | simp only [implies_true, kp_foldl, kp_foldl_pair, kp_mk, kp_eta, kp_ite, ite_self, setPtn_keeps] | split | (with_reducible refine (kp_foldl _ _ _ ?_).trans ?_) | (with_reducible refine (kp_foldl_pair _ _ _ ?_).trans ?_) | intro _ _)

end Sys2Proof.Machine
end

