-- ==== Sys2Proof/Laws/KeepsTsu.lean ====
section
/-! SUPPORT. The operations of Machine/Tsu.lean keep the fuses and the queue of commands. -/

namespace Sys2Proof.Machine

@[simp] theorem corrOr_keeps (s : State) (port : Nat) (f : List Byte) (u : Option Nat) (i : Nat) (c : Int) : kp (corrOr s port f u i c).1 = kp s := by
  unfold corrOr
  repeat' (first | (with_reducible rfl) | simp only [implies_true, kp_foldl, kp_foldl_pair, kp_mk, kp_eta, kp_ite, ite_self, setTsu_keeps] | split | (with_reducible refine (kp_foldl _ _ _ ?_).trans ?_) | (with_reducible refine (kp_foldl_pair _ _ _ ?_).trans ?_) | intro _ _)

@[simp] theorem transitEvent_keeps (s : State) (port : Nat) (p : Pkt) (f : List Byte) : kp (transitEvent s port p f).1 = kp s := by
  unfold transitEvent
  repeat' (first | (with_reducible rfl) | simp only [implies_true, kp_foldl, kp_foldl_pair, kp_mk, kp_eta, kp_ite, ite_self, corrOr_keeps, count_keeps, setTsu_keeps] | split | (have h1 := congrArg (fun p => kp p.1) ‹corrOr _ _ _ _ _ _ = _›; simp only [implies_true, kp_foldl, kp_foldl_pair, kp_mk, kp_eta, kp_ite, ite_self, corrOr_keeps, count_keeps, setTsu_keeps] at h1; exact h1.symm) | (with_reducible refine (kp_foldl _ _ _ ?_).trans ?_) | (with_reducible refine (kp_foldl_pair _ _ _ ?_).trans ?_) | intro _ _)

@[simp] theorem transitGeneral_keeps (s : State) (port : Nat) (p : Pkt) (f : List Byte) : kp (transitGeneral s port p f).1 = kp s := by
  unfold transitGeneral
  repeat' (first | (with_reducible rfl) | simp only [implies_true, kp_foldl, kp_foldl_pair, kp_mk, kp_eta, kp_ite, ite_self, corrOr_keeps, setTsu_keeps] | split | (have h1 := congrArg (fun p => kp p.1) ‹corrOr _ _ _ _ _ _ = _›; simp only [implies_true, kp_foldl, kp_foldl_pair, kp_mk, kp_eta, kp_ite, ite_self, corrOr_keeps, setTsu_keeps] at h1; exact h1.symm) | (with_reducible refine (kp_foldl _ _ _ ?_).trans ?_) | (with_reducible refine (kp_foldl_pair _ _ _ ?_).trans ?_) | intro _ _)

@[simp] theorem twoStep_keeps (s : State) (port stamp : Nat) (f : List Byte) (i : Nat) : kp (twoStep s port stamp f i) = kp s := by
  unfold twoStep
  repeat' (first | (with_reducible rfl) | simp only [implies_true, kp_foldl, kp_foldl_pair, kp_mk, kp_eta, kp_ite, ite_self, raise_keeps, setTsu_keeps] | split | (with_reducible refine (kp_foldl _ _ _ ?_).trans ?_) | (with_reducible refine (kp_foldl_pair _ _ _ ?_).trans ?_) | intro _ _)

@[simp] theorem predCheck_keeps (s : State) (port : Nat) (dev : Int) : kp (predCheck s port dev) = kp s := by
  unfold predCheck
  repeat' (first | (with_reducible rfl) | simp only [implies_true, kp_foldl, kp_foldl_pair, kp_mk, kp_eta, kp_ite, ite_self, raise_keeps, setTsu_keeps] | split | (with_reducible refine (kp_foldl _ _ _ ?_).trans ?_) | (with_reducible refine (kp_foldl_pair _ _ _ ?_).trans ?_) | intro _ _)

@[simp] theorem tsuEgress_keeps (s : State) (port : Nat) (p : Pkt) (f : List Byte) (dev : Int) : kp (tsuEgress s port p f dev).1 = kp s := by
  unfold tsuEgress
  repeat' (first | (with_reducible rfl) | simp only [implies_true, kp_foldl, kp_foldl_pair, kp_mk, kp_eta, kp_ite, ite_self, predCheck_keeps, transitEvent_keeps, transitGeneral_keeps, twoStep_keeps] | split | (have h1 := congrArg (fun p => kp p.1) ‹transitEvent _ _ _ _ = _›; simp only [implies_true, kp_foldl, kp_foldl_pair, kp_mk, kp_eta, kp_ite, ite_self, predCheck_keeps, transitEvent_keeps, transitGeneral_keeps, twoStep_keeps] at h1; exact h1.symm) | (have h1 := congrArg (fun p => kp p.1) ‹transitGeneral _ _ _ _ = _›; simp only [implies_true, kp_foldl, kp_foldl_pair, kp_mk, kp_eta, kp_ite, ite_self, predCheck_keeps, transitEvent_keeps, transitGeneral_keeps, twoStep_keeps] at h1; exact h1.symm) | (with_reducible refine (kp_foldl _ _ _ ?_).trans ?_) | (with_reducible refine (kp_foldl_pair _ _ _ ?_).trans ?_) | intro _ _)

@[simp] theorem matchEntryTimeout_keeps (port : Nat) (s : State) : kp (matchEntryTimeout port s) = kp s := by
  unfold matchEntryTimeout
  repeat' (first | (with_reducible rfl) | simp only [implies_true, kp_foldl, kp_foldl_pair, kp_mk, kp_eta, kp_ite, ite_self, setTsu_keeps] | split | (with_reducible refine (kp_foldl _ _ _ ?_).trans ?_) | (with_reducible refine (kp_foldl_pair _ _ _ ?_).trans ?_) | intro _ _)

@[simp] theorem txsPop_keeps (port : Nat) (s : State) : kp (txsPop port s) = kp s := by
  unfold txsPop
  repeat' (first | (with_reducible rfl) | simp only [implies_true, kp_foldl, kp_foldl_pair, kp_mk, kp_eta, kp_ite, ite_self, setTsu_keeps] | split | (with_reducible refine (kp_foldl _ _ _ ?_).trans ?_) | (with_reducible refine (kp_foldl_pair _ _ _ ?_).trans ?_) | intro _ _)

@[simp] theorem tsuWrite_keeps (s : State) (p off : Nat) (v : W32) : kp (tsuWrite s p off v) = kp s := by
  unfold tsuWrite
  repeat' (first | (with_reducible rfl) | simp only [implies_true, kp_foldl, kp_foldl_pair, kp_mk, kp_eta, kp_ite, ite_self, setTsu_keeps] | split | (with_reducible refine (kp_foldl _ _ _ ?_).trans ?_) | (with_reducible refine (kp_foldl_pair _ _ _ ?_).trans ?_) | intro _ _)

@[simp] theorem tsuTake_keeps (s : State) (p off : Nat) : kp (tsuTake s p off) = kp s := by
  unfold tsuTake
  repeat' (first | (with_reducible rfl) | simp only [implies_true, kp_foldl, kp_foldl_pair, kp_mk, kp_eta, kp_ite, ite_self, txsPop_keeps, setTsu_keeps] | split | (with_reducible refine (kp_foldl _ _ _ ?_).trans ?_) | (with_reducible refine (kp_foldl_pair _ _ _ ?_).trans ?_) | intro _ _)

@[simp] theorem tsuClear_keeps (s : State) (p : Nat) : kp (tsuClear s p) = kp s := by
  unfold tsuClear
  repeat' (first | (with_reducible rfl) | simp only [implies_true, kp_foldl, kp_foldl_pair, kp_mk, kp_eta, kp_ite, ite_self, setTsu_keeps] | split | (with_reducible refine (kp_foldl _ _ _ ?_).trans ?_) | (with_reducible refine (kp_foldl_pair _ _ _ ?_).trans ?_) | intro _ _)

end Sys2Proof.Machine
end

