-- ==== Sys2Proof/Laws/KeepsEgress.lean ====
section
/-! SUPPORT. The operations of Machine/Egress.lean keep the fuses and the queue of commands. -/

namespace Sys2Proof.Machine

@[simp] theorem charge_keeps (s : State) (n c : Nat) : kp (charge s n c) = kp s := by
  unfold charge
  repeat' (first | (with_reducible rfl) | simp only [implies_true, kp_foldl, kp_foldl_pair, kp_mk, kp_eta, kp_ite, ite_self, setPtn_keeps] | split | (with_reducible refine (kp_foldl _ _ _ ?_).trans ?_) | (with_reducible refine (kp_foldl_pair _ _ _ ?_).trans ?_) | intro _ _)

@[simp] theorem unref_keeps (s : State) (id : Nat) : kp (unref s id) = kp s := by
  unfold unref
  repeat' (first | (with_reducible rfl) | simp only [implies_true, kp_foldl, kp_foldl_pair, kp_mk, kp_eta, kp_ite, ite_self, delPkt_keeps, setPtn_keeps, setPkt_keeps] | split | (with_reducible refine (kp_foldl _ _ _ ?_).trans ?_) | (with_reducible refine (kp_foldl_pair _ _ _ ?_).trans ?_) | intro _ _)

@[simp] theorem reseqRelease_keeps (s : State) (i : Nat) : kp (reseqRelease s i) = kp s := by
  unfold reseqRelease
  repeat' (first | (with_reducible rfl) | simp only [implies_true, kp_foldl, kp_foldl_pair, kp_mk, kp_eta, kp_ite, ite_self, count_keeps] | split | (with_reducible refine (kp_foldl _ _ _ ?_).trans ?_) | (with_reducible refine (kp_foldl_pair _ _ _ ?_).trans ?_) | intro _ _)

@[simp] theorem doneMark_keeps (s : State) (i : Nat) (q : BitVec 16) : kp (doneMark s i q) = kp s := by
  unfold doneMark
  repeat' (first | (with_reducible rfl) | simp only [implies_true, kp_foldl, kp_foldl_pair, kp_mk, kp_eta, kp_ite, ite_self, setRsq_keeps, reseqRelease_keeps, count_keeps] | split | (with_reducible refine (kp_foldl _ _ _ ?_).trans ?_) | (with_reducible refine (kp_foldl_pair _ _ _ ?_).trans ?_) | intro _ _)

@[simp] theorem discardPkt_keeps (s : State) (p : Pkt) : kp (discardPkt s p) = kp s := by
  unfold discardPkt
  repeat' (first | (with_reducible rfl) | simp only [implies_true, kp_foldl, kp_foldl_pair, kp_mk, kp_eta, kp_ite, ite_self, doneMark_keeps, delPkt_keeps] | split | (with_reducible refine (kp_foldl _ _ _ ?_).trans ?_) | (with_reducible refine (kp_foldl_pair _ _ _ ?_).trans ?_) | intro _ _)

@[simp] theorem reseqGapTimeout_keeps (i : Nat) (q : BitVec 16) (s : State) : kp (reseqGapTimeout i q s) = kp s := by
  unfold reseqGapTimeout
  repeat' (first | (with_reducible rfl) | simp only [implies_true, kp_foldl, kp_foldl_pair, kp_mk, kp_eta, kp_ite, ite_self, setRsq_keeps, doneMark_keeps, raiseOnce_keeps] | split | (with_reducible refine (kp_foldl _ _ _ ?_).trans ?_) | (with_reducible refine (kp_foldl_pair _ _ _ ?_).trans ?_) | intro _ _)

@[simp] theorem xdrop_keeps (s : State) (n k : Nat) : kp (xdrop s n k) = kp s := by
  unfold xdrop
  repeat' (first | (with_reducible rfl) | simp only [implies_true, kp_foldl, kp_foldl_pair, kp_mk, kp_eta, kp_ite, ite_self, setPtn_keeps] | split | (with_reducible refine (kp_foldl _ _ _ ?_).trans ?_) | (with_reducible refine (kp_foldl_pair _ _ _ ?_).trans ?_) | intro _ _)

@[simp] theorem rstDrop_keeps (s : State) (n : Nat) : kp (rstDrop s n) = kp s := by
  unfold rstDrop
  repeat' (first | (with_reducible rfl) | simp only [implies_true, kp_foldl, kp_foldl_pair, kp_mk, kp_eta, kp_ite, ite_self, setPtn_keeps] | split | (with_reducible refine (kp_foldl _ _ _ ?_).trans ?_) | (with_reducible refine (kp_foldl_pair _ _ _ ?_).trans ?_) | intro _ _)

@[simp] theorem drainLost_keeps (s : State) (f : Quiesce → Bool) : kp (drainLost s f) = kp s := by
  unfold drainLost
  repeat' (first | (with_reducible rfl) | simp only [implies_true, kp_foldl, kp_foldl_pair, kp_mk, kp_eta, kp_ite, ite_self] | split | (with_reducible refine (kp_foldl _ _ _ ?_).trans ?_) | (with_reducible refine (kp_foldl_pair _ _ _ ?_).trans ?_) | intro _ _)

@[simp] theorem engineDone_keeps (s : State) (p : Pkt) : kp (engineDone s p) = kp s := by
  unfold engineDone
  repeat' (first | (with_reducible rfl) | simp only [implies_true, kp_foldl, kp_foldl_pair, kp_mk, kp_eta, kp_ite, ite_self, setEng_keeps, count_keeps] | split | (with_reducible refine (kp_foldl _ _ _ ?_).trans ?_) | (with_reducible refine (kp_foldl_pair _ _ _ ?_).trans ?_) | intro _ _)

@[simp] theorem latencySeen_keeps (s : State) (p : Pkt) : kp (latencySeen s p) = kp s := by
  unfold latencySeen
  repeat' (first | (with_reducible rfl) | simp only [implies_true, kp_foldl, kp_foldl_pair, kp_mk, kp_eta, kp_ite, ite_self, setEng_keeps] | split | (with_reducible refine (kp_foldl _ _ _ ?_).trans ?_) | (with_reducible refine (kp_foldl_pair _ _ _ ?_).trans ?_) | intro _ _)

@[simp] theorem prtFlush_keeps (s : State) (q k : Nat) : kp (prtFlush s q k) = kp s := by
  unfold prtFlush
  repeat' (first | (with_reducible rfl) | simp only [implies_true, kp_foldl, kp_foldl_pair, kp_mk, kp_eta, kp_ite, ite_self, setPort_keeps] | split | (with_reducible refine (kp_foldl _ _ _ ?_).trans ?_) | (with_reducible refine (kp_foldl_pair _ _ _ ?_).trans ?_) | intro _ _)

@[simp] theorem sortCopies_keeps (s : State) (p : Pkt) (l : List (Nat × Copy)) : kp (sortCopies s p l).1 = kp s := by
  unfold sortCopies
  repeat' (first | (with_reducible rfl) | simp only [implies_true, kp_foldl, kp_foldl_pair, kp_mk, kp_eta, kp_ite, ite_self, count_keeps, drainLost_keeps, prtFlush_keeps] | split | (with_reducible refine (kp_foldl _ _ _ ?_).trans ?_) | (with_reducible refine (kp_foldl_pair _ _ _ ?_).trans ?_) | intro _ _)

@[simp] theorem queueDrop_keeps (s : State) (p q : Nat) : kp (queueDrop s p q) = kp s := by
  unfold queueDrop
  repeat' (first | (with_reducible rfl) | simp only [implies_true, kp_foldl, kp_foldl_pair, kp_mk, kp_eta, kp_ite, ite_self, setQueue_keeps] | split | (with_reducible refine (kp_foldl _ _ _ ?_).trans ?_) | (with_reducible refine (kp_foldl_pair _ _ _ ?_).trans ?_) | intro _ _)

@[simp] theorem placeCopy_keeps (s : State) (c : Nat × Copy) : kp (placeCopy s c) = kp s := by
  unfold placeCopy
  repeat' (first | (with_reducible rfl) | simp only [implies_true, kp_foldl, kp_foldl_pair, kp_mk, kp_eta, kp_ite, ite_self, setQueue_keeps] | split | (with_reducible refine (kp_foldl _ _ _ ?_).trans ?_) | (with_reducible refine (kp_foldl_pair _ _ _ ?_).trans ?_) | intro _ _)

@[simp] theorem takeCopies_keeps (s : State) (p : Pkt) (l : List (Nat × Copy)) : kp (takeCopies s p l) = kp s := by
  unfold takeCopies
  repeat' (first | (with_reducible rfl) | simp only [implies_true, kp_foldl, kp_foldl_pair, kp_mk, kp_eta, kp_ite, ite_self, discardPkt_keeps, drainLost_keeps, sortCopies_keeps, queueDrop_keeps, count_keeps, setPkt_keeps, charge_keeps, placeCopy_keeps, doneMark_keeps, latencySeen_keeps] | split | (have h1 := congrArg (fun p => kp p.1) ‹sortCopies _ _ _ = _›; simp only [implies_true, kp_foldl, kp_foldl_pair, kp_mk, kp_eta, kp_ite, ite_self, discardPkt_keeps, drainLost_keeps, sortCopies_keeps, queueDrop_keeps, count_keeps, setPkt_keeps, charge_keeps, placeCopy_keeps, doneMark_keeps, latencySeen_keeps] at h1; exact h1.symm) | (with_reducible refine (kp_foldl _ _ _ ?_).trans ?_) | (with_reducible refine (kp_foldl_pair _ _ _ ?_).trans ?_) | intro _ _)

@[simp] theorem puntTo_keeps (s : State) (e : Epoch) (p : Pkt) (reason q : Nat) : kp (puntTo s e p reason q) = kp s := by
  unfold puntTo
  repeat' (first | (with_reducible rfl) | simp only [implies_true, kp_foldl, kp_foldl_pair, kp_mk, kp_eta, kp_ite, ite_self, takeCopies_keeps, setPkt_keeps] | split | (with_reducible refine (kp_foldl _ _ _ ?_).trans ?_) | (with_reducible refine (kp_foldl_pair _ _ _ ?_).trans ?_) | intro _ _)

@[simp] theorem noDest_keeps (s : State) (e : Epoch) (p : Pkt) (named : Bool) : kp (noDest s e p named) = kp s := by
  unfold noDest
  repeat' (first | (with_reducible rfl) | simp only [implies_true, kp_foldl, kp_foldl_pair, kp_mk, kp_eta, kp_ite, ite_self, count_keeps, takeCopies_keeps, discardPkt_keeps] | split | (with_reducible refine (kp_foldl _ _ _ ?_).trans ?_) | (with_reducible refine (kp_foldl_pair _ _ _ ?_).trans ?_) | intro _ _)

@[simp] theorem sendTo_keeps (s : State) (e : Epoch) (p : Pkt) (ports : List Nat) : kp (sendTo s e p ports) = kp s := by
  unfold sendTo
  repeat' (first | (with_reducible rfl) | simp only [implies_true, kp_foldl, kp_foldl_pair, kp_mk, kp_eta, kp_ite, ite_self, xdrop_keeps, puntTo_keeps, takeCopies_keeps] | split | (with_reducible refine (kp_foldl _ _ _ ?_).trans ?_) | (with_reducible refine (kp_foldl_pair _ _ _ ?_).trans ?_) | intro _ _)

@[simp] theorem forwardPkt_keeps (s : State) (e : Epoch) (p : Pkt) : kp (forwardPkt s e p) = kp s := by
  unfold forwardPkt
  repeat' (first | (with_reducible rfl) | simp only [implies_true, kp_foldl, kp_foldl_pair, kp_mk, kp_eta, kp_ite, ite_self, takeCopies_keeps, discardPkt_keeps, xdrop_keeps, puntTo_keeps, noDest_keeps, sendTo_keeps] | split | (with_reducible refine (kp_foldl _ _ _ ?_).trans ?_) | (with_reducible refine (kp_foldl_pair _ _ _ ?_).trans ?_) | intro _ _)

@[simp] theorem packetEnqueue_keeps (id : Nat) (s : State) : kp (packetEnqueue id s) = kp s := by
  unfold packetEnqueue
  repeat' (first | (with_reducible rfl) | simp only [implies_true, kp_foldl, kp_foldl_pair, kp_mk, kp_eta, kp_ite, ite_self, engineDone_keeps, discardPkt_keeps, setRsq_keeps, rstDrop_keeps, drainLost_keeps, forwardPkt_keeps] | split | (with_reducible refine (kp_foldl _ _ _ ?_).trans ?_) | (with_reducible refine (kp_foldl_pair _ _ _ ?_).trans ?_) | intro _ _)

@[simp] theorem flushQueue_keeps (s : State) (p q : Nat) (f : Copy → Bool) : kp (flushQueue s p q f).1 = kp s := by
  unfold flushQueue
  repeat' (first | (with_reducible rfl) | simp only [implies_true, kp_foldl, kp_foldl_pair, kp_mk, kp_eta, kp_ite, ite_self, setQueue_keeps, count_keeps, unref_keeps] | split | (with_reducible refine (kp_foldl _ _ _ ?_).trans ?_) | (with_reducible refine (kp_foldl_pair _ _ _ ?_).trans ?_) | intro _ _)

@[simp] theorem dropPaused_keeps (s : State) (p : Nat) (f : Copy → Bool) : kp (dropPaused s p f).1 = kp s := by
  unfold dropPaused
  repeat' (first | (with_reducible rfl) | simp only [implies_true, kp_foldl, kp_foldl_pair, kp_mk, kp_eta, kp_ite, ite_self, setQueue_keeps, setSched_keeps, count_keeps, unref_keeps] | split | (with_reducible refine (kp_foldl _ _ _ ?_).trans ?_) | (with_reducible refine (kp_foldl_pair _ _ _ ?_).trans ?_) | intro _ _)

@[simp] theorem flushCopies_keeps (s : State) (p : Nat) (f : Copy → Bool) : kp (flushCopies s p f).1 = kp s := by
  unfold flushCopies
  repeat' (first | (with_reducible rfl) | simp only [implies_true, kp_foldl, kp_foldl_pair, kp_mk, kp_eta, kp_ite, ite_self, flushQueue_keeps, dropPaused_keeps] | split | (have h1 := congrArg (fun p => kp p.1) ‹flushQueue _ _ _ _ = _›; simp only [implies_true, kp_foldl, kp_foldl_pair, kp_mk, kp_eta, kp_ite, ite_self, flushQueue_keeps, dropPaused_keeps] at h1; exact h1.symm) | (have h1 := congrArg (fun p => kp p.1) ‹dropPaused _ _ _ = _›; simp only [implies_true, kp_foldl, kp_foldl_pair, kp_mk, kp_eta, kp_ite, ite_self, flushQueue_keeps, dropPaused_keeps] at h1; exact h1.symm) | (with_reducible refine (kp_foldl _ _ _ ?_).trans ?_) | (with_reducible refine (kp_foldl_pair _ _ _ ?_).trans ?_) | intro _ _)

@[simp] theorem zeroCredits_keeps (s : State) (p : Nat) : kp (zeroCredits s p) = kp s := by
  unfold zeroCredits
  repeat' (first | (with_reducible rfl) | simp only [implies_true, kp_foldl, kp_foldl_pair, kp_mk, kp_eta, kp_ite, ite_self, setQueue_keeps] | split | (with_reducible refine (kp_foldl _ _ _ ?_).trans ?_) | (with_reducible refine (kp_foldl_pair _ _ _ ?_).trans ?_) | intro _ _)

@[simp] theorem flushPort_keeps (s : State) (p : Nat) : kp (flushPort s p) = kp s := by
  unfold flushPort
  repeat' (first | (with_reducible rfl) | simp only [implies_true, kp_foldl, kp_foldl_pair, kp_mk, kp_eta, kp_ite, ite_self, flushCopies_keeps, prtFlush_keeps, zeroCredits_keeps] | split | (have h1 := congrArg (fun p => kp p.1) ‹flushCopies _ _ _ = _›; simp only [implies_true, kp_foldl, kp_foldl_pair, kp_mk, kp_eta, kp_ite, ite_self, flushCopies_keeps, prtFlush_keeps, zeroCredits_keeps] at h1; exact h1.symm) | (with_reducible refine (kp_foldl _ _ _ ?_).trans ?_) | (with_reducible refine (kp_foldl_pair _ _ _ ?_).trans ?_) | intro _ _)

@[simp] theorem markHeld_keeps (s : State) (p : Nat) : kp (markHeld s p) = kp s := by
  unfold markHeld
  repeat' (first | (with_reducible rfl) | simp only [implies_true, kp_foldl, kp_foldl_pair, kp_mk, kp_eta, kp_ite, ite_self, setQueue_keeps] | split | (with_reducible refine (kp_foldl _ _ _ ?_).trans ?_) | (with_reducible refine (kp_foldl_pair _ _ _ ?_).trans ?_) | intro _ _)

@[simp] theorem payCredit_keeps (s : State) (p q : Nat) (e : Epoch) (bits : Nat) : kp (payCredit s p q e bits) = kp s := by
  unfold payCredit
  repeat' (first | (with_reducible rfl) | simp only [implies_true, kp_foldl, kp_foldl_pair, kp_mk, kp_eta, kp_ite, ite_self, setQueue_keeps] | split | (with_reducible refine (kp_foldl _ _ _ ?_).trans ?_) | (with_reducible refine (kp_foldl_pair _ _ _ ?_).trans ?_) | intro _ _)

@[simp] theorem preempt_keeps (s : State) (p : Nat) : kp (preempt s p) = kp s := by
  unfold preempt
  repeat' (first | (with_reducible rfl) | simp only [implies_true, kp_foldl, kp_foldl_pair, kp_mk, kp_eta, kp_ite, ite_self, setSched_keeps, payCredit_keeps] | split | (with_reducible refine (kp_foldl _ _ _ ?_).trans ?_) | (with_reducible refine (kp_foldl_pair _ _ _ ?_).trans ?_) | intro _ _)

@[simp] theorem giveSeq_keeps (s : State) (c : Copy) : kp (giveSeq s c).1 = kp s := by
  unfold giveSeq
  repeat' (first | (with_reducible rfl) | simp only [implies_true, kp_foldl, kp_foldl_pair, kp_mk, kp_eta, kp_ite, ite_self] | split | (with_reducible refine (kp_foldl _ _ _ ?_).trans ?_) | (with_reducible refine (kp_foldl_pair _ _ _ ?_).trans ?_) | intro _ _)

@[simp] theorem startCopy_keeps (s : State) (p : Nat) (c : Copy) (dev : Int) : kp (startCopy s p c dev) = kp s := by
  unfold startCopy
  repeat' (first | (with_reducible rfl) | simp only [implies_true, kp_foldl, kp_foldl_pair, kp_mk, kp_eta, kp_ite, ite_self, giveSeq_keeps, setQueue_keeps, tsuEgress_keeps, emit_keeps, count_keeps, setSched_keeps] | split | (have h1 := congrArg (fun p => kp p.1) ‹giveSeq _ _ = _›; simp only [implies_true, kp_foldl, kp_foldl_pair, kp_mk, kp_eta, kp_ite, ite_self, giveSeq_keeps, setQueue_keeps, tsuEgress_keeps, emit_keeps, count_keeps, setSched_keeps] at h1; exact h1.symm) | (have h1 := congrArg (fun p => kp p.1) ‹tsuEgress _ _ _ _ _ = _›; simp only [implies_true, kp_foldl, kp_foldl_pair, kp_mk, kp_eta, kp_ite, ite_self, giveSeq_keeps, setQueue_keeps, tsuEgress_keeps, emit_keeps, count_keeps, setSched_keeps] at h1; exact h1.symm) | (with_reducible refine (kp_foldl _ _ _ ?_).trans ?_) | (with_reducible refine (kp_foldl_pair _ _ _ ?_).trans ?_) | intro _ _)

@[simp] theorem lateEvent_keeps (s : State) (p : Nat) (c : Copy) (code : Nat) : kp (lateEvent s p c code) = kp s := by
  unfold lateEvent
  repeat' (first | (with_reducible rfl) | simp only [implies_true, kp_foldl, kp_foldl_pair, kp_mk, kp_eta, kp_ite, ite_self, raiseOnce_keeps] | split | (with_reducible refine (kp_foldl _ _ _ ?_).trans ?_) | (with_reducible refine (kp_foldl_pair _ _ _ ?_).trans ?_) | intro _ _)

@[simp] theorem lateDropCopy_keeps (s : State) (p : Nat) (c : Copy) : kp (lateDropCopy s p c) = kp s := by
  unfold lateDropCopy
  repeat' (first | (with_reducible rfl) | simp only [implies_true, kp_foldl, kp_foldl_pair, kp_mk, kp_eta, kp_ite, ite_self, setQueue_keeps, lateEvent_keeps, unref_keeps] | split | (with_reducible refine (kp_foldl _ _ _ ?_).trans ?_) | (with_reducible refine (kp_foldl_pair _ _ _ ?_).trans ?_) | intro _ _)

@[simp] theorem lateSentCount_keeps (s : State) (p : Nat) (c : Copy) : kp (lateSentCount s p c) = kp s := by
  unfold lateSentCount
  repeat' (first | (with_reducible rfl) | simp only [implies_true, kp_foldl, kp_foldl_pair, kp_mk, kp_eta, kp_ite, ite_self, lateEvent_keeps, setQueue_keeps] | split | (with_reducible refine (kp_foldl _ _ _ ?_).trans ?_) | (with_reducible refine (kp_foldl_pair _ _ _ ?_).trans ?_) | intro _ _)

@[simp] theorem timedRelease_keeps (p : Nat) (dev : Int) (s : State) : kp (timedRelease p dev s) = kp s := by
  unfold timedRelease
  repeat' (first | (with_reducible rfl) | simp only [implies_true, kp_foldl, kp_foldl_pair, kp_mk, kp_eta, kp_ite, ite_self, markHeld_keeps, lateDropCopy_keeps, preempt_keeps, startCopy_keeps, lateSentCount_keeps] | split | (with_reducible refine (kp_foldl _ _ _ ?_).trans ?_) | (with_reducible refine (kp_foldl_pair _ _ _ ?_).trans ?_) | intro _ _)

@[simp] theorem dropTooLong_keeps (s : State) (p q : Nat) (r : Nat) : kp (dropTooLong s p q r) = kp s := by
  induction r generalizing s p q with
  | zero => rfl
  | succ n ih => 
    unfold dropTooLong
    repeat' (first | (with_reducible rfl) | simp only [ih, implies_true, kp_foldl, kp_foldl_pair, kp_mk, kp_eta, kp_ite, ite_self, setQueue_keeps, unref_keeps] | split | (with_reducible refine (kp_foldl _ _ _ ?_).trans ?_) | (with_reducible refine (kp_foldl_pair _ _ _ ?_).trans ?_) | intro _ _)

@[simp] theorem resumePaused_keeps (s : State) (p : Nat) : kp (resumePaused s p) = kp s := by
  unfold resumePaused
  repeat' (first | (with_reducible rfl) | simp only [implies_true, kp_foldl, kp_foldl_pair, kp_mk, kp_eta, kp_ite, ite_self, setSched_keeps, count_keeps] | split | (with_reducible refine (kp_foldl _ _ _ ?_).trans ?_) | (with_reducible refine (kp_foldl_pair _ _ _ ?_).trans ?_) | intro _ _)

@[simp] theorem portStart_keeps (s : State) (p : Nat) (dev : Int) : kp (portStart s p dev) = kp s := by
  unfold portStart
  repeat' (first | (with_reducible rfl) | simp only [implies_true, kp_foldl, kp_foldl_pair, kp_mk, kp_eta, kp_ite, ite_self, dropTooLong_keeps, preempt_keeps, startCopy_keeps, resumePaused_keeps] | split | (with_reducible refine (kp_foldl _ _ _ ?_).trans ?_) | (with_reducible refine (kp_foldl_pair _ _ _ ?_).trans ?_) | intro _ _)

@[simp] theorem takeOut_keeps (s : State) (p : Nat) (c : Copy) : kp (takeOut s p c) = kp s := by
  unfold takeOut
  repeat' (first | (with_reducible rfl) | simp only [implies_true, kp_foldl, kp_foldl_pair, kp_mk, kp_eta, kp_ite, ite_self, unref_keeps, setQueue_keeps] | split | (with_reducible refine (kp_foldl _ _ _ ?_).trans ?_) | (with_reducible refine (kp_foldl_pair _ _ _ ?_).trans ?_) | intro _ _)

@[simp] theorem portTransmitStart_keeps (p : Nat) (dev : Int) (s : State) : kp (portTransmitStart p dev s) = kp s := by
  unfold portTransmitStart
  repeat' (first | (with_reducible rfl) | simp only [implies_true, kp_foldl, kp_foldl_pair, kp_mk, kp_eta, kp_ite, ite_self, portStart_keeps, takeOut_keeps, emit_keeps] | split | (with_reducible refine (kp_foldl _ _ _ ?_).trans ?_) | (with_reducible refine (kp_foldl_pair _ _ _ ?_).trans ?_) | intro _ _)

@[simp] theorem frameTxEnd_keeps (p : Nat) (s : State) : kp (frameTxEnd p s) = kp s := by
  unfold frameTxEnd
  repeat' (first | (with_reducible rfl) | simp only [implies_true, kp_foldl, kp_foldl_pair, kp_mk, kp_eta, kp_ite, ite_self, setQueue_keeps, setSched_keeps, payCredit_keeps, unref_keeps] | split | (with_reducible refine (kp_foldl _ _ _ ?_).trans ?_) | (with_reducible refine (kp_foldl_pair _ _ _ ?_).trans ?_) | intro _ _)

@[simp] theorem gateEntryStart_keeps (p : Nat) (s : State) : kp (gateEntryStart p s) = kp s := by
  unfold gateEntryStart
  repeat' (first | (with_reducible rfl) | simp only [implies_true, kp_foldl, kp_foldl_pair, kp_mk, kp_eta, kp_ite, ite_self, setSched_keeps, preempt_keeps] | split | (with_reducible refine (kp_foldl _ _ _ ?_).trans ?_) | (with_reducible refine (kp_foldl_pair _ _ _ ?_).trans ?_) | intro _ _)

@[simp] theorem preemptVerify_keeps (p : Nat) (ok : Bool) (s : State) : kp (preemptVerify p ok s) = kp s := by
  unfold preemptVerify
  repeat' (first | (with_reducible rfl) | simp only [implies_true, kp_foldl, kp_foldl_pair, kp_mk, kp_eta, kp_ite, ite_self, setSched_keeps, raise_keeps] | split | (with_reducible refine (kp_foldl _ _ _ ?_).trans ?_) | (with_reducible refine (kp_foldl_pair _ _ _ ?_).trans ?_) | intro _ _)

@[simp] theorem creditBoundary_keeps (s : State) : kp (creditBoundary s) = kp s := by
  unfold creditBoundary
  repeat' (first | (with_reducible rfl) | simp only [implies_true, kp_foldl, kp_foldl_pair, kp_mk, kp_eta, kp_ite, ite_self, setQueue_keeps] | split | (with_reducible refine (kp_foldl _ _ _ ?_).trans ?_) | (with_reducible refine (kp_foldl_pair _ _ _ ?_).trans ?_) | intro _ _)

@[simp] theorem qmWrite_keeps (s : State) (addr : Nat) (v : W32) : kp (qmWrite s addr v) = kp s := by
  unfold qmWrite
  repeat' (first | (with_reducible rfl) | simp only [implies_true, kp_foldl, kp_foldl_pair, kp_mk, kp_eta, kp_ite, ite_self, setQueue_keeps] | split | (with_reducible refine (kp_foldl _ _ _ ?_).trans ?_) | (with_reducible refine (kp_foldl_pair _ _ _ ?_).trans ?_) | intro _ _)

@[simp] theorem rsqCtlApply_keeps (s : State) (v : W32) : kp (rsqCtlApply s v) = kp s := by
  unfold rsqCtlApply
  repeat' (first | (with_reducible rfl) | simp only [implies_true, kp_foldl, kp_foldl_pair, kp_mk, kp_eta, kp_ite, ite_self] | split | (with_reducible refine (kp_foldl _ _ _ ?_).trans ?_) | (with_reducible refine (kp_foldl_pair _ _ _ ?_).trans ?_) | intro _ _)

@[simp] theorem qmTake_keeps (s : State) (addr : Nat) : kp (qmTake s addr) = kp s := by
  unfold qmTake
  repeat' (first | (with_reducible rfl) | simp only [implies_true, kp_foldl, kp_foldl_pair, kp_mk, kp_eta, kp_ite, ite_self, setPtn_keeps, setQueue_keeps, setSched_keeps, setRsq_keeps] | split | (with_reducible refine (kp_foldl _ _ _ ?_).trans ?_) | (with_reducible refine (kp_foldl_pair _ _ _ ?_).trans ?_) | intro _ _)

end Sys2Proof.Machine
end

