-- ==== Sys2Proof/Laws/KeepsIngress.lean ====
section
/-! SUPPORT. The operations of Machine/Ingress.lean keep the fuses and the queue of commands. -/

namespace Sys2Proof.Machine

@[simp] theorem police_keeps (s : State) (n work : Nat) : kp (police s n work).1 = kp s := by
  unfold police
  repeat' (first | (with_reducible rfl) | simp only [implies_true, kp_foldl, kp_foldl_pair, kp_mk, kp_eta, kp_ite, ite_self, setPtn_keeps, freeNext_keeps] | split | (with_reducible refine (kp_foldl _ _ _ ?_).trans ?_) | (with_reducible refine (kp_foldl_pair _ _ _ ?_).trans ?_) | intro _ _)

@[simp] theorem policingIntervalStart_keeps (s : State) : kp (policingIntervalStart s) = kp s := by
  unfold policingIntervalStart
  repeat' (first | (with_reducible rfl) | simp only [implies_true, kp_foldl, kp_foldl_pair, kp_mk, kp_eta, kp_ite, ite_self, count_keeps, setPtn_keeps] | split | (with_reducible refine (kp_foldl _ _ _ ?_).trans ?_) | (with_reducible refine (kp_foldl_pair _ _ _ ?_).trans ?_) | intro _ _)

@[simp] theorem addPkt_keeps (s : State) (p : Pkt) : kp (addPkt s p) = kp s := by
  unfold addPkt
  repeat' (first | (with_reducible rfl) | simp only [implies_true, kp_foldl, kp_foldl_pair, kp_mk, kp_eta, kp_ite, ite_self, setRsq_keeps] | split | (with_reducible refine (kp_foldl _ _ _ ?_).trans ?_) | (with_reducible refine (kp_foldl_pair _ _ _ ?_).trans ?_) | intro _ _)

@[simp] theorem rejectPkt_keeps (s : State) (p : Pkt) : kp (rejectPkt s p) = kp s := by
  unfold rejectPkt
  repeat' (first | (with_reducible rfl) | simp only [implies_true, kp_foldl, kp_foldl_pair, kp_mk, kp_eta, kp_ite, ite_self, delPkt_keeps, setRsq_keeps] | split | (with_reducible refine (kp_foldl _ _ _ ?_).trans ?_) | (with_reducible refine (kp_foldl_pair _ _ _ ?_).trans ?_) | intro _ _)

@[simp] theorem frameStart_keeps (port sub : Nat) (s : State) : kp (frameStart port sub s) = kp s := by
  unfold frameStart
  repeat' (first | (with_reducible rfl) | simp only [implies_true, kp_foldl, kp_foldl_pair, kp_mk, kp_eta, kp_ite, ite_self, rejectPkt_keeps, addPkt_keeps] | split | (with_reducible refine (kp_foldl _ _ _ ?_).trans ?_) | (with_reducible refine (kp_foldl_pair _ _ _ ?_).trans ?_) | intro _ _)

@[simp] theorem dispatch_keeps (s : State) (p : Pkt) : kp (dispatch s p) = kp s := by
  unfold dispatch
  repeat' (first | (with_reducible rfl) | simp only [implies_true, kp_foldl, kp_foldl_pair, kp_mk, kp_eta, kp_ite, ite_self, police_keeps, discardPkt_keeps, setPtn_keeps, setEng_keeps, setPkt_keeps, count_keeps] | split | (have h1 := congrArg (fun p => kp p.1) ‹police _ _ _ = _›; simp only [implies_true, kp_foldl, kp_foldl_pair, kp_mk, kp_eta, kp_ite, ite_self, police_keeps, discardPkt_keeps, setPtn_keeps, setEng_keeps, setPkt_keeps, count_keeps] at h1; exact h1.symm) | (with_reducible refine (kp_foldl _ _ _ ?_).trans ?_) | (with_reducible refine (kp_foldl_pair _ _ _ ?_).trans ?_) | intro _ _)

@[simp] theorem frameReceived_keeps (port : Nat) (bytes : List Byte) (fcsOk : Bool) (work corr uncorr : Nat) (s : State) : kp (frameReceived port bytes fcsOk work corr uncorr s) = kp s := by
  unfold frameReceived
  repeat' (first | (with_reducible rfl) | simp only [implies_true, kp_foldl, kp_foldl_pair, kp_mk, kp_eta, kp_ite, ite_self, fecCount_keeps, rejectPkt_keeps, setPort_keeps, count_keeps, setPkt_keeps, discardPkt_keeps, rstDrop_keeps, drainLost_keeps, dispatch_keeps] | split | (with_reducible refine (kp_foldl _ _ _ ?_).trans ?_) | (with_reducible refine (kp_foldl_pair _ _ _ ?_).trans ?_) | intro _ _)

end Sys2Proof.Machine
end

