-- ==== Sys2Proof/Laws/KeepsEngine.lean ====
section
/-! SUPPORT. The operations of Machine/Engine.lean keep the fuses and the queue of commands. -/

namespace Sys2Proof.Machine

@[simp] theorem finishPkt_keeps (s : State) (p : Pkt) : kp (finishPkt s p) = kp s := by
  unfold finishPkt
  repeat' (first | (with_reducible rfl) | simp only [implies_true, kp_foldl, kp_foldl_pair, kp_mk, kp_eta, kp_ite, ite_self, setPkt_keeps] | split | (with_reducible refine (kp_foldl _ _ _ ?_).trans ?_) | (with_reducible refine (kp_foldl_pair _ _ _ ?_).trans ?_) | intro _ _)

@[simp] theorem engineDiscard_keeps (s : State) (p : Pkt) : kp (engineDiscard s p) = kp s := by
  unfold engineDiscard
  repeat' (first | (with_reducible rfl) | simp only [implies_true, kp_foldl, kp_foldl_pair, kp_mk, kp_eta, kp_ite, ite_self, discardPkt_keeps, engineDone_keeps] | split | (with_reducible refine (kp_foldl _ _ _ ?_).trans ?_) | (with_reducible refine (kp_foldl_pair _ _ _ ?_).trans ?_) | intro _ _)

@[simp] theorem baseDrop_keeps (s : State) (p : Pkt) (sel : Nat) : kp (baseDrop s p sel) = kp s := by
  unfold baseDrop
  repeat' (first | (with_reducible rfl) | simp only [implies_true, kp_foldl, kp_foldl_pair, kp_mk, kp_eta, kp_ite, ite_self, count_keeps, finishPkt_keeps, engineDiscard_keeps] | split | (with_reducible refine (kp_foldl _ _ _ ?_).trans ?_) | (with_reducible refine (kp_foldl_pair _ _ _ ?_).trans ?_) | intro _ _)

@[simp] theorem basePunt_keeps (s : State) (p : Pkt) (reason : Nat) : kp (basePunt s p reason) = kp s := by
  unfold basePunt
  repeat' (first | (with_reducible rfl) | simp only [implies_true, kp_foldl, kp_foldl_pair, kp_mk, kp_eta, kp_ite, ite_self, finishPkt_keeps] | split | (with_reducible refine (kp_foldl _ _ _ ?_).trans ?_) | (with_reducible refine (kp_foldl_pair _ _ _ ?_).trans ?_) | intro _ _)

theorem enterEngine_keeps (s : State) (e : Nat) (p : Pkt) (x : State) (h : enterEngine s e p = some x) : kp x = kp s := by
  unfold enterEngine at h
  dsimp only at h
  split at h
  · cases h; simp only [setPkt_keeps, setEng_keeps]
  · cases h

/-- The state in which a packet is in its engine. -/
theorem entered_keeps (s : State) (c : Prop) [Decidable c] (e : Nat) (p : Pkt) (x : State)
    (h : (if c then enterEngine s e p else some s) = some x) : kp x = kp s := by
  split at h
  · exact enterEngine_keeps _ _ _ _ h
  · cases h; rfl

@[simp] theorem machineCheck_keeps (s : State) (e : Nat) (p : Pkt) (cause addr : Nat) : kp (machineCheck s e p cause addr) = kp s := by
  unfold machineCheck
  repeat' (first | (with_reducible rfl) | simp only [implies_true, kp_foldl, kp_foldl_pair, kp_mk, kp_eta, kp_ite, ite_self, setEng_keeps, kFault_keeps, engineDiscard_keeps] | split | (with_reducible refine (kp_foldl _ _ _ ?_).trans ?_) | (with_reducible refine (kp_foldl_pair _ _ _ ?_).trans ?_) | intro _ _)

@[simp] theorem parityCheck_keeps (s : State) (e : Nat) (p : Pkt) (base rel : Nat) : kp (parityCheck s e p base rel) = kp s := by
  unfold parityCheck
  repeat' (first | (with_reducible rfl) | simp only [implies_true, kp_foldl, kp_foldl_pair, kp_mk, kp_eta, kp_ite, ite_self, count_keeps, machineCheck_keeps, setEng_keeps, fFault_keeps] | split | (with_reducible refine (kp_foldl _ _ _ ?_).trans ?_) | (with_reducible refine (kp_foldl_pair _ _ _ ?_).trans ?_) | intro _ _)

@[simp] theorem ucodeParityRewrite_keeps (e w : Nat) (s : State) : kp (ucodeParityRewrite e w s) = kp s := by
  unfold ucodeParityRewrite
  repeat' (first | (with_reducible rfl) | simp only [implies_true, kp_foldl, kp_foldl_pair, kp_mk, kp_eta, kp_ite, ite_self, setEng_keeps, fFault_keeps] | split | (with_reducible refine (kp_foldl _ _ _ ?_).trans ?_) | (with_reducible refine (kp_foldl_pair _ _ _ ?_).trans ?_) | intro _ _)

@[simp] theorem issue_keeps (s : State) (e : Nat) (p : Pkt) (l : Lookup) : kp (issue s e p l).1 = kp s := by
  unfold issue
  repeat' (first | (with_reducible rfl) | simp only [implies_true, kp_foldl, kp_foldl_pair, kp_mk, kp_eta, kp_ite, ite_self, count_keeps] | split | (with_reducible refine (kp_foldl _ _ _ ?_).trans ?_) | (with_reducible refine (kp_foldl_pair _ _ _ ?_).trans ?_) | intro _ _)

@[simp] theorem pktLearn_keeps (s : State) (p : Pkt) (mac : BitVec 48) (vid : BitVec 12) : kp (pktLearn s p mac vid) = kp s := by
  unfold pktLearn
  repeat' (first | (with_reducible rfl) | simp only [implies_true, kp_foldl, kp_foldl_pair, kp_mk, kp_eta, kp_ite, ite_self, fdbLearn_keeps] | split | (with_reducible refine (kp_foldl _ _ _ ?_).trans ?_) | (with_reducible refine (kp_foldl_pair _ _ _ ?_).trans ?_) | intro _ _)

@[simp] theorem mwAct_keeps (s : State) (e : Nat) (w : BitVec 128) (p : Pkt) : kp (mwAct s e w p).1 = kp s := by
  unfold mwAct
  repeat' (first | (with_reducible rfl) | simp only [implies_true, kp_foldl, kp_foldl_pair, kp_mk, kp_eta, kp_ite, ite_self, issue_keeps, count_keeps, pktLearn_keeps] | split | (have h1 := congrArg (fun p => kp p.1) ‹issue _ _ _ _ = _›; simp only [implies_true, kp_foldl, kp_foldl_pair, kp_mk, kp_eta, kp_ite, ite_self, issue_keeps, count_keeps, pktLearn_keeps] at h1; exact h1.symm) | (with_reducible refine (kp_foldl _ _ _ ?_).trans ?_) | (with_reducible refine (kp_foldl_pair _ _ _ ?_).trans ?_) | intro _ _)

@[simp] theorem microword_keeps (s : State) (e : Nat) (p : Pkt) (base len : Nat) : kp (microword s e p base len) = kp s := by
  unfold microword
  repeat' (first | (with_reducible rfl) | simp only [implies_true, kp_foldl, kp_foldl_pair, kp_mk, kp_eta, kp_ite, ite_self, machineCheck_keeps, mwAct_keeps, engineDiscard_keeps, count_keeps, finishPkt_keeps, setPkt_keeps] | split | (have h1 := congrArg (fun p => kp p.1) ‹mwAct _ _ _ _ = _›; simp only [implies_true, kp_foldl, kp_foldl_pair, kp_mk, kp_eta, kp_ite, ite_self, machineCheck_keeps, mwAct_keeps, engineDiscard_keeps, count_keeps, finishPkt_keeps, setPkt_keeps] at h1; exact h1.symm) | (with_reducible refine (kp_foldl _ _ _ ?_).trans ?_) | (with_reducible refine (kp_foldl_pair _ _ _ ?_).trans ?_) | intro _ _)

@[simp] theorem baseRed_keeps (s : State) (e : Nat) (p : Pkt) : kp (baseRed s e p) = kp s := by
  unfold baseRed
  repeat' (first | (with_reducible rfl) | simp only [implies_true, kp_foldl, kp_foldl_pair, kp_mk, kp_eta, kp_ite, ite_self, basePunt_keeps, setPkt_keeps, baseDrop_keeps, count_keeps] | split | (with_reducible refine (kp_foldl _ _ _ ?_).trans ?_) | (with_reducible refine (kp_foldl_pair _ _ _ ?_).trans ?_) | intro _ _)

@[simp] theorem redOutcome_keeps (s : State) (p : Pkt) (role : Nat) (deliver pass : Bool) : kp (redOutcome s p role deliver pass) = kp s := by
  unfold redOutcome
  repeat' (first | (with_reducible rfl) | simp only [implies_true, kp_foldl, kp_foldl_pair, kp_mk, kp_eta, kp_ite, ite_self, deliver_keeps, setPkt_keeps, baseDrop_keeps] | split | (with_reducible refine (kp_foldl _ _ _ ?_).trans ?_) | (with_reducible refine (kp_foldl_pair _ _ _ ?_).trans ?_) | intro _ _)

@[simp] theorem redServe_keeps (s : State) (p : Pkt) (t : Nat) : kp (redServe s p t) = kp s := by
  unfold redServe
  repeat' (first | (with_reducible rfl) | simp only [implies_true, kp_foldl, kp_foldl_pair, kp_mk, kp_eta, kp_ite, ite_self, count_keeps, setTile_keeps, redOutcome_keeps] | split | (with_reducible refine (kp_foldl _ _ _ ?_).trans ?_) | (with_reducible refine (kp_foldl_pair _ _ _ ?_).trans ?_) | intro _ _)

@[simp] theorem redLookup_keeps (s : State) (e : Nat) (p : Pkt) : kp (redLookup s e p) = kp s := by
  unfold redLookup
  repeat' (first | (with_reducible rfl) | simp only [implies_true, kp_foldl, kp_foldl_pair, kp_mk, kp_eta, kp_ite, ite_self, stateAccess_keeps, redServe_keeps, setPkt_keeps] | split | (have h1 := congrArg (fun p => kp p.1) ‹stateAccess _ _ _ _ _ = _›; simp only [implies_true, kp_foldl, kp_foldl_pair, kp_mk, kp_eta, kp_ite, ite_self, stateAccess_keeps, redServe_keeps, setPkt_keeps] at h1; exact h1.symm) | (with_reducible refine (kp_foldl _ _ _ ?_).trans ?_) | (with_reducible refine (kp_foldl_pair _ _ _ ?_).trans ?_) | intro _ _)

@[simp] theorem baseCam_keeps (s : State) (e : Nat) (p : Pkt) (key : BitVec 192) (prof stage : Nat) : kp (baseCam s e p key prof stage) = kp s := by
  unfold baseCam
  repeat' (first | (with_reducible rfl) | simp only [implies_true, kp_foldl, kp_foldl_pair, kp_mk, kp_eta, kp_ite, ite_self, issue_keeps, setPkt_keeps] | split | (have h1 := congrArg (fun p => kp p.1) ‹issue _ _ _ _ = _›; simp only [implies_true, kp_foldl, kp_foldl_pair, kp_mk, kp_eta, kp_ite, ite_self, issue_keeps, setPkt_keeps] at h1; exact h1.symm) | (with_reducible refine (kp_foldl _ _ _ ?_).trans ?_) | (with_reducible refine (kp_foldl_pair _ _ _ ?_).trans ?_) | intro _ _)

@[simp] theorem baseClass_keeps (s : State) (e : Nat) (p : Pkt) : kp (baseClass s e p) = kp s := by
  unfold baseClass
  repeat' (first | (with_reducible rfl) | simp only [implies_true, kp_foldl, kp_foldl_pair, kp_mk, kp_eta, kp_ite, ite_self, basePunt_keeps, baseDrop_keeps, setPkt_keeps, baseCam_keeps] | split | (with_reducible refine (kp_foldl _ _ _ ?_).trans ?_) | (with_reducible refine (kp_foldl_pair _ _ _ ?_).trans ?_) | intro _ _)

@[simp] theorem baseAcl_keeps (s : State) (p : Pkt) : kp (baseAcl s p) = kp s := by
  unfold baseAcl
  repeat' (first | (with_reducible rfl) | simp only [implies_true, kp_foldl, kp_foldl_pair, kp_mk, kp_eta, kp_ite, ite_self, baseDrop_keeps, setPkt_keeps, basePunt_keeps, finishPkt_keeps] | split | (with_reducible refine (kp_foldl _ _ _ ?_).trans ?_) | (with_reducible refine (kp_foldl_pair _ _ _ ?_).trans ?_) | intro _ _)

@[simp] theorem baseDest_keeps (s : State) (e : Nat) (p : Pkt) : kp (baseDest s e p) = kp s := by
  unfold baseDest
  repeat' (first | (with_reducible rfl) | simp only [implies_true, kp_foldl, kp_foldl_pair, kp_mk, kp_eta, kp_ite, ite_self, count_keeps, baseDrop_keeps, finishPkt_keeps] | split | (with_reducible refine (kp_foldl _ _ _ ?_).trans ?_) | (with_reducible refine (kp_foldl_pair _ _ _ ?_).trans ?_) | intro _ _)

@[simp] theorem noRoute_keeps (s : State) (p : Pkt) : kp (noRoute s p) = kp s := by
  unfold noRoute
  repeat' (first | (with_reducible rfl) | simp only [implies_true, kp_foldl, kp_foldl_pair, kp_mk, kp_eta, kp_ite, ite_self, basePunt_keeps, baseDrop_keeps] | split | (with_reducible refine (kp_foldl _ _ _ ?_).trans ?_) | (with_reducible refine (kp_foldl_pair _ _ _ ?_).trans ?_) | intro _ _)

@[simp] theorem routeVia_keeps (s : State) (p : Pkt) (i : Nat) : kp (routeVia s p i) = kp s := by
  unfold routeVia
  repeat' (first | (with_reducible rfl) | simp only [implies_true, kp_foldl, kp_foldl_pair, kp_mk, kp_eta, kp_ite, ite_self, baseDrop_keeps, finishPkt_keeps] | split | (with_reducible refine (kp_foldl _ _ _ ?_).trans ?_) | (with_reducible refine (kp_foldl_pair _ _ _ ?_).trans ?_) | intro _ _)

@[simp] theorem fibRead_keeps (s : State) (e : Nat) (p : Pkt) (block level : Nat) : kp (fibRead s e p block level) = kp s := by
  unfold fibRead
  repeat' (first | (with_reducible rfl) | simp only [implies_true, kp_foldl, kp_foldl_pair, kp_mk, kp_eta, kp_ite, ite_self, issue_keeps, setPkt_keeps] | split | (have h1 := congrArg (fun p => kp p.1) ‹issue _ _ _ _ = _›; simp only [implies_true, kp_foldl, kp_foldl_pair, kp_mk, kp_eta, kp_ite, ite_self, issue_keeps, setPkt_keeps] at h1; exact h1.symm) | (with_reducible refine (kp_foldl _ _ _ ?_).trans ?_) | (with_reducible refine (kp_foldl_pair _ _ _ ?_).trans ?_) | intro _ _)

@[simp] theorem fibStart_keeps (s : State) (e : Nat) (p : Pkt) : kp (fibStart s e p) = kp s := by
  unfold fibStart
  repeat' (first | (with_reducible rfl) | simp only [implies_true, kp_foldl, kp_foldl_pair, kp_mk, kp_eta, kp_ite, ite_self, noRoute_keeps, fibRead_keeps] | split | (with_reducible refine (kp_foldl _ _ _ ?_).trans ?_) | (with_reducible refine (kp_foldl_pair _ _ _ ?_).trans ?_) | intro _ _)

@[simp] theorem baseFib_keeps (s : State) (e : Nat) (p : Pkt) : kp (baseFib s e p) = kp s := by
  unfold baseFib
  repeat' (first | (with_reducible rfl) | simp only [implies_true, kp_foldl, kp_foldl_pair, kp_mk, kp_eta, kp_ite, ite_self, baseDrop_keeps, noRoute_keeps, routeVia_keeps, fibRead_keeps, basePunt_keeps] | split | (with_reducible refine (kp_foldl _ _ _ ?_).trans ?_) | (with_reducible refine (kp_foldl_pair _ _ _ ?_).trans ?_) | intro _ _)

@[simp] theorem baseRouteCam_keeps (s : State) (e : Nat) (p : Pkt) : kp (baseRouteCam s e p) = kp s := by
  unfold baseRouteCam
  repeat' (first | (with_reducible rfl) | simp only [implies_true, kp_foldl, kp_foldl_pair, kp_mk, kp_eta, kp_ite, ite_self, fibStart_keeps, routeVia_keeps, baseDrop_keeps, basePunt_keeps, finishPkt_keeps] | split | (with_reducible refine (kp_foldl _ _ _ ?_).trans ?_) | (with_reducible refine (kp_foldl_pair _ _ _ ?_).trans ?_) | intro _ _)

@[simp] theorem baseRoute_keeps (s : State) (e : Nat) (p : Pkt) : kp (baseRoute s e p) = kp s := by
  unfold baseRoute
  repeat' (first | (with_reducible rfl) | simp only [implies_true, kp_foldl, kp_foldl_pair, kp_mk, kp_eta, kp_ite, ite_self, baseDrop_keeps, baseCam_keeps, fibStart_keeps] | split | (with_reducible refine (kp_foldl _ _ _ ?_).trans ?_) | (with_reducible refine (kp_foldl_pair _ _ _ ?_).trans ?_) | intro _ _)

@[simp] theorem baseBridge_keeps (s : State) (e : Nat) (p : Pkt) : kp (baseBridge s e p) = kp s := by
  unfold baseBridge
  repeat' (first | (with_reducible rfl) | simp only [implies_true, kp_foldl, kp_foldl_pair, kp_mk, kp_eta, kp_ite, ite_self, baseDrop_keeps, baseRoute_keeps, pktLearn_keeps, baseDest_keeps] | split | (with_reducible refine (kp_foldl _ _ _ ?_).trans ?_) | (with_reducible refine (kp_foldl_pair _ _ _ ?_).trans ?_) | intro _ _)

@[simp] theorem baseStage_keeps (s : State) (e : Nat) (p : Pkt) : kp (baseStage s e p) = kp s := by
  unfold baseStage
  repeat' (first | (with_reducible rfl) | simp only [implies_true, kp_foldl, kp_foldl_pair, kp_mk, kp_eta, kp_ite, ite_self, baseRed_keeps, baseClass_keeps, baseAcl_keeps, baseBridge_keeps, baseRouteCam_keeps, baseFib_keeps] | split | (with_reducible refine (kp_foldl _ _ _ ?_).trans ?_) | (with_reducible refine (kp_foldl_pair _ _ _ ?_).trans ?_) | intro _ _)

@[simp] theorem baseRun_keeps (e id n : Nat) (s : State) : kp (baseRun e id n s) = kp s := by
  induction n generalizing s with
  | zero => rfl
  | succ n ih =>
    unfold baseRun
    split
    · split
      · rw [ih, baseStage_keeps]
      · rfl
    · rfl

@[simp] theorem microwordExecute_keeps (e id : Nat) (bad : Bool) (s : State) : kp (microwordExecute e id bad s) = kp s := by
  unfold microwordExecute
  repeat' (first | (with_reducible rfl) | simp only [kp_mk, kp_eta, kp_ite, ite_self, setEng_keeps, parityCheck_keeps, freeNext_keeps, microword_keeps, baseRun_keeps] | split | (have h1 := entered_keeps _ _ _ _ _ ‹_ = some _›; simp only [setEng_keeps] at h1; exact h1))

@[simp] theorem t2Return_keeps (s : State) (p : Pkt) (t a : Nat) (ddr : BitVec 2) : kp (t2Return s p t a ddr) = kp s := by
  unfold t2Return
  repeat' (first | (with_reducible rfl) | simp only [implies_true, kp_foldl, kp_foldl_pair, kp_mk, kp_eta, kp_ite, ite_self, t2Read_keeps, setPkt_keeps] | split | (have h1 := congrArg (fun p => kp p.1) ‹t2Read _ _ _ _ _ _ = _›; simp only [implies_true, kp_foldl, kp_foldl_pair, kp_mk, kp_eta, kp_ite, ite_self, t2Read_keeps, setPkt_keeps] at h1; exact h1.symm) | (with_reducible refine (kp_foldl _ _ _ ?_).trans ?_) | (with_reducible refine (kp_foldl_pair _ _ _ ?_).trans ?_) | intro _ _)

@[simp] theorem flowReturn_keeps (s : State) (e : Nat) (p : Pkt) (word : Nat) (store : Option W32) : kp (flowReturn s e p word store) = kp s := by
  unfold flowReturn
  repeat' (first | (with_reducible rfl) | simp only [implies_true, kp_foldl, kp_foldl_pair, kp_mk, kp_eta, kp_ite, ite_self, setPkt_keeps, stateAccess_keeps, count_keeps, setTile_keeps] | split | (have h1 := congrArg (fun p => kp p.1) ‹stateAccess _ _ _ _ _ = _›; simp only [implies_true, kp_foldl, kp_foldl_pair, kp_mk, kp_eta, kp_ite, ite_self, setPkt_keeps, stateAccess_keeps, count_keeps, setTile_keeps] at h1; exact h1.symm) | (with_reducible refine (kp_foldl _ _ _ ?_).trans ?_) | (with_reducible refine (kp_foldl_pair _ _ _ ?_).trans ?_) | intro _ _)

@[simp] theorem lookupReturn_keeps (id : Nat) (ddr : BitVec 2) (s : State) : kp (lookupReturn id ddr s) = kp s := by
  unfold lookupReturn
  repeat' (first | (with_reducible rfl) | simp only [implies_true, kp_foldl, kp_foldl_pair, kp_mk, kp_eta, kp_ite, ite_self, camPacket_keeps, fdbReturn_keeps, t2Return_keeps, flowReturn_keeps, redLookup_keeps] | split | (with_reducible refine (kp_foldl _ _ _ ?_).trans ?_) | (with_reducible refine (kp_foldl_pair _ _ _ ?_).trans ?_) | intro _ _)

@[simp] theorem stateRequestTimeout_keeps (id : Nat) (s : State) : kp (stateRequestTimeout id s) = kp s := by
  unfold stateRequestTimeout
  repeat' (first | (with_reducible rfl) | simp only [implies_true, kp_foldl, kp_foldl_pair, kp_mk, kp_eta, kp_ite, ite_self, stateServed_keeps, setPtn_keeps, setPkt_keeps, redOutcome_keeps, count_keeps] | split | (with_reducible refine (kp_foldl _ _ _ ?_).trans ?_) | (with_reducible refine (kp_foldl_pair _ _ _ ?_).trans ?_) | intro _ _)

@[simp] theorem ddrTimeout_keeps (id : Nat) (s : State) : kp (ddrTimeout id s) = kp s := by
  unfold ddrTimeout
  repeat' (first | (with_reducible rfl) | simp only [implies_true, kp_foldl, kp_foldl_pair, kp_mk, kp_eta, kp_ite, ite_self, setPkt_keeps, kFault_keeps] | split | (with_reducible refine (kp_foldl _ _ _ ?_).trans ?_) | (with_reducible refine (kp_foldl_pair _ _ _ ?_).trans ?_) | intro _ _)

end Sys2Proof.Machine
end

