-- ==== Sys2Proof/Laws/KeepsBacklog.lean ====
section
/-! SUPPORT. The operations of Machine/Backlog.lean keep the fuses and the queue of commands. -/

namespace Sys2Proof.Machine

theorem takeHead_keeps (s : State) (f : Decision → Bool) (x : State × Entry) (h : takeHead s f = some x) : kp x.1 = kp s := by
  unfold takeHead at h
  split at h
  · split at h
    · cases h; rfl
    · cases h
  · cases h

@[simp] theorem dropCopies_keeps (s : State) (id : Nat) : kp (dropCopies s id) = kp s := by
  unfold dropCopies
  repeat' (first | (with_reducible rfl) | simp only [implies_true, kp_foldl, kp_foldl_pair, kp_mk, kp_eta, kp_ite, ite_self, dropPaused_keeps] | split | (have h1 := congrArg (fun p => kp p.1) ‹dropPaused _ _ _ = _›; simp only [implies_true, kp_foldl, kp_foldl_pair, kp_mk, kp_eta, kp_ite, ite_self, dropPaused_keeps] at h1; exact h1.symm) | (with_reducible refine (kp_foldl _ _ _ ?_).trans ?_) | (with_reducible refine (kp_foldl_pair _ _ _ ?_).trans ?_) | intro _ _)

@[simp] theorem leaveCore_keeps (s : State) (p : Pkt) : kp (leaveCore s p) = kp s := by
  unfold leaveCore
  repeat' (first | (with_reducible rfl) | simp only [implies_true, kp_foldl, kp_foldl_pair, kp_mk, kp_eta, kp_ite, ite_self, setEng_keeps, stateServed_keeps] | split | (with_reducible refine (kp_foldl _ _ _ ?_).trans ?_) | (with_reducible refine (kp_foldl_pair _ _ _ ?_).trans ?_) | intro _ _)

@[simp] theorem purgePkt_keeps (s : State) (p : Pkt) : kp (purgePkt s p) = kp s := by
  unfold purgePkt
  repeat' (first | (with_reducible rfl) | simp only [implies_true, kp_foldl, kp_foldl_pair, kp_mk, kp_eta, kp_ite, ite_self, dropCopies_keeps, delPkt_keeps, setPtn_keeps, discardPkt_keeps, leaveCore_keeps] | split | (with_reducible refine (kp_foldl _ _ _ ?_).trans ?_) | (with_reducible refine (kp_foldl_pair _ _ _ ?_).trans ?_) | intro _ _)

@[simp] theorem purgeAll_keeps (s : State) (f : Pkt → Bool) (k : State → Pkt → State) (h : ∀ t p, kp (k t p) = kp t) :
    kp (purgeAll s f k) = kp s := by
  unfold purgeAll
  exact kp_foldl _ _ _ fun t a => (h _ _).trans (purgePkt_keeps t a)

end Sys2Proof.Machine
end

