-- ==== Sys2Proof/Laws/KeepsQueues.lean ====
section
/-! SUPPORT. The operations of Machine/Queues.lean keep the fuses and the queue of commands. -/

namespace Sys2Proof.Machine

@[simp] theorem sqDoorbell_keeps (s : State) (n i : Nat) (v : W32) : kp (sqDoorbell s n i v) = kp s := by
  unfold sqDoorbell
  repeat' (first | (with_reducible rfl) | simp only [implies_true, kp_foldl, kp_foldl_pair, kp_mk, kp_eta, kp_ite, ite_self, ringError_keeps, setSq_keeps] | split | (with_reducible refine (kp_foldl _ _ _ ?_).trans ?_) | (with_reducible refine (kp_foldl_pair _ _ _ ?_).trans ?_) | intro _ _)

@[simp] theorem headDoorbell_keeps (s : State) (n : Nat) (er : Bool) (i : Nat) (v : W32) : kp (headDoorbell s n er i v) = kp s := by
  unfold headDoorbell
  repeat' (first | (with_reducible rfl) | simp only [implies_true, kp_foldl, kp_foldl_pair, kp_mk, kp_eta, kp_ite, ite_self, ringError_keeps, setEr_keeps, erSignal_keeps, setCq_keeps, cqSignal_keeps] | split | (with_reducible refine (kp_foldl _ _ _ ?_).trans ?_) | (with_reducible refine (kp_foldl_pair _ _ _ ?_).trans ?_) | intro _ _)

@[simp] theorem sqEnWrite_keeps (s : State) (n i : Nat) (v : W32) : kp (sqEnWrite s n i v) = kp s := by
  unfold sqEnWrite
  repeat' (first | (with_reducible rfl) | simp only [implies_true, kp_foldl, kp_foldl_pair, kp_mk, kp_eta, kp_ite, ite_self, setSq_keeps, ringError_keeps] | split | (with_reducible refine (kp_foldl _ _ _ ?_).trans ?_) | (with_reducible refine (kp_foldl_pair _ _ _ ?_).trans ?_) | intro _ _)

@[simp] theorem ringEnWrite_keeps (s : State) (n : Nat) (er : Bool) (i : Nat) (v : W32) : kp (ringEnWrite s n er i v) = kp s := by
  unfold ringEnWrite
  repeat' (first | (with_reducible rfl) | simp only [implies_true, kp_foldl, kp_foldl_pair, kp_mk, kp_eta, kp_ite, ite_self, setEr_keeps, setCq_keeps, ringError_keeps] | split | (with_reducible refine (kp_foldl _ _ _ ?_).trans ?_) | (with_reducible refine (kp_foldl_pair _ _ _ ?_).trans ?_) | intro _ _)

@[simp] theorem queueEnWrite_keeps (s : State) (n : Nat) (k : QKind) (i : Nat) (v : W32) : kp (queueEnWrite s n k i v) = kp s := by
  unfold queueEnWrite
  repeat' (first | (with_reducible rfl) | simp only [implies_true, kp_foldl, kp_foldl_pair, kp_mk, kp_eta, kp_ite, ite_self, sqEnWrite_keeps, ringEnWrite_keeps] | split | (with_reducible refine (kp_foldl _ _ _ ?_).trans ?_) | (with_reducible refine (kp_foldl_pair _ _ _ ?_).trans ?_) | intro _ _)

@[simp] theorem takeBurst_keeps (s : State) (n i : Nat) (r : List (List Byte)) : kp (takeBurst s n i r) = kp s := by
  induction r generalizing s n i with
  | nil => rfl
  | cons a r ih => 
    unfold takeBurst
    repeat' (first | (with_reducible rfl) | simp only [ih, implies_true, kp_foldl, kp_foldl_pair, kp_mk, kp_eta, kp_ite, ite_self, see_keeps, addCmd_keeps, setSq_keeps] | split | (with_reducible refine (kp_foldl _ _ _ ?_).trans ?_) | (with_reducible refine (kp_foldl_pair _ _ _ ?_).trans ?_) | intro _ _)

@[simp] theorem commandFetch_keeps (data : List Byte) (ok : Bool) (s : State) : kp (commandFetch data ok s) = kp s := by
  unfold commandFetch
  repeat' (first | (with_reducible rfl) | simp only [implies_true, kp_foldl, kp_foldl_pair, kp_mk, kp_eta, kp_ite, ite_self, ringError_keeps, setSq_keeps, takeBurst_keeps] | split | (with_reducible refine (kp_foldl _ _ _ ?_).trans ?_) | (with_reducible refine (kp_foldl_pair _ _ _ ?_).trans ?_) | intro _ _)

@[simp] theorem cqStore_keeps (s : State) (n : Nat) (r : Ring) (bytes : List Byte) : kp (cqStore s n r bytes) = kp s := by
  unfold cqStore
  repeat' (first | (with_reducible rfl) | simp only [implies_true, kp_foldl, kp_foldl_pair, kp_mk, kp_eta, kp_ite, ite_self, emit_keeps] | split | (with_reducible refine (kp_foldl _ _ _ ?_).trans ?_) | (with_reducible refine (kp_foldl_pair _ _ _ ?_).trans ?_) | intro _ _)

@[simp] theorem completionWrite_keeps (n j : Nat) (ok : Bool) (s : State) : kp (completionWrite n j ok s) = kp s := by
  unfold completionWrite
  repeat' (first | (with_reducible rfl) | simp only [implies_true, kp_foldl, kp_foldl_pair, kp_mk, kp_eta, kp_ite, ite_self, raise_keeps, setCq_keeps, ringError_keeps, dropCmd_keeps, cqStore_keeps, cqSignal_keeps] | split | (with_reducible refine (kp_foldl _ _ _ ?_).trans ?_) | (with_reducible refine (kp_foldl_pair _ _ _ ?_).trans ?_) | intro _ _)

@[simp] theorem fnReset_keeps (s : State) (f : Nat) : kp (fnReset s f) = kp s := by
  unfold fnReset
  repeat' (first | (with_reducible rfl) | simp only [implies_true, kp_foldl, kp_foldl_pair, kp_mk, kp_eta, kp_ite, ite_self] | split | (with_reducible refine (kp_foldl _ _ _ ?_).trans ?_) | (with_reducible refine (kp_foldl_pair _ _ _ ?_).trans ?_) | intro _ _)

@[simp] theorem bindWrite_keeps (s : State) (f : Nat) (v : W32) : kp (bindWrite s f v) = kp s := by
  unfold bindWrite
  repeat' (first | (with_reducible rfl) | simp only [implies_true, kp_foldl, kp_foldl_pair, kp_mk, kp_eta, kp_ite, ite_self, setBind_keeps] | split | (with_reducible refine (kp_foldl _ _ _ ?_).trans ?_) | (with_reducible refine (kp_foldl_pair _ _ _ ?_).trans ?_) | intro _ _)

@[simp] theorem evSelWrite_keeps (s : State) (n r : Nat) (v : W32) : kp (evSelWrite s n r v) = kp s := by
  unfold evSelWrite
  repeat' (first | (with_reducible rfl) | simp only [implies_true, kp_foldl, kp_foldl_pair, kp_mk, kp_eta, kp_ite, ite_self, setPtn_keeps] | split | (with_reducible refine (kp_foldl _ _ _ ?_).trans ?_) | (with_reducible refine (kp_foldl_pair _ _ _ ?_).trans ?_) | intro _ _)

@[simp] theorem msixFlush_keeps (s : State) (f v : Nat) : kp (msixFlush s f v) = kp s := by
  unfold msixFlush
  repeat' (first | (with_reducible rfl) | simp only [implies_true, kp_foldl, kp_foldl_pair, kp_mk, kp_eta, kp_ite, ite_self, emit_keeps, setPba_keeps] | split | (with_reducible refine (kp_foldl _ _ _ ?_).trans ?_) | (with_reducible refine (kp_foldl_pair _ _ _ ?_).trans ?_) | intro _ _)

@[simp] theorem queueAreaWrite_keeps (s : State) (m : Master) (n off : Nat) (v : W32) : kp (queueAreaWrite s m n off v) = kp s := by
  unfold queueAreaWrite
  repeat' (first | (with_reducible rfl) | simp only [implies_true, kp_foldl, kp_foldl_pair, kp_mk, kp_eta, kp_ite, ite_self, sqEnWrite_keeps, sqDoorbell_keeps, setSq_keeps, ringEnWrite_keeps, headDoorbell_keeps, setCq_keeps, setEr_keeps, evSelWrite_keeps, msixFlush_keeps] | split | (with_reducible refine (kp_foldl _ _ _ ?_).trans ?_) | (with_reducible refine (kp_foldl_pair _ _ _ ?_).trans ?_) | intro _ _)

@[simp] theorem queueAreaTake_keeps (s : State) (n off : Nat) : kp (queueAreaTake s n off) = kp s := by
  unfold queueAreaTake
  repeat' (first | (with_reducible rfl) | simp only [implies_true, kp_foldl, kp_foldl_pair, kp_mk, kp_eta, kp_ite, ite_self, setPtn_keeps, setEr_keeps] | split | (with_reducible refine (kp_foldl _ _ _ ?_).trans ?_) | (with_reducible refine (kp_foldl_pair _ _ _ ?_).trans ?_) | intro _ _)

@[simp] theorem cqCtlWrite_keeps (s : State) (off : Nat) (v : W32) : kp (cqCtlWrite s off v) = kp s := by
  unfold cqCtlWrite
  repeat' (first | (with_reducible rfl) | simp only [implies_true, kp_foldl, kp_foldl_pair, kp_mk, kp_eta, kp_ite, ite_self, setPtn_keeps] | split | (with_reducible refine (kp_foldl _ _ _ ?_).trans ?_) | (with_reducible refine (kp_foldl_pair _ _ _ ?_).trans ?_) | intro _ _)

@[simp] theorem cqCtlTake_keeps (s : State) (off : Nat) : kp (cqCtlTake s off) = kp s := by
  unfold cqCtlTake
  repeat' (first | (with_reducible rfl) | simp only [implies_true, kp_foldl, kp_foldl_pair, kp_mk, kp_eta, kp_ite, ite_self] | split | (with_reducible refine (kp_foldl _ _ _ ?_).trans ?_) | (with_reducible refine (kp_foldl_pair _ _ _ ?_).trans ?_) | intro _ _)

end Sys2Proof.Machine
end

