-- ==== Sys2Proof/Laws/KeepsRings.lean ====
section
/-! SUPPORT. The operations of Machine/Rings.lean keep the fuses and the queue of commands. -/

namespace Sys2Proof.Machine

@[simp] theorem ringStop_keeps (s : State) (n : Nat) (send : Bool) : kp (ringStop s n send) = kp s := by
  unfold ringStop
  repeat' (first | (with_reducible rfl) | simp only [implies_true, kp_foldl, kp_foldl_pair, kp_mk, kp_eta, kp_ite, ite_self, ringError_keeps, setPtn_keeps] | split | (with_reducible refine (kp_foldl _ _ _ ?_).trans ?_) | (with_reducible refine (kp_foldl_pair _ _ _ ?_).trans ?_) | intro _ _)

@[simp] theorem puntVector_keeps (s : State) (n : Nat) : kp (puntVector s n) = kp s := by
  unfold puntVector
  repeat' (first | (with_reducible rfl) | simp only [implies_true, kp_foldl, kp_foldl_pair, kp_mk, kp_eta, kp_ite, ite_self, msixSend_keeps, setPtn_keeps, count_keeps] | split | (with_reducible refine (kp_foldl _ _ _ ?_).trans ?_) | (with_reducible refine (kp_foldl_pair _ _ _ ?_).trans ?_) | intro _ _)

@[simp] theorem puntRingWrite_keeps (n id : Nat) (desc : List Byte) (ok : Bool) (s : State) : kp (puntRingWrite n id desc ok s) = kp s := by
  unfold puntRingWrite
  repeat' (first | (with_reducible rfl) | simp only [implies_true, kp_foldl, kp_foldl_pair, kp_mk, kp_eta, kp_ite, ite_self, count_keeps, takeOut_keeps, ringStop_keeps, emit_keeps, setPtn_keeps, puntVector_keeps] | split | (with_reducible refine (kp_foldl _ _ _ ?_).trans ?_) | (with_reducible refine (kp_foldl_pair _ _ _ ?_).trans ?_) | intro _ _)

@[simp] theorem puntVectorDeferred_keeps (n : Nat) (s : State) : kp (puntVectorDeferred n s) = kp s := by
  unfold puntVectorDeferred
  repeat' (first | (with_reducible rfl) | simp only [implies_true, kp_foldl, kp_foldl_pair, kp_mk, kp_eta, kp_ite, ite_self, puntVector_keeps, setPtn_keeps] | split | (with_reducible refine (kp_foldl _ _ _ ?_).trans ?_) | (with_reducible refine (kp_foldl_pair _ _ _ ?_).trans ?_) | intro _ _)

@[simp] theorem sendRingPoll_keeps (n : Nat) (desc : List Byte) (ok : Bool) (s : State) : kp (sendRingPoll n desc ok s) = kp s := by
  unfold sendRingPoll
  repeat' (first | (with_reducible rfl) | simp only [implies_true, kp_foldl, kp_foldl_pair, kp_mk, kp_eta, kp_ite, ite_self, ringStop_keeps, setPtn_keeps, count_keeps] | split | (with_reducible refine (kp_foldl _ _ _ ?_).trans ?_) | (with_reducible refine (kp_foldl_pair _ _ _ ?_).trans ?_) | intro _ _)

@[simp] theorem sendRingRead_keeps (n : Nat) (frame : List Byte) (ok : Bool) (work : Nat) (s : State) : kp (sendRingRead n frame ok work s) = kp s := by
  unfold sendRingRead
  repeat' (first | (with_reducible rfl) | simp only [implies_true, kp_foldl, kp_foldl_pair, kp_mk, kp_eta, kp_ite, ite_self, ringStop_keeps, emit_keeps, setPtn_keeps, addPkt_keeps, dispatch_keeps] | split | (with_reducible refine (kp_foldl _ _ _ ?_).trans ?_) | (with_reducible refine (kp_foldl_pair _ _ _ ?_).trans ?_) | intro _ _)

@[simp] theorem ringsRestart_keeps (s : State) (n : Nat) : kp (ringsRestart s n) = kp s := by
  unfold ringsRestart
  repeat' (first | (with_reducible rfl) | simp only [implies_true, kp_foldl, kp_foldl_pair, kp_mk, kp_eta, kp_ite, ite_self, setPtn_keeps] | split | (with_reducible refine (kp_foldl _ _ _ ?_).trans ?_) | (with_reducible refine (kp_foldl_pair _ _ _ ?_).trans ?_) | intro _ _)

end Sys2Proof.Machine
end

