-- ==== Sys2Proof/Laws/KeepsPartitions.lean ====
section
/-! SUPPORT. The operations of Machine/Partitions.lean keep the fuses and the queue of commands. -/

namespace Sys2Proof.Machine

@[simp] theorem askReset_keeps (s : State) (n : Nat) : kp (askReset s n) = kp s := by
  unfold askReset
  repeat' (first | (with_reducible rfl) | simp only [implies_true, kp_foldl, kp_foldl_pair, kp_mk, kp_eta, kp_ite, ite_self, see_keeps] | split | (with_reducible refine (kp_foldl _ _ _ ?_).trans ?_) | (with_reducible refine (kp_foldl_pair _ _ _ ?_).trans ?_) | intro _ _)

@[simp] theorem ptnReset_keeps (s : State) (c : Cmd) : kp (ptnReset s c) = kp s := by
  unfold ptnReset
  repeat' (first | (with_reducible rfl) | simp only [implies_true, kp_foldl, kp_foldl_pair, kp_mk, kp_eta, kp_ite, ite_self, complete_keeps, running_keeps, setPtn_keeps, askReset_keeps] | split | (with_reducible refine (kp_foldl _ _ _ ?_).trans ?_) | (with_reducible refine (kp_foldl_pair _ _ _ ?_).trans ?_) | intro _ _)

@[simp] theorem winReset_keeps (n : Nat) (v : W32) (s : State) : kp (winReset n v s) = kp s := by
  unfold winReset
  repeat' (first | (with_reducible rfl) | simp only [implies_true, kp_foldl, kp_foldl_pair, kp_mk, kp_eta, kp_ite, ite_self, askReset_keeps] | split | (with_reducible refine (kp_foldl _ _ _ ?_).trans ?_) | (with_reducible refine (kp_foldl_pair _ _ _ ?_).trans ?_) | intro _ _)

@[simp] theorem discardPending_keeps (s : State) (n : Nat) : kp (discardPending s n) = kp s := by
  unfold discardPending
  repeat' (first | (with_reducible rfl) | simp only [implies_true, kp_foldl, kp_foldl_pair, kp_mk, kp_eta, kp_ite, ite_self] | split | (with_reducible refine (kp_foldl _ _ _ ?_).trans ?_) | (with_reducible refine (kp_foldl_pair _ _ _ ?_).trans ?_) | intro _ _)

@[simp] theorem dropCommands_keeps (s : State) (n : Nat) : kp (dropCommands s n) = kp s := by
  unfold dropCommands
  repeat' (first | (with_reducible rfl) | simp only [implies_true, kp_foldl, kp_foldl_pair, kp_mk, kp_eta, kp_ite, ite_self, dropCmd_keeps] | split | (with_reducible refine (kp_foldl _ _ _ ?_).trans ?_) | (with_reducible refine (kp_foldl_pair _ _ _ ?_).trans ?_) | intro _ _)

@[simp] theorem ptnResetApply_keeps (s : State) (n : Nat) (g : Grain) : kp (ptnResetApply s n g) = kp s := by
  unfold ptnResetApply
  repeat' (first | (with_reducible rfl) | simp only [implies_true, kp_foldl, kp_foldl_pair, kp_mk, kp_eta, kp_ite, ite_self, discardPending_keeps, dropCommands_keeps, setPtn_keeps] | split | (with_reducible refine (kp_foldl _ _ _ ?_).trans ?_) | (with_reducible refine (kp_foldl_pair _ _ _ ?_).trans ?_) | intro _ _)

@[simp] theorem partitionReset_keeps (n : Nat) (s : State) : kp (partitionReset n s) = kp s := by
  unfold partitionReset
  repeat' (first | (with_reducible rfl) | simp only [implies_true, kp_foldl, kp_foldl_pair, kp_mk, kp_eta, kp_ite, ite_self, ptnReset_keeps, ptnResetApply_keeps] | split | (refine Eq.trans (takeHead_keeps _ _ _ ‹takeHead _ _ = some _›) ?_) | (with_reducible refine (kp_foldl _ _ _ ?_).trans ?_) | (with_reducible refine (kp_foldl_pair _ _ _ ?_).trans ?_) | intro _ _)

@[simp] theorem portCleared_keeps (s : State) (p : Nat) : kp (portCleared s p) = kp s := by
  unfold portCleared
  repeat' (first | (with_reducible rfl) | simp only [implies_true, kp_foldl, kp_foldl_pair, kp_mk, kp_eta, kp_ite, ite_self, gateEntryStart_keeps, zeroCredits_keeps, tsuClear_keeps, reseqRelease_keeps, setRsq_keeps] | split | (with_reducible refine (kp_foldl _ _ _ ?_).trans ?_) | (with_reducible refine (kp_foldl_pair _ _ _ ?_).trans ?_) | intro _ _)

@[simp] theorem evcClear_keeps (s : State) (k : Nat) : kp (evcClear s k) = kp s := by
  unfold evcClear
  repeat' (first | (with_reducible rfl) | simp only [implies_true, kp_foldl, kp_foldl_pair, kp_mk, kp_eta, kp_ite, ite_self, setEvc_keeps] | split | (with_reducible refine (kp_foldl _ _ _ ?_).trans ?_) | (with_reducible refine (kp_foldl_pair _ _ _ ?_).trans ?_) | intro _ _)

@[simp] theorem queuesCleared_keeps (s : State) (n : Nat) : kp (queuesCleared s n) = kp s := by
  unfold queuesCleared
  repeat' (first | (with_reducible rfl) | simp only [implies_true, kp_foldl, kp_foldl_pair, kp_mk, kp_eta, kp_ite, ite_self, setCq_keeps, setSq_keeps, setEr_keeps, setPtn_keeps] | split | (with_reducible refine (kp_foldl _ _ _ ?_).trans ?_) | (with_reducible refine (kp_foldl_pair _ _ _ ?_).trans ?_) | intro _ _)

@[simp] theorem ptnCleared_keeps (s : State) (n : Nat) : kp (ptnCleared s n) = kp s := by
  unfold ptnCleared
  repeat' (first | (with_reducible rfl) | simp only [implies_true, kp_foldl, kp_foldl_pair, kp_mk, kp_eta, kp_ite, ite_self, portCleared_keeps, camClear_keeps, fdbRemove_keeps, freeTiles_keeps, evcClear_keeps, ringsRestart_keeps, queuesCleared_keeps] | split | (with_reducible refine (kp_foldl _ _ _ ?_).trans ?_) | (with_reducible refine (kp_foldl_pair _ _ _ ?_).trans ?_) | intro _ _)

@[simp] theorem ptnComplete_keeps (s : State) (n : Nat) : kp (ptnComplete s n) = kp s := by
  unfold ptnComplete
  repeat' (first | (with_reducible rfl) | simp only [implies_true, kp_foldl, kp_foldl_pair, kp_mk, kp_eta, kp_ite, ite_self, ptnCleared_keeps, setPtn_keeps, complete_keeps, raise_keeps, torvSend_keeps] | split | (with_reducible refine (kp_foldl _ _ _ ?_).trans ?_) | (with_reducible refine (kp_foldl_pair _ _ _ ?_).trans ?_) | intro _ _)

@[simp] theorem partitionResetComplete_keeps (n : Nat) (s : State) : kp (partitionResetComplete n s) = kp s := by
  unfold partitionResetComplete
  repeat' (first | (with_reducible rfl) | simp only [implies_true, kp_foldl, kp_foldl_pair, kp_mk, kp_eta, kp_ite, ite_self, ptnComplete_keeps] | split | (with_reducible refine (kp_foldl _ _ _ ?_).trans ?_) | (with_reducible refine (kp_foldl_pair _ _ _ ?_).trans ?_) | intro _ _)

@[simp] theorem partitionResetDeadline_keeps (n : Nat) (s : State) : kp (partitionResetDeadline n s) = kp s := by
  unfold partitionResetDeadline
  repeat' (first | (with_reducible rfl) | simp only [implies_true, kp_foldl, kp_foldl_pair, kp_mk, kp_eta, kp_ite, ite_self, ptnComplete_keeps, purgeAll_keeps, rstDrop_keeps] | split | (with_reducible refine Eq.trans (purgeAll_keeps _ _ _ ?_) ?_) | (with_reducible refine (kp_foldl _ _ _ ?_).trans ?_) | (with_reducible refine (kp_foldl_pair _ _ _ ?_).trans ?_) | intro _ _)

@[simp] theorem resetsEnded_keeps (s : State) : kp (resetsEnded s) = kp s := by
  unfold resetsEnded
  repeat' (first | (with_reducible rfl) | simp only [implies_true, kp_foldl, kp_foldl_pair, kp_mk, kp_eta, kp_ite, ite_self, setPtn_keeps] | split | (with_reducible refine (kp_foldl _ _ _ ?_).trans ?_) | (with_reducible refine (kp_foldl_pair _ _ _ ?_).trans ?_) | intro _ _)

@[simp] theorem ptnStsWrite_keeps (s : State) (n : Nat) (v : W32) : kp (ptnStsWrite s n v) = kp s := by
  unfold ptnStsWrite
  repeat' (first | (with_reducible rfl) | simp only [implies_true, kp_foldl, kp_foldl_pair, kp_mk, kp_eta, kp_ite, ite_self, setPtn_keeps] | split | (with_reducible refine (kp_foldl _ _ _ ?_).trans ?_) | (with_reducible refine (kp_foldl_pair _ _ _ ?_).trans ?_) | intro _ _)

@[simp] theorem winTake_keeps (s : State) (n off : Nat) : kp (winTake s n off) = kp s := by
  unfold winTake
  repeat' (first | (with_reducible rfl) | simp only [implies_true, kp_foldl, kp_foldl_pair, kp_mk, kp_eta, kp_ite, ite_self, setPtn_keeps, xdrop_keeps, rstDrop_keeps] | split | (with_reducible refine (kp_foldl _ _ _ ?_).trans ?_) | (with_reducible refine (kp_foldl_pair _ _ _ ?_).trans ?_) | intro _ _)

end Sys2Proof.Machine
end

