-- ==== Sys2Proof/Laws/KeepsSems.lean ====
section
/-! SUPPORT. The operations of Machine/Sems.lean keep the fuses and the queue of commands. -/

namespace Sys2Proof.Machine

@[simp] theorem setSem_keeps (s : State) (k : Nat) (x : Option Sem) : kp (setSem s k x) = kp s := by
  unfold setSem
  repeat' (first | (with_reducible rfl) | simp only [implies_true, kp_foldl, kp_foldl_pair, kp_mk, kp_eta, kp_ite, ite_self] | split | (with_reducible refine (kp_foldl _ _ _ ?_).trans ?_) | (with_reducible refine (kp_foldl_pair _ _ _ ?_).trans ?_) | intro _ _)

@[simp] theorem semPass_keeps (s : State) (k : Nat) (r : List Lease) : kp (semPass s k r) = kp s := by
  induction r generalizing s k with
  | nil => rfl
  | cons a r ih => 
    unfold semPass
    repeat' (first | (with_reducible rfl) | simp only [ih, implies_true, kp_foldl, kp_foldl_pair, kp_mk, kp_eta, kp_ite, ite_self, setSem_keeps] | split | (with_reducible refine (kp_foldl _ _ _ ?_).trans ?_) | (with_reducible refine (kp_foldl_pair _ _ _ ?_).trans ?_) | intro _ _)

@[simp] theorem semFree_keeps (s : State) (k : Nat) : kp (semFree s k) = kp s := by
  unfold semFree
  repeat' (first | (with_reducible rfl) | simp only [implies_true, kp_foldl, kp_foldl_pair, kp_mk, kp_eta, kp_ite, ite_self, semPass_keeps] | split | (with_reducible refine (kp_foldl _ _ _ ?_).trans ?_) | (with_reducible refine (kp_foldl_pair _ _ _ ?_).trans ?_) | intro _ _)

@[simp] theorem semRevoke_keeps (s : State) (k : Nat) : kp (semRevoke s k) = kp s := by
  unfold semRevoke
  repeat' (first | (with_reducible rfl) | simp only [implies_true, kp_foldl, kp_foldl_pair, kp_mk, kp_eta, kp_ite, ite_self, semPass_keeps] | split | (with_reducible refine (kp_foldl _ _ _ ?_).trans ?_) | (with_reducible refine (kp_foldl_pair _ _ _ ?_).trans ?_) | intro _ _)

@[simp] theorem semAcquire_keeps (s : State) (k : Nat) (x : Lease) : kp (semAcquire s k x) = kp s := by
  unfold semAcquire
  repeat' (first | (with_reducible rfl) | simp only [implies_true, kp_foldl, kp_foldl_pair, kp_mk, kp_eta, kp_ite, ite_self, setSem_keeps] | split | (with_reducible refine (kp_foldl _ _ _ ?_).trans ?_) | (with_reducible refine (kp_foldl_pair _ _ _ ?_).trans ?_) | intro _ _)

@[simp] theorem semApply_keeps (s : State) (k off : Nat) (v : W32) : kp (semApply s k off v) = kp s := by
  unfold semApply
  repeat' (first | (with_reducible rfl) | simp only [implies_true, kp_foldl, kp_foldl_pair, kp_mk, kp_eta, kp_ite, ite_self, semAcquire_keeps, semFree_keeps, setSem_keeps, count_keeps] | split | (with_reducible refine (kp_foldl _ _ _ ?_).trans ?_) | (with_reducible refine (kp_foldl_pair _ _ _ ?_).trans ?_) | intro _ _)

@[simp] theorem semExpiry_keeps (k : Nat) (s : State) : kp (semExpiry k s) = kp s := by
  unfold semExpiry
  repeat' (first | (with_reducible rfl) | simp only [implies_true, kp_foldl, kp_foldl_pair, kp_mk, kp_eta, kp_ite, ite_self, semRevoke_keeps] | split | (with_reducible refine (kp_foldl _ _ _ ?_).trans ?_) | (with_reducible refine (kp_foldl_pair _ _ _ ?_).trans ?_) | intro _ _)

@[simp] theorem semFreeze_keeps (s : State) : kp (semFreeze s) = kp s := by
  unfold semFreeze
  repeat' (first | (with_reducible rfl) | simp only [implies_true, kp_foldl, kp_foldl_pair, kp_mk, kp_eta, kp_ite, ite_self, count_keeps] | split | (with_reducible refine (kp_foldl _ _ _ ?_).trans ?_) | (with_reducible refine (kp_foldl_pair _ _ _ ?_).trans ?_) | intro _ _)

@[simp] theorem semThaw_keeps (s : State) : kp (semThaw s) = kp s := by
  unfold semThaw
  repeat' (first | (with_reducible rfl) | simp only [implies_true, kp_foldl, kp_foldl_pair, kp_mk, kp_eta, kp_ite, ite_self, count_keeps] | split | (with_reducible refine (kp_foldl _ _ _ ?_).trans ?_) | (with_reducible refine (kp_foldl_pair _ _ _ ?_).trans ?_) | intro _ _)

@[simp] theorem semCluster_keeps (s : State) : kp (semCluster s) = kp s := by
  unfold semCluster
  repeat' (first | (with_reducible rfl) | simp only [implies_true, kp_foldl, kp_foldl_pair, kp_mk, kp_eta, kp_ite, ite_self, semRevoke_keeps] | split | (with_reducible refine (kp_foldl _ _ _ ?_).trans ?_) | (with_reducible refine (kp_foldl_pair _ _ _ ?_).trans ?_) | intro _ _)

@[simp] theorem runCfg_keeps (s : State) (id op : Nat) (f : State → Cmd → State) (h : ∀ t x0, kp (f t x0) = kp t) : kp (runCfg s id op f) = kp s := by
  unfold runCfg
  repeat' (first | (with_reducible rfl) | simp only [implies_true, kp_foldl, kp_foldl_pair, kp_mk, kp_eta, kp_ite, ite_self, runCmd_keeps, semFree_keeps, setSem_keeps, h] | split | (with_reducible refine Eq.trans (runCmd_keeps _ _ _ _ ?_) ?_) | (with_reducible refine (kp_foldl _ _ _ ?_).trans ?_) | (with_reducible refine (kp_foldl_pair _ _ _ ?_).trans ?_) | intro _ _)

@[simp] theorem semWrite_keeps (s : State) (k off : Nat) (v : W32) : kp (semWrite s k off v) = kp s := by
  unfold semWrite
  repeat' (first | (with_reducible rfl) | simp only [implies_true, kp_foldl, kp_foldl_pair, kp_mk, kp_eta, kp_ite, ite_self, pendWrite_keeps] | split | (with_reducible refine (kp_foldl _ _ _ ?_).trans ?_) | (with_reducible refine (kp_foldl_pair _ _ _ ?_).trans ?_) | intro _ _)

end Sys2Proof.Machine
end

