-- ==== Sys2Proof/Laws/KeepsSettingsCheck.lean ====
section
/-! SUPPORT. The operations of Machine/SettingsCheck.lean keep the fuses and the queue of commands. -/

namespace Sys2Proof.Machine

@[simp] theorem written_keeps (s : State) (n : Nat) (l : List (Nat × List W32)) : kp (written s n l) = kp s := by
  unfold written
  repeat' (first | (with_reducible rfl) | simp only [implies_true, kp_foldl, kp_foldl_pair, kp_mk, kp_eta, kp_ite, ite_self] | split | (with_reducible refine (kp_foldl _ _ _ ?_).trans ?_) | (with_reducible refine (kp_foldl_pair _ _ _ ?_).trans ?_) | intro _ _)

@[simp] theorem resulting_keeps (s : State) (n : Nat) (l : List (Nat × List W32)) : kp (resulting s n l) = kp s := by
  unfold resulting
  repeat' (first | (with_reducible rfl) | simp only [implies_true, kp_foldl, kp_foldl_pair, kp_mk, kp_eta, kp_ite, ite_self, written_keeps] | split | (with_reducible refine (kp_foldl _ _ _ ?_).trans ?_) | (with_reducible refine (kp_foldl_pair _ _ _ ?_).trans ?_) | intro _ _)

end Sys2Proof.Machine
end

