-- ==== Sys2Proof/Laws/KeepsTwinOps.lean ====
section
/-! SUPPORT. The operations of Machine/TwinOps.lean keep the fuses and the queue of commands. -/

namespace Sys2Proof.Machine

@[simp] theorem twinSet_keeps (s : State) (st : BitVec 3) (cause : Nat) : kp (twinSet s st cause) = kp s := by
  unfold twinSet
  repeat' (first | (with_reducible rfl) | simp only [implies_true, kp_foldl, kp_foldl_pair, kp_mk, kp_eta, kp_ite, ite_self, raise_keeps] | split | (with_reducible refine (kp_foldl _ _ _ ?_).trans ?_) | (with_reducible refine (kp_foldl_pair _ _ _ ?_).trans ?_) | intro _ _)

@[simp] theorem readyClear_keeps (s : State) : kp (readyClear s) = kp s := by
  unfold readyClear
  repeat' (first | (with_reducible rfl) | simp only [implies_true, kp_foldl, kp_foldl_pair, kp_mk, kp_eta, kp_ite, ite_self] | split | (with_reducible refine (kp_foldl _ _ _ ?_).trans ?_) | (with_reducible refine (kp_foldl_pair _ _ _ ?_).trans ?_) | intro _ _)

@[simp] theorem leavePaired_keeps (s : State) : kp (leavePaired s) = kp s := by
  unfold leavePaired
  repeat' (first | (with_reducible rfl) | simp only [implies_true, kp_foldl, kp_foldl_pair, kp_mk, kp_eta, kp_ite, ite_self, readyClear_keeps, holdoverEntry_keeps] | split | (with_reducible refine (kp_foldl _ _ _ ?_).trans ?_) | (with_reducible refine (kp_foldl_pair _ _ _ ?_).trans ?_) | intro _ _)

@[simp] theorem twinCleared_keeps (s : State) : kp (twinCleared s) = kp s := by
  unfold twinCleared
  repeat' (first | (with_reducible rfl) | simp only [implies_true, kp_foldl, kp_foldl_pair, kp_mk, kp_eta, kp_ite, ite_self] | split | (with_reducible refine (kp_foldl _ _ _ ?_).trans ?_) | (with_reducible refine (kp_foldl_pair _ _ _ ?_).trans ?_) | intro _ _)

@[simp] theorem twinTo_keeps (s : State) (st : BitVec 3) (cause : Nat) : kp (twinTo s st cause) = kp s := by
  unfold twinTo
  repeat' (first | (with_reducible rfl) | simp only [implies_true, kp_foldl, kp_foldl_pair, kp_mk, kp_eta, kp_ite, ite_self, twinSet_keeps, leavePaired_keeps, twinCleared_keeps] | split | (with_reducible refine (kp_foldl _ _ _ ?_).trans ?_) | (with_reducible refine (kp_foldl_pair _ _ _ ?_).trans ?_) | intro _ _)

@[simp] theorem readySend_keeps (s : State) (g : Grain) (twin align : Bool) : kp (readySend s g twin align) = kp s := by
  unfold readySend
  repeat' (first | (with_reducible rfl) | simp only [implies_true, kp_foldl, kp_foldl_pair, kp_mk, kp_eta, kp_ite, ite_self, torvSend_keeps] | split | (with_reducible refine (kp_foldl _ _ _ ?_).trans ?_) | (with_reducible refine (kp_foldl_pair _ _ _ ?_).trans ?_) | intro _ _)

end Sys2Proof.Machine
end

