-- ==== Sys2Proof/Laws/KeepsEpochs.lean ====
section
/-! SUPPORT. The operations of Machine/Epochs.lean keep the fuses and the queue of commands. -/

namespace Sys2Proof.Machine

@[simp] theorem closeTxn_keeps (s : State) (n : Nat) : kp (closeTxn s n) = kp s := by
  unfold closeTxn
  repeat' (first | (with_reducible rfl) | simp only [implies_true, kp_foldl, kp_foldl_pair, kp_mk, kp_eta, kp_ite, ite_self] | split | (with_reducible refine (kp_foldl _ _ _ ?_).trans ?_) | (with_reducible refine (kp_foldl_pair _ _ _ ?_).trans ?_) | intro _ _)

@[simp] theorem cfgOpen_keeps (s : State) (c : Cmd) : kp (cfgOpen s c) = kp s := by
  unfold cfgOpen
  repeat' (first | (with_reducible rfl) | simp only [implies_true, kp_foldl, kp_foldl_pair, kp_mk, kp_eta, kp_ite, ite_self, complete_keeps] | split | (with_reducible refine (kp_foldl _ _ _ ?_).trans ?_) | (with_reducible refine (kp_foldl_pair _ _ _ ?_).trans ?_) | intro _ _)

@[simp] theorem cfgSetEff_keeps (s : State) (n k : Nat) (v : List W32) : kp (cfgSetEff s n k v).1 = kp s := by
  unfold cfgSetEff
  repeat' (first | (with_reducible rfl) | simp only [implies_true, kp_foldl, kp_foldl_pair, kp_mk, kp_eta, kp_ite, ite_self] | split | (with_reducible refine (kp_foldl _ _ _ ?_).trans ?_) | (with_reducible refine (kp_foldl_pair _ _ _ ?_).trans ?_) | intro _ _)

@[simp] theorem cfgSet_keeps (s : State) (c : Cmd) : kp (cfgSet s c) = kp s := by
  unfold cfgSet
  repeat' (first | (with_reducible rfl) | simp only [implies_true, kp_foldl, kp_foldl_pair, kp_mk, kp_eta, kp_ite, ite_self, cfgSetEff_keeps, complete_keeps] | split | (have h1 := congrArg (fun p => kp p.1) ‹cfgSetEff _ _ _ _ = _›; simp only [implies_true, kp_foldl, kp_foldl_pair, kp_mk, kp_eta, kp_ite, ite_self, cfgSetEff_keeps, complete_keeps] at h1; exact h1.symm) | (with_reducible refine (kp_foldl _ _ _ ?_).trans ?_) | (with_reducible refine (kp_foldl_pair _ _ _ ?_).trans ?_) | intro _ _)

@[simp] theorem addCommit_keeps (s : State) (c : Commit) : kp (addCommit s c) = kp s := by
  unfold addCommit
  repeat' (first | (with_reducible rfl) | simp only [implies_true, kp_foldl, kp_foldl_pair, kp_mk, kp_eta, kp_ite, ite_self] | split | (with_reducible refine (kp_foldl _ _ _ ?_).trans ?_) | (with_reducible refine (kp_foldl_pair _ _ _ ?_).trans ?_) | intro _ _)

@[simp] theorem cfgCommit_keeps (s : State) (c : Cmd) : kp (cfgCommit s c) = kp s := by
  unfold cfgCommit
  repeat' (first | (with_reducible rfl) | simp only [implies_true, kp_foldl, kp_foldl_pair, kp_mk, kp_eta, kp_ite, ite_self, complete_keeps, running_keeps, addCommit_keeps] | split | (with_reducible refine (kp_foldl _ _ _ ?_).trans ?_) | (with_reducible refine (kp_foldl_pair _ _ _ ?_).trans ?_) | intro _ _)

@[simp] theorem dropCommit_keeps (s : State) (c : Commit) : kp (dropCommit s c) = kp s := by
  unfold dropCommit
  repeat' (first | (with_reducible rfl) | simp only [implies_true, kp_foldl, kp_foldl_pair, kp_mk, kp_eta, kp_ite, ite_self, closeTxn_keeps] | split | (with_reducible refine (kp_foldl _ _ _ ?_).trans ?_) | (with_reducible refine (kp_foldl_pair _ _ _ ?_).trans ?_) | intro _ _)

@[simp] theorem cfgAbort_keeps (s : State) (c : Cmd) : kp (cfgAbort s c) = kp s := by
  unfold cfgAbort
  repeat' (first | (with_reducible rfl) | simp only [implies_true, kp_foldl, kp_foldl_pair, kp_mk, kp_eta, kp_ite, ite_self, complete_keeps, completeOpt_keeps, dropCommit_keeps, closeTxn_keeps] | split | (with_reducible refine (kp_foldl _ _ _ ?_).trans ?_) | (with_reducible refine (kp_foldl_pair _ _ _ ?_).trans ?_) | intro _ _)

@[simp] theorem writeUcode_keeps (s : State) (a : Nat) (w : Option (BitVec 128)) : kp (writeUcode s a w) = kp s := by
  unfold writeUcode
  repeat' (first | (with_reducible rfl) | simp only [implies_true, kp_foldl, kp_foldl_pair, kp_mk, kp_eta, kp_ite, ite_self] | split | (with_reducible refine (kp_foldl _ _ _ ?_).trans ?_) | (with_reducible refine (kp_foldl_pair _ _ _ ?_).trans ?_) | intro _ _)

@[simp] theorem copyUcode_keeps (s : State) (a b : Nat) : kp (copyUcode s a b) = kp s := by
  unfold copyUcode
  repeat' (first | (with_reducible rfl) | simp only [implies_true, kp_foldl, kp_foldl_pair, kp_mk, kp_eta, kp_ite, ite_self, writeUcode_keeps] | split | (with_reducible refine (kp_foldl _ _ _ ?_).trans ?_) | (with_reducible refine (kp_foldl_pair _ _ _ ?_).trans ?_) | intro _ _)

@[simp] theorem mirrorStart_keeps (s : State) : kp (mirrorStart s) = kp s := by
  unfold mirrorStart
  repeat' (first | (with_reducible rfl) | simp only [implies_true, kp_foldl, kp_foldl_pair, kp_mk, kp_eta, kp_ite, ite_self, copyUcode_keeps, count_keeps] | split | (with_reducible refine (kp_foldl _ _ _ ?_).trans ?_) | (with_reducible refine (kp_foldl_pair _ _ _ ?_).trans ?_) | intro _ _)

@[simp] theorem mirrorPush_keeps (s : State) (bank region full : Bool) : kp (mirrorPush s bank region full) = kp s := by
  unfold mirrorPush
  repeat' (first | (with_reducible rfl) | simp only [implies_true, kp_foldl, kp_foldl_pair, kp_mk, kp_eta, kp_ite, ite_self, mirrorStart_keeps] | split | (with_reducible refine (kp_foldl _ _ _ ?_).trans ?_) | (with_reducible refine (kp_foldl_pair _ _ _ ?_).trans ?_) | intro _ _)

@[simp] theorem mirrorComplete_keeps (s : State) : kp (mirrorComplete s) = kp s := by
  unfold mirrorComplete
  repeat' (first | (with_reducible rfl) | simp only [implies_true, kp_foldl, kp_foldl_pair, kp_mk, kp_eta, kp_ite, ite_self, mirrorStart_keeps] | split | (with_reducible refine (kp_foldl _ _ _ ?_).trans ?_) | (with_reducible refine (kp_foldl_pair _ _ _ ?_).trans ?_) | intro _ _)

@[simp] theorem epochRetire_keeps (s : State) : kp (epochRetire s) = kp s := by
  unfold epochRetire
  repeat' (first | (with_reducible rfl) | simp only [implies_true, kp_foldl, kp_foldl_pair, kp_mk, kp_eta, kp_ite, ite_self, count_keeps, mirrorPush_keeps] | split | (with_reducible refine (kp_foldl _ _ _ ?_).trans ?_) | (with_reducible refine (kp_foldl_pair _ _ _ ?_).trans ?_) | intro _ _)

@[simp] theorem restamp_keeps (s : State) (old : BitVec 16) (g : Grain) : kp (restamp s old g) = kp s := by
  unfold restamp
  repeat' (first | (with_reducible rfl) | simp only [implies_true, kp_foldl, kp_foldl_pair, kp_mk, kp_eta, kp_ite, ite_self] | split | (with_reducible refine (kp_foldl _ _ _ ?_).trans ?_) | (with_reducible refine (kp_foldl_pair _ _ _ ?_).trans ?_) | intro _ _)

@[simp] theorem openNumbered_keeps (s : State) (g : Grain) (num : BitVec 16) : kp (openNumbered s g num) = kp s := by
  unfold openNumbered
  repeat' (first | (with_reducible rfl) | simp only [implies_true, kp_foldl, kp_foldl_pair, kp_mk, kp_eta, kp_ite, ite_self, restamp_keeps] | split | (with_reducible refine (kp_foldl _ _ _ ?_).trans ?_) | (with_reducible refine (kp_foldl_pair _ _ _ ?_).trans ?_) | intro _ _)

@[simp] theorem openEpoch_keeps (s : State) (g : Grain) : kp (openEpoch s g) = kp s := by
  unfold openEpoch
  repeat' (first | (with_reducible rfl) | simp only [implies_true, kp_foldl, kp_foldl_pair, kp_mk, kp_eta, kp_ite, ite_self, openNumbered_keeps] | split | (with_reducible refine (kp_foldl _ _ _ ?_).trans ?_) | (with_reducible refine (kp_foldl_pair _ _ _ ?_).trans ?_) | intro _ _)

@[simp] theorem modNewest_keeps (s : State) (f : Epoch → Epoch) : kp (modNewest s f) = kp s := by
  unfold modNewest
  repeat' (first | (with_reducible rfl) | simp only [implies_true, kp_foldl, kp_foldl_pair, kp_mk, kp_eta, kp_ite, ite_self] | split | (with_reducible refine (kp_foldl _ _ _ ?_).trans ?_) | (with_reducible refine (kp_foldl_pair _ _ _ ?_).trans ?_) | intro _ _)

@[simp] theorem swapBanks_keeps (s : State) (l : List (Nat × List W32)) (relaid : Bool) : kp (swapBanks s l relaid) = kp s := by
  unfold swapBanks
  repeat' (first | (with_reducible rfl) | simp only [implies_true, kp_foldl, kp_foldl_pair, kp_mk, kp_eta, kp_ite, ite_self, modNewest_keeps] | split | (with_reducible refine (kp_foldl _ _ _ ?_).trans ?_) | (with_reducible refine (kp_foldl_pair _ _ _ ?_).trans ?_) | intro _ _)

@[simp] theorem writeBanks_keeps (s : State) (l : List (Nat × List W32)) : kp (writeBanks s l) = kp s := by
  unfold writeBanks
  repeat' (first | (with_reducible rfl) | simp only [implies_true, kp_foldl, kp_foldl_pair, kp_mk, kp_eta, kp_ite, ite_self, writeUcode_keeps] | split | (with_reducible refine (kp_foldl _ _ _ ?_).trans ?_) | (with_reducible refine (kp_foldl_pair _ _ _ ?_).trans ?_) | intro _ _)

@[simp] theorem epochEffect_keeps (s : State) (k : Nat) (old v : List W32) : kp (epochEffect s k old v) = kp s := by
  unfold epochEffect
  repeat' (first | (with_reducible rfl) | simp only [implies_true, kp_foldl, kp_foldl_pair, kp_mk, kp_eta, kp_ite, ite_self, evcClear_keeps, ringsRestart_keeps, gateEntryStart_keeps] | split | (with_reducible refine (kp_foldl _ _ _ ?_).trans ?_) | (with_reducible refine (kp_foldl_pair _ _ _ ?_).trans ?_) | intro _ _)

@[simp] theorem quiesceFlush_keeps (s : State) (x : Quiesce) : kp (quiesceFlush s x).1 = kp s := by
  unfold quiesceFlush
  repeat' (first | (with_reducible rfl) | simp only [implies_true, kp_foldl, kp_foldl_pair, kp_mk, kp_eta, kp_ite, ite_self, flushCopies_keeps] | split | (have h1 := congrArg (fun p => kp p.1) ‹flushCopies _ _ _ = _›; simp only [implies_true, kp_foldl, kp_foldl_pair, kp_mk, kp_eta, kp_ite, ite_self, flushCopies_keeps] at h1; exact h1.symm) | (with_reducible refine (kp_foldl _ _ _ ?_).trans ?_) | (with_reducible refine (kp_foldl_pair _ _ _ ?_).trans ?_) | intro _ _)

@[simp] theorem quiesceRadio_keeps (s : State) (x : Quiesce) : kp (quiesceRadio s x).1 = kp s := by
  unfold quiesceRadio
  repeat' (first | (with_reducible rfl) | simp only [implies_true, kp_foldl, kp_foldl_pair, kp_mk, kp_eta, kp_ite, ite_self, setRadio_keeps] | split | (with_reducible refine (kp_foldl _ _ _ ?_).trans ?_) | (with_reducible refine (kp_foldl_pair _ _ _ ?_).trans ?_) | intro _ _)

@[simp] theorem startQuiesce_keeps (s t : State) (c : Commit) (g : Grain) (l : List (Nat × List W32)) : kp (startQuiesce s t c g l) = kp s := by
  unfold startQuiesce
  repeat' (first | (with_reducible rfl) | simp only [implies_true, kp_foldl, kp_foldl_pair, kp_mk, kp_eta, kp_ite, ite_self, quiesceFlush_keeps, quiesceRadio_keeps] | split | (have h1 := congrArg (fun p => kp p.1) ‹quiesceFlush _ _ = _›; simp only [implies_true, kp_foldl, kp_foldl_pair, kp_mk, kp_eta, kp_ite, ite_self, quiesceFlush_keeps, quiesceRadio_keeps] at h1; exact h1.symm) | (have h1 := congrArg (fun p => kp p.1) ‹quiesceRadio _ _ = _›; simp only [implies_true, kp_foldl, kp_foldl_pair, kp_mk, kp_eta, kp_ite, ite_self, quiesceFlush_keeps, quiesceRadio_keeps] at h1; exact h1.symm) | (with_reducible refine (kp_foldl _ _ _ ?_).trans ?_) | (with_reducible refine (kp_foldl_pair _ _ _ ?_).trans ?_) | intro _ _)

@[simp] theorem drainEffect_keeps (before_ t : State) (k : Nat) : kp (drainEffect before_ t k) = kp t := by
  unfold drainEffect
  repeat' (first | (with_reducible rfl) | simp only [implies_true, kp_foldl, kp_foldl_pair, kp_mk, kp_eta, kp_ite, ite_self, portModeApply_keeps, tsuClear_keeps, fdbRemove_keeps, camClear_keeps, mirrorPush_keeps, setRadio_keeps] | split | (with_reducible refine (kp_foldl _ _ _ ?_).trans ?_) | (with_reducible refine (kp_foldl_pair _ _ _ ?_).trans ?_) | intro _ _)

@[simp] theorem imageSet_keeps (s : State) (n : Nat) (i : Option (BitVec 64)) : kp (imageSet s n i) = kp s := by
  unfold imageSet
  repeat' (first | (with_reducible rfl) | simp only [implies_true, kp_foldl, kp_foldl_pair, kp_mk, kp_eta, kp_ite, ite_self, setPtn_keeps] | split | (with_reducible refine (kp_foldl _ _ _ ?_).trans ?_) | (with_reducible refine (kp_foldl_pair _ _ _ ?_).trans ?_) | intro _ _)

@[simp] theorem quiesceApply_keeps (s : State) (x : Quiesce) : kp (quiesceApply s x) = kp s := by
  unfold quiesceApply
  repeat' (first | (with_reducible rfl) | simp only [implies_true, kp_foldl, kp_foldl_pair, kp_mk, kp_eta, kp_ite, ite_self, written_keeps, drainEffect_keeps, imageSet_keeps, completeOpt_keeps] | split | (with_reducible refine (kp_foldl _ _ _ ?_).trans ?_) | (with_reducible refine (kp_foldl_pair _ _ _ ?_).trans ?_) | intro _ _)

@[simp] theorem quiesceEnd_keeps (s : State) : kp (quiesceEnd s) = kp s := by
  unfold quiesceEnd
  repeat' (first | (with_reducible rfl) | simp only [implies_true, kp_foldl, kp_foldl_pair, kp_mk, kp_eta, kp_ite, ite_self, quiesceApply_keeps] | split | (with_reducible refine (kp_foldl _ _ _ ?_).trans ?_) | (with_reducible refine (kp_foldl_pair _ _ _ ?_).trans ?_) | intro _ _)

@[simp] theorem quiescePurge_keeps (s : State) (x : Quiesce) : kp (quiescePurge s x) = kp s := by
  unfold quiescePurge
  repeat' (first | (with_reducible rfl) | simp only [implies_true, kp_foldl, kp_foldl_pair, kp_mk, kp_eta, kp_ite, ite_self, purgeAll_keeps, drainLost_keeps, flushCopies_keeps, setRadio_keeps] | split | (with_reducible refine Eq.trans (purgeAll_keeps _ _ _ ?_) ?_) | (have h1 := congrArg (fun p => kp p.1) ‹flushCopies _ _ _ = _›; simp only [implies_true, kp_foldl, kp_foldl_pair, kp_mk, kp_eta, kp_ite, ite_self, purgeAll_keeps, drainLost_keeps, flushCopies_keeps, setRadio_keeps] at h1; exact h1.symm) | (with_reducible refine (kp_foldl _ _ _ ?_).trans ?_) | (with_reducible refine (kp_foldl_pair _ _ _ ?_).trans ?_) | intro _ _)

@[simp] theorem quiesceDeadline_keeps (s : State) : kp (quiesceDeadline s) = kp s := by
  unfold quiesceDeadline
  repeat' (first | (with_reducible rfl) | simp only [implies_true, kp_foldl, kp_foldl_pair, kp_mk, kp_eta, kp_ite, ite_self, quiescePurge_keeps, quiesceApply_keeps] | split | (with_reducible refine (kp_foldl _ _ _ ?_).trans ?_) | (with_reducible refine (kp_foldl_pair _ _ _ ?_).trans ?_) | intro _ _)

@[simp] theorem commitFail_keeps (s : State) (c : Commit) (status : Nat) : kp (commitFail s c status) = kp s := by
  unfold commitFail
  repeat' (first | (with_reducible rfl) | simp only [implies_true, kp_foldl, kp_foldl_pair, kp_mk, kp_eta, kp_ite, ite_self, completeOpt_keeps, dropCommit_keeps] | split | (with_reducible refine (kp_foldl _ _ _ ?_).trans ?_) | (with_reducible refine (kp_foldl_pair _ _ _ ?_).trans ?_) | intro _ _)

@[simp] theorem commitBusy_keeps (s : State) (c : Commit) : kp (commitBusy s c) = kp s := by
  unfold commitBusy
  repeat' (first | (with_reducible rfl) | simp only [implies_true, kp_foldl, kp_foldl_pair, kp_mk, kp_eta, kp_ite, ite_self, commitFail_keeps] | split | (with_reducible refine (kp_foldl _ _ _ ?_).trans ?_) | (with_reducible refine (kp_foldl_pair _ _ _ ?_).trans ?_) | intro _ _)

@[simp] theorem commitIdle_keeps (s : State) (c : Commit) : kp (commitIdle s c) = kp s := by
  unfold commitIdle
  repeat' (first | (with_reducible rfl) | simp only [implies_true, kp_foldl, kp_foldl_pair, kp_mk, kp_eta, kp_ite, ite_self, imageSet_keeps, dropCommit_keeps, completeOpt_keeps] | split | (with_reducible refine (kp_foldl _ _ _ ?_).trans ?_) | (with_reducible refine (kp_foldl_pair _ _ _ ?_).trans ?_) | intro _ _)

@[simp] theorem commitOpen_keeps (s : State) (c : Commit) (g : Grain) : kp (commitOpen s c g) = kp s := by
  unfold commitOpen
  repeat' (first | (with_reducible rfl) | simp only [implies_true, kp_foldl, kp_foldl_pair, kp_mk, kp_eta, kp_ite, ite_self, resulting_keeps, swapBanks_keeps, openEpoch_keeps, dropCommit_keeps, writeBanks_keeps, written_keeps, epochEffect_keeps, raiseAt_keeps, completeOpt_keeps, imageSet_keeps, startQuiesce_keeps] | split | (with_reducible refine (kp_foldl _ _ _ ?_).trans ?_) | (with_reducible refine (kp_foldl_pair _ _ _ ?_).trans ?_) | intro _ _)

@[simp] theorem commitTake_keeps (s : State) (c : Commit) (g : Grain) : kp (commitTake s c g) = kp s := by
  unfold commitTake
  repeat' (first | (with_reducible rfl) | simp only [implies_true, kp_foldl, kp_foldl_pair, kp_mk, kp_eta, kp_ite, ite_self, commitFail_keeps, commitOpen_keeps] | split | (with_reducible refine (kp_foldl _ _ _ ?_).trans ?_) | (with_reducible refine (kp_foldl_pair _ _ _ ?_).trans ?_) | intro _ _)

@[simp] theorem commitWait_keeps (s : State) (c : Commit) : kp (commitWait s c) = kp s := by
  unfold commitWait
  repeat' (first | (with_reducible rfl) | simp only [implies_true, kp_foldl, kp_foldl_pair, kp_mk, kp_eta, kp_ite, ite_self] | split | (with_reducible refine (kp_foldl _ _ _ ?_).trans ?_) | (with_reducible refine (kp_foldl_pair _ _ _ ?_).trans ?_) | intro _ _)

@[simp] theorem sendEntries_keeps (s : State) (c : Commit) (g : Grain) : kp (sendEntries s c g) = kp s := by
  unfold sendEntries
  repeat' (first | (with_reducible rfl) | simp only [implies_true, kp_foldl, kp_foldl_pair, kp_mk, kp_eta, kp_ite, ite_self, torvSend_keeps] | split | (with_reducible refine (kp_foldl _ _ _ ?_).trans ?_) | (with_reducible refine (kp_foldl_pair _ _ _ ?_).trans ?_) | intro _ _)

@[simp] theorem commitPaired_keeps (s : State) (c : Commit) (g : Grain) : kp (commitPaired s c g) = kp s := by
  unfold commitPaired
  repeat' (first | (with_reducible rfl) | simp only [implies_true, kp_foldl, kp_foldl_pair, kp_mk, kp_eta, kp_ite, ite_self, commitTake_keeps, twinTo_keeps, commitBusy_keeps, commitWait_keeps, readySend_keeps, sendEntries_keeps] | split | (with_reducible refine (kp_foldl _ _ _ ?_).trans ?_) | (with_reducible refine (kp_foldl_pair _ _ _ ?_).trans ?_) | intro _ _)

@[simp] theorem commitPresent_keeps (s : State) (c0 : Commit) (g : Grain) : kp (commitPresent s c0 g) = kp s := by
  unfold commitPresent
  repeat' (first | (with_reducible rfl) | simp only [implies_true, kp_foldl, kp_foldl_pair, kp_mk, kp_eta, kp_ite, ite_self, commitIdle_keeps, commitBusy_keeps, commitWait_keeps, commitPaired_keeps, commitTake_keeps] | split | (with_reducible refine (kp_foldl _ _ _ ?_).trans ?_) | (with_reducible refine (kp_foldl_pair _ _ _ ?_).trans ?_) | intro _ _)

@[simp] theorem commitApply_keeps (s : State) : kp (commitApply s) = kp s := by
  unfold commitApply
  repeat' (first | (with_reducible rfl) | simp only [implies_true, kp_foldl, kp_foldl_pair, kp_mk, kp_eta, kp_ite, ite_self, commitPresent_keeps] | split | (refine Eq.trans (takeHead_keeps _ _ _ ‹takeHead _ _ = some _›) ?_) | (with_reducible refine (kp_foldl _ _ _ ?_).trans ?_) | (with_reducible refine (kp_foldl_pair _ _ _ ?_).trans ?_) | intro _ _)

@[simp] theorem commitWaitTimeout_keeps (s : State) : kp (commitWaitTimeout s) = kp s := by
  unfold commitWaitTimeout
  repeat' (first | (with_reducible rfl) | simp only [implies_true, kp_foldl, kp_foldl_pair, kp_mk, kp_eta, kp_ite, ite_self, commitBusy_keeps] | split | (with_reducible refine (kp_foldl _ _ _ ?_).trans ?_) | (with_reducible refine (kp_foldl_pair _ _ _ ?_).trans ?_) | intro _ _)

@[simp] theorem imageEntries_keeps (s : State) (n : Nat) (r : List (List Byte)) : kp (imageEntries s n r).1 = kp s := by
  induction r generalizing s n with
  | nil => rfl
  | cons a r ih => 
    unfold imageEntries
    repeat' (first | (with_reducible rfl) | simp only [ih, implies_true, kp_foldl, kp_foldl_pair, kp_mk, kp_eta, kp_ite, ite_self, cfgSetEff_keeps] | split | (have h1 := congrArg (fun p => kp p.1) ‹cfgSetEff _ _ _ _ = _›; simp only [implies_true, kp_foldl, kp_foldl_pair, kp_mk, kp_eta, kp_ite, ite_self, cfgSetEff_keeps] at h1; exact h1.symm) | (with_reducible refine (kp_foldl _ _ _ ?_).trans ?_) | (with_reducible refine (kp_foldl_pair _ _ _ ?_).trans ?_) | intro _ _)

@[simp] theorem imageCommit_keeps (s : State) (c : Cmd) (b : List Byte) : kp (imageCommit s c b) = kp s := by
  unfold imageCommit
  repeat' (first | (with_reducible rfl) | simp only [implies_true, kp_foldl, kp_foldl_pair, kp_mk, kp_eta, kp_ite, ite_self, complete_keeps, closeTxn_keeps, running_keeps, addCommit_keeps] | split | (with_reducible refine (kp_foldl _ _ _ ?_).trans ?_) | (with_reducible refine (kp_foldl_pair _ _ _ ?_).trans ?_) | intro _ _)

@[simp] theorem cfgImageApply_keeps (image : List Byte) (ok : Bool) (s : State) (c : Cmd) : kp (cfgImageApply image ok s c) = kp s := by
  unfold cfgImageApply
  repeat' (first | (with_reducible rfl) | simp only [implies_true, kp_foldl, kp_foldl_pair, kp_mk, kp_eta, kp_ite, ite_self, complete_keeps, imageEntries_keeps, imageCommit_keeps, closeTxn_keeps] | split | (have h1 := congrArg (fun p => kp p.1) ‹imageEntries _ _ _ = _›; simp only [implies_true, kp_foldl, kp_foldl_pair, kp_mk, kp_eta, kp_ite, ite_self, complete_keeps, imageEntries_keeps, imageCommit_keeps, closeTxn_keeps] at h1; exact h1.symm) | (with_reducible refine (kp_foldl _ _ _ ?_).trans ?_) | (with_reducible refine (kp_foldl_pair _ _ _ ?_).trans ?_) | intro _ _)

@[simp] theorem imageHeld_keeps (image : List Byte) (ok : Bool) (s : State) (c : Cmd) : kp (imageHeld image ok s c) = kp s := by
  unfold imageHeld
  repeat' (first | (with_reducible rfl) | simp only [implies_true, kp_foldl, kp_foldl_pair, kp_mk, kp_eta, kp_ite, ite_self, complete_keeps, cfgImageApply_keeps] | split | (with_reducible refine (kp_foldl _ _ _ ?_).trans ?_) | (with_reducible refine (kp_foldl_pair _ _ _ ?_).trans ?_) | intro _ _)

@[simp] theorem cfgTake_keeps (s : State) (off : Nat) : kp (cfgTake s off) = kp s := by
  unfold cfgTake
  repeat' (first | (with_reducible rfl) | simp only [implies_true, kp_foldl, kp_foldl_pair, kp_mk, kp_eta, kp_ite, ite_self] | split | (with_reducible refine (kp_foldl _ _ _ ?_).trans ?_) | (with_reducible refine (kp_foldl_pair _ _ _ ?_).trans ?_) | intro _ _)

end Sys2Proof.Machine
end

