-- ==== Sys2Proof/Laws/KeepsCrypto.lean ====
section
/-! SUPPORT. The operations of Machine/Crypto.lean keep the fuses and the queue of commands. -/

namespace Sys2Proof.Machine

@[simp] theorem ramPut_keeps (s : State) (a n v : Nat) : kp (ramPut s a n v) = kp s := by
  unfold ramPut
  repeat' (first | (with_reducible rfl) | simp only [implies_true, kp_foldl, kp_foldl_pair, kp_mk, kp_eta, kp_ite, ite_self] | split | (with_reducible refine (kp_foldl _ _ _ ?_).trans ?_) | (with_reducible refine (kp_foldl_pair _ _ _ ?_).trans ?_) | intro _ _)

@[simp] theorem dpOp_keeps (s : State) (v : W32) : kp (dpOp s v) = kp s := by
  unfold dpOp
  repeat' (first | (with_reducible rfl) | simp only [implies_true, kp_foldl, kp_foldl_pair, kp_mk, kp_eta, kp_ite, ite_self, count_keeps] | split | (with_reducible refine (kp_foldl _ _ _ ?_).trans ?_) | (with_reducible refine (kp_foldl_pair _ _ _ ?_).trans ?_) | intro _ _)

@[simp] theorem ccWr_keeps (s : State) (m : Master) (addr : Nat) (k : State → State) (h : ∀ t , kp (k t ) = kp t) : kp (ccWr s m addr k) = kp s := by
  unfold ccWr
  repeat' (first | (with_reducible rfl) | simp only [implies_true, kp_foldl, kp_foldl_pair, kp_mk, kp_eta, kp_ite, ite_self, refuse_keeps, h] | split | (with_reducible refine (kp_foldl _ _ _ ?_).trans ?_) | (with_reducible refine (kp_foldl_pair _ _ _ ?_).trans ?_) | intro _ _)

@[simp] theorem dpResult_keeps (s : State) : kp (dpResult s) = kp s := by
  unfold dpResult
  repeat' (first | (with_reducible rfl) | simp only [implies_true, kp_foldl, kp_foldl_pair, kp_mk, kp_eta, kp_ite, ite_self, ramPut_keeps] | split | (with_reducible refine (kp_foldl _ _ _ ?_).trans ?_) | (with_reducible refine (kp_foldl_pair _ _ _ ?_).trans ?_) | intro _ _)

@[simp] theorem pkaDpComplete_keeps (late : Bool) (s : State) : kp (pkaDpComplete late s) = kp s := by
  unfold pkaDpComplete
  repeat' (first | (with_reducible rfl) | simp only [implies_true, kp_foldl, kp_foldl_pair, kp_mk, kp_eta, kp_ite, ite_self, fFault_keeps, dpResult_keeps] | split | (with_reducible refine (kp_foldl _ _ _ ?_).trans ?_) | (with_reducible refine (kp_foldl_pair _ _ _ ?_).trans ?_) | intro _ _)

@[simp] theorem entropyFail_keeps (apt : Bool) (s : State) : kp (entropyFail apt s) = kp s := by
  unfold entropyFail
  repeat' (first | (with_reducible rfl) | simp only [implies_true, kp_foldl, kp_foldl_pair, kp_mk, kp_eta, kp_ite, ite_self, raise_keeps] | split | (with_reducible refine (kp_foldl _ _ _ ?_).trans ?_) | (with_reducible refine (kp_foldl_pair _ _ _ ?_).trans ?_) | intro _ _)

@[simp] theorem entropyPass_keeps (s : State) : kp (entropyPass s) = kp s := by
  unfold entropyPass
  repeat' (first | (with_reducible rfl) | simp only [implies_true, kp_foldl, kp_foldl_pair, kp_mk, kp_eta, kp_ite, ite_self, raise_keeps, count_keeps] | split | (with_reducible refine (kp_foldl _ _ _ ?_).trans ?_) | (with_reducible refine (kp_foldl_pair _ _ _ ?_).trans ?_) | intro _ _)

@[simp] theorem reseed_keeps (s : State) : kp (reseed s) = kp s := by
  unfold reseed
  repeat' (first | (with_reducible rfl) | simp only [implies_true, kp_foldl, kp_foldl_pair, kp_mk, kp_eta, kp_ite, ite_self, count_keeps] | split | (with_reducible refine (kp_foldl _ _ _ ?_).trans ?_) | (with_reducible refine (kp_foldl_pair _ _ _ ?_).trans ?_) | intro _ _)

@[simp] theorem drbgReseed_keeps (s : State) : kp (drbgReseed s) = kp s := by
  unfold drbgReseed
  repeat' (first | (with_reducible rfl) | simp only [implies_true, kp_foldl, kp_foldl_pair, kp_mk, kp_eta, kp_ite, ite_self, reseed_keeps] | split | (with_reducible refine (kp_foldl _ _ _ ?_).trans ?_) | (with_reducible refine (kp_foldl_pair _ _ _ ?_).trans ?_) | intro _ _)

@[simp] theorem drbgLimit_keeps (s : State) : kp (drbgLimit s) = kp s := by
  unfold drbgLimit
  repeat' (first | (with_reducible rfl) | simp only [implies_true, kp_foldl, kp_foldl_pair, kp_mk, kp_eta, kp_ite, ite_self, fFault_keeps] | split | (with_reducible refine (kp_foldl _ _ _ ?_).trans ?_) | (with_reducible refine (kp_foldl_pair _ _ _ ?_).trans ?_) | intro _ _)

@[simp] theorem draw_keeps (s : State) (n : Nat) : kp (draw s n).1 = kp s := by
  unfold draw
  repeat' (first | (with_reducible rfl) | simp only [implies_true, kp_foldl, kp_foldl_pair, kp_mk, kp_eta, kp_ite, ite_self] | split | (with_reducible refine (kp_foldl _ _ _ ?_).trans ?_) | (with_reducible refine (kp_foldl_pair _ _ _ ?_).trans ?_) | intro _ _)

@[simp] theorem drawReq_keeps (s : State) (n : Nat) : kp (drawReq s n).1 = kp s := by
  unfold drawReq
  repeat' (first | (with_reducible rfl) | simp only [implies_true, kp_foldl, kp_foldl_pair, kp_mk, kp_eta, kp_ite, ite_self, draw_keeps] | split | (have h1 := congrArg (fun p => kp p.1) ‹draw _ _ = _›; simp only [implies_true, kp_foldl, kp_foldl_pair, kp_mk, kp_eta, kp_ite, ite_self, draw_keeps] at h1; exact h1.symm) | (with_reducible refine (kp_foldl _ _ _ ?_).trans ?_) | (with_reducible refine (kp_foldl_pair _ _ _ ?_).trans ?_) | intro _ _)

@[simp] theorem setKeySlot_keeps (s : State) (k : Nat) (x : Option KeySlot) : kp (setKeySlot s k x) = kp s := by
  unfold setKeySlot
  repeat' (first | (with_reducible rfl) | simp only [implies_true, kp_foldl, kp_foldl_pair, kp_mk, kp_eta, kp_ite, ite_self] | split | (with_reducible refine (kp_foldl _ _ _ ?_).trans ?_) | (with_reducible refine (kp_foldl_pair _ _ _ ?_).trans ?_) | intro _ _)

@[simp] theorem signWith_keeps (s : State) (x : KeySlot) (scheme : Nat) (m : List Byte) : kp (signWith s x scheme m).1 = kp s := by
  unfold signWith
  repeat' (first | (with_reducible rfl) | simp only [implies_true, kp_foldl, kp_foldl_pair, kp_mk, kp_eta, kp_ite, ite_self, drawReq_keeps] | split | (have h1 := congrArg (fun p => kp p.1) ‹drawReq _ _ = _›; simp only [implies_true, kp_foldl, kp_foldl_pair, kp_mk, kp_eta, kp_ite, ite_self, drawReq_keeps] at h1; exact h1.symm) | (with_reducible refine (kp_foldl _ _ _ ?_).trans ?_) | (with_reducible refine (kp_foldl_pair _ _ _ ?_).trans ?_) | intro _ _)

@[simp] theorem findGenerate_keeps (s : State) (v : Service) : kp (findGenerate s v).1 = kp s := by
  unfold findGenerate
  repeat' (first | (with_reducible rfl) | simp only [implies_true, kp_foldl, kp_foldl_pair, kp_mk, kp_eta, kp_ite, ite_self, reseed_keeps, drawReq_keeps] | split | (have h1 := congrArg (fun p => kp p.1) ‹drawReq _ _ = _›; simp only [implies_true, kp_foldl, kp_foldl_pair, kp_mk, kp_eta, kp_ite, ite_self, reseed_keeps, drawReq_keeps] at h1; exact h1.symm) | (with_reducible refine (kp_foldl _ _ _ ?_).trans ?_) | (with_reducible refine (kp_foldl_pair _ _ _ ?_).trans ?_) | intro _ _)

@[simp] theorem findExport_keeps (s : State) (v : Service) : kp (findExport s v).1 = kp s := by
  unfold findExport
  repeat' (first | (with_reducible rfl) | simp only [implies_true, kp_foldl, kp_foldl_pair, kp_mk, kp_eta, kp_ite, ite_self, drawReq_keeps] | split | (have h1 := congrArg (fun p => kp p.1) ‹drawReq _ _ = _›; simp only [implies_true, kp_foldl, kp_foldl_pair, kp_mk, kp_eta, kp_ite, ite_self, drawReq_keeps] at h1; exact h1.symm) | (with_reducible refine (kp_foldl _ _ _ ?_).trans ?_) | (with_reducible refine (kp_foldl_pair _ _ _ ?_).trans ?_) | intro _ _)

@[simp] theorem findSign_keeps (s : State) (v : Service) : kp (findSign s v).1 = kp s := by
  unfold findSign
  repeat' (first | (with_reducible rfl) | simp only [implies_true, kp_foldl, kp_foldl_pair, kp_mk, kp_eta, kp_ite, ite_self, signWith_keeps] | split | (have h1 := congrArg (fun p => kp p.1) ‹signWith _ _ _ _ = _›; simp only [implies_true, kp_foldl, kp_foldl_pair, kp_mk, kp_eta, kp_ite, ite_self, signWith_keeps] at h1; exact h1.symm) | (with_reducible refine (kp_foldl _ _ _ ?_).trans ?_) | (with_reducible refine (kp_foldl_pair _ _ _ ?_).trans ?_) | intro _ _)

@[simp] theorem findAgree_keeps (s : State) (v : Service) : kp (findAgree s v).1 = kp s := by
  unfold findAgree
  repeat' (first | (with_reducible rfl) | simp only [implies_true, kp_foldl, kp_foldl_pair, kp_mk, kp_eta, kp_ite, ite_self] | split | (with_reducible refine (kp_foldl _ _ _ ?_).trans ?_) | (with_reducible refine (kp_foldl_pair _ _ _ ?_).trans ?_) | intro _ _)

@[simp] theorem findRandom_keeps (s : State) (v : Service) : kp (findRandom s v).1 = kp s := by
  unfold findRandom
  repeat' (first | (with_reducible rfl) | simp only [implies_true, kp_foldl, kp_foldl_pair, kp_mk, kp_eta, kp_ite, ite_self, drawReq_keeps, reseed_keeps] | split | (have h1 := congrArg (fun p => kp p.1) ‹drawReq _ _ = _›; simp only [implies_true, kp_foldl, kp_foldl_pair, kp_mk, kp_eta, kp_ite, ite_self, drawReq_keeps, reseed_keeps] at h1; exact h1.symm) | (with_reducible refine (kp_foldl _ _ _ ?_).trans ?_) | (with_reducible refine (kp_foldl_pair _ _ _ ?_).trans ?_) | intro _ _)

@[simp] theorem findService_keeps (s : State) (v : Service) : kp (findService s v).1 = kp s := by
  unfold findService
  repeat' (first | (with_reducible rfl) | simp only [implies_true, kp_foldl, kp_foldl_pair, kp_mk, kp_eta, kp_ite, ite_self, findRandom_keeps, findGenerate_keeps, findExport_keeps, findSign_keeps, findAgree_keeps] | split | (have h1 := congrArg (fun p => kp p.1) ‹findRandom _ _ = _›; simp only [implies_true, kp_foldl, kp_foldl_pair, kp_mk, kp_eta, kp_ite, ite_self, findRandom_keeps, findGenerate_keeps, findExport_keeps, findSign_keeps, findAgree_keeps] at h1; exact h1.symm) | (have h1 := congrArg (fun p => kp p.1) ‹findGenerate _ _ = _›; simp only [implies_true, kp_foldl, kp_foldl_pair, kp_mk, kp_eta, kp_ite, ite_self, findRandom_keeps, findGenerate_keeps, findExport_keeps, findSign_keeps, findAgree_keeps] at h1; exact h1.symm) | (have h1 := congrArg (fun p => kp p.1) ‹findExport _ _ = _›; simp only [implies_true, kp_foldl, kp_foldl_pair, kp_mk, kp_eta, kp_ite, ite_self, findRandom_keeps, findGenerate_keeps, findExport_keeps, findSign_keeps, findAgree_keeps] at h1; exact h1.symm) | (have h1 := congrArg (fun p => kp p.1) ‹findSign _ _ = _›; simp only [implies_true, kp_foldl, kp_foldl_pair, kp_mk, kp_eta, kp_ite, ite_self, findRandom_keeps, findGenerate_keeps, findExport_keeps, findSign_keeps, findAgree_keeps] at h1; exact h1.symm) | (have h1 := congrArg (fun p => kp p.1) ‹findAgree _ _ = _›; simp only [implies_true, kp_foldl, kp_foldl_pair, kp_mk, kp_eta, kp_ite, ite_self, findRandom_keeps, findGenerate_keeps, findExport_keeps, findSign_keeps, findAgree_keeps] at h1; exact h1.symm) | (with_reducible refine (kp_foldl _ _ _ ?_).trans ?_) | (with_reducible refine (kp_foldl_pair _ _ _ ?_).trans ?_) | intro _ _)

@[simp] theorem pkaCommand_keeps (op : Nat) (id : Nat) (buf : List Byte) (ok : Bool) (s : State) : kp (pkaCommand op id buf ok s) = kp s := by
  unfold pkaCommand
  repeat' (first | (with_reducible rfl) | simp only [implies_true, kp_foldl, kp_foldl_pair, kp_mk, kp_eta, kp_ite, ite_self, runCmd_keeps, complete_keeps, running_keeps] | split | (with_reducible refine Eq.trans (runCmd_keeps _ _ _ _ ?_) ?_) | (with_reducible refine (kp_foldl _ _ _ ?_).trans ?_) | (with_reducible refine (kp_foldl_pair _ _ _ ?_).trans ?_) | intro _ _)

@[simp] theorem serviceBegin_keeps (s : State) (v : Service) (r : List Service) : kp (serviceBegin s v r) = kp s := by
  unfold serviceBegin
  repeat' (first | (with_reducible rfl) | simp only [implies_true, kp_foldl, kp_foldl_pair, kp_mk, kp_eta, kp_ite, ite_self, count_keeps, drawReq_keeps, reseed_keeps, findService_keeps] | split | (have h1 := congrArg (fun p => kp p.1) ‹drawReq _ _ = _›; simp only [implies_true, kp_foldl, kp_foldl_pair, kp_mk, kp_eta, kp_ite, ite_self, count_keeps, drawReq_keeps, reseed_keeps, findService_keeps] at h1; exact h1.symm) | (have h1 := congrArg (fun p => kp p.1) ‹findService _ _ = _›; simp only [implies_true, kp_foldl, kp_foldl_pair, kp_mk, kp_eta, kp_ite, ite_self, count_keeps, drawReq_keeps, reseed_keeps, findService_keeps] at h1; exact h1.symm) | (with_reducible refine (kp_foldl _ _ _ ?_).trans ?_) | (with_reducible refine (kp_foldl_pair _ _ _ ?_).trans ?_) | intro _ _)

@[simp] theorem pkaServiceStart_keeps (s : State) : kp (pkaServiceStart s) = kp s := by
  unfold pkaServiceStart
  repeat' (first | (with_reducible rfl) | simp only [implies_true, kp_foldl, kp_foldl_pair, kp_mk, kp_eta, kp_ite, ite_self, serviceBegin_keeps] | split | (with_reducible refine (kp_foldl _ _ _ ?_).trans ?_) | (with_reducible refine (kp_foldl_pair _ _ _ ?_).trans ?_) | intro _ _)

@[simp] theorem serviceEnd_keeps (s : State) (v : Service) (r : List Service) (ok : Bool) : kp (serviceEnd s v r ok) = kp s := by
  unfold serviceEnd
  repeat' (first | (with_reducible rfl) | simp only [implies_true, kp_foldl, kp_foldl_pair, kp_mk, kp_eta, kp_ite, ite_self, setKeySlot_keeps, bufOut_keeps, complete_keeps] | split | (with_reducible refine (kp_foldl _ _ _ ?_).trans ?_) | (with_reducible refine (kp_foldl_pair _ _ _ ?_).trans ?_) | intro _ _)

@[simp] theorem pkaServiceRelease_keeps (ok : Bool) (s : State) : kp (pkaServiceRelease ok s) = kp s := by
  unfold pkaServiceRelease
  repeat' (first | (with_reducible rfl) | simp only [implies_true, kp_foldl, kp_foldl_pair, kp_mk, kp_eta, kp_ite, ite_self, serviceEnd_keeps] | split | (with_reducible refine (kp_foldl _ _ _ ?_).trans ?_) | (with_reducible refine (kp_foldl_pair _ _ _ ?_).trans ?_) | intro _ _)

@[simp] theorem keygenSliceEnd_keeps (finished : Bool) (s : State) : kp (keygenSliceEnd finished s) = kp s := by
  unfold keygenSliceEnd
  repeat' (first | (with_reducible rfl) | simp only [implies_true, kp_foldl, kp_foldl_pair, kp_mk, kp_eta, kp_ite, ite_self, serviceEnd_keeps] | split | (with_reducible refine (kp_foldl _ _ _ ?_).trans ?_) | (with_reducible refine (kp_foldl_pair _ _ _ ?_).trans ?_) | intro _ _)

@[simp] theorem keyPublic_keeps (id : Nat) (ok : Bool) (s : State) : kp (keyPublic id ok s) = kp s := by
  unfold keyPublic
  repeat' (first | (with_reducible rfl) | simp only [implies_true, kp_foldl, kp_foldl_pair, kp_mk, kp_eta, kp_ite, ite_self, runCmd_keeps, complete_keeps, bufOut_keeps] | split | (with_reducible refine Eq.trans (runCmd_keeps _ _ _ _ ?_) ?_) | (with_reducible refine (kp_foldl _ _ _ ?_).trans ?_) | (with_reducible refine (kp_foldl_pair _ _ _ ?_).trans ?_) | intro _ _)

@[simp] theorem keyZeroise_keeps (id : Nat) (s : State) : kp (keyZeroise id s) = kp s := by
  unfold keyZeroise
  repeat' (first | (with_reducible rfl) | simp only [implies_true, kp_foldl, kp_foldl_pair, kp_mk, kp_eta, kp_ite, ite_self, runCmd_keeps, complete_keeps, setKeySlot_keeps] | split | (with_reducible refine Eq.trans (runCmd_keeps _ _ _ _ ?_) ?_) | (with_reducible refine (kp_foldl _ _ _ ?_).trans ?_) | (with_reducible refine (kp_foldl_pair _ _ _ ?_).trans ?_) | intro _ _)

@[simp] theorem tagFlowSet_keeps (id : Nat) (s : State) : kp (tagFlowSet id s) = kp s := by
  unfold tagFlowSet
  repeat' (first | (with_reducible rfl) | simp only [implies_true, kp_foldl, kp_foldl_pair, kp_mk, kp_eta, kp_ite, ite_self, runCmd_keeps, complete_keeps] | split | (with_reducible refine Eq.trans (runCmd_keeps _ _ _ _ ?_) ?_) | (with_reducible refine (kp_foldl _ _ _ ?_).trans ?_) | (with_reducible refine (kp_foldl_pair _ _ _ ?_).trans ?_) | intro _ _)

@[simp] theorem pkaKeystore_keeps (k : Nat) (s : State) : kp (pkaKeystore k s) = kp s := by
  unfold pkaKeystore
  repeat' (first | (with_reducible rfl) | simp only [implies_true, kp_foldl, kp_foldl_pair, kp_mk, kp_eta, kp_ite, ite_self, raise_keeps, kFault_keeps, setKeySlot_keeps] | split | (with_reducible refine (kp_foldl _ _ _ ?_).trans ?_) | (with_reducible refine (kp_foldl_pair _ _ _ ?_).trans ?_) | intro _ _)

@[simp] theorem pkaTake_keeps (s : State) (off : Nat) : kp (pkaTake s off) = kp s := by
  unfold pkaTake
  repeat' (first | (with_reducible rfl) | simp only [implies_true, kp_foldl, kp_foldl_pair, kp_mk, kp_eta, kp_ite, ite_self] | split | (with_reducible refine (kp_foldl _ _ _ ?_).trans ?_) | (with_reducible refine (kp_foldl_pair _ _ _ ?_).trans ?_) | intro _ _)

@[simp] theorem pkaDpTake_keeps (s : State) (off : Nat) : kp (pkaDpTake s off) = kp s := by
  unfold pkaDpTake
  repeat' (first | (with_reducible rfl) | simp only [implies_true, kp_foldl, kp_foldl_pair, kp_mk, kp_eta, kp_ite, ite_self] | split | (with_reducible refine (kp_foldl _ _ _ ?_).trans ?_) | (with_reducible refine (kp_foldl_pair _ _ _ ?_).trans ?_) | intro _ _)

@[simp] theorem pkaDpWrite_keeps (s : State) (off : Nat) (v : W32) : kp (pkaDpWrite s off v) = kp s := by
  unfold pkaDpWrite
  repeat' (first | (with_reducible rfl) | simp only [implies_true, kp_foldl, kp_foldl_pair, kp_mk, kp_eta, kp_ite, ite_self, dpOp_keeps] | split | (with_reducible refine (kp_foldl _ _ _ ?_).trans ?_) | (with_reducible refine (kp_foldl_pair _ _ _ ?_).trans ?_) | intro _ _)

end Sys2Proof.Machine
end

