-- ==== Sys2Proof/Laws/KeepsArrival.lean ====
section
/-! SUPPORT. The operations of Machine/Arrival.lean keep the fuses and the queue of commands. -/

namespace Sys2Proof.Machine

@[simp] theorem failCheck_keeps (s : State) (c : Cmd) (f : Nat × Bool) : kp (failCheck s c f) = kp s := by
  unfold failCheck
  repeat' (first | (with_reducible rfl) | simp only [implies_true, kp_foldl, kp_foldl_pair, kp_mk, kp_eta, kp_ite, ite_self, closeTxn_keeps, completeDup_keeps] | split | (with_reducible refine (kp_foldl _ _ _ ?_).trans ?_) | (with_reducible refine (kp_foldl_pair _ _ _ ?_).trans ?_) | intro _ _)

@[simp] theorem makeReady_keeps (s : State) (c : Cmd) : kp (makeReady s c) = kp s := by
  unfold makeReady
  repeat' (first | (with_reducible rfl) | simp only [implies_true, kp_foldl, kp_foldl_pair, kp_mk, kp_eta, kp_ite, ite_self, modCmd_keeps, setEng_keeps, complete_keeps] | split | (with_reducible refine (kp_foldl _ _ _ ?_).trans ?_) | (with_reducible refine (kp_foldl_pair _ _ _ ?_).trans ?_) | intro _ _)

@[simp] theorem arrive_keeps (s : State) (c : Cmd) : kp (arrive s c) = kp s := by
  unfold arrive
  repeat' (first | (with_reducible rfl) | simp only [implies_true, kp_foldl, kp_foldl_pair, kp_mk, kp_eta, kp_ite, ite_self, modCmd_keeps, failCheck_keeps, makeReady_keeps] | split | (with_reducible refine (kp_foldl _ _ _ ?_).trans ?_) | (with_reducible refine (kp_foldl_pair _ _ _ ?_).trans ?_) | intro _ _)

@[simp] theorem commandArrival_keeps (id : Nat) (s : State) : kp (commandArrival id s) = kp s := by
  unfold commandArrival
  repeat' (first | (with_reducible rfl) | simp only [implies_true, kp_foldl, kp_foldl_pair, kp_mk, kp_eta, kp_ite, ite_self, arrive_keeps] | split | (refine Eq.trans (takeHead_keeps _ _ _ ‹takeHead _ _ = some _›) ?_) | (with_reducible refine (kp_foldl _ _ _ ?_).trans ?_) | (with_reducible refine (kp_foldl_pair _ _ _ ?_).trans ?_) | intro _ _)

@[simp] theorem fenceCommandStart_keeps (id : Nat) (s : State) : kp (fenceCommandStart id s) = kp s := by
  unfold fenceCommandStart
  repeat' (first | (with_reducible rfl) | simp only [implies_true, kp_foldl, kp_foldl_pair, kp_mk, kp_eta, kp_ite, ite_self, failCheck_keeps, makeReady_keeps] | split | (with_reducible refine (kp_foldl _ _ _ ?_).trans ?_) | (with_reducible refine (kp_foldl_pair _ _ _ ?_).trans ?_) | intro _ _)

end Sys2Proof.Machine
end

