-- ==== Sys2Proof/Laws/KeepsHoldUp.lean ====
section
/-! SUPPORT. The operations of Machine/HoldUp.lean keep the fuses and the queue of commands. -/

namespace Sys2Proof.Machine

@[simp] theorem ledgerJudge_keeps (s : State) : kp (ledgerJudge s) = kp s := by
  unfold ledgerJudge
  repeat' (first | (with_reducible rfl) | simp only [implies_true, kp_foldl, kp_foldl_pair, kp_mk, kp_eta, kp_ite, ite_self, raise_keeps] | split | (with_reducible refine (kp_foldl _ _ _ ?_).trans ?_) | (with_reducible refine (kp_foldl_pair _ _ _ ?_).trans ?_) | intro _ _)

@[simp] theorem hupSample_keeps (code : BitVec 12) (s : State) : kp (hupSample code s) = kp s := by
  unfold hupSample
  repeat' (first | (with_reducible rfl) | simp only [implies_true, kp_foldl, kp_foldl_pair, kp_mk, kp_eta, kp_ite, ite_self, freeNext_keeps, ledgerJudge_keeps] | split | (with_reducible refine (kp_foldl _ _ _ ?_).trans ?_) | (with_reducible refine (kp_foldl_pair _ _ _ ?_).trans ?_) | intro _ _)

@[simp] theorem testStart_keeps (s : State) (cmd : Option Nat) : kp (testStart s cmd) = kp s := by
  unfold testStart
  repeat' (first | (with_reducible rfl) | simp only [implies_true, kp_foldl, kp_foldl_pair, kp_mk, kp_eta, kp_ite, ite_self, count_keeps] | split | (with_reducible refine (kp_foldl _ _ _ ?_).trans ?_) | (with_reducible refine (kp_foldl_pair _ _ _ ?_).trans ?_) | intro _ _)

@[simp] theorem hupTestStart_keeps (s : State) : kp (hupTestStart s) = kp s := by
  unfold hupTestStart
  repeat' (first | (with_reducible rfl) | simp only [implies_true, kp_foldl, kp_foldl_pair, kp_mk, kp_eta, kp_ite, ite_self, count_keeps, testStart_keeps] | split | (with_reducible refine (kp_foldl _ _ _ ?_).trans ?_) | (with_reducible refine (kp_foldl_pair _ _ _ ?_).trans ?_) | intro _ _)

@[simp] theorem hupMeasure_keeps (s : State) (c : Cmd) : kp (hupMeasure s c) = kp s := by
  unfold hupMeasure
  repeat' (first | (with_reducible rfl) | simp only [implies_true, kp_foldl, kp_foldl_pair, kp_mk, kp_eta, kp_ite, ite_self, running_keeps, testStart_keeps, complete_keeps] | split | (with_reducible refine (kp_foldl _ _ _ ?_).trans ?_) | (with_reducible refine (kp_foldl_pair _ _ _ ?_).trans ?_) | intro _ _)

@[simp] theorem testComplete_keeps (s : State) (cmd : Option Nat) (bad : Bool) : kp (testComplete s cmd bad) = kp s := by
  unfold testComplete
  repeat' (first | (with_reducible rfl) | simp only [implies_true, kp_foldl, kp_foldl_pair, kp_mk, kp_eta, kp_ite, ite_self, complete_keeps, freeNext_keeps, count_keeps] | split | (with_reducible refine (kp_foldl _ _ _ ?_).trans ?_) | (with_reducible refine (kp_foldl_pair _ _ _ ?_).trans ?_) | intro _ _)

@[simp] theorem hupTestEnd_keeps (v0 v1 v2 : Nat) (s : State) : kp (hupTestEnd v0 v1 v2 s) = kp s := by
  unfold hupTestEnd
  repeat' (first | (with_reducible rfl) | simp only [implies_true, kp_foldl, kp_foldl_pair, kp_mk, kp_eta, kp_ite, ite_self, testComplete_keeps, raise_keeps] | split | (with_reducible refine (kp_foldl _ _ _ ?_).trans ?_) | (with_reducible refine (kp_foldl_pair _ _ _ ?_).trans ?_) | intro _ _)

@[simp] theorem lineWrite_keeps (s : State) (l : Nat) (b : List Byte) : kp (lineWrite s l b) = kp s := by
  unfold lineWrite
  repeat' (first | (with_reducible rfl) | simp only [implies_true, kp_foldl, kp_foldl_pair, kp_mk, kp_eta, kp_ite, ite_self, raise_keeps] | split | (with_reducible refine (kp_foldl _ _ _ ?_).trans ?_) | (with_reducible refine (kp_foldl_pair _ _ _ ?_).trans ?_) | intro _ _)

@[simp] theorem linesWrite_keeps (s : State) (l : Nat) (r : List (List Byte)) : kp (linesWrite s l r) = kp s := by
  induction r generalizing s l with
  | nil => rfl
  | cons a r ih => 
    unfold linesWrite
    repeat' (first | (with_reducible rfl) | simp only [ih, implies_true, kp_foldl, kp_foldl_pair, kp_mk, kp_eta, kp_ite, ite_self, lineWrite_keeps] | split | (with_reducible refine (kp_foldl _ _ _ ?_).trans ?_) | (with_reducible refine (kp_foldl_pair _ _ _ ?_).trans ?_) | intro _ _)

@[simp] theorem unitZero_keeps (s : State) (u : Nat) : kp (unitZero s u) = kp s := by
  unfold unitZero
  repeat' (first | (with_reducible rfl) | simp only [implies_true, kp_foldl, kp_foldl_pair, kp_mk, kp_eta, kp_ite, ite_self, linesWrite_keeps] | split | (with_reducible refine (kp_foldl _ _ _ ?_).trans ?_) | (with_reducible refine (kp_foldl_pair _ _ _ ?_).trans ?_) | intro _ _)

@[simp] theorem prmStore_keeps (data : List Byte) (ok : Bool) (s : State) (c : Cmd) : kp (prmStore data ok s c) = kp s := by
  unfold prmStore
  repeat' (first | (with_reducible rfl) | simp only [implies_true, kp_foldl, kp_foldl_pair, kp_mk, kp_eta, kp_ite, ite_self, complete_keeps, running_keeps, see_keeps] | split | (with_reducible refine (kp_foldl _ _ _ ?_).trans ?_) | (with_reducible refine (kp_foldl_pair _ _ _ ?_).trans ?_) | intro _ _)

@[simp] theorem storeAdmit_keeps (s : State) (c : Cmd) (data : List Byte) : kp (storeAdmit s c data) = kp s := by
  unfold storeAdmit
  repeat' (first | (with_reducible rfl) | simp only [implies_true, kp_foldl, kp_foldl_pair, kp_mk, kp_eta, kp_ite, ite_self, complete_keeps] | split | (with_reducible refine (kp_foldl _ _ _ ?_).trans ?_) | (with_reducible refine (kp_foldl_pair _ _ _ ?_).trans ?_) | intro _ _)

@[simp] theorem storeDecide_keeps (s : State) (n : Nat) : kp (storeDecide s n) = kp s := by
  unfold storeDecide
  repeat' (first | (with_reducible rfl) | simp only [implies_true, kp_foldl, kp_foldl_pair, kp_mk, kp_eta, kp_ite, ite_self, storeAdmit_keeps] | split | (with_reducible refine (kp_foldl _ _ _ ?_).trans ?_) | (with_reducible refine (kp_foldl_pair _ _ _ ?_).trans ?_) | intro _ _)

@[simp] theorem prmStoreAdmit_keeps (s : State) : kp (prmStoreAdmit s) = kp s := by
  unfold prmStoreAdmit
  repeat' (first | (with_reducible rfl) | simp only [implies_true, kp_foldl, kp_foldl_pair, kp_mk, kp_eta, kp_ite, ite_self, storeDecide_keeps] | split | (refine Eq.trans (takeHead_keeps _ _ _ ‹takeHead _ _ = some _›) ?_) | (with_reducible refine (kp_foldl _ _ _ ?_).trans ?_) | (with_reducible refine (kp_foldl_pair _ _ _ ?_).trans ?_) | intro _ _)

@[simp] theorem prmStoreComplete_keeps (s : State) : kp (prmStoreComplete s) = kp s := by
  unfold prmStoreComplete
  repeat' (first | (with_reducible rfl) | simp only [implies_true, kp_foldl, kp_foldl_pair, kp_mk, kp_eta, kp_ite, ite_self, unitZero_keeps, linesWrite_keeps, count_keeps, completeOpt_keeps] | split | (with_reducible refine (kp_foldl _ _ _ ?_).trans ?_) | (with_reducible refine (kp_foldl_pair _ _ _ ?_).trans ?_) | intro _ _)

@[simp] theorem lineRead_keeps (s : State) (n l : Nat) : kp (lineRead s n l).1 = kp s := by
  unfold lineRead
  repeat' (first | (with_reducible rfl) | simp only [implies_true, kp_foldl, kp_foldl_pair, kp_mk, kp_eta, kp_ite, ite_self, kFault_keeps, raise_keeps] | split | (with_reducible refine (kp_foldl _ _ _ ?_).trans ?_) | (with_reducible refine (kp_foldl_pair _ _ _ ?_).trans ?_) | intro _ _)

@[simp] theorem linesRead_keeps (s : State) (n l : Nat) (r : Nat) : kp (linesRead s n l r).1 = kp s := by
  induction r generalizing s n l with
  | zero => rfl
  | succ n ih => 
    unfold linesRead
    repeat' (first | (with_reducible rfl) | simp only [ih, implies_true, kp_foldl, kp_foldl_pair, kp_mk, kp_eta, kp_ite, ite_self, lineRead_keeps] | split | (have h1 := congrArg (fun p => kp p.1) ‹lineRead _ _ _ = _›; simp only [implies_true, kp_foldl, kp_foldl_pair, kp_mk, kp_eta, kp_ite, ite_self, lineRead_keeps] at h1; exact h1.symm) | (with_reducible refine (kp_foldl _ _ _ ?_).trans ?_) | (with_reducible refine (kp_foldl_pair _ _ _ ?_).trans ?_) | intro _ _)

@[simp] theorem prmRead_keeps (bad : List Nat) (ok : Bool) (s : State) (c : Cmd) : kp (prmRead bad ok s c) = kp s := by
  unfold prmRead
  repeat' (first | (with_reducible rfl) | simp only [implies_true, kp_foldl, kp_foldl_pair, kp_mk, kp_eta, kp_ite, ite_self, linesRead_keeps, bufOut_keeps] | split | (have h1 := congrArg (fun p => kp p.1) ‹linesRead _ _ _ _ = _›; simp only [implies_true, kp_foldl, kp_foldl_pair, kp_mk, kp_eta, kp_ite, ite_self, linesRead_keeps, bufOut_keeps] at h1; exact h1.symm) | (with_reducible refine (kp_foldl _ _ _ ?_).trans ?_) | (with_reducible refine (kp_foldl_pair _ _ _ ?_).trans ?_) | intro _ _)

@[simp] theorem scrubLine_keeps (u : Nat) (s : State) : kp (scrubLine u s) = kp s := by
  unfold scrubLine
  repeat' (first | (with_reducible rfl) | simp only [implies_true, kp_foldl, kp_foldl_pair, kp_mk, kp_eta, kp_ite, ite_self, lineWrite_keeps, count_keeps] | split | (with_reducible refine (kp_foldl _ _ _ ?_).trans ?_) | (with_reducible refine (kp_foldl_pair _ _ _ ?_).trans ?_) | intro _ _)

@[simp] theorem regionApply_keeps (s : State) (n : Nat) (v : W32) : kp (regionApply s n v) = kp s := by
  unfold regionApply
  repeat' (first | (with_reducible rfl) | simp only [implies_true, kp_foldl, kp_foldl_pair, kp_mk, kp_eta, kp_ite, ite_self] | split | (with_reducible refine (kp_foldl _ _ _ ?_).trans ?_) | (with_reducible refine (kp_foldl_pair _ _ _ ?_).trans ?_) | intro _ _)

@[simp] theorem hupTake_keeps (s : State) (off : Nat) : kp (hupTake s off) = kp s := by
  unfold hupTake
  repeat' (first | (with_reducible rfl) | simp only [implies_true, kp_foldl, kp_foldl_pair, kp_mk, kp_eta, kp_ite, ite_self] | split | (with_reducible refine (kp_foldl _ _ _ ?_).trans ?_) | (with_reducible refine (kp_foldl_pair _ _ _ ?_).trans ?_) | intro _ _)

@[simp] theorem hupApply_keeps (s : State) (off : Nat) (v : W32) : kp (hupApply s off v) = kp s := by
  unfold hupApply
  repeat' (first | (with_reducible rfl) | simp only [implies_true, kp_foldl, kp_foldl_pair, kp_mk, kp_eta, kp_ite, ite_self] | split | (with_reducible refine (kp_foldl _ _ _ ?_).trans ?_) | (with_reducible refine (kp_foldl_pair _ _ _ ?_).trans ?_) | intro _ _)

@[simp] theorem prmTake_keeps (s : State) (off : Nat) : kp (prmTake s off) = kp s := by
  unfold prmTake
  repeat' (first | (with_reducible rfl) | simp only [implies_true, kp_foldl, kp_foldl_pair, kp_mk, kp_eta, kp_ite, ite_self] | split | (with_reducible refine (kp_foldl _ _ _ ?_).trans ?_) | (with_reducible refine (kp_foldl_pair _ _ _ ?_).trans ?_) | intro _ _)

@[simp] theorem prmApply_keeps (s : State) (off : Nat) (v : W32) : kp (prmApply s off v) = kp s := by
  unfold prmApply
  repeat' (first | (with_reducible rfl) | simp only [implies_true, kp_foldl, kp_foldl_pair, kp_mk, kp_eta, kp_ite, ite_self, regionApply_keeps] | split | (with_reducible refine (kp_foldl _ _ _ ?_).trans ?_) | (with_reducible refine (kp_foldl_pair _ _ _ ?_).trans ?_) | intro _ _)

end Sys2Proof.Machine
end

