-- ==== Sys2Proof/Laws/KeepsRecords.lean ====
section
/-! SUPPORT. The operations of Machine/Records.lean keep the fuses and the queue of commands. -/

namespace Sys2Proof.Machine

@[simp] theorem fcuCount_keeps (s : State) (cls : BitVec 2) : kp (fcuCount s cls) = kp s := by
  unfold fcuCount
  repeat' (first | (with_reducible rfl) | simp only [implies_true, kp_foldl, kp_foldl_pair, kp_mk, kp_eta, kp_ite, ite_self] | split | (with_reducible refine (kp_foldl _ _ _ ?_).trans ?_) | (with_reducible refine (kp_foldl_pair _ _ _ ?_).trans ?_) | intro _ _)

@[simp] theorem fcuRecord_keeps (s : State) (r : Rec) (fence : Bool) (g : Grain) : kp (fcuRecord s r fence g) = kp s := by
  unfold fcuRecord
  repeat' (first | (with_reducible rfl) | simp only [implies_true, kp_foldl, kp_foldl_pair, kp_mk, kp_eta, kp_ite, ite_self, fcuCount_keeps, count_keeps] | split | (with_reducible refine (kp_foldl _ _ _ ?_).trans ?_) | (with_reducible refine (kp_foldl_pair _ _ _ ?_).trans ?_) | intro _ _)

@[simp] theorem fcuHistRead_keeps (ok : Bool) (s : State) (c : Cmd) : kp (fcuHistRead ok s c) = kp s := by
  unfold fcuHistRead
  repeat' (first | (with_reducible rfl) | simp only [implies_true, kp_foldl, kp_foldl_pair, kp_mk, kp_eta, kp_ite, ite_self, bufOut_keeps] | split | (with_reducible refine (kp_foldl _ _ _ ?_).trans ?_) | (with_reducible refine (kp_foldl_pair _ _ _ ?_).trans ?_) | intro _ _)

@[simp] theorem fcuTake_keeps (s : State) (off : Nat) : kp (fcuTake s off) = kp s := by
  unfold fcuTake
  repeat' (first | (with_reducible rfl) | simp only [implies_true, kp_foldl, kp_foldl_pair, kp_mk, kp_eta, kp_ite, ite_self] | split | (with_reducible refine (kp_foldl _ _ _ ?_).trans ?_) | (with_reducible refine (kp_foldl_pair _ _ _ ?_).trans ?_) | intro _ _)

end Sys2Proof.Machine
end

