-- ==== Sys2Proof/Laws/KeepsLatency.lean ====
section
/-! SUPPORT. The operations of Machine/Latency.lean keep the fuses and the queue of commands. -/

namespace Sys2Proof.Machine

@[simp] theorem latchEngines_keeps (s : State) (keep : Bool) : kp (latchEngines s keep) = kp s := by
  unfold latchEngines
  repeat' (first | (with_reducible rfl) | simp only [implies_true, kp_foldl, kp_foldl_pair, kp_mk, kp_eta, kp_ite, ite_self, setEng_keeps] | split | (with_reducible refine (kp_foldl _ _ _ ?_).trans ?_) | (with_reducible refine (kp_foldl_pair _ _ _ ?_).trans ?_) | intro _ _)

@[simp] theorem latencyWindowEnd_keeps (pmbOk : Bool) (mode : BitVec 8) (s : State) : kp (latencyWindowEnd pmbOk mode s) = kp s := by
  unfold latencyWindowEnd
  repeat' (first | (with_reducible rfl) | simp only [implies_true, kp_foldl, kp_foldl_pair, kp_mk, kp_eta, kp_ite, ite_self, latchEngines_keeps, raise_keeps, vcoreStep_keeps] | split | (with_reducible refine (kp_foldl _ _ _ ?_).trans ?_) | (with_reducible refine (kp_foldl_pair _ _ _ ?_).trans ?_) | intro _ _)

@[simp] theorem watchGrain_keeps (s : State) (e : Nat) : kp (watchGrain s e) = kp s := by
  unfold watchGrain
  repeat' (first | (with_reducible rfl) | simp only [implies_true, kp_foldl, kp_foldl_pair, kp_mk, kp_eta, kp_ite, ite_self, setEng_keeps] | split | (with_reducible refine (kp_foldl _ _ _ ?_).trans ?_) | (with_reducible refine (kp_foldl_pair _ _ _ ?_).trans ?_) | intro _ _)

@[simp] theorem engineWedge_keeps (e : Nat) (s : State) : kp (engineWedge e s) = kp s := by
  unfold engineWedge
  repeat' (first | (with_reducible rfl) | simp only [implies_true, kp_foldl, kp_foldl_pair, kp_mk, kp_eta, kp_ite, ite_self, fFault_keeps] | split | (with_reducible refine (kp_foldl _ _ _ ?_).trans ?_) | (with_reducible refine (kp_foldl_pair _ _ _ ?_).trans ?_) | intro _ _)

@[simp] theorem coreWrite_keeps (s : State) (v : W32) : kp (coreWrite s v) = kp s := by
  unfold coreWrite
  repeat' (first | (with_reducible rfl) | simp only [implies_true, kp_foldl, kp_foldl_pair, kp_mk, kp_eta, kp_ite, ite_self] | split | (with_reducible refine (kp_foldl _ _ _ ?_).trans ?_) | (with_reducible refine (kp_foldl_pair _ _ _ ?_).trans ?_) | intro _ _)

end Sys2Proof.Machine
end

