-- ==== Sys2Proof/Laws/KeepsModem.lean ====
section
/-! SUPPORT. The operations of Machine/Modem.lean keep the fuses and the queue of commands. -/

namespace Sys2Proof.Machine

@[simp] theorem mdmEvent_keeps (s : State) (m k code data : Nat) : kp (mdmEvent s m k code data) = kp s := by
  unfold mdmEvent
  repeat' (first | (with_reducible rfl) | simp only [implies_true, kp_foldl, kp_foldl_pair, kp_mk, kp_eta, kp_ite, ite_self, raise_keeps] | split | (with_reducible refine (kp_foldl _ _ _ ?_).trans ?_) | (with_reducible refine (kp_foldl_pair _ _ _ ?_).trans ?_) | intro _ _)

@[simp] theorem paHigh_keeps (s : State) (m : Nat) : kp (paHigh s m) = kp s := by
  unfold paHigh
  repeat' (first | (with_reducible rfl) | simp only [implies_true, kp_foldl, kp_foldl_pair, kp_mk, kp_eta, kp_ite, ite_self, setRadio_keeps, count_keeps] | split | (with_reducible refine (kp_foldl _ _ _ ?_).trans ?_) | (with_reducible refine (kp_foldl_pair _ _ _ ?_).trans ?_) | intro _ _)

@[simp] theorem paFall_keeps (s : State) (m : Nat) : kp (paFall s m) = kp s := by
  unfold paFall
  repeat' (first | (with_reducible rfl) | simp only [implies_true, kp_foldl, kp_foldl_pair, kp_mk, kp_eta, kp_ite, ite_self, setRadio_keeps, count_keeps] | split | (with_reducible refine (kp_foldl _ _ _ ?_).trans ?_) | (with_reducible refine (kp_foldl_pair _ _ _ ?_).trans ?_) | intro _ _)

@[simp] theorem burstCopyGone_keeps (s : State) (m : Nat) : kp (burstCopyGone s m) = kp s := by
  unfold burstCopyGone
  repeat' (first | (with_reducible rfl) | simp only [implies_true, kp_foldl, kp_foldl_pair, kp_mk, kp_eta, kp_ite, ite_self, unref_keeps, setQueue_keeps] | split | (with_reducible refine (kp_foldl _ _ _ ?_).trans ?_) | (with_reducible refine (kp_foldl_pair _ _ _ ?_).trans ?_) | intro _ _)

@[simp] theorem paCut_keeps (s : State) (m : Nat) : kp (paCut s m) = kp s := by
  unfold paCut
  repeat' (first | (with_reducible rfl) | simp only [implies_true, kp_foldl, kp_foldl_pair, kp_mk, kp_eta, kp_ite, ite_self, burstCopyGone_keeps, paFall_keeps, setRadio_keeps] | split | (with_reducible refine (kp_foldl _ _ _ ?_).trans ?_) | (with_reducible refine (kp_foldl_pair _ _ _ ?_).trans ?_) | intro _ _)

@[simp] theorem paCutAll_keeps (s : State) : kp (paCutAll s) = kp s := by
  unfold paCutAll
  repeat' (first | (with_reducible rfl) | simp only [implies_true, kp_foldl, kp_foldl_pair, kp_mk, kp_eta, kp_ite, ite_self, paCut_keeps] | split | (with_reducible refine (kp_foldl _ _ _ ?_).trans ?_) | (with_reducible refine (kp_foldl_pair _ _ _ ?_).trans ?_) | intro _ _)

@[simp] theorem shapeInstall_keeps (s : State) (m id : Nat) (h : Shape) : kp (shapeInstall s m id h) = kp s := by
  unfold shapeInstall
  repeat' (first | (with_reducible rfl) | simp only [implies_true, kp_foldl, kp_foldl_pair, kp_mk, kp_eta, kp_ite, ite_self, complete_keeps, setRadio_keeps] | split | (with_reducible refine (kp_foldl _ _ _ ?_).trans ?_) | (with_reducible refine (kp_foldl_pair _ _ _ ?_).trans ?_) | intro _ _)

@[simp] theorem shapeDue_keeps (s : State) (m : Nat) : kp (shapeDue s m) = kp s := by
  unfold shapeDue
  repeat' (first | (with_reducible rfl) | simp only [implies_true, kp_foldl, kp_foldl_pair, kp_mk, kp_eta, kp_ite, ite_self, shapeInstall_keeps] | split | (with_reducible refine (kp_foldl _ _ _ ?_).trans ?_) | (with_reducible refine (kp_foldl_pair _ _ _ ?_).trans ?_) | intro _ _)

@[simp] theorem mdmShapeSet_keeps (id : Nat) (buf : List Byte) (ok : Bool) (s : State) : kp (mdmShapeSet id buf ok s) = kp s := by
  unfold mdmShapeSet
  repeat' (first | (with_reducible rfl) | simp only [implies_true, kp_foldl, kp_foldl_pair, kp_mk, kp_eta, kp_ite, ite_self, runCmd_keeps, complete_keeps, shapeDue_keeps, setRadio_keeps, running_keeps] | split | (with_reducible refine Eq.trans (runCmd_keeps _ _ _ _ ?_) ?_) | (with_reducible refine (kp_foldl _ _ _ ?_).trans ?_) | (with_reducible refine (kp_foldl_pair _ _ _ ?_).trans ?_) | intro _ _)

@[simp] theorem paLimit_keeps (m : Nat) (s : State) : kp (paLimit m s) = kp s := by
  unfold paLimit
  repeat' (first | (with_reducible rfl) | simp only [implies_true, kp_foldl, kp_foldl_pair, kp_mk, kp_eta, kp_ite, ite_self, fFault_keeps, mdmEvent_keeps, shapeDue_keeps, paCut_keeps] | split | (with_reducible refine (kp_foldl _ _ _ ?_).trans ?_) | (with_reducible refine (kp_foldl_pair _ _ _ ?_).trans ?_) | intro _ _)

@[simp] theorem burstGo_keeps (s : State) (m start : Nat) (beacon : Bool) (copy : Option Copy) (frame : List Byte) : kp (burstGo s m start beacon copy frame) = kp s := by
  unfold burstGo
  repeat' (first | (with_reducible rfl) | simp only [implies_true, kp_foldl, kp_foldl_pair, kp_mk, kp_eta, kp_ite, ite_self, paHigh_keeps, setRadio_keeps, count_keeps, emit_keeps] | split | (with_reducible refine (kp_foldl _ _ _ ?_).trans ?_) | (with_reducible refine (kp_foldl_pair _ _ _ ?_).trans ?_) | intro _ _)

@[simp] theorem holdSet_keeps (s : State) (m : Nat) (cause : BitVec 2) (data : Nat) : kp (holdSet s m cause data) = kp s := by
  unfold holdSet
  repeat' (first | (with_reducible rfl) | simp only [implies_true, kp_foldl, kp_foldl_pair, kp_mk, kp_eta, kp_ite, ite_self, mdmEvent_keeps, setRadio_keeps] | split | (with_reducible refine (kp_foldl _ _ _ ?_).trans ?_) | (with_reducible refine (kp_foldl_pair _ _ _ ?_).trans ?_) | intro _ _)

@[simp] theorem maskCheck_keeps (s : State) (m : Nat) (bins : List (Nat × Int)) : kp (maskCheck s m bins) = kp s := by
  unfold maskCheck
  repeat' (first | (with_reducible rfl) | simp only [implies_true, kp_foldl, kp_foldl_pair, kp_mk, kp_eta, kp_ite, ite_self, holdSet_keeps, setRadio_keeps] | split | (with_reducible refine (kp_foldl _ _ _ ?_).trans ?_) | (with_reducible refine (kp_foldl_pair _ _ _ ?_).trans ?_) | intro _ _)

@[simp] theorem judgeUpdate_keeps (s : State) (m : Nat) (nmse : BitVec 16) : kp (judgeUpdate s m nmse) = kp s := by
  unfold judgeUpdate
  repeat' (first | (with_reducible rfl) | simp only [implies_true, kp_foldl, kp_foldl_pair, kp_mk, kp_eta, kp_ite, ite_self, mdmEvent_keeps, setRadio_keeps] | split | (with_reducible refine (kp_foldl _ _ _ ?_).trans ?_) | (with_reducible refine (kp_foldl_pair _ _ _ ?_).trans ?_) | intro _ _)

@[simp] theorem dpdCapture_keeps (s : State) (m : Nat) (nmse : BitVec 16) : kp (dpdCapture s m nmse) = kp s := by
  unfold dpdCapture
  repeat' (first | (with_reducible rfl) | simp only [implies_true, kp_foldl, kp_foldl_pair, kp_mk, kp_eta, kp_ite, ite_self, setRadio_keeps, judgeUpdate_keeps, holdSet_keeps] | split | (with_reducible refine (kp_foldl _ _ _ ?_).trans ?_) | (with_reducible refine (kp_foldl_pair _ _ _ ?_).trans ?_) | intro _ _)

@[simp] theorem burstEnd_keeps (m : Nat) (bins : List (Nat × Int)) (nmse : BitVec 16) (s : State) : kp (burstEnd m bins nmse s) = kp s := by
  unfold burstEnd
  repeat' (first | (with_reducible rfl) | simp only [implies_true, kp_foldl, kp_foldl_pair, kp_mk, kp_eta, kp_ite, ite_self, burstCopyGone_keeps, setRadio_keeps, count_keeps, maskCheck_keeps, paFall_keeps, dpdCapture_keeps, shapeDue_keeps] | split | (with_reducible refine (kp_foldl _ _ _ ?_).trans ?_) | (with_reducible refine (kp_foldl_pair _ _ _ ?_).trans ?_) | intro _ _)

@[simp] theorem dpdUpdate_keeps (m : Nat) (ls coef : List W32) (s : State) : kp (dpdUpdate m ls coef s) = kp s := by
  unfold dpdUpdate
  repeat' (first | (with_reducible rfl) | simp only [implies_true, kp_foldl, kp_foldl_pair, kp_mk, kp_eta, kp_ite, ite_self, setRadio_keeps] | split | (with_reducible refine (kp_foldl _ _ _ ?_).trans ?_) | (with_reducible refine (kp_foldl_pair _ _ _ ?_).trans ?_) | intro _ _)

@[simp] theorem heldClear_keeps (s : State) (m : Nat) : kp (heldClear s m) = kp s := by
  unfold heldClear
  repeat' (first | (with_reducible rfl) | simp only [implies_true, kp_foldl, kp_foldl_pair, kp_mk, kp_eta, kp_ite, ite_self, setRadio_keeps] | split | (with_reducible refine (kp_foldl _ _ _ ?_).trans ?_) | (with_reducible refine (kp_foldl_pair _ _ _ ?_).trans ?_) | intro _ _)

@[simp] theorem dclkLoss_keeps (m : Nat) (s : State) : kp (dclkLoss m s) = kp s := by
  unfold dclkLoss
  repeat' (first | (with_reducible rfl) | simp only [implies_true, kp_foldl, kp_foldl_pair, kp_mk, kp_eta, kp_ite, ite_self, paCut_keeps, shapeDue_keeps, mdmEvent_keeps, setRadio_keeps] | split | (with_reducible refine (kp_foldl _ _ _ ?_).trans ?_) | (with_reducible refine (kp_foldl_pair _ _ _ ?_).trans ?_) | intro _ _)

@[simp] theorem dclkReturn_keeps (m : Nat) (s : State) : kp (dclkReturn m s) = kp s := by
  unfold dclkReturn
  repeat' (first | (with_reducible rfl) | simp only [implies_true, kp_foldl, kp_foldl_pair, kp_mk, kp_eta, kp_ite, ite_self, mdmEvent_keeps, setRadio_keeps] | split | (with_reducible refine (kp_foldl _ _ _ ?_).trans ?_) | (with_reducible refine (kp_foldl_pair _ _ _ ?_).trans ?_) | intro _ _)

@[simp] theorem spiGo_keeps (s : State) (m : Nat) (v : W32) : kp (spiGo s m v) = kp s := by
  unfold spiGo
  repeat' (first | (with_reducible rfl) | simp only [implies_true, kp_foldl, kp_foldl_pair, kp_mk, kp_eta, kp_ite, ite_self, setRadio_keeps, emit_keeps] | split | (with_reducible refine (kp_foldl _ _ _ ?_).trans ?_) | (with_reducible refine (kp_foldl_pair _ _ _ ?_).trans ?_) | intro _ _)

@[simp] theorem rfSpiComplete_keeps (m : Nat) (rx : BitVec 32) (s : State) : kp (rfSpiComplete m rx s) = kp s := by
  unfold rfSpiComplete
  repeat' (first | (with_reducible rfl) | simp only [implies_true, kp_foldl, kp_foldl_pair, kp_mk, kp_eta, kp_ite, ite_self, setRadio_keeps] | split | (with_reducible refine (kp_foldl _ _ _ ?_).trans ?_) | (with_reducible refine (kp_foldl_pair _ _ _ ?_).trans ?_) | intro _ _)

@[simp] theorem mdmTake_keeps (s : State) (m off : Nat) : kp (mdmTake s m off) = kp s := by
  unfold mdmTake
  repeat' (first | (with_reducible rfl) | simp only [implies_true, kp_foldl, kp_foldl_pair, kp_mk, kp_eta, kp_ite, ite_self, setRadio_keeps] | split | (with_reducible refine (kp_foldl _ _ _ ?_).trans ?_) | (with_reducible refine (kp_foldl_pair _ _ _ ?_).trans ?_) | intro _ _)

@[simp] theorem mdmWrite_keeps (s : State) (m off : Nat) (v : W32) : kp (mdmWrite s m off v) = kp s := by
  unfold mdmWrite
  repeat' (first | (with_reducible rfl) | simp only [implies_true, kp_foldl, kp_foldl_pair, kp_mk, kp_eta, kp_ite, ite_self, setRadio_keeps, heldClear_keeps, spiGo_keeps] | split | (with_reducible refine (kp_foldl _ _ _ ?_).trans ?_) | (with_reducible refine (kp_foldl_pair _ _ _ ?_).trans ?_) | intro _ _)

end Sys2Proof.Machine
end

