-- ==== Sys2Proof/Laws/KeepsTdma.lean ====
section
/-! SUPPORT. The operations of Machine/Tdma.lean keep the fuses and the queue of commands. -/

namespace Sys2Proof.Machine

@[simp] theorem tdmEvent_keeps (s : State) (m code data : Nat) : kp (tdmEvent s m code data) = kp s := by
  unfold tdmEvent
  repeat' (first | (with_reducible rfl) | simp only [implies_true, kp_foldl, kp_foldl_pair, kp_mk, kp_eta, kp_ite, ite_self, mdmEvent_keeps] | split | (with_reducible refine (kp_foldl _ _ _ ?_).trans ?_) | (with_reducible refine (kp_foldl_pair _ _ _ ?_).trans ?_) | intro _ _)

@[simp] theorem radioNodeAdd_keeps (id : Nat) (s : State) : kp (radioNodeAdd id s) = kp s := by
  unfold radioNodeAdd
  repeat' (first | (with_reducible rfl) | simp only [implies_true, kp_foldl, kp_foldl_pair, kp_mk, kp_eta, kp_ite, ite_self, runCmd_keeps, complete_keeps, count_keeps, setRadio_keeps] | split | (with_reducible refine Eq.trans (runCmd_keeps _ _ _ _ ?_) ?_) | (with_reducible refine (kp_foldl _ _ _ ?_).trans ?_) | (with_reducible refine (kp_foldl_pair _ _ _ ?_).trans ?_) | intro _ _)

@[simp] theorem radioNodeDel_keeps (id : Nat) (s : State) : kp (radioNodeDel id s) = kp s := by
  unfold radioNodeDel
  repeat' (first | (with_reducible rfl) | simp only [implies_true, kp_foldl, kp_foldl_pair, kp_mk, kp_eta, kp_ite, ite_self, runCmd_keeps, complete_keeps, setRadio_keeps] | split | (with_reducible refine Eq.trans (runCmd_keeps _ _ _ _ ?_) ?_) | (with_reducible refine (kp_foldl _ _ _ ?_).trans ?_) | (with_reducible refine (kp_foldl_pair _ _ _ ?_).trans ?_) | intro _ _)

@[simp] theorem tdmChainSet_keeps (id : Nat) (s : State) : kp (tdmChainSet id s) = kp s := by
  unfold tdmChainSet
  repeat' (first | (with_reducible rfl) | simp only [implies_true, kp_foldl, kp_foldl_pair, kp_mk, kp_eta, kp_ite, ite_self, runCmd_keeps, complete_keeps, setRadio_keeps] | split | (with_reducible refine Eq.trans (runCmd_keeps _ _ _ _ ?_) ?_) | (with_reducible refine (kp_foldl _ _ _ ?_).trans ?_) | (with_reducible refine (kp_foldl_pair _ _ _ ?_).trans ?_) | intro _ _)

@[simp] theorem cutSpans_keeps (s : State) (m spans : Nat) : kp (cutSpans s m spans) = kp s := by
  unfold cutSpans
  repeat' (first | (with_reducible rfl) | simp only [implies_true, kp_foldl, kp_foldl_pair, kp_mk, kp_eta, kp_ite, ite_self, tdmEvent_keeps, setRadio_keeps] | split | (with_reducible refine (kp_foldl _ _ _ ?_).trans ?_) | (with_reducible refine (kp_foldl_pair _ _ _ ?_).trans ?_) | intro _ _)

@[simp] theorem scheduleStart_keeps (m : Nat) (s : State) : kp (scheduleStart m s) = kp s := by
  unfold scheduleStart
  repeat' (first | (with_reducible rfl) | simp only [implies_true, kp_foldl, kp_foldl_pair, kp_mk, kp_eta, kp_ite, ite_self, cutSpans_keeps, setRadio_keeps] | split | (with_reducible refine (kp_foldl _ _ _ ?_).trans ?_) | (with_reducible refine (kp_foldl_pair _ _ _ ?_).trans ?_) | intro _ _)

@[simp] theorem applyNodes_keeps (s : State) (m : Nat) : kp (applyNodes s m) = kp s := by
  unfold applyNodes
  repeat' (first | (with_reducible rfl) | simp only [implies_true, kp_foldl, kp_foldl_pair, kp_mk, kp_eta, kp_ite, ite_self, setRadio_keeps, tdmEvent_keeps] | split | (with_reducible refine (kp_foldl _ _ _ ?_).trans ?_) | (with_reducible refine (kp_foldl_pair _ _ _ ?_).trans ?_) | intro _ _)

@[simp] theorem chainBegin_keeps (m : Nat) (s : State) (x : TdmSched) (k : Nat) (sp : Option Nat) : kp (chainBegin m s x k sp) = kp s := by
  unfold chainBegin
  repeat' (first | (with_reducible rfl) | simp only [implies_true, kp_foldl, kp_foldl_pair, kp_mk, kp_eta, kp_ite, ite_self, applyNodes_keeps, setRadio_keeps, cutSpans_keeps, tdmEvent_keeps] | split | (with_reducible refine (kp_foldl _ _ _ ?_).trans ?_) | (with_reducible refine (kp_foldl_pair _ _ _ ?_).trans ?_) | intro _ _)

@[simp] theorem chainStart_keeps (m : Nat) (s : State) : kp (chainStart m s) = kp s := by
  unfold chainStart
  repeat' (first | (with_reducible rfl) | simp only [implies_true, kp_foldl, kp_foldl_pair, kp_mk, kp_eta, kp_ite, ite_self, chainBegin_keeps] | split | (with_reducible refine (kp_foldl _ _ _ ?_).trans ?_) | (with_reducible refine (kp_foldl_pair _ _ _ ?_).trans ?_) | intro _ _)

@[simp] theorem spanTake_keeps (m : Nat) (s : State) (q : Option (Nat × Nat × Option Nat)) : kp (spanTake m s q) = kp s := by
  unfold spanTake
  split
  · exact setRadio_keeps _ _ _
  · rw [kp_ite, setRadio_keeps, ite_self]

@[simp] theorem spanStart_keeps (m : Nat) (s : State) : kp (spanStart m s) = kp s := by
  unfold spanStart
  repeat' (first | (with_reducible rfl) | simp only [implies_true, kp_foldl, kp_foldl_pair, kp_mk, kp_eta, kp_ite, ite_self, spanTake_keeps] | split | (with_reducible refine (kp_foldl _ _ _ ?_).trans ?_) | (with_reducible refine (kp_foldl_pair _ _ _ ?_).trans ?_) | intro _ _)

@[simp] theorem beaconGo_keeps (s : State) (m : Nat) (x : TdmSched) (w : BitVec 8 × Nat × Nat) (c0 start : Nat) : kp (beaconGo s m x w c0 start) = kp s := by
  unfold beaconGo
  repeat' (first | (with_reducible rfl) | simp only [implies_true, kp_foldl, kp_foldl_pair, kp_mk, kp_eta, kp_ite, ite_self, setRadio_keeps, burstGo_keeps] | split | (with_reducible refine (kp_foldl _ _ _ ?_).trans ?_) | (with_reducible refine (kp_foldl_pair _ _ _ ?_).trans ?_) | intro _ _)

@[simp] theorem dropHead_keeps (s : State) (p : Nat) (c : Copy) : kp (dropHead s p c) = kp s := by
  unfold dropHead
  repeat' (first | (with_reducible rfl) | simp only [implies_true, kp_foldl, kp_foldl_pair, kp_mk, kp_eta, kp_ite, ite_self, takeOut_keeps, setQueue_keeps] | split | (with_reducible refine (kp_foldl _ _ _ ?_).trans ?_) | (with_reducible refine (kp_foldl_pair _ _ _ ?_).trans ?_) | intro _ _)

@[simp] theorem downlinkGo_keeps (m : Nat) (x : TdmSched) (w : BitVec 8 × Nat × Nat) (c0 start n : Nat) (s : State) :
    kp (downlinkGo m x w c0 start n s) = kp s := by
  induction n generalizing s with
  | zero => rfl
  | succ n ih =>
    unfold downlinkGo
    repeat' (first | (with_reducible rfl) | simp only [ih, dropHead_keeps, burstGo_keeps, setQueue_keeps] | split)

@[simp] theorem burstStart_keeps (m : Nat) (s : State) : kp (burstStart m s) = kp s := by
  unfold burstStart
  repeat' (first | (with_reducible rfl) | simp only [implies_true, kp_foldl, kp_foldl_pair, kp_mk, kp_eta, kp_ite, ite_self, beaconGo_keeps, downlinkGo_keeps] | split | (with_reducible refine (kp_foldl _ _ _ ?_).trans ?_) | (with_reducible refine (kp_foldl_pair _ _ _ ?_).trans ?_) | intro _ _)

@[simp] theorem syncDetect_keeps (m : Nat) (word : BitVec 32) (sub : Nat) (s : State) : kp (syncDetect m word sub s) = kp s := by
  unfold syncDetect
  repeat' (first | (with_reducible rfl) | simp only [implies_true, kp_foldl, kp_foldl_pair, kp_mk, kp_eta, kp_ite, ite_self, setRadio_keeps] | split | (with_reducible refine (kp_foldl _ _ _ ?_).trans ?_) | (with_reducible refine (kp_foldl_pair _ _ _ ?_).trans ?_) | intro _ _)

@[simp] theorem setNode_keeps (s : State) (m j : Nat) (f : NodeEnt → NodeEnt) : kp (setNode s m j f) = kp s := by
  unfold setNode
  repeat' (first | (with_reducible rfl) | simp only [implies_true, kp_foldl, kp_foldl_pair, kp_mk, kp_eta, kp_ite, ite_self, setRadio_keeps] | split | (with_reducible refine (kp_foldl _ _ _ ?_).trans ?_) | (with_reducible refine (kp_foldl_pair _ _ _ ?_).trans ?_) | intro _ _)

@[simp] theorem advanceAdd_keeps (s : State) (m j : Nat) (off : Int) : kp (advanceAdd s m j off) = kp s := by
  unfold advanceAdd
  repeat' (first | (with_reducible rfl) | simp only [implies_true, kp_foldl, kp_foldl_pair, kp_mk, kp_eta, kp_ite, ite_self, setRadio_keeps] | split | (with_reducible refine (kp_foldl _ _ _ ?_).trans ?_) | (with_reducible refine (kp_foldl_pair _ _ _ ?_).trans ?_) | intro _ _)

@[simp] theorem classActive_keeps (s : State) (m j cls : Nat) (off : Int) : kp (classActive s m j cls off) = kp s := by
  unfold classActive
  repeat' (first | (with_reducible rfl) | simp only [implies_true, kp_foldl, kp_foldl_pair, kp_mk, kp_eta, kp_ite, ite_self, setNode_keeps, count_keeps, setRadio_keeps, tdmEvent_keeps, advanceAdd_keeps] | split | (with_reducible refine (kp_foldl _ _ _ ?_).trans ?_) | (with_reducible refine (kp_foldl_pair _ _ _ ?_).trans ?_) | intro _ _)

@[simp] theorem classReacq_keeps (s : State) (m j : Nat) (answer : Bool) (off : Int) : kp (classReacq s m j answer off) = kp s := by
  unfold classReacq
  repeat' (first | (with_reducible rfl) | simp only [implies_true, kp_foldl, kp_foldl_pair, kp_mk, kp_eta, kp_ite, ite_self, setNode_keeps, count_keeps, tdmEvent_keeps, advanceAdd_keeps, setRadio_keeps] | split | (with_reducible refine (kp_foldl _ _ _ ?_).trans ?_) | (with_reducible refine (kp_foldl_pair _ _ _ ?_).trans ?_) | intro _ _)

@[simp] theorem collide_keeps (s : State) (m : Nat) (b : RxBurst) : kp (collide s m b) = kp s := by
  unfold collide
  repeat' (first | (with_reducible rfl) | simp only [implies_true, kp_foldl, kp_foldl_pair, kp_mk, kp_eta, kp_ite, ite_self, tdmEvent_keeps, setRadio_keeps] | split | (with_reducible refine (kp_foldl _ _ _ ?_).trans ?_) | (with_reducible refine (kp_foldl_pair _ _ _ ?_).trans ?_) | intro _ _)

@[simp] theorem burstTake_keeps (m : Nat) (coded : List Byte) (level cfo : BitVec 16) (s : State) (b : RxBurst) : kp (burstTake m coded level cfo s b) = kp s := by
  unfold burstTake
  repeat' (first | (with_reducible rfl) | simp only [implies_true, kp_foldl, kp_foldl_pair, kp_mk, kp_eta, kp_ite, ite_self, drainLost_keeps, setRadio_keeps, setNode_keeps, collide_keeps, classReacq_keeps, classActive_keeps] | split | (with_reducible refine (kp_foldl _ _ _ ?_).trans ?_) | (with_reducible refine (kp_foldl_pair _ _ _ ?_).trans ?_) | intro _ _)

@[simp] theorem burstDecoded_keeps (m : Nat) (coded : List Byte) (level cfo : BitVec 16) (s : State) : kp (burstDecoded m coded level cfo s) = kp s := by
  unfold burstDecoded
  repeat' (first | (with_reducible rfl) | simp only [implies_true, kp_foldl, kp_foldl_pair, kp_mk, kp_eta, kp_ite, ite_self, burstTake_keeps] | split | (with_reducible refine (kp_foldl _ _ _ ?_).trans ?_) | (with_reducible refine (kp_foldl_pair _ _ _ ?_).trans ?_) | intro _ _)

@[simp] theorem radioPacket_keeps (s : State) (m : Nat) (b : RxBurst) (work : Nat) : kp (radioPacket s m b work) = kp s := by
  unfold radioPacket
  repeat' (first | (with_reducible rfl) | simp only [implies_true, kp_foldl, kp_foldl_pair, kp_mk, kp_eta, kp_ite, ite_self, count_keeps, addPkt_keeps, discardPkt_keeps, rstDrop_keeps, drainLost_keeps, dispatch_keeps] | split | (with_reducible refine (kp_foldl _ _ _ ?_).trans ?_) | (with_reducible refine (kp_foldl_pair _ _ _ ?_).trans ?_) | intro _ _)

@[simp] theorem radioFrameRelease_keeps (m work : Nat) (s : State) : kp (radioFrameRelease m work s) = kp s := by
  unfold radioFrameRelease
  repeat' (first | (with_reducible rfl) | simp only [implies_true, kp_foldl, kp_foldl_pair, kp_mk, kp_eta, kp_ite, ite_self, setRadio_keeps, radioPacket_keeps] | split | (with_reducible refine (kp_foldl _ _ _ ?_).trans ?_) | (with_reducible refine (kp_foldl_pair _ _ _ ?_).trans ?_) | intro _ _)

@[simp] theorem noiseFloorMeasure_keeps (m : Nat) (level : BitVec 16) (full : Bool) (s : State) : kp (noiseFloorMeasure m level full s) = kp s := by
  unfold noiseFloorMeasure
  repeat' (first | (with_reducible rfl) | simp only [implies_true, kp_foldl, kp_foldl_pair, kp_mk, kp_eta, kp_ite, ite_self, setRadio_keeps] | split | (with_reducible refine (kp_foldl _ _ _ ?_).trans ?_) | (with_reducible refine (kp_foldl_pair _ _ _ ?_).trans ?_) | intro _ _)

@[simp] theorem tdmTake_keeps (s : State) (m off : Nat) : kp (tdmTake s m off) = kp s := by
  unfold tdmTake
  repeat' (first | (with_reducible rfl) | simp only [implies_true, kp_foldl, kp_foldl_pair, kp_mk, kp_eta, kp_ite, ite_self, setRadio_keeps] | split | (with_reducible refine (kp_foldl _ _ _ ?_).trans ?_) | (with_reducible refine (kp_foldl_pair _ _ _ ?_).trans ?_) | intro _ _)

@[simp] theorem tdmWrite_keeps (s : State) (m off : Nat) (v : W32) : kp (tdmWrite s m off v) = kp s := by
  unfold tdmWrite
  repeat' (first | (with_reducible rfl) | simp only [implies_true, kp_foldl, kp_foldl_pair, kp_mk, kp_eta, kp_ite, ite_self, setRadio_keeps] | split | (with_reducible refine (kp_foldl _ _ _ ?_).trans ?_) | (with_reducible refine (kp_foldl_pair _ _ _ ?_).trans ?_) | intro _ _)

end Sys2Proof.Machine
end

