-- ==== Sys2Proof/Laws/KeepsFaults.lean ====
section
/-! SUPPORT. The operations of Machine/Faults.lean keep the fuses and the queue of commands. -/

namespace Sys2Proof.Machine

@[simp] theorem engineRetries_keeps (s : State) (l : List Nat) : kp (engineRetries s l) = kp s := by
  unfold engineRetries
  repeat' (first | (with_reducible rfl) | simp only [implies_true, kp_foldl, kp_foldl_pair, kp_mk, kp_eta, kp_ite, ite_self, complete_keeps] | split | (with_reducible refine (kp_foldl _ _ _ ?_).trans ?_) | (with_reducible refine (kp_foldl_pair _ _ _ ?_).trans ?_) | intro _ _)

@[simp] theorem enginePkts_keeps (s : State) (e : Nat) : kp (enginePkts s e) = kp s := by
  unfold enginePkts
  repeat' (first | (with_reducible rfl) | simp only [implies_true, kp_foldl, kp_foldl_pair, kp_mk, kp_eta, kp_ite, ite_self, delPkt_keeps, leaveCore_keeps] | split | (with_reducible refine (kp_foldl _ _ _ ?_).trans ?_) | (with_reducible refine (kp_foldl_pair _ _ _ ?_).trans ?_) | intro _ _)

@[simp] theorem reqsFreed_keeps (s : State) : kp (reqsFreed s) = kp s := by
  unfold reqsFreed
  repeat' (first | (with_reducible rfl) | simp only [implies_true, kp_foldl, kp_foldl_pair, kp_mk, kp_eta, kp_ite, ite_self] | split | (with_reducible refine (kp_foldl _ _ _ ?_).trans ?_) | (with_reducible refine (kp_foldl_pair _ _ _ ?_).trans ?_) | intro _ _)

@[simp] theorem engineFence_keeps (s : State) (e cause : Nat) : kp (engineFence s e cause) = kp s := by
  unfold engineFence
  repeat' (first | (with_reducible rfl) | simp only [implies_true, kp_foldl, kp_foldl_pair, kp_mk, kp_eta, kp_ite, ite_self, enginePkts_keeps, setEng_keeps, engineRetries_keeps, reqsFreed_keeps, loseTiles_keeps, raise_keeps] | split | (with_reducible refine (kp_foldl _ _ _ ?_).trans ?_) | (with_reducible refine (kp_foldl_pair _ _ _ ?_).trans ?_) | intro _ _)

@[simp] theorem camFence_keeps (s : State) (b : Nat) : kp (camFence s b) = kp s := by
  unfold camFence
  repeat' (first | (with_reducible rfl) | simp only [implies_true, kp_foldl, kp_foldl_pair, kp_mk, kp_eta, kp_ite, ite_self, camClear_keeps, tableEnds_keeps] | split | (with_reducible refine (kp_foldl _ _ _ ?_).trans ?_) | (with_reducible refine (kp_foldl_pair _ _ _ ?_).trans ?_) | intro _ _)

@[simp] theorem stateBankFence_keeps (s : State) (k : Nat) : kp (stateBankFence s k) = kp s := by
  unfold stateBankFence
  repeat' (first | (with_reducible rfl) | simp only [implies_true, kp_foldl, kp_foldl_pair, kp_mk, kp_eta, kp_ite, ite_self, fdbRemove_keeps, reqsFreed_keeps, loseTiles_keeps, tableEnds_keeps] | split | (with_reducible refine (kp_foldl _ _ _ ?_).trans ?_) | (with_reducible refine (kp_foldl_pair _ _ _ ?_).trans ?_) | intro _ _)

@[simp] theorem dropCount_keeps (s : State) (id : Nat) : kp (dropCount s id) = kp s := by
  unfold dropCount
  repeat' (first | (with_reducible rfl) | simp only [implies_true, kp_foldl, kp_foldl_pair, kp_mk, kp_eta, kp_ite, ite_self] | split | (with_reducible refine (kp_foldl _ _ _ ?_).trans ?_) | (with_reducible refine (kp_foldl_pair _ _ _ ?_).trans ?_) | intro _ _)

@[simp] theorem bufferLoss_keeps (s : State) (p : Pkt) : kp (bufferLoss s p) = kp s := by
  unfold bufferLoss
  repeat' (first | (with_reducible rfl) | simp only [implies_true, kp_foldl, kp_foldl_pair, kp_mk, kp_eta, kp_ite, ite_self, freeNext_keeps, purgePkt_keeps, dropCount_keeps] | split | (with_reducible refine (kp_foldl _ _ _ ?_).trans ?_) | (with_reducible refine (kp_foldl_pair _ _ _ ?_).trans ?_) | intro _ _)

@[simp] theorem bufferFence_keeps (s : State) (k : Nat) : kp (bufferFence s k) = kp s := by
  unfold bufferFence
  repeat' (first | (with_reducible rfl) | simp only [implies_true, kp_foldl, kp_foldl_pair, kp_mk, kp_eta, kp_ite, ite_self, bufferLoss_keeps] | split | (with_reducible refine (kp_foldl _ _ _ ?_).trans ?_) | (with_reducible refine (kp_foldl_pair _ _ _ ?_).trans ?_) | intro _ _)

@[simp] theorem radioFence_keeps (s : State) (m : Nat) : kp (radioFence s m) = kp s := by
  unfold radioFence
  repeat' (first | (with_reducible rfl) | simp only [implies_true, kp_foldl, kp_foldl_pair, kp_mk, kp_eta, kp_ite, ite_self, flushCopies_keeps, paCut_keeps, setRadio_keeps, completeOpt_keeps] | split | (have h1 := congrArg (fun p => kp p.1) ‹flushCopies _ _ _ = _›; simp only [implies_true, kp_foldl, kp_foldl_pair, kp_mk, kp_eta, kp_ite, ite_self, flushCopies_keeps, paCut_keeps, setRadio_keeps, completeOpt_keeps] at h1; exact h1.symm) | (with_reducible refine (kp_foldl _ _ _ ?_).trans ?_) | (with_reducible refine (kp_foldl_pair _ _ _ ?_).trans ?_) | intro _ _)

@[simp] theorem pkaFence_keeps (s : State) (cause : Nat) : kp (pkaFence s cause) = kp s := by
  unfold pkaFence
  repeat' (first | (with_reducible rfl) | simp only [implies_true, kp_foldl, kp_foldl_pair, kp_mk, kp_eta, kp_ite, ite_self, complete_keeps] | split | (with_reducible refine (kp_foldl _ _ _ ?_).trans ?_) | (with_reducible refine (kp_foldl_pair _ _ _ ?_).trans ?_) | intro _ _)

@[simp] theorem firmwareEnds_keeps (s : State) : kp (firmwareEnds s) = kp s := by
  unfold firmwareEnds
  repeat' (first | (with_reducible rfl) | simp only [implies_true, kp_foldl, kp_foldl_pair, kp_mk, kp_eta, kp_ite, ite_self, setRadio_keeps, complete_keeps] | split | (with_reducible refine (kp_foldl _ _ _ ?_).trans ?_) | (with_reducible refine (kp_foldl_pair _ _ _ ?_).trans ?_) | intro _ _)

@[simp] theorem clusterFence_keeps (s : State) (cause data : Nat) (g : Grain) : kp (clusterFence s cause data g) = kp s := by
  unfold clusterFence
  repeat' (first | (with_reducible rfl) | simp only [implies_true, kp_foldl, kp_foldl_pair, kp_mk, kp_eta, kp_ite, ite_self, semCluster_keeps, firmwareEnds_keeps, raise_keeps] | split | (with_reducible refine (kp_foldl _ _ _ ?_).trans ?_) | (with_reducible refine (kp_foldl_pair _ _ _ ?_).trans ?_) | intro _ _)

@[simp] theorem fenceUnit_keeps (s : State) (r : Rec) (g : Grain) : kp (fenceUnit s r g) = kp s := by
  unfold fenceUnit
  repeat' (first | (with_reducible rfl) | simp only [implies_true, kp_foldl, kp_foldl_pair, kp_mk, kp_eta, kp_ite, ite_self, clusterFence_keeps, pkaFence_keeps, engineFence_keeps, camFence_keeps, stateBankFence_keeps, bufferFence_keeps, radioFence_keeps] | split | (with_reducible refine (kp_foldl _ _ _ ?_).trans ?_) | (with_reducible refine (kp_foldl_pair _ _ _ ?_).trans ?_) | intro _ _)

@[simp] theorem fatalAction_keeps (s : State) (g : Grain) : kp (fatalAction s g) = kp s := by
  unfold fatalAction
  repeat' (first | (with_reducible rfl) | simp only [implies_true, kp_foldl, kp_foldl_pair, kp_mk, kp_eta, kp_ite, ite_self, paCutAll_keeps, squelchAll_keeps, setPort_keeps, validUpdate_keeps] | split | (with_reducible refine (kp_foldl _ _ _ ?_).trans ?_) | (with_reducible refine (kp_foldl_pair _ _ _ ?_).trans ?_) | intro _ _)

@[simp] theorem accessRecord_keeps (s : State) (r : Rec) : kp (accessRecord s r) = kp s := by
  unfold accessRecord
  repeat' (first | (with_reducible rfl) | simp only [implies_true, kp_foldl, kp_foldl_pair, kp_mk, kp_eta, kp_ite, ite_self] | split | (with_reducible refine (kp_foldl _ _ _ ?_).trans ?_) | (with_reducible refine (kp_foldl_pair _ _ _ ?_).trans ?_) | intro _ _)

@[simp] theorem fenceApply_keeps (s : State) (r : Rec) (g : Grain) : kp (fenceApply s r g) = kp s := by
  unfold fenceApply
  repeat' (first | (with_reducible rfl) | simp only [implies_true, kp_foldl, kp_foldl_pair, kp_mk, kp_eta, kp_ite, ite_self, fcuRecord_keeps, fenceUnit_keeps, raiseAt_keeps, torvSend_keeps, vcoreFence_keeps] | split | (with_reducible refine (kp_foldl _ _ _ ?_).trans ?_) | (with_reducible refine (kp_foldl_pair _ _ _ ?_).trans ?_) | intro _ _)

@[simp] theorem fatalApply_keeps (s : State) (r : Rec) (g : Grain) : kp (fatalApply s r g) = kp s := by
  unfold fatalApply
  repeat' (first | (with_reducible rfl) | simp only [implies_true, kp_foldl, kp_foldl_pair, kp_mk, kp_eta, kp_ite, ite_self, fcuRecord_keeps, fatalAction_keeps] | split | (with_reducible refine (kp_foldl _ _ _ ?_).trans ?_) | (with_reducible refine (kp_foldl_pair _ _ _ ?_).trans ?_) | intro _ _)

@[simp] theorem applyFault_keeps (s : State) (r : Rec) (g : Grain) : kp (applyFault s r g) = kp s := by
  unfold applyFault
  repeat' (first | (with_reducible rfl) | simp only [implies_true, kp_foldl, kp_foldl_pair, kp_mk, kp_eta, kp_ite, ite_self, fcuRecord_keeps, fatalApply_keeps, fenceApply_keeps, accessRecord_keeps, raiseAt_keeps] | split | (with_reducible refine (kp_foldl _ _ _ ?_).trans ?_) | (with_reducible refine (kp_foldl_pair _ _ _ ?_).trans ?_) | intro _ _)

@[simp] theorem faultSeen_keeps (s : State) (src cause data : Nat) : kp (faultSeen s src cause data) = kp s := by
  unfold faultSeen
  repeat' (first | (with_reducible rfl) | simp only [implies_true, kp_foldl, kp_foldl_pair, kp_mk, kp_eta, kp_ite, ite_self, detect_keeps] | split | (with_reducible refine (kp_foldl _ _ _ ?_).trans ?_) | (with_reducible refine (kp_foldl_pair _ _ _ ?_).trans ?_) | intro _ _)

@[simp] theorem faultStopped_keeps (s : State) : kp (faultStopped s) = kp s := by
  unfold faultStopped
  repeat' (first | (with_reducible rfl) | simp only [implies_true, kp_foldl, kp_foldl_pair, kp_mk, kp_eta, kp_ite, ite_self, applyFault_keeps, count_keeps] | split | (with_reducible refine (kp_foldl _ _ _ ?_).trans ?_) | (with_reducible refine (kp_foldl_pair _ _ _ ?_).trans ?_) | intro _ _)

@[simp] theorem faultDetected_keeps (up : Option (Nat × Nat × Nat)) (s : State) : kp (faultDetected up s) = kp s := by
  unfold faultDetected
  repeat' (first | (with_reducible rfl) | simp only [implies_true, kp_foldl, kp_foldl_pair, kp_mk, kp_eta, kp_ite, ite_self, faultSeen_keeps, applyFault_keeps, faultStopped_keeps] | split | (refine Eq.trans (takeHead_keeps _ _ _ ‹takeHead _ _ = some _›) ?_) | (with_reducible refine (kp_foldl _ _ _ ?_).trans ?_) | (with_reducible refine (kp_foldl_pair _ _ _ ?_).trans ?_) | intro _ _)

@[simp] theorem grainLost_keeps (ppm : Int) (gap : Nat) (s : State) : kp (grainLost ppm gap s) = kp s := by
  unfold grainLost
  repeat' (first | (with_reducible rfl) | simp only [implies_true, kp_foldl, kp_foldl_pair, kp_mk, kp_eta, kp_ite, ite_self, xFault_keeps] | split | (with_reducible refine (kp_foldl _ _ _ ?_).trans ?_) | (with_reducible refine (kp_foldl_pair _ _ _ ?_).trans ?_) | intro _ _)

@[simp] theorem fatalReset_keeps (s : State) : kp (fatalReset s) = kp s := by
  unfold fatalReset
  repeat' (first | (with_reducible rfl) | simp only [implies_true, kp_foldl, kp_foldl_pair, kp_mk, kp_eta, kp_ite, ite_self, deviceReset_keeps] | split | (with_reducible refine (kp_foldl _ _ _ ?_).trans ?_) | (with_reducible refine (kp_foldl_pair _ _ _ ?_).trans ?_) | intro _ _)

@[simp] theorem fcuCtlWrite_keeps (v : W32) (s : State) : kp (fcuCtlWrite v s) = kp s := by
  unfold fcuCtlWrite
  repeat' (first | (with_reducible rfl) | simp only [implies_true, kp_foldl, kp_foldl_pair, kp_mk, kp_eta, kp_ite, ite_self, deviceReset_keeps] | split | (with_reducible refine (kp_foldl _ _ _ ?_).trans ?_) | (with_reducible refine (kp_foldl_pair _ _ _ ?_).trans ?_) | intro _ _)

end Sys2Proof.Machine
end

