-- ==== Sys2Proof/Laws/KeepsSequencer.lean ====
section
/-! SUPPORT. The operations of Machine/Sequencer.lean keep the fuses and the queue of commands. -/

namespace Sys2Proof.Machine

@[simp] theorem pendApply_keeps (s : State) (w : Nat × W32) : kp (pendApply s w) = kp s := by
  unfold pendApply
  repeat' (first | (with_reducible rfl) | simp only [implies_true, kp_foldl, kp_foldl_pair, kp_mk, kp_eta, kp_ite, ite_self, validApply_keeps, tsuWrite_keeps, evcCtlApply_keeps, portCtlApply_keeps, txeqApply_keeps, rsqCtlApply_keeps, semApply_keeps, pwrApply_keeps, hupApply_keeps, prmApply_keeps, pmcApply_keeps, cascOff_keeps] | split | (with_reducible refine (kp_foldl _ _ _ ?_).trans ?_) | (with_reducible refine (kp_foldl_pair _ _ _ ?_).trans ?_) | intro _ _)

@[simp] theorem pendAll_keeps (s : State) : kp (pendAll s) = kp s := by
  unfold pendAll
  repeat' (first | (with_reducible rfl) | simp only [implies_true, kp_foldl, kp_foldl_pair, kp_mk, kp_eta, kp_ite, ite_self, pendApply_keeps] | split | (with_reducible refine (kp_foldl _ _ _ ?_).trans ?_) | (with_reducible refine (kp_foldl_pair _ _ _ ?_).trans ?_) | intro _ _)

@[simp] theorem radioLinks_keeps (s : State) : kp (radioLinks s) = kp s := by
  unfold radioLinks
  repeat' (first | (with_reducible rfl) | simp only [implies_true, kp_foldl, kp_foldl_pair, kp_mk, kp_eta, kp_ite, ite_self, see_keeps, setRadio_keeps] | split | (with_reducible refine (kp_foldl _ _ _ ?_).trans ?_) | (with_reducible refine (kp_foldl_pair _ _ _ ?_).trans ?_) | intro _ _)

@[simp] theorem shareOut_keeps (s : State) (n idx kind : Nat) (e : Option LearnEv) (b : Option Nat) : kp (shareOut s n idx kind e b) = kp s := by
  unfold shareOut
  repeat' (first | (with_reducible rfl) | simp only [implies_true, kp_foldl, kp_foldl_pair, kp_mk, kp_eta, kp_ite, ite_self, torvSend_keeps] | split | (with_reducible refine (kp_foldl _ _ _ ?_).trans ?_) | (with_reducible refine (kp_foldl_pair _ _ _ ?_).trans ?_) | intro _ _)

@[simp] theorem shareLearns_keeps (s : State) : kp (shareLearns s) = kp s := by
  unfold shareLearns
  repeat' (first | (with_reducible rfl) | simp only [implies_true, kp_foldl, kp_foldl_pair, kp_mk, kp_eta, kp_ite, ite_self, shareOut_keeps] | split | (with_reducible refine (kp_foldl _ _ _ ?_).trans ?_) | (with_reducible refine (kp_foldl_pair _ _ _ ?_).trans ?_) | intro _ _)

@[simp] theorem sweepSee_keeps (s : State) : kp (sweepSee s) = kp s := by
  unfold sweepSee
  repeat' (first | (with_reducible rfl) | simp only [implies_true, kp_foldl, kp_foldl_pair, kp_mk, kp_eta, kp_ite, ite_self, count_keeps, shareOut_keeps, see_keeps] | split | (with_reducible refine (kp_foldl _ _ _ ?_).trans ?_) | (with_reducible refine (kp_foldl_pair _ _ _ ?_).trans ?_) | intro _ _)

@[simp] theorem commitSee_keeps (s : State) : kp (commitSee s) = kp s := by
  unfold commitSee
  repeat' (first | (with_reducible rfl) | simp only [implies_true, kp_foldl, kp_foldl_pair, kp_mk, kp_eta, kp_ite, ite_self, see_keeps] | split | (with_reducible refine (kp_foldl _ _ _ ?_).trans ?_) | (with_reducible refine (kp_foldl_pair _ _ _ ?_).trans ?_) | intro _ _)

@[simp] theorem stampCmd_keeps (s : State) (x : Inp) : kp (stampCmd s x) = kp s := by
  unfold stampCmd
  repeat' (first | (with_reducible rfl) | simp only [implies_true, kp_foldl, kp_foldl_pair, kp_mk, kp_eta, kp_ite, ite_self, modCmd_keeps, arrive_keeps, count_keeps] | split | (with_reducible refine (kp_foldl _ _ _ ?_).trans ?_) | (with_reducible refine (kp_foldl_pair _ _ _ ?_).trans ?_) | intro _ _)

@[simp] theorem admitHigh_keeps (s : State) : kp (admitHigh s) = kp s := by
  unfold admitHigh
  repeat' (first | (with_reducible rfl) | simp only [implies_true, kp_foldl, kp_foldl_pair, kp_mk, kp_eta, kp_ite, ite_self, count_keeps] | split | (with_reducible refine (kp_foldl _ _ _ ?_).trans ?_) | (with_reducible refine (kp_foldl_pair _ _ _ ?_).trans ?_) | intro _ _)

@[simp] theorem admitLow_keeps (s : State) : kp (admitLow s) = kp s := by
  unfold admitLow
  repeat' (first | (with_reducible rfl) | simp only [implies_true, kp_foldl, kp_foldl_pair, kp_mk, kp_eta, kp_ite, ite_self, count_keeps, stampCmd_keeps] | split | (with_reducible refine (kp_foldl _ _ _ ?_).trans ?_) | (with_reducible refine (kp_foldl_pair _ _ _ ?_).trans ?_) | intro _ _)

@[simp] theorem holdUpdate_keeps (s : State) : kp (holdUpdate s) = kp s := by
  unfold holdUpdate
  repeat' (first | (with_reducible rfl) | simp only [implies_true, kp_foldl, kp_foldl_pair, kp_mk, kp_eta, kp_ite, ite_self] | split | (with_reducible refine (kp_foldl _ _ _ ?_).trans ?_) | (with_reducible refine (kp_foldl_pair _ _ _ ?_).trans ?_) | intro _ _)

@[simp] theorem poolEmpty_keeps (s : State) : kp (poolEmpty s) = kp s := by
  unfold poolEmpty
  repeat' (first | (with_reducible rfl) | simp only [implies_true, kp_foldl, kp_foldl_pair, kp_mk, kp_eta, kp_ite, ite_self, raiseOnce_keeps] | split | (with_reducible refine (kp_foldl _ _ _ ?_).trans ?_) | (with_reducible refine (kp_foldl_pair _ _ _ ?_).trans ?_) | intro _ _)

@[simp] theorem keepaliveSend_keeps (s : State) : kp (keepaliveSend s) = kp s := by
  unfold keepaliveSend
  repeat' (first | (with_reducible rfl) | simp only [implies_true, kp_foldl, kp_foldl_pair, kp_mk, kp_eta, kp_ite, ite_self, count_keeps, torvSend_keeps] | split | (with_reducible refine (kp_foldl _ _ _ ?_).trans ?_) | (with_reducible refine (kp_foldl_pair _ _ _ ?_).trans ?_) | intro _ _)

@[simp] theorem grainTick_keeps (xoPpm : BitVec 12) (s : State) : kp (grainTick xoPpm s) = kp s := by
  unfold grainTick
  repeat' (first | (with_reducible rfl) | simp only [implies_true, kp_foldl, kp_foldl_pair, kp_mk, kp_eta, kp_ite, ite_self, count_keeps, wdogGrain_keeps, aonGrain_keeps, tbBoundary_keeps, watchGrain_keeps, occupancyCount_keeps, censusBoundary_keeps] | split | (with_reducible refine (kp_foldl _ _ _ ?_).trans ?_) | (with_reducible refine (kp_foldl_pair _ _ _ ?_).trans ?_) | intro _ _)

@[simp] theorem grainBoundary_keeps (xoPpm : BitVec 12) (s : State) : kp (grainBoundary xoPpm s) = kp s := by
  unfold grainBoundary
  repeat' (first | (with_reducible rfl) | simp only [implies_true, kp_foldl, kp_foldl_pair, kp_mk, kp_eta, kp_ite, ite_self, validUpdate_keeps, pendAll_keeps, grainTick_keeps, readyAnswer_keeps, resetsEnded_keeps, commitSee_keeps, sweepSee_keeps, shareLearns_keeps, radioLinks_keeps, holdUpdate_keeps, admitLow_keeps, admitHigh_keeps, keepaliveSend_keeps, poolEmpty_keeps, creditBoundary_keeps] | split | (with_reducible refine (kp_foldl _ _ _ ?_).trans ?_) | (with_reducible refine (kp_foldl_pair _ _ _ ?_).trans ?_) | intro _ _)

@[simp] theorem portUp_keeps (s : State) (p : Nat) (g : Grain) : kp (portUp s p g) = kp s := by
  unfold portUp
  repeat' (first | (with_reducible rfl) | simp only [implies_true, kp_foldl, kp_foldl_pair, kp_mk, kp_eta, kp_ite, ite_self, setPort_keeps, setSched_keeps, raiseAt_keeps] | split | (with_reducible refine (kp_foldl _ _ _ ?_).trans ?_) | (with_reducible refine (kp_foldl_pair _ _ _ ?_).trans ?_) | intro _ _)

@[simp] theorem portDown_keeps (s : State) (p : Nat) (cause : BitVec 4) (g : Grain) : kp (portDown s p cause g) = kp s := by
  unfold portDown
  repeat' (first | (with_reducible rfl) | simp only [implies_true, kp_foldl, kp_foldl_pair, kp_mk, kp_eta, kp_ite, ite_self, setPort_keeps, flushPort_keeps, setTsu_keeps, setSched_keeps, raiseAt_keeps] | split | (with_reducible refine (kp_foldl _ _ _ ?_).trans ?_) | (with_reducible refine (kp_foldl_pair _ _ _ ?_).trans ?_) | intro _ _)

@[simp] theorem linkApply_keeps (s : State) (p : Nat) (up : Bool) (cause : BitVec 4) (g : Grain) : kp (linkApply s p up cause g) = kp s := by
  unfold linkApply
  repeat' (first | (with_reducible rfl) | simp only [implies_true, kp_foldl, kp_foldl_pair, kp_mk, kp_eta, kp_ite, ite_self, portUp_keeps, portDown_keeps, setRadio_keeps] | split | (with_reducible refine (kp_foldl _ _ _ ?_).trans ?_) | (with_reducible refine (kp_foldl_pair _ _ _ ?_).trans ?_) | intro _ _)

@[simp] theorem linkDecision_keeps (s : State) : kp (linkDecision s) = kp s := by
  unfold linkDecision
  repeat' (first | (with_reducible rfl) | simp only [implies_true, kp_foldl, kp_foldl_pair, kp_mk, kp_eta, kp_ite, ite_self, linkApply_keeps] | split | (refine Eq.trans (takeHead_keeps _ _ _ ‹takeHead _ _ = some _›) ?_) | (with_reducible refine (kp_foldl _ _ _ ?_).trans ?_) | (with_reducible refine (kp_foldl_pair _ _ _ ?_).trans ?_) | intro _ _)

@[simp] theorem learnDecision_keeps (s : State) : kp (learnDecision s) = kp s := by
  unfold learnDecision
  repeat' (first | (with_reducible rfl) | simp only [implies_true, kp_foldl, kp_foldl_pair, kp_mk, kp_eta, kp_ite, ite_self, learnApply_keeps] | split | (refine Eq.trans (takeHead_keeps _ _ _ ‹takeHead _ _ = some _›) ?_) | (with_reducible refine (kp_foldl _ _ _ ?_).trans ?_) | (with_reducible refine (kp_foldl_pair _ _ _ ?_).trans ?_) | intro _ _)

@[simp] theorem ageingSweepStep_keeps (s : State) : kp (ageingSweepStep s) = kp s := by
  unfold ageingSweepStep
  repeat' (first | (with_reducible rfl) | simp only [implies_true, kp_foldl, kp_foldl_pair, kp_mk, kp_eta, kp_ite, ite_self, sweepApply_keeps] | split | (refine Eq.trans (takeHead_keeps _ _ _ ‹takeHead _ _ = some _›) ?_) | (with_reducible refine (kp_foldl _ _ _ ?_).trans ?_) | (with_reducible refine (kp_foldl_pair _ _ _ ?_).trans ?_) | intro _ _)

@[simp] theorem headApply_keeps (s : State) : kp (headApply s) = kp s := by
  unfold headApply
  repeat' (first | (with_reducible rfl) | simp only [implies_true, kp_foldl, kp_foldl_pair, kp_mk, kp_eta, kp_ite, ite_self, prmStoreAdmit_keeps, faultDetected_keeps, ptnReset_keeps, partitionReset_keeps, linkDecision_keeps, commitApply_keeps, learnDecision_keeps, ageingSweepStep_keeps, commandArrival_keeps] | split | (with_reducible refine (kp_foldl _ _ _ ?_).trans ?_) | (with_reducible refine (kp_foldl_pair _ _ _ ?_).trans ?_) | intro _ _)

@[simp] theorem backlogApply_keeps (s : State) : kp (backlogApply s) = kp s := by
  unfold backlogApply
  repeat' (first | (with_reducible rfl) | simp only [implies_true, kp_foldl, kp_foldl_pair, kp_mk, kp_eta, kp_ite, ite_self, headApply_keeps] | split | (with_reducible refine (kp_foldl _ _ _ ?_).trans ?_) | (with_reducible refine (kp_foldl_pair _ _ _ ?_).trans ?_) | intro _ _)

@[simp] theorem latchCount_keeps (s : State) : kp (latchCount s) = kp s := by
  unfold latchCount
  repeat' (first | (with_reducible rfl) | simp only [implies_true, kp_foldl, kp_foldl_pair, kp_mk, kp_eta, kp_ite, ite_self, count_keeps] | split | (with_reducible refine (kp_foldl _ _ _ ?_).trans ?_) | (with_reducible refine (kp_foldl_pair _ _ _ ?_).trans ?_) | intro _ _)

@[simp] theorem grTake_keeps (s : State) (off : Nat) : kp (grTake s off) = kp s := by
  unfold grTake
  repeat' (first | (with_reducible rfl) | simp only [implies_true, kp_foldl, kp_foldl_pair, kp_mk, kp_eta, kp_ite, ite_self, latchCount_keeps] | split | (with_reducible refine (kp_foldl _ _ _ ?_).trans ?_) | (with_reducible refine (kp_foldl_pair _ _ _ ?_).trans ?_) | intro _ _)

end Sys2Proof.Machine
end

