-- ==== Sys2Proof/Laws/KeepsRegs.lean ====
section
/-! SUPPORT. The operations of Machine/Regs.lean keep the fuses and the queue of commands. -/

namespace Sys2Proof.Machine

@[simp] theorem devWrite_keeps (s : State) (a : Nat) (v : W32) : kp (devWrite s a v) = kp s := by
  unfold devWrite
  repeat' (first | (with_reducible rfl) | simp only [implies_true, kp_foldl, kp_foldl_pair, kp_mk, kp_eta, kp_ite, ite_self, bootLoadWrite_keeps] | split | (with_reducible refine (kp_foldl _ _ _ ?_).trans ?_) | (with_reducible refine (kp_foldl_pair _ _ _ ?_).trans ?_) | intro _ _)

@[simp] theorem prsWrite_keeps (s : State) (off : Nat) (v : W32) : kp (prsWrite s off v) = kp s := by
  unfold prsWrite
  repeat' (first | (with_reducible rfl) | simp only [implies_true, kp_foldl, kp_foldl_pair, kp_mk, kp_eta, kp_ite, ite_self] | split | (with_reducible refine (kp_foldl _ _ _ ?_).trans ?_) | (with_reducible refine (kp_foldl_pair _ _ _ ?_).trans ?_) | intro _ _)

@[simp] theorem prsTake_keeps (s : State) (off : Nat) : kp (prsTake s off) = kp s := by
  unfold prsTake
  repeat' (first | (with_reducible rfl) | simp only [implies_true, kp_foldl, kp_foldl_pair, kp_mk, kp_eta, kp_ite, ite_self, freeNext_keeps] | split | (with_reducible refine (kp_foldl _ _ _ ?_).trans ?_) | (with_reducible refine (kp_foldl_pair _ _ _ ?_).trans ?_) | intro _ _)

@[simp] theorem feTake_keeps (s : State) (e off : Nat) : kp (feTake s e off) = kp s := by
  unfold feTake
  repeat' (first | (with_reducible rfl) | simp only [implies_true, kp_foldl, kp_foldl_pair, kp_mk, kp_eta, kp_ite, ite_self, setEng_keeps] | split | (with_reducible refine (kp_foldl _ _ _ ?_).trans ?_) | (with_reducible refine (kp_foldl_pair _ _ _ ?_).trans ?_) | intro _ _)

@[simp] theorem relTake_keeps (s : State) (off : Nat) : kp (relTake s off) = kp s := by
  unfold relTake
  repeat' (first | (with_reducible rfl) | simp only [implies_true, kp_foldl, kp_foldl_pair, kp_mk, kp_eta, kp_ite, ite_self, setQueue_keeps] | split | (with_reducible refine (kp_foldl _ _ _ ?_).trans ?_) | (with_reducible refine (kp_foldl_pair _ _ _ ?_).trans ?_) | intro _ _)

@[simp] theorem windowTake_keeps (s : State) (n off : Nat) : kp (windowTake s n off) = kp s := by
  unfold windowTake
  repeat' (first | (with_reducible rfl) | simp only [implies_true, kp_foldl, kp_foldl_pair, kp_mk, kp_eta, kp_ite, ite_self, winTake_keeps, queueAreaTake_keeps, viewTake_keeps, tsuTake_keeps] | split | (with_reducible refine (kp_foldl _ _ _ ?_).trans ?_) | (with_reducible refine (kp_foldl_pair _ _ _ ?_).trans ?_) | intro _ _)

@[simp] theorem regTake_keeps (s : State) (a : Nat) : kp (regTake s a) = kp s := by
  unfold regTake
  repeat' (first | (with_reducible rfl) | simp only [implies_true, kp_foldl, kp_foldl_pair, kp_mk, kp_eta, kp_ite, ite_self, grTake_keeps, latchTime_keeps, latchFreq_keeps, smpPop_keeps, tsuTake_keeps, evcPop_keeps, evcStsTake_keeps, prtTake_keeps, prsTake_keeps, camTake_keeps, fdbRegTake_keeps, qmTake_keeps, relTake_keeps, feTake_keeps, mtTake_keeps, cqCtlTake_keeps, cfgTake_keeps, mdmTake_keeps, tdmTake_keeps, pkaTake_keeps, pkaDpTake_keeps, ccTake_keeps, dbgTake_keeps, pwrTake_keeps, hupTake_keeps, prmTake_keeps, fcuTake_keeps, twnTake_keeps, windowTake_keeps] | split | (with_reducible refine (kp_foldl _ _ _ ?_).trans ?_) | (with_reducible refine (kp_foldl_pair _ _ _ ?_).trans ?_) | intro _ _)

@[simp] theorem tbWrite_keeps (s : State) (off : Nat) (v : W32) : kp (tbWrite s off v) = kp s := by
  unfold tbWrite
  repeat' (first | (with_reducible rfl) | simp only [implies_true, kp_foldl, kp_foldl_pair, kp_mk, kp_eta, kp_ite, ite_self, freqLoWrite_keeps, freqHiWrite_keeps, refCtlWrite_keeps, pendWrite_keeps, errEstWrite_keeps] | split | (with_reducible refine (kp_foldl _ _ _ ?_).trans ?_) | (with_reducible refine (kp_foldl_pair _ _ _ ?_).trans ?_) | intro _ _)

@[simp] theorem windowWrite_keeps (s : State) (m : Master) (n off : Nat) (v : W32) : kp (windowWrite s m n off v) = kp s := by
  unfold windowWrite
  repeat' (first | (with_reducible rfl) | simp only [implies_true, kp_foldl, kp_foldl_pair, kp_mk, kp_eta, kp_ite, ite_self, winReset_keeps, queueAreaWrite_keeps] | split | (with_reducible refine (kp_foldl _ _ _ ?_).trans ?_) | (with_reducible refine (kp_foldl_pair _ _ _ ?_).trans ?_) | intro _ _)

@[simp] theorem registerRead_keeps (m : Master) (a : Nat) (s : State) : kp (registerRead m a s) = kp s := by
  unfold registerRead
  repeat' (first | (with_reducible rfl) | simp only [implies_true, kp_foldl, kp_foldl_pair, kp_mk, kp_eta, kp_ite, ite_self, readBack_keeps, refuse_keeps, regTake_keeps] | split | (with_reducible refine (kp_foldl _ _ _ ?_).trans ?_) | (with_reducible refine (kp_foldl_pair _ _ _ ?_).trans ?_) | intro _ _)

@[simp] theorem dbgResult_keeps (s : State) (st : BitVec 5) (v : W32) : kp (dbgResult s st v) = kp s := by
  unfold dbgResult
  repeat' (first | (with_reducible rfl) | simp only [implies_true, kp_foldl, kp_foldl_pair, kp_mk, kp_eta, kp_ite, ite_self] | split | (with_reducible refine (kp_foldl _ _ _ ?_).trans ?_) | (with_reducible refine (kp_foldl_pair _ _ _ ?_).trans ?_) | intro _ _)

@[simp] theorem peekControl_keeps (s : State) (a : Nat) : kp (peekControl s a) = kp s := by
  unfold peekControl
  repeat' (first | (with_reducible rfl) | simp only [implies_true, kp_foldl, kp_foldl_pair, kp_mk, kp_eta, kp_ite, ite_self, dbgResult_keeps, refuse_keeps] | split | (with_reducible refine (kp_foldl _ _ _ ?_).trans ?_) | (with_reducible refine (kp_foldl_pair _ _ _ ?_).trans ?_) | intro _ _)

@[simp] theorem peekCore_keeps (s : State) (a : Nat) : kp (peekCore s a) = kp s := by
  unfold peekCore
  repeat' (first | (with_reducible rfl) | simp only [implies_true, kp_foldl, kp_foldl_pair, kp_mk, kp_eta, kp_ite, ite_self, dbgResult_keeps] | split | (with_reducible refine (kp_foldl _ _ _ ?_).trans ?_) | (with_reducible refine (kp_foldl_pair _ _ _ ?_).trans ?_) | intro _ _)

@[simp] theorem debugPeek_keeps (core : Bool) (a : Nat) (s : State) : kp (debugPeek core a s) = kp s := by
  unfold debugPeek
  repeat' (first | (with_reducible rfl) | simp only [implies_true, kp_foldl, kp_foldl_pair, kp_mk, kp_eta, kp_ite, ite_self, dbgResult_keeps, peekCore_keeps, peekControl_keeps] | split | (with_reducible refine (kp_foldl _ _ _ ?_).trans ?_) | (with_reducible refine (kp_foldl_pair _ _ _ ?_).trans ?_) | intro _ _)

@[simp] theorem debugTake_keeps (a : Nat) (s : State) : kp (debugTake a s) = kp s := by
  unfold debugTake
  repeat' (first | (with_reducible rfl) | simp only [implies_true, kp_foldl, kp_foldl_pair, kp_mk, kp_eta, kp_ite, ite_self, dbgResult_keeps, refuse_keeps, dbgLog_keeps, regTake_keeps] | split | (with_reducible refine (kp_foldl _ _ _ ?_).trans ?_) | (with_reducible refine (kp_foldl_pair _ _ _ ?_).trans ?_) | intro _ _)

end Sys2Proof.Machine
end

