-- ==== Sys2Proof/Laws/Fuses.lean ====
section
/-! SUPPORT. The operations that advance the SVN floor: they raise it or keep it, and keep the other fuses and the queue. -/

namespace Sys2Proof.Machine

/-- The floor of `t` is that of `s` or higher; the revoke bits, the board hash and the queue are those of `s`. -/
def grows (s t : State) : Prop :=
  s.fuse.floor.toNat ≤ t.fuse.floor.toNat ∧ t.fuse.revoked = s.fuse.revoked ∧ t.fuse.boardHash = s.fuse.boardHash ∧
    t.pending = s.pending

/-- An operation that keeps the fuses and the queue raises nothing. -/
theorem grows_of_kp {s t : State} (h : kp t = kp s) : grows s t :=
  ⟨by rw [floor_of_kp h], revoked_of_kp h, boardHash_of_kp h, pending_of_kp h⟩

/-- Raising is transitive. -/
theorem grows_trans {s t u : State} (h : grows s t) (k : grows t u) : grows s u :=
  ⟨h.1.trans k.1, k.2.1.trans h.2.1, k.2.2.1.trans h.2.2.1, k.2.2.2.trans h.2.2.2⟩

/-- Nothing raises nothing. -/
theorem grows_refl (s : State) : grows s s := grows_of_kp rfl

/-- A choice of two states that raise the floor or keep it. -/
theorem grows_ite {c : Prop} [Decidable c] {s t u : State} (h : grows s t) (k : grows s u) : grows s (if c then t else u) := by
  split
  · exact h
  · exact k

/-- The first kick of an image with ADVANCE raises the floor. -/
theorem svnAdvance_grows (s : State) : grows s (svnAdvance s) := by
  unfold svnAdvance
  split
  · refine ⟨?_, rfl, rfl, rfl⟩
    have h1 := s.fuse.floor.isLt
    have h2 := s.cc.svn.isLt
    show s.fuse.floor.toNat ≤ (BitVec.ofNat 6 (max s.fuse.floor.toNat s.cc.svn.toNat)).toNat
    rw [BitVec.toNat_ofNat, Nat.mod_eq_of_lt (by omega)]
    omega
  · exact grows_refl s

/-- A write of CC_WDOG. -/
theorem wdogWrite_grows (s : State) (v : W32) : grows s (wdogWrite s v) := by
  unfold wdogWrite
  have h : ∀ u : State, kp u = kp s → grows s (if fld v 16 16 = 0x5A17 then
      svnAdvance { u with cc := { u.cc with wdCount := 0, wdForce := u.cc.wdTime } } else u) := by
    intro u hu
    split
    · exact grows_trans (grows_of_kp (by rw [kp_mk, kp_eta, hu])) (svnAdvance_grows _)
    · exact grows_of_kp hu
  exact h _ (by rw [kp_ite, kp_mk, kp_eta, ite_self])

/-- A write of a register of the cluster. -/
theorem ccWrite_grows (s : State) (off : Nat) (v : W32) (d : Bool) : grows s (ccWrite s off v d) := by
  unfold ccWrite
  split
  · exact grows_of_kp (by rw [kp_ite, kp_mk, kp_eta, ite_self])
  · split
    · exact wdogWrite_grows s v
    · refine grows_of_kp ?_
      repeat' (first | (with_reducible rfl) | simp only [kp_mk, kp_eta, kp_ite, ite_self, fuseProg_keeps, semWrite_keeps] | split)

/-- A write of any register. -/
theorem regEffect_grows (s : State) (m : Master) (a : Nat) (v : W32) : grows s (regEffect s m a v) := by
  unfold regEffect
  repeat' (first
    | (with_reducible refine grows_ite ?_ ?_)
    | (with_reducible exact grows_refl s)
    | (with_reducible exact ccWrite_grows s _ v false)
    | (refine grows_of_kp ?_; simp only [kp_mk, kp_eta, kp_ite, ite_self, devWrite_keeps, tbWrite_keeps, pendWrite_keeps, tsuWrite_keeps,
        touWrite_keeps, irigWrite_keeps, prsWrite_keeps, qmWrite_keeps, coreWrite_keeps, cqCtlWrite_keeps, bindWrite_keeps,
        ptnStsWrite_keeps, mdmWrite_keeps, tdmWrite_keeps, pkaDpWrite_keeps, dbgWrite_keeps, fcuCtlWrite_keeps,
        twnCtlWrite_keeps, twnShareWrite_keeps, cascCtlWrite_keeps, windowWrite_keeps]; done))

/-- REGISTER_WRITE. -/
theorem registerWrite_grows (m : Master) (a size : Nat) (v : W32) (s : State) : grows s (registerWrite m a size v s) := by
  unfold registerWrite
  split
  · exact grows_of_kp (refuse_keeps _ _ _ _ _)
  · exact regEffect_grows s m a v

/-- CC_WDOG_KICK. -/
theorem wdogKick_grows (m : Master) (v : W32) (s : State) : grows s (regWr s m 0x07000020 fun s => wdogWrite s v) := by
  unfold regWr
  split
  · exact grows_of_kp (refuse_keeps _ _ _ _ _)
  · exact wdogWrite_grows s v

/-- DEBUG_WRITE. -/
theorem debugWrite_grows (core : Bool) (a : Nat) (v : W32) (s : State) : grows s (debugWrite core a v s) := by
  unfold debugWrite
  split
  · exact grows_of_kp (dbgResult_keeps _ _ _)
  · split
    · refine grows_of_kp ?_
      rw [kp_ite, dbgResult_keeps, dbgResult_keeps, dbgLog_keeps, coreWrite__keeps, ite_self]
    · split
      · exact grows_of_kp (by rw [dbgResult_keeps, refuse_keeps])
      · have h : ∀ t, grows s t → grows s (dbgResult (dbgLog t a true) 0 0) := fun t ht =>
          grows_trans ht (grows_of_kp (by rw [dbgResult_keeps, dbgLog_keeps]))
        refine h _ ?_
        split
        · exact ccWrite_grows s _ v true
        · exact regEffect_grows s .cc a v

end Sys2Proof.Machine
end

