-- ==== Sys2Proof/Laws/GrainKeeps.lean ====
section
/-! SUPPORT. The count of grains, the lock and the measured deviation: everything that a grain boundary does after it has counted
keeps the three. -/

namespace Sys2Proof.Machine

/-- The count of grains, the lock and the deviation of TB_XO. -/
def gp (s : State) : Grain × Bool × BitVec 12 := (s.gr.count, s.gr.lock, s.gr.xoPpm)

/-- A state written field by field has the three of the sequencer state it names. -/
@[simp] theorem gp_mk (dev bus gr tb evc tou irig tsu eng core ptn bind_ cq cam fdb cfg t2 mt qm ports fwd radio pka cc fuse dbg pwr hup
    prm fcu pmc twn out freeCtr pending) :
    gp (State.mk dev bus gr tb evc tou irig tsu eng core ptn bind_ cq cam fdb cfg t2 mt qm ports fwd radio pka cc fuse dbg pwr hup
      prm fcu pmc twn out freeCtr pending) = (gr.count, gr.lock, gr.xoPpm) := Eq.trans rfl rfl

/-- The three of one state are that state's. -/
@[simp] theorem gp_eta (s : State) : (s.gr.count, s.gr.lock, s.gr.xoPpm) = gp s := Eq.trans rfl rfl

/-- A choice of two states. -/
@[simp] theorem gp_ite (c : Prop) [Decidable c] (s t : State) : gp (if c then s else t) = if c then gp s else gp t := apply_ite _ _ _ _

/-- A fold whose every step keeps the three keeps them. -/
theorem gp_foldl {α : Type} (f : State → α → State) (l : List α) (s : State) (h : ∀ t a, gp (f t a) = gp t) :
    gp (l.foldl f s) = gp s := by
  induction l generalizing s with
  | nil => rfl
  | cons a r ih => rw [List.foldl_cons, ih, h]

/-- A fold that carries a value beside the state. -/
theorem gp_foldl_pair {α β : Type} (f : State × β → α → State × β) (l : List α) (x : State × β)
    (h : ∀ t a, gp (f t a).1 = gp t.1) : gp (l.foldl f x).1 = gp x.1 := by
  induction l generalizing x with
  | nil => rfl
  | cons a r ih => rw [List.foldl_cons, ih, h]

@[simp] theorem emit_grain (s : State) (o : Output) : gp (emit s o) = gp s := by
  unfold emit
  repeat' (first | (with_reducible rfl) | simp only [implies_true, gp_foldl, gp_foldl_pair, gp_mk, gp_eta, gp_ite, ite_self] | split | (with_reducible refine (gp_foldl _ _ _ ?_).trans ?_) | (with_reducible refine (gp_foldl_pair _ _ _ ?_).trans ?_) | intro _ _)

@[simp] theorem see_grain (s : State) (cls idx : Nat) (d : Decision) : gp (see s cls idx d) = gp s := by
  unfold see
  repeat' (first | (with_reducible rfl) | simp only [implies_true, gp_foldl, gp_foldl_pair, gp_mk, gp_eta, gp_ite, ite_self] | split | (with_reducible refine (gp_foldl _ _ _ ?_).trans ?_) | (with_reducible refine (gp_foldl_pair _ _ _ ?_).trans ?_) | intro _ _)

@[simp] theorem seeNow_grain (s : State) (cls idx : Nat) (d : Decision) : gp (seeNow s cls idx d) = gp s := by
  unfold seeNow
  repeat' (first | (with_reducible rfl) | simp only [implies_true, gp_foldl, gp_foldl_pair, gp_mk, gp_eta, gp_ite, ite_self] | split | (with_reducible refine (gp_foldl _ _ _ ?_).trans ?_) | (with_reducible refine (gp_foldl_pair _ _ _ ?_).trans ?_) | intro _ _)

@[simp] theorem setEvc_grain (s : State) (n : Nat) (x : Evc) : gp (setEvc s n x) = gp s := by
  unfold setEvc
  repeat' (first | (with_reducible rfl) | simp only [implies_true, gp_foldl, gp_foldl_pair, gp_mk, gp_eta, gp_ite, ite_self] | split | (with_reducible refine (gp_foldl _ _ _ ?_).trans ?_) | (with_reducible refine (gp_foldl_pair _ _ _ ?_).trans ?_) | intro _ _)

@[simp] theorem setTou_grain (s : State) (k : Nat) (x : Tou) : gp (setTou s k x) = gp s := by
  unfold setTou
  repeat' (first | (with_reducible rfl) | simp only [implies_true, gp_foldl, gp_foldl_pair, gp_mk, gp_eta, gp_ite, ite_self] | split | (with_reducible refine (gp_foldl _ _ _ ?_).trans ?_) | (with_reducible refine (gp_foldl_pair _ _ _ ?_).trans ?_) | intro _ _)

@[simp] theorem setTsu_grain (s : State) (p : Nat) (x : Tsu) : gp (setTsu s p x) = gp s := by
  unfold setTsu
  repeat' (first | (with_reducible rfl) | simp only [implies_true, gp_foldl, gp_foldl_pair, gp_mk, gp_eta, gp_ite, ite_self] | split | (with_reducible refine (gp_foldl _ _ _ ?_).trans ?_) | (with_reducible refine (gp_foldl_pair _ _ _ ?_).trans ?_) | intro _ _)

@[simp] theorem setEng_grain (s : State) (e : Nat) (x : Eng) : gp (setEng s e x) = gp s := by
  unfold setEng
  repeat' (first | (with_reducible rfl) | simp only [implies_true, gp_foldl, gp_foldl_pair, gp_mk, gp_eta, gp_ite, ite_self] | split | (with_reducible refine (gp_foldl _ _ _ ?_).trans ?_) | (with_reducible refine (gp_foldl_pair _ _ _ ?_).trans ?_) | intro _ _)

@[simp] theorem setPtn_grain (s : State) (n : Nat) (x : Ptn) : gp (setPtn s n x) = gp s := by
  unfold setPtn
  repeat' (first | (with_reducible rfl) | simp only [implies_true, gp_foldl, gp_foldl_pair, gp_mk, gp_eta, gp_ite, ite_self] | split | (with_reducible refine (gp_foldl _ _ _ ?_).trans ?_) | (with_reducible refine (gp_foldl_pair _ _ _ ?_).trans ?_) | intro _ _)

@[simp] theorem setPort_grain (s : State) (p : Nat) (x : Port) : gp (setPort s p x) = gp s := by
  unfold setPort
  repeat' (first | (with_reducible rfl) | simp only [implies_true, gp_foldl, gp_foldl_pair, gp_mk, gp_eta, gp_ite, ite_self] | split | (with_reducible refine (gp_foldl _ _ _ ?_).trans ?_) | (with_reducible refine (gp_foldl_pair _ _ _ ?_).trans ?_) | intro _ _)

@[simp] theorem setRadio_grain (s : State) (m : Nat) (x : Radio) : gp (setRadio s m x) = gp s := by
  unfold setRadio
  repeat' (first | (with_reducible rfl) | simp only [implies_true, gp_foldl, gp_foldl_pair, gp_mk, gp_eta, gp_ite, ite_self] | split | (with_reducible refine (gp_foldl _ _ _ ?_).trans ?_) | (with_reducible refine (gp_foldl_pair _ _ _ ?_).trans ?_) | intro _ _)

@[simp] theorem setEr_grain (s : State) (n k : Nat) (x : Ring) : gp (setEr s n k x) = gp s := by
  unfold setEr
  repeat' (first | (with_reducible rfl) | simp only [implies_true, gp_foldl, gp_foldl_pair, gp_mk, gp_eta, gp_ite, ite_self] | split | (with_reducible refine (gp_foldl _ _ _ ?_).trans ?_) | (with_reducible refine (gp_foldl_pair _ _ _ ?_).trans ?_) | intro _ _)

@[simp] theorem setQueue_grain (s : State) (p q : Nat) (x : Queue) : gp (setQueue s p q x) = gp s := by
  unfold setQueue
  repeat' (first | (with_reducible rfl) | simp only [implies_true, gp_foldl, gp_foldl_pair, gp_mk, gp_eta, gp_ite, ite_self] | split | (with_reducible refine (gp_foldl _ _ _ ?_).trans ?_) | (with_reducible refine (gp_foldl_pair _ _ _ ?_).trans ?_) | intro _ _)

@[simp] theorem setCtr_grain (s : State) (u c : Nat) (x : Ctr) : gp (setCtr s u c x) = gp s := by
  unfold setCtr
  repeat' (first | (with_reducible rfl) | simp only [implies_true, gp_foldl, gp_foldl_pair, gp_mk, gp_eta, gp_ite, ite_self] | split | (with_reducible refine (gp_foldl _ _ _ ?_).trans ?_) | (with_reducible refine (gp_foldl_pair _ _ _ ?_).trans ?_) | intro _ _)

@[simp] theorem count_grain (s : State) (u sel n pt : Nat) : gp (count s u sel n pt) = gp s := by
  unfold count
  repeat' (first | (with_reducible rfl) | simp only [implies_true, gp_foldl, gp_foldl_pair, gp_mk, gp_eta, gp_ite, ite_self, setCtr_grain] | split | (with_reducible refine (gp_foldl _ _ _ ?_).trans ?_) | (with_reducible refine (gp_foldl_pair _ _ _ ?_).trans ?_) | intro _ _)

@[simp] theorem setPba_grain (s : State) (f v : Nat) (b : Bool) : gp (setPba s f v b) = gp s := by
  unfold setPba
  repeat' (first | (with_reducible rfl) | simp only [implies_true, gp_foldl, gp_foldl_pair, gp_mk, gp_eta, gp_ite, ite_self] | split | (with_reducible refine (gp_foldl _ _ _ ?_).trans ?_) | (with_reducible refine (gp_foldl_pair _ _ _ ?_).trans ?_) | intro _ _)

@[simp] theorem msixSend_grain (s : State) (f v : Nat) : gp (msixSend s f v) = gp s := by
  unfold msixSend
  repeat' (first | (with_reducible rfl) | simp only [implies_true, gp_foldl, gp_foldl_pair, gp_mk, gp_eta, gp_ite, ite_self, setPba_grain, emit_grain] | split | (with_reducible refine (gp_foldl _ _ _ ?_).trans ?_) | (with_reducible refine (gp_foldl_pair _ _ _ ?_).trans ?_) | intro _ _)

@[simp] theorem ringMsix_grain (s : State) (n : Nat) (r : Ring) : gp (ringMsix s n r) = gp s := by
  unfold ringMsix
  repeat' (first | (with_reducible rfl) | simp only [implies_true, gp_foldl, gp_foldl_pair, gp_mk, gp_eta, gp_ite, ite_self, msixSend_grain] | split | (with_reducible refine (gp_foldl _ _ _ ?_).trans ?_) | (with_reducible refine (gp_foldl_pair _ _ _ ?_).trans ?_) | intro _ _)

@[simp] theorem erSignal_grain (s : State) (n k : Nat) : gp (erSignal s n k) = gp s := by
  unfold erSignal
  repeat' (first | (with_reducible rfl) | simp only [implies_true, gp_foldl, gp_foldl_pair, gp_mk, gp_eta, gp_ite, ite_self, ringMsix_grain, setEr_grain] | split | (with_reducible refine (gp_foldl _ _ _ ?_).trans ?_) | (with_reducible refine (gp_foldl_pair _ _ _ ?_).trans ?_) | intro _ _)

@[simp] theorem soeKeep_grain (s : State) (src code data : Nat) (g : Grain) : gp (soeKeep s src code data g) = gp s := by
  unfold soeKeep
  repeat' (first | (with_reducible rfl) | simp only [implies_true, gp_foldl, gp_foldl_pair, gp_mk, gp_eta, gp_ite, ite_self] | split | (with_reducible refine (gp_foldl _ _ _ ?_).trans ?_) | (with_reducible refine (gp_foldl_pair _ _ _ ?_).trans ?_) | intro _ _)

@[simp] theorem erStore_grain (s : State) (n : Nat) (r : Ring) (bytes : List Byte) : gp (erStore s n r bytes) = gp s := by
  unfold erStore
  repeat' (first | (with_reducible rfl) | simp only [implies_true, gp_foldl, gp_foldl_pair, gp_mk, gp_eta, gp_ite, ite_self, emit_grain] | split | (with_reducible refine (gp_foldl _ _ _ ?_).trans ?_) | (with_reducible refine (gp_foldl_pair _ _ _ ?_).trans ?_) | intro _ _)

@[simp] theorem erPut_grain (s : State) (n k src code data : Nat) (g : Grain) : gp (erPut s n k src code data g) = gp s := by
  unfold erPut
  repeat' (first | (with_reducible rfl) | simp only [implies_true, gp_foldl, gp_foldl_pair, gp_mk, gp_eta, gp_ite, ite_self, setEr_grain, erStore_grain, erSignal_grain] | split | (with_reducible refine (gp_foldl _ _ _ ?_).trans ?_) | (with_reducible refine (gp_foldl_pair _ _ _ ?_).trans ?_) | intro _ _)

@[simp] theorem deliverLast_grain (s : State) (n src code data : Nat) (g : Grain) : gp (deliverLast s n src code data g) = gp s := by
  unfold deliverLast
  repeat' (first | (with_reducible rfl) | simp only [implies_true, gp_foldl, gp_foldl_pair, gp_mk, gp_eta, gp_ite, ite_self, erPut_grain] | split | (with_reducible refine (gp_foldl _ _ _ ?_).trans ?_) | (with_reducible refine (gp_foldl_pair _ _ _ ?_).trans ?_) | intro _ _)

@[simp] theorem deliver_grain (s : State) (n src code data : Nat) (g : Grain) : gp (deliver s n src code data g) = gp s := by
  unfold deliver
  repeat' (first | (with_reducible rfl) | simp only [implies_true, gp_foldl, gp_foldl_pair, gp_mk, gp_eta, gp_ite, ite_self, erPut_grain, deliverLast_grain] | split | (with_reducible refine (gp_foldl _ _ _ ?_).trans ?_) | (with_reducible refine (gp_foldl_pair _ _ _ ?_).trans ?_) | intro _ _)

@[simp] theorem raiseAt_grain (s : State) (src code data : Nat) (g : Grain) : gp (raiseAt s src code data g) = gp s := by
  unfold raiseAt
  repeat' (first | (with_reducible rfl) | simp only [implies_true, gp_foldl, gp_foldl_pair, gp_mk, gp_eta, gp_ite, ite_self, deliver_grain, soeKeep_grain] | split | (with_reducible refine (gp_foldl _ _ _ ?_).trans ?_) | (with_reducible refine (gp_foldl_pair _ _ _ ?_).trans ?_) | intro _ _)

@[simp] theorem raise_grain (s : State) (src code data : Nat) : gp (raise s src code data) = gp s := by
  unfold raise
  repeat' (first | (with_reducible rfl) | simp only [implies_true, gp_foldl, gp_foldl_pair, gp_mk, gp_eta, gp_ite, ite_self, raiseAt_grain] | split | (with_reducible refine (gp_foldl _ _ _ ?_).trans ?_) | (with_reducible refine (gp_foldl_pair _ _ _ ?_).trans ?_) | intro _ _)

@[simp] theorem raiseOnceAt_grain (s : State) (kind unit src code data : Nat) (g : Grain) : gp (raiseOnceAt s kind unit src code data g) = gp s := by
  unfold raiseOnceAt
  repeat' (first | (with_reducible rfl) | simp only [implies_true, gp_foldl, gp_foldl_pair, gp_mk, gp_eta, gp_ite, ite_self, raiseAt_grain] | split | (with_reducible refine (gp_foldl _ _ _ ?_).trans ?_) | (with_reducible refine (gp_foldl_pair _ _ _ ?_).trans ?_) | intro _ _)

@[simp] theorem raiseOnce_grain (s : State) (kind unit src code data : Nat) : gp (raiseOnce s kind unit src code data) = gp s := by
  unfold raiseOnce
  repeat' (first | (with_reducible rfl) | simp only [implies_true, gp_foldl, gp_foldl_pair, gp_mk, gp_eta, gp_ite, ite_self, raiseOnceAt_grain] | split | (with_reducible refine (gp_foldl _ _ _ ?_).trans ?_) | (with_reducible refine (gp_foldl_pair _ _ _ ?_).trans ?_) | intro _ _)

@[simp] theorem modCmd_grain (s : State) (id : Nat) (f : Cmd → Cmd) : gp (modCmd s id f) = gp s := by
  unfold modCmd
  repeat' (first | (with_reducible rfl) | simp only [implies_true, gp_foldl, gp_foldl_pair, gp_mk, gp_eta, gp_ite, ite_self] | split | (with_reducible refine (gp_foldl _ _ _ ?_).trans ?_) | (with_reducible refine (gp_foldl_pair _ _ _ ?_).trans ?_) | intro _ _)

@[simp] theorem leaveEngine_grain (s : State) (id : Nat) : gp (leaveEngine s id) = gp s := by
  unfold leaveEngine
  repeat' (first | (with_reducible rfl) | simp only [implies_true, gp_foldl, gp_foldl_pair, gp_mk, gp_eta, gp_ite, ite_self, setEng_grain] | split | (with_reducible refine (gp_foldl _ _ _ ?_).trans ?_) | (with_reducible refine (gp_foldl_pair _ _ _ ?_).trans ?_) | intro _ _)

@[simp] theorem dropCmd_grain (s : State) (id : Nat) : gp (dropCmd s id) = gp s := by
  unfold dropCmd
  repeat' (first | (with_reducible rfl) | simp only [implies_true, gp_foldl, gp_foldl_pair, gp_mk, gp_eta, gp_ite, ite_self, leaveEngine_grain] | split | (with_reducible refine (gp_foldl _ _ _ ?_).trans ?_) | (with_reducible refine (gp_foldl_pair _ _ _ ?_).trans ?_) | intro _ _)

@[simp] theorem completeDup_grain (s : State) (id status : Nat) (dup : Bool) (result : List Byte) : gp (completeDup s id status dup result) = gp s := by
  unfold completeDup
  repeat' (first | (with_reducible rfl) | simp only [implies_true, gp_foldl, gp_foldl_pair, gp_mk, gp_eta, gp_ite, ite_self, leaveEngine_grain, dropCmd_grain, count_grain, modCmd_grain] | split | (with_reducible refine (gp_foldl _ _ _ ?_).trans ?_) | (with_reducible refine (gp_foldl_pair _ _ _ ?_).trans ?_) | intro _ _)

@[simp] theorem complete_grain (s : State) (id status : Nat) (result : List Byte) : gp (complete s id status result) = gp s := by
  unfold complete
  repeat' (first | (with_reducible rfl) | simp only [implies_true, gp_foldl, gp_foldl_pair, gp_mk, gp_eta, gp_ite, ite_self, completeDup_grain] | split | (with_reducible refine (gp_foldl _ _ _ ?_).trans ?_) | (with_reducible refine (gp_foldl_pair _ _ _ ?_).trans ?_) | intro _ _)

@[simp] theorem torvSend_grain (s : State) (type : Nat) (body : List Byte) : gp (torvSend s type body) = gp s := by
  unfold torvSend
  repeat' (first | (with_reducible rfl) | simp only [implies_true, gp_foldl, gp_foldl_pair, gp_mk, gp_eta, gp_ite, ite_self, emit_grain] | split | (with_reducible refine (gp_foldl _ _ _ ?_).trans ?_) | (with_reducible refine (gp_foldl_pair _ _ _ ?_).trans ?_) | intro _ _)

@[simp] theorem timeChange_grain (s : State) (c : TimeChg) : gp (timeChange s c) = gp s := by
  unfold timeChange
  repeat' (first | (with_reducible rfl) | simp only [implies_true, gp_foldl, gp_foldl_pair, gp_mk, gp_eta, gp_ite, ite_self, torvSend_grain] | split | (with_reducible refine (gp_foldl _ _ _ ?_).trans ?_) | (with_reducible refine (gp_foldl_pair _ _ _ ?_).trans ?_) | intro _ _)

@[simp] theorem cascOff_grain (s : State) : gp (cascOff s) = gp s := by
  unfold cascOff
  repeat' (first | (with_reducible rfl) | simp only [implies_true, gp_foldl, gp_foldl_pair, gp_mk, gp_eta, gp_ite, ite_self] | split | (with_reducible refine (gp_foldl _ _ _ ?_).trans ?_) | (with_reducible refine (gp_foldl_pair _ _ _ ?_).trans ?_) | intro _ _)

@[simp] theorem validUpdate_grain (s : State) : gp (validUpdate s) = gp s := by
  unfold validUpdate
  repeat' (first | (with_reducible rfl) | simp only [implies_true, gp_foldl, gp_foldl_pair, gp_mk, gp_eta, gp_ite, ite_self, raise_grain] | split | (with_reducible refine (gp_foldl _ _ _ ?_).trans ?_) | (with_reducible refine (gp_foldl_pair _ _ _ ?_).trans ?_) | intro _ _)

@[simp] theorem holdoverSample_grain (s : State) : gp (holdoverSample s) = gp s := by
  unfold holdoverSample
  repeat' (first | (with_reducible rfl) | simp only [implies_true, gp_foldl, gp_foldl_pair, gp_mk, gp_eta, gp_ite, ite_self, count_grain] | split | (with_reducible refine (gp_foldl _ _ _ ?_).trans ?_) | (with_reducible refine (gp_foldl_pair _ _ _ ?_).trans ?_) | intro _ _)

@[simp] theorem holdoverEntry_grain (s : State) : gp (holdoverEntry s) = gp s := by
  unfold holdoverEntry
  repeat' (first | (with_reducible rfl) | simp only [implies_true, gp_foldl, gp_foldl_pair, gp_mk, gp_eta, gp_ite, ite_self, holdoverSample_grain, timeChange_grain, raise_grain] | split | (with_reducible refine (gp_foldl _ _ _ ?_).trans ?_) | (with_reducible refine (gp_foldl_pair _ _ _ ?_).trans ?_) | intro _ _)

@[simp] theorem refCtlApply_grain (s : State) (v : W32) : gp (refCtlApply s v) = gp s := by
  unfold refCtlApply
  repeat' (first | (with_reducible rfl) | simp only [implies_true, gp_foldl, gp_foldl_pair, gp_mk, gp_eta, gp_ite, ite_self, count_grain] | split | (with_reducible refine (gp_foldl _ _ _ ?_).trans ?_) | (with_reducible refine (gp_foldl_pair _ _ _ ?_).trans ?_) | intro _ _)

@[simp] theorem validApply_grain (s : State) (v : W32) : gp (validApply s v) = gp s := by
  unfold validApply
  repeat' (first | (with_reducible rfl) | simp only [implies_true, gp_foldl, gp_foldl_pair, gp_mk, gp_eta, gp_ite, ite_self] | split | (with_reducible refine (gp_foldl _ _ _ ?_).trans ?_) | (with_reducible refine (gp_foldl_pair _ _ _ ?_).trans ?_) | intro _ _)

@[simp] theorem evcCtlApply_grain (s : State) (n : Nat) (v : W32) : gp (evcCtlApply s n v) = gp s := by
  unfold evcCtlApply
  repeat' (first | (with_reducible rfl) | simp only [implies_true, gp_foldl, gp_foldl_pair, gp_mk, gp_eta, gp_ite, ite_self, setEvc_grain] | split | (with_reducible refine (gp_foldl _ _ _ ?_).trans ?_) | (with_reducible refine (gp_foldl_pair _ _ _ ?_).trans ?_) | intro _ _)

@[simp] theorem touAdjusted_grain (s : State) (t : Nat) : gp (touAdjusted s t) = gp s := by
  unfold touAdjusted
  repeat' (first | (with_reducible rfl) | simp only [implies_true, gp_foldl, gp_foldl_pair, gp_mk, gp_eta, gp_ite, ite_self, setTou_grain, emit_grain] | split | (with_reducible refine (gp_foldl _ _ _ ?_).trans ?_) | (with_reducible refine (gp_foldl_pair _ _ _ ?_).trans ?_) | intro _ _)

@[simp] theorem adjustTo_grain (s : State) (t : Nat) (delta : Int) : gp (adjustTo s t delta) = gp s := by
  unfold adjustTo
  repeat' (first | (with_reducible rfl) | simp only [implies_true, gp_foldl, gp_foldl_pair, gp_mk, gp_eta, gp_ite, ite_self, count_grain, touAdjusted_grain] | split | (with_reducible refine (gp_foldl _ _ _ ?_).trans ?_) | (with_reducible refine (gp_foldl_pair _ _ _ ?_).trans ?_) | intro _ _)

@[simp] theorem applyStep_grain (s : State) (d : Int) : gp (applyStep s d) = gp s := by
  unfold applyStep
  repeat' (first | (with_reducible rfl) | simp only [implies_true, gp_foldl, gp_foldl_pair, gp_mk, gp_eta, gp_ite, ite_self, adjustTo_grain] | split | (with_reducible refine (gp_foldl _ _ _ ?_).trans ?_) | (with_reducible refine (gp_foldl_pair _ _ _ ?_).trans ?_) | intro _ _)

@[simp] theorem applySet_grain (s : State) (v : Nat) : gp (applySet s v) = gp s := by
  unfold applySet
  repeat' (first | (with_reducible rfl) | simp only [implies_true, gp_foldl, gp_foldl_pair, gp_mk, gp_eta, gp_ite, ite_self, adjustTo_grain, validUpdate_grain] | split | (with_reducible refine (gp_foldl _ _ _ ?_).trans ?_) | (with_reducible refine (gp_foldl_pair _ _ _ ?_).trans ?_) | intro _ _)

@[simp] theorem timeChgApply_grain (s : State) (c : TimeChg) : gp (timeChgApply s c) = gp s := by
  unfold timeChgApply
  repeat' (first | (with_reducible rfl) | simp only [implies_true, gp_foldl, gp_foldl_pair, gp_mk, gp_eta, gp_ite, ite_self, applyStep_grain, applySet_grain] | split | (with_reducible refine (gp_foldl _ _ _ ?_).trans ?_) | (with_reducible refine (gp_foldl_pair _ _ _ ?_).trans ?_) | intro _ _)

@[simp] theorem tbBoundary_grain (s : State) : gp (tbBoundary s) = gp s := by
  unfold tbBoundary
  repeat' (first | (with_reducible rfl) | simp only [implies_true, gp_foldl, gp_foldl_pair, gp_mk, gp_eta, gp_ite, ite_self, timeChgApply_grain, refCtlApply_grain, holdoverEntry_grain] | split | (with_reducible refine (gp_foldl _ _ _ ?_).trans ?_) | (with_reducible refine (gp_foldl_pair _ _ _ ?_).trans ?_) | intro _ _)

@[simp] theorem presentLink_grain (s : State) (p : Nat) (up : Bool) (cause : Nat) : gp (presentLink s p up cause) = gp s := by
  unfold presentLink
  repeat' (first | (with_reducible rfl) | simp only [implies_true, gp_foldl, gp_foldl_pair, gp_mk, gp_eta, gp_ite, ite_self, see_grain] | split | (with_reducible refine (gp_foldl _ _ _ ?_).trans ?_) | (with_reducible refine (gp_foldl_pair _ _ _ ?_).trans ?_) | intro _ _)

@[simp] theorem upHold_grain (s : State) (p : Nat) : gp (upHold s p) = gp s := by
  unfold upHold
  repeat' (first | (with_reducible rfl) | simp only [implies_true, gp_foldl, gp_foldl_pair, gp_mk, gp_eta, gp_ite, ite_self, presentLink_grain, setPort_grain] | split | (with_reducible refine (gp_foldl _ _ _ ?_).trans ?_) | (with_reducible refine (gp_foldl_pair _ _ _ ?_).trans ?_) | intro _ _)

@[simp] theorem downHold_grain (s : State) (p : Nat) : gp (downHold s p) = gp s := by
  unfold downHold
  repeat' (first | (with_reducible rfl) | simp only [implies_true, gp_foldl, gp_foldl_pair, gp_mk, gp_eta, gp_ite, ite_self, presentLink_grain, setPort_grain] | split | (with_reducible refine (gp_foldl _ _ _ ?_).trans ?_) | (with_reducible refine (gp_foldl_pair _ _ _ ?_).trans ?_) | intro _ _)

@[simp] theorem linkUnsee_grain (s : State) (p : Nat) : gp (linkUnsee s p) = gp s := by
  unfold linkUnsee
  repeat' (first | (with_reducible rfl) | simp only [implies_true, gp_foldl, gp_foldl_pair, gp_mk, gp_eta, gp_ite, ite_self] | split | (with_reducible refine (gp_foldl _ _ _ ?_).trans ?_) | (with_reducible refine (gp_foldl_pair _ _ _ ?_).trans ?_) | intro _ _)

@[simp] theorem adminDecision_grain (s : State) (p : Nat) (st : Nat) : gp (adminDecision s p st) = gp s := by
  unfold adminDecision
  repeat' (first | (with_reducible rfl) | simp only [implies_true, gp_foldl, gp_foldl_pair, gp_mk, gp_eta, gp_ite, ite_self, linkUnsee_grain, presentLink_grain] | split | (with_reducible refine (gp_foldl _ _ _ ?_).trans ?_) | (with_reducible refine (gp_foldl_pair _ _ _ ?_).trans ?_) | intro _ _)

@[simp] theorem modeDecision_grain (s : State) (p : Nat) (st : Nat) : gp (modeDecision s p st) = gp s := by
  unfold modeDecision
  repeat' (first | (with_reducible rfl) | simp only [implies_true, gp_foldl, gp_foldl_pair, gp_mk, gp_eta, gp_ite, ite_self, seeNow_grain] | split | (with_reducible refine (gp_foldl _ _ _ ?_).trans ?_) | (with_reducible refine (gp_foldl_pair _ _ _ ?_).trans ?_) | intro _ _)

@[simp] theorem portOff_grain (s : State) (p : Nat) : gp (portOff s p) = gp s := by
  unfold portOff
  repeat' (first | (with_reducible rfl) | simp only [implies_true, gp_foldl, gp_foldl_pair, gp_mk, gp_eta, gp_ite, ite_self, setPort_grain] | split | (with_reducible refine (gp_foldl _ _ _ ?_).trans ?_) | (with_reducible refine (gp_foldl_pair _ _ _ ?_).trans ?_) | intro _ _)

@[simp] theorem portAcquire_grain (s : State) (p : Nat) : gp (portAcquire s p) = gp s := by
  unfold portAcquire
  repeat' (first | (with_reducible rfl) | simp only [implies_true, gp_foldl, gp_foldl_pair, gp_mk, gp_eta, gp_ite, ite_self, modeDecision_grain, setPort_grain] | split | (with_reducible refine (gp_foldl _ _ _ ?_).trans ?_) | (with_reducible refine (gp_foldl_pair _ _ _ ?_).trans ?_) | intro _ _)

@[simp] theorem portCtlApply_grain (s : State) (p : Nat) (v : W32) : gp (portCtlApply s p v) = gp s := by
  unfold portCtlApply
  repeat' (first | (with_reducible rfl) | simp only [implies_true, gp_foldl, gp_foldl_pair, gp_mk, gp_eta, gp_ite, ite_self, setPort_grain, upHold_grain, adminDecision_grain, portOff_grain, portAcquire_grain, downHold_grain] | split | (with_reducible refine (gp_foldl _ _ _ ?_).trans ?_) | (with_reducible refine (gp_foldl_pair _ _ _ ?_).trans ?_) | intro _ _)

@[simp] theorem txeqApply_grain (s : State) (p : Nat) (v : W32) : gp (txeqApply s p v) = gp s := by
  unfold txeqApply
  repeat' (first | (with_reducible rfl) | simp only [implies_true, gp_foldl, gp_foldl_pair, gp_mk, gp_eta, gp_ite, ite_self, setPort_grain] | split | (with_reducible refine (gp_foldl _ _ _ ?_).trans ?_) | (with_reducible refine (gp_foldl_pair _ _ _ ?_).trans ?_) | intro _ _)

@[simp] theorem tsuWrite_grain (s : State) (p off : Nat) (v : W32) : gp (tsuWrite s p off v) = gp s := by
  unfold tsuWrite
  repeat' (first | (with_reducible rfl) | simp only [implies_true, gp_foldl, gp_foldl_pair, gp_mk, gp_eta, gp_ite, ite_self, setTsu_grain] | split | (with_reducible refine (gp_foldl _ _ _ ?_).trans ?_) | (with_reducible refine (gp_foldl_pair _ _ _ ?_).trans ?_) | intro _ _)

@[simp] theorem creditBoundary_grain (s : State) : gp (creditBoundary s) = gp s := by
  unfold creditBoundary
  repeat' (first | (with_reducible rfl) | simp only [implies_true, gp_foldl, gp_foldl_pair, gp_mk, gp_eta, gp_ite, ite_self, setQueue_grain] | split | (with_reducible refine (gp_foldl _ _ _ ?_).trans ?_) | (with_reducible refine (gp_foldl_pair _ _ _ ?_).trans ?_) | intro _ _)

@[simp] theorem rsqCtlApply_grain (s : State) (v : W32) : gp (rsqCtlApply s v) = gp s := by
  unfold rsqCtlApply
  repeat' (first | (with_reducible rfl) | simp only [implies_true, gp_foldl, gp_foldl_pair, gp_mk, gp_eta, gp_ite, ite_self] | split | (with_reducible refine (gp_foldl _ _ _ ?_).trans ?_) | (with_reducible refine (gp_foldl_pair _ _ _ ?_).trans ?_) | intro _ _)

@[simp] theorem resetsEnded_grain (s : State) : gp (resetsEnded s) = gp s := by
  unfold resetsEnded
  repeat' (first | (with_reducible rfl) | simp only [implies_true, gp_foldl, gp_foldl_pair, gp_mk, gp_eta, gp_ite, ite_self, setPtn_grain] | split | (with_reducible refine (gp_foldl _ _ _ ?_).trans ?_) | (with_reducible refine (gp_foldl_pair _ _ _ ?_).trans ?_) | intro _ _)

@[simp] theorem readySend_grain (s : State) (g : Grain) (twin align : Bool) : gp (readySend s g twin align) = gp s := by
  unfold readySend
  repeat' (first | (with_reducible rfl) | simp only [implies_true, gp_foldl, gp_foldl_pair, gp_mk, gp_eta, gp_ite, ite_self, torvSend_grain] | split | (with_reducible refine (gp_foldl _ _ _ ?_).trans ?_) | (with_reducible refine (gp_foldl_pair _ _ _ ?_).trans ?_) | intro _ _)

@[simp] theorem setSem_grain (s : State) (k : Nat) (x : Option Sem) : gp (setSem s k x) = gp s := by
  unfold setSem
  repeat' (first | (with_reducible rfl) | simp only [implies_true, gp_foldl, gp_foldl_pair, gp_mk, gp_eta, gp_ite, ite_self] | split | (with_reducible refine (gp_foldl _ _ _ ?_).trans ?_) | (with_reducible refine (gp_foldl_pair _ _ _ ?_).trans ?_) | intro _ _)

@[simp] theorem semPass_grain (s : State) (k : Nat) (r : List Lease) : gp (semPass s k r) = gp s := by
  induction r generalizing s k with
  | nil => rfl
  | cons a r ih => 
    unfold semPass
    repeat' (first | (with_reducible rfl) | simp only [ih, implies_true, gp_foldl, gp_foldl_pair, gp_mk, gp_eta, gp_ite, ite_self, setSem_grain] | split | (with_reducible refine (gp_foldl _ _ _ ?_).trans ?_) | (with_reducible refine (gp_foldl_pair _ _ _ ?_).trans ?_) | intro _ _)

@[simp] theorem semFree_grain (s : State) (k : Nat) : gp (semFree s k) = gp s := by
  unfold semFree
  repeat' (first | (with_reducible rfl) | simp only [implies_true, gp_foldl, gp_foldl_pair, gp_mk, gp_eta, gp_ite, ite_self, semPass_grain] | split | (with_reducible refine (gp_foldl _ _ _ ?_).trans ?_) | (with_reducible refine (gp_foldl_pair _ _ _ ?_).trans ?_) | intro _ _)

@[simp] theorem semAcquire_grain (s : State) (k : Nat) (x : Lease) : gp (semAcquire s k x) = gp s := by
  unfold semAcquire
  repeat' (first | (with_reducible rfl) | simp only [implies_true, gp_foldl, gp_foldl_pair, gp_mk, gp_eta, gp_ite, ite_self, setSem_grain] | split | (with_reducible refine (gp_foldl _ _ _ ?_).trans ?_) | (with_reducible refine (gp_foldl_pair _ _ _ ?_).trans ?_) | intro _ _)

@[simp] theorem semApply_grain (s : State) (k off : Nat) (v : W32) : gp (semApply s k off v) = gp s := by
  unfold semApply
  repeat' (first | (with_reducible rfl) | simp only [implies_true, gp_foldl, gp_foldl_pair, gp_mk, gp_eta, gp_ite, ite_self, semAcquire_grain, semFree_grain, setSem_grain, count_grain] | split | (with_reducible refine (gp_foldl _ _ _ ?_).trans ?_) | (with_reducible refine (gp_foldl_pair _ _ _ ?_).trans ?_) | intro _ _)

@[simp] theorem closeTxn_grain (s : State) (n : Nat) : gp (closeTxn s n) = gp s := by
  unfold closeTxn
  repeat' (first | (with_reducible rfl) | simp only [implies_true, gp_foldl, gp_foldl_pair, gp_mk, gp_eta, gp_ite, ite_self] | split | (with_reducible refine (gp_foldl _ _ _ ?_).trans ?_) | (with_reducible refine (gp_foldl_pair _ _ _ ?_).trans ?_) | intro _ _)

@[simp] theorem failCheck_grain (s : State) (c : Cmd) (f : Nat × Bool) : gp (failCheck s c f) = gp s := by
  unfold failCheck
  repeat' (first | (with_reducible rfl) | simp only [implies_true, gp_foldl, gp_foldl_pair, gp_mk, gp_eta, gp_ite, ite_self, closeTxn_grain, completeDup_grain] | split | (with_reducible refine (gp_foldl _ _ _ ?_).trans ?_) | (with_reducible refine (gp_foldl_pair _ _ _ ?_).trans ?_) | intro _ _)

@[simp] theorem makeReady_grain (s : State) (c : Cmd) : gp (makeReady s c) = gp s := by
  unfold makeReady
  repeat' (first | (with_reducible rfl) | simp only [implies_true, gp_foldl, gp_foldl_pair, gp_mk, gp_eta, gp_ite, ite_self, modCmd_grain, setEng_grain, complete_grain] | split | (with_reducible refine (gp_foldl _ _ _ ?_).trans ?_) | (with_reducible refine (gp_foldl_pair _ _ _ ?_).trans ?_) | intro _ _)

@[simp] theorem arrive_grain (s : State) (c : Cmd) : gp (arrive s c) = gp s := by
  unfold arrive
  repeat' (first | (with_reducible rfl) | simp only [implies_true, gp_foldl, gp_foldl_pair, gp_mk, gp_eta, gp_ite, ite_self, modCmd_grain, failCheck_grain, makeReady_grain] | split | (with_reducible refine (gp_foldl _ _ _ ?_).trans ?_) | (with_reducible refine (gp_foldl_pair _ _ _ ?_).trans ?_) | intro _ _)

@[simp] theorem wdogGrain_grain (s : State) : gp (wdogGrain s) = gp s := by
  unfold wdogGrain
  repeat' (first | (with_reducible rfl) | simp only [implies_true, gp_foldl, gp_foldl_pair, gp_mk, gp_eta, gp_ite, ite_self] | split | (with_reducible refine (gp_foldl _ _ _ ?_).trans ?_) | (with_reducible refine (gp_foldl_pair _ _ _ ?_).trans ?_) | intro _ _)

@[simp] theorem pmcCfgLo_grain (s : State) (u c : Nat) (v : W32) : gp (pmcCfgLo s u c v) = gp s := by
  unfold pmcCfgLo
  repeat' (first | (with_reducible rfl) | simp only [implies_true, gp_foldl, gp_foldl_pair, gp_mk, gp_eta, gp_ite, ite_self, setCtr_grain, count_grain] | split | (with_reducible refine (gp_foldl _ _ _ ?_).trans ?_) | (with_reducible refine (gp_foldl_pair _ _ _ ?_).trans ?_) | intro _ _)

@[simp] theorem pmcCfgHi_grain (s : State) (u c : Nat) (v : W32) : gp (pmcCfgHi s u c v) = gp s := by
  unfold pmcCfgHi
  repeat' (first | (with_reducible rfl) | simp only [implies_true, gp_foldl, gp_foldl_pair, gp_mk, gp_eta, gp_ite, ite_self, setCtr_grain] | split | (with_reducible refine (gp_foldl _ _ _ ?_).trans ?_) | (with_reducible refine (gp_foldl_pair _ _ _ ?_).trans ?_) | intro _ _)

@[simp] theorem pmcApply_grain (s : State) (off : Nat) (v : W32) : gp (pmcApply s off v) = gp s := by
  unfold pmcApply
  repeat' (first | (with_reducible rfl) | simp only [implies_true, gp_foldl, gp_foldl_pair, gp_mk, gp_eta, gp_ite, ite_self, pmcCfgLo_grain, pmcCfgHi_grain] | split | (with_reducible refine (gp_foldl _ _ _ ?_).trans ?_) | (with_reducible refine (gp_foldl_pair _ _ _ ?_).trans ?_) | intro _ _)

@[simp] theorem occupancyStep_grain (s : State) (i : Nat) (x : Ctr) : gp (occupancyStep s i x) = gp s := by
  unfold occupancyStep
  repeat' (first | (with_reducible rfl) | simp only [implies_true, gp_foldl, gp_foldl_pair, gp_mk, gp_eta, gp_ite, ite_self, setCtr_grain, count_grain] | split | (with_reducible refine (gp_foldl _ _ _ ?_).trans ?_) | (with_reducible refine (gp_foldl_pair _ _ _ ?_).trans ?_) | intro _ _)

@[simp] theorem occupancyCount_grain (s : State) : gp (occupancyCount s) = gp s := by
  unfold occupancyCount
  repeat' (first | (with_reducible rfl) | simp only [implies_true, gp_foldl, gp_foldl_pair, gp_mk, gp_eta, gp_ite, ite_self, occupancyStep_grain] | split | (with_reducible refine (gp_foldl _ _ _ ?_).trans ?_) | (with_reducible refine (gp_foldl_pair _ _ _ ?_).trans ?_) | intro _ _)

@[simp] theorem censusBoundary_grain (s : State) : gp (censusBoundary s) = gp s := by
  unfold censusBoundary
  repeat' (first | (with_reducible rfl) | simp only [implies_true, gp_foldl, gp_foldl_pair, gp_mk, gp_eta, gp_ite, ite_self, count_grain] | split | (with_reducible refine (gp_foldl _ _ _ ?_).trans ?_) | (with_reducible refine (gp_foldl_pair _ _ _ ?_).trans ?_) | intro _ _)

@[simp] theorem aonGrain_grain (s : State) : gp (aonGrain s) = gp s := by
  unfold aonGrain
  repeat' (first | (with_reducible rfl) | simp only [implies_true, gp_foldl, gp_foldl_pair, gp_mk, gp_eta, gp_ite, ite_self] | split | (with_reducible refine (gp_foldl _ _ _ ?_).trans ?_) | (with_reducible refine (gp_foldl_pair _ _ _ ?_).trans ?_) | intro _ _)

@[simp] theorem pwrApply_grain (s : State) (off : Nat) (v : W32) : gp (pwrApply s off v) = gp s := by
  unfold pwrApply
  repeat' (first | (with_reducible rfl) | simp only [implies_true, gp_foldl, gp_foldl_pair, gp_mk, gp_eta, gp_ite, ite_self] | split | (with_reducible refine (gp_foldl _ _ _ ?_).trans ?_) | (with_reducible refine (gp_foldl_pair _ _ _ ?_).trans ?_) | intro _ _)

@[simp] theorem regionApply_grain (s : State) (n : Nat) (v : W32) : gp (regionApply s n v) = gp s := by
  unfold regionApply
  repeat' (first | (with_reducible rfl) | simp only [implies_true, gp_foldl, gp_foldl_pair, gp_mk, gp_eta, gp_ite, ite_self] | split | (with_reducible refine (gp_foldl _ _ _ ?_).trans ?_) | (with_reducible refine (gp_foldl_pair _ _ _ ?_).trans ?_) | intro _ _)

@[simp] theorem hupApply_grain (s : State) (off : Nat) (v : W32) : gp (hupApply s off v) = gp s := by
  unfold hupApply
  repeat' (first | (with_reducible rfl) | simp only [implies_true, gp_foldl, gp_foldl_pair, gp_mk, gp_eta, gp_ite, ite_self] | split | (with_reducible refine (gp_foldl _ _ _ ?_).trans ?_) | (with_reducible refine (gp_foldl_pair _ _ _ ?_).trans ?_) | intro _ _)

@[simp] theorem prmApply_grain (s : State) (off : Nat) (v : W32) : gp (prmApply s off v) = gp s := by
  unfold prmApply
  repeat' (first | (with_reducible rfl) | simp only [implies_true, gp_foldl, gp_foldl_pair, gp_mk, gp_eta, gp_ite, ite_self, regionApply_grain] | split | (with_reducible refine (gp_foldl _ _ _ ?_).trans ?_) | (with_reducible refine (gp_foldl_pair _ _ _ ?_).trans ?_) | intro _ _)

@[simp] theorem watchGrain_grain (s : State) (e : Nat) : gp (watchGrain s e) = gp s := by
  unfold watchGrain
  repeat' (first | (with_reducible rfl) | simp only [implies_true, gp_foldl, gp_foldl_pair, gp_mk, gp_eta, gp_ite, ite_self, setEng_grain] | split | (with_reducible refine (gp_foldl _ _ _ ?_).trans ?_) | (with_reducible refine (gp_foldl_pair _ _ _ ?_).trans ?_) | intro _ _)

@[simp] theorem readyAnswer_grain (s : State) : gp (readyAnswer s) = gp s := by
  unfold readyAnswer
  repeat' (first | (with_reducible rfl) | simp only [implies_true, gp_foldl, gp_foldl_pair, gp_mk, gp_eta, gp_ite, ite_self, count_grain, readySend_grain] | split | (with_reducible refine (gp_foldl _ _ _ ?_).trans ?_) | (with_reducible refine (gp_foldl_pair _ _ _ ?_).trans ?_) | intro _ _)

@[simp] theorem pendApply_grain (s : State) (w : Nat × W32) : gp (pendApply s w) = gp s := by
  unfold pendApply
  repeat' (first | (with_reducible rfl) | simp only [implies_true, gp_foldl, gp_foldl_pair, gp_mk, gp_eta, gp_ite, ite_self, validApply_grain, tsuWrite_grain, evcCtlApply_grain, portCtlApply_grain, txeqApply_grain, rsqCtlApply_grain, semApply_grain, pwrApply_grain, hupApply_grain, prmApply_grain, pmcApply_grain, cascOff_grain] | split | (with_reducible refine (gp_foldl _ _ _ ?_).trans ?_) | (with_reducible refine (gp_foldl_pair _ _ _ ?_).trans ?_) | intro _ _)

@[simp] theorem pendAll_grain (s : State) : gp (pendAll s) = gp s := by
  unfold pendAll
  repeat' (first | (with_reducible rfl) | simp only [implies_true, gp_foldl, gp_foldl_pair, gp_mk, gp_eta, gp_ite, ite_self, pendApply_grain] | split | (with_reducible refine (gp_foldl _ _ _ ?_).trans ?_) | (with_reducible refine (gp_foldl_pair _ _ _ ?_).trans ?_) | intro _ _)

@[simp] theorem radioLinks_grain (s : State) : gp (radioLinks s) = gp s := by
  unfold radioLinks
  repeat' (first | (with_reducible rfl) | simp only [implies_true, gp_foldl, gp_foldl_pair, gp_mk, gp_eta, gp_ite, ite_self, see_grain, setRadio_grain] | split | (with_reducible refine (gp_foldl _ _ _ ?_).trans ?_) | (with_reducible refine (gp_foldl_pair _ _ _ ?_).trans ?_) | intro _ _)

@[simp] theorem shareOut_grain (s : State) (n idx kind : Nat) (e : Option LearnEv) (b : Option Nat) : gp (shareOut s n idx kind e b) = gp s := by
  unfold shareOut
  repeat' (first | (with_reducible rfl) | simp only [implies_true, gp_foldl, gp_foldl_pair, gp_mk, gp_eta, gp_ite, ite_self, torvSend_grain] | split | (with_reducible refine (gp_foldl _ _ _ ?_).trans ?_) | (with_reducible refine (gp_foldl_pair _ _ _ ?_).trans ?_) | intro _ _)

@[simp] theorem shareLearns_grain (s : State) : gp (shareLearns s) = gp s := by
  unfold shareLearns
  repeat' (first | (with_reducible rfl) | simp only [implies_true, gp_foldl, gp_foldl_pair, gp_mk, gp_eta, gp_ite, ite_self, shareOut_grain] | split | (with_reducible refine (gp_foldl _ _ _ ?_).trans ?_) | (with_reducible refine (gp_foldl_pair _ _ _ ?_).trans ?_) | intro _ _)

@[simp] theorem sweepSee_grain (s : State) : gp (sweepSee s) = gp s := by
  unfold sweepSee
  repeat' (first | (with_reducible rfl) | simp only [implies_true, gp_foldl, gp_foldl_pair, gp_mk, gp_eta, gp_ite, ite_self, count_grain, shareOut_grain, see_grain] | split | (with_reducible refine (gp_foldl _ _ _ ?_).trans ?_) | (with_reducible refine (gp_foldl_pair _ _ _ ?_).trans ?_) | intro _ _)

@[simp] theorem commitSee_grain (s : State) : gp (commitSee s) = gp s := by
  unfold commitSee
  repeat' (first | (with_reducible rfl) | simp only [implies_true, gp_foldl, gp_foldl_pair, gp_mk, gp_eta, gp_ite, ite_self, see_grain] | split | (with_reducible refine (gp_foldl _ _ _ ?_).trans ?_) | (with_reducible refine (gp_foldl_pair _ _ _ ?_).trans ?_) | intro _ _)

@[simp] theorem stampCmd_grain (s : State) (x : Inp) : gp (stampCmd s x) = gp s := by
  unfold stampCmd
  repeat' (first | (with_reducible rfl) | simp only [implies_true, gp_foldl, gp_foldl_pair, gp_mk, gp_eta, gp_ite, ite_self, modCmd_grain, arrive_grain, count_grain] | split | (with_reducible refine (gp_foldl _ _ _ ?_).trans ?_) | (with_reducible refine (gp_foldl_pair _ _ _ ?_).trans ?_) | intro _ _)

@[simp] theorem admitHigh_grain (s : State) : gp (admitHigh s) = gp s := by
  unfold admitHigh
  repeat' (first | (with_reducible rfl) | simp only [implies_true, gp_foldl, gp_foldl_pair, gp_mk, gp_eta, gp_ite, ite_self, count_grain] | split | (with_reducible refine (gp_foldl _ _ _ ?_).trans ?_) | (with_reducible refine (gp_foldl_pair _ _ _ ?_).trans ?_) | intro _ _)

@[simp] theorem admitLow_grain (s : State) : gp (admitLow s) = gp s := by
  unfold admitLow
  repeat' (first | (with_reducible rfl) | simp only [implies_true, gp_foldl, gp_foldl_pair, gp_mk, gp_eta, gp_ite, ite_self, count_grain, stampCmd_grain] | split | (with_reducible refine (gp_foldl _ _ _ ?_).trans ?_) | (with_reducible refine (gp_foldl_pair _ _ _ ?_).trans ?_) | intro _ _)

@[simp] theorem holdUpdate_grain (s : State) : gp (holdUpdate s) = gp s := by
  unfold holdUpdate
  repeat' (first | (with_reducible rfl) | simp only [implies_true, gp_foldl, gp_foldl_pair, gp_mk, gp_eta, gp_ite, ite_self] | split | (with_reducible refine (gp_foldl _ _ _ ?_).trans ?_) | (with_reducible refine (gp_foldl_pair _ _ _ ?_).trans ?_) | intro _ _)

@[simp] theorem poolEmpty_grain (s : State) : gp (poolEmpty s) = gp s := by
  unfold poolEmpty
  repeat' (first | (with_reducible rfl) | simp only [implies_true, gp_foldl, gp_foldl_pair, gp_mk, gp_eta, gp_ite, ite_self, raiseOnce_grain] | split | (with_reducible refine (gp_foldl _ _ _ ?_).trans ?_) | (with_reducible refine (gp_foldl_pair _ _ _ ?_).trans ?_) | intro _ _)

@[simp] theorem keepaliveSend_grain (s : State) : gp (keepaliveSend s) = gp s := by
  unfold keepaliveSend
  repeat' (first | (with_reducible rfl) | simp only [implies_true, gp_foldl, gp_foldl_pair, gp_mk, gp_eta, gp_ite, ite_self, count_grain, torvSend_grain] | split | (with_reducible refine (gp_foldl _ _ _ ?_).trans ?_) | (with_reducible refine (gp_foldl_pair _ _ _ ?_).trans ?_) | intro _ _)

end Sys2Proof.Machine
end

