-- ==== Sys2Proof/Laws/Shared.lean ====
section
/-! SUPPORT. What the shared frames of the meanings answer: an event of existing units, an access that is judged, a command
of a queue. -/

namespace Sys2Proof.Machine

/-- An event of existing units answers its state. -/
@[simp] theorem ev_true (t : State) : ev true t = .next t := rfl

/-- An event of a unit that does not exist faults. -/
@[simp] theorem ev_false (t : State) : ev false t = .fault .noSuchUnit := rfl

/-- Equal states are equal outcomes. -/
theorem next_congr {t u : State} (h : t = u) : (Host.Outcome.next t : Host.Outcome State Fault Refusal) = .next u :=
  congrArg _ h

/-- Before a shed, the blocks that it would stop do what they do. -/
theorem powered_on {s : State} (t : State) (h : s.pwr.shed = none) : powered s t = t := by unfold powered; rw [h]; rfl

/-- After a shed they do nothing. -/
theorem powered_off {s : State} (t : State) (h : s.pwr.shed ≠ none) : powered s t = s := by
  unfold powered
  cases hs : s.pwr.shed with
  | none => exact absurd hs h
  | some _ => rfl

/-- A write that no rule refuses has its effect. -/
theorem regWr_allowed {s : State} {m : Master} {a : Nat} (k : State → State) (h : refusal s m a 4 true true = none) :
    regWr s m a k = k s := by unfold regWr; rw [h]

/-- A refused write only reports the refusal. -/
theorem regWr_refused {s : State} {m : Master} {a c : Nat} (k : State → State) (h : refusal s m a 4 true true = some c) :
    regWr s m a k = refuse s m a true c := by unfold regWr; rw [h]

/-- A read that no rule refuses returns its value and has its effect. -/
theorem regRd_allowed {s : State} {m : Master} {a : Nat} (v : State → W32) (k : State → State)
    (h : refusal s m a 4 false true = none) : regRd s m a v k = readBack (k s) (v s) := by unfold regRd; rw [h]

/-- A refused read reports the refusal and returns 0. -/
theorem regRd_refused {s : State} {m : Master} {a c : Nat} (v : State → W32) (k : State → State)
    (h : refusal s m a 4 false true = some c) : regRd s m a v k = readBack (refuse s m a false c) 0 := by
  unfold regRd; rw [h]

/-- A command that is ready for an opcode has the opcode's effect. -/
theorem runCmd_ready {s : State} {id op : Nat} {c : Cmd} (f : State → Cmd → State) (h : readyCmd s id op c) :
    runCmd s id op f = f s c := by
  obtain ⟨h1, h2, h3, h4, h5⟩ := h
  simp [runCmd, h1, h2, h3, h4, h5]

/-- A number that names no command in flight has no effect. -/
theorem runCmd_absent {s : State} {id op : Nat} (f : State → Cmd → State) (h : cmdAt s id = none) :
    runCmd s id op f = s := by simp [runCmd, h]

/-- A command that is not ready, is done, spells another opcode or is held by an earlier one on its object has no effect. -/
theorem runCmd_other {s : State} {id op : Nat} {c : Cmd} (f : State → Cmd → State) (h1 : cmdAt s id = some c)
    (h : c.state ≠ .ready ∨ opOf c ≠ op ∨ c.done = true ∨ objectHeld s c = true) : runCmd s id op f = s := by
  simp only [runCmd, h1]
  rw [if_neg]
  rintro ⟨a, b, d, e⟩
  rcases h with h | h | h | h
  · exact h a
  · exact h b
  · simp [h] at d
  · simp [h] at e

end Sys2Proof.Machine
end

