-- ==== Sys2Proof/Laws/State.lean ====
section
/-! SUPPORT. What each update of the state leaves as it is: one lemma per field and update, true by unfolding the update. -/

namespace Sys2Proof.Machine

section
variable (s : State) (n : Nat) (x : Evc)
@[simp] theorem setEvc_dev : (setEvc s n x).dev = s.dev := rfl
@[simp] theorem setEvc_bus : (setEvc s n x).bus = s.bus := rfl
@[simp] theorem setEvc_gr : (setEvc s n x).gr = s.gr := rfl
@[simp] theorem setEvc_tb : (setEvc s n x).tb = s.tb := rfl
@[simp] theorem setEvc_tou : (setEvc s n x).tou = s.tou := rfl
@[simp] theorem setEvc_irig : (setEvc s n x).irig = s.irig := rfl
@[simp] theorem setEvc_tsu : (setEvc s n x).tsu = s.tsu := rfl
@[simp] theorem setEvc_eng : (setEvc s n x).eng = s.eng := rfl
@[simp] theorem setEvc_core : (setEvc s n x).core = s.core := rfl
@[simp] theorem setEvc_ptn : (setEvc s n x).ptn = s.ptn := rfl
@[simp] theorem setEvc_bind : (setEvc s n x).bind_ = s.bind_ := rfl
@[simp] theorem setEvc_cq : (setEvc s n x).cq = s.cq := rfl
@[simp] theorem setEvc_cam : (setEvc s n x).cam = s.cam := rfl
@[simp] theorem setEvc_fdb : (setEvc s n x).fdb = s.fdb := rfl
@[simp] theorem setEvc_cfg : (setEvc s n x).cfg = s.cfg := rfl
@[simp] theorem setEvc_t2 : (setEvc s n x).t2 = s.t2 := rfl
@[simp] theorem setEvc_mt : (setEvc s n x).mt = s.mt := rfl
@[simp] theorem setEvc_qm : (setEvc s n x).qm = s.qm := rfl
@[simp] theorem setEvc_ports : (setEvc s n x).ports = s.ports := rfl
@[simp] theorem setEvc_fwd : (setEvc s n x).fwd = s.fwd := rfl
@[simp] theorem setEvc_radio : (setEvc s n x).radio = s.radio := rfl
@[simp] theorem setEvc_pka : (setEvc s n x).pka = s.pka := rfl
@[simp] theorem setEvc_cc : (setEvc s n x).cc = s.cc := rfl
@[simp] theorem setEvc_fuse : (setEvc s n x).fuse = s.fuse := rfl
@[simp] theorem setEvc_dbg : (setEvc s n x).dbg = s.dbg := rfl
@[simp] theorem setEvc_pwr : (setEvc s n x).pwr = s.pwr := rfl
@[simp] theorem setEvc_hup : (setEvc s n x).hup = s.hup := rfl
@[simp] theorem setEvc_prm : (setEvc s n x).prm = s.prm := rfl
@[simp] theorem setEvc_fcu : (setEvc s n x).fcu = s.fcu := rfl
@[simp] theorem setEvc_pmc : (setEvc s n x).pmc = s.pmc := rfl
@[simp] theorem setEvc_twn : (setEvc s n x).twn = s.twn := rfl
@[simp] theorem setEvc_out : (setEvc s n x).out = s.out := rfl
@[simp] theorem setEvc_freeCtr : (setEvc s n x).freeCtr = s.freeCtr := rfl
@[simp] theorem setEvc_pending : (setEvc s n x).pending = s.pending := rfl
end

section
variable (s : State) (n : Nat) (x : Tou)
@[simp] theorem setTou_dev : (setTou s n x).dev = s.dev := rfl
@[simp] theorem setTou_bus : (setTou s n x).bus = s.bus := rfl
@[simp] theorem setTou_gr : (setTou s n x).gr = s.gr := rfl
@[simp] theorem setTou_tb : (setTou s n x).tb = s.tb := rfl
@[simp] theorem setTou_evc : (setTou s n x).evc = s.evc := rfl
@[simp] theorem setTou_irig : (setTou s n x).irig = s.irig := rfl
@[simp] theorem setTou_tsu : (setTou s n x).tsu = s.tsu := rfl
@[simp] theorem setTou_eng : (setTou s n x).eng = s.eng := rfl
@[simp] theorem setTou_core : (setTou s n x).core = s.core := rfl
@[simp] theorem setTou_ptn : (setTou s n x).ptn = s.ptn := rfl
@[simp] theorem setTou_bind : (setTou s n x).bind_ = s.bind_ := rfl
@[simp] theorem setTou_cq : (setTou s n x).cq = s.cq := rfl
@[simp] theorem setTou_cam : (setTou s n x).cam = s.cam := rfl
@[simp] theorem setTou_fdb : (setTou s n x).fdb = s.fdb := rfl
@[simp] theorem setTou_cfg : (setTou s n x).cfg = s.cfg := rfl
@[simp] theorem setTou_t2 : (setTou s n x).t2 = s.t2 := rfl
@[simp] theorem setTou_mt : (setTou s n x).mt = s.mt := rfl
@[simp] theorem setTou_qm : (setTou s n x).qm = s.qm := rfl
@[simp] theorem setTou_ports : (setTou s n x).ports = s.ports := rfl
@[simp] theorem setTou_fwd : (setTou s n x).fwd = s.fwd := rfl
@[simp] theorem setTou_radio : (setTou s n x).radio = s.radio := rfl
@[simp] theorem setTou_pka : (setTou s n x).pka = s.pka := rfl
@[simp] theorem setTou_cc : (setTou s n x).cc = s.cc := rfl
@[simp] theorem setTou_fuse : (setTou s n x).fuse = s.fuse := rfl
@[simp] theorem setTou_dbg : (setTou s n x).dbg = s.dbg := rfl
@[simp] theorem setTou_pwr : (setTou s n x).pwr = s.pwr := rfl
@[simp] theorem setTou_hup : (setTou s n x).hup = s.hup := rfl
@[simp] theorem setTou_prm : (setTou s n x).prm = s.prm := rfl
@[simp] theorem setTou_fcu : (setTou s n x).fcu = s.fcu := rfl
@[simp] theorem setTou_pmc : (setTou s n x).pmc = s.pmc := rfl
@[simp] theorem setTou_twn : (setTou s n x).twn = s.twn := rfl
@[simp] theorem setTou_out : (setTou s n x).out = s.out := rfl
@[simp] theorem setTou_freeCtr : (setTou s n x).freeCtr = s.freeCtr := rfl
@[simp] theorem setTou_pending : (setTou s n x).pending = s.pending := rfl
end

section
variable (s : State) (n : Nat) (x : Tsu)
@[simp] theorem setTsu_dev : (setTsu s n x).dev = s.dev := rfl
@[simp] theorem setTsu_bus : (setTsu s n x).bus = s.bus := rfl
@[simp] theorem setTsu_gr : (setTsu s n x).gr = s.gr := rfl
@[simp] theorem setTsu_tb : (setTsu s n x).tb = s.tb := rfl
@[simp] theorem setTsu_evc : (setTsu s n x).evc = s.evc := rfl
@[simp] theorem setTsu_tou : (setTsu s n x).tou = s.tou := rfl
@[simp] theorem setTsu_irig : (setTsu s n x).irig = s.irig := rfl
@[simp] theorem setTsu_eng : (setTsu s n x).eng = s.eng := rfl
@[simp] theorem setTsu_core : (setTsu s n x).core = s.core := rfl
@[simp] theorem setTsu_ptn : (setTsu s n x).ptn = s.ptn := rfl
@[simp] theorem setTsu_bind : (setTsu s n x).bind_ = s.bind_ := rfl
@[simp] theorem setTsu_cq : (setTsu s n x).cq = s.cq := rfl
@[simp] theorem setTsu_cam : (setTsu s n x).cam = s.cam := rfl
@[simp] theorem setTsu_fdb : (setTsu s n x).fdb = s.fdb := rfl
@[simp] theorem setTsu_cfg : (setTsu s n x).cfg = s.cfg := rfl
@[simp] theorem setTsu_t2 : (setTsu s n x).t2 = s.t2 := rfl
@[simp] theorem setTsu_mt : (setTsu s n x).mt = s.mt := rfl
@[simp] theorem setTsu_qm : (setTsu s n x).qm = s.qm := rfl
@[simp] theorem setTsu_ports : (setTsu s n x).ports = s.ports := rfl
@[simp] theorem setTsu_fwd : (setTsu s n x).fwd = s.fwd := rfl
@[simp] theorem setTsu_radio : (setTsu s n x).radio = s.radio := rfl
@[simp] theorem setTsu_pka : (setTsu s n x).pka = s.pka := rfl
@[simp] theorem setTsu_cc : (setTsu s n x).cc = s.cc := rfl
@[simp] theorem setTsu_fuse : (setTsu s n x).fuse = s.fuse := rfl
@[simp] theorem setTsu_dbg : (setTsu s n x).dbg = s.dbg := rfl
@[simp] theorem setTsu_pwr : (setTsu s n x).pwr = s.pwr := rfl
@[simp] theorem setTsu_hup : (setTsu s n x).hup = s.hup := rfl
@[simp] theorem setTsu_prm : (setTsu s n x).prm = s.prm := rfl
@[simp] theorem setTsu_fcu : (setTsu s n x).fcu = s.fcu := rfl
@[simp] theorem setTsu_pmc : (setTsu s n x).pmc = s.pmc := rfl
@[simp] theorem setTsu_twn : (setTsu s n x).twn = s.twn := rfl
@[simp] theorem setTsu_out : (setTsu s n x).out = s.out := rfl
@[simp] theorem setTsu_freeCtr : (setTsu s n x).freeCtr = s.freeCtr := rfl
@[simp] theorem setTsu_pending : (setTsu s n x).pending = s.pending := rfl
end

section
variable (s : State) (n : Nat) (x : Eng)
@[simp] theorem setEng_dev : (setEng s n x).dev = s.dev := rfl
@[simp] theorem setEng_bus : (setEng s n x).bus = s.bus := rfl
@[simp] theorem setEng_gr : (setEng s n x).gr = s.gr := rfl
@[simp] theorem setEng_tb : (setEng s n x).tb = s.tb := rfl
@[simp] theorem setEng_evc : (setEng s n x).evc = s.evc := rfl
@[simp] theorem setEng_tou : (setEng s n x).tou = s.tou := rfl
@[simp] theorem setEng_irig : (setEng s n x).irig = s.irig := rfl
@[simp] theorem setEng_tsu : (setEng s n x).tsu = s.tsu := rfl
@[simp] theorem setEng_core : (setEng s n x).core = s.core := rfl
@[simp] theorem setEng_ptn : (setEng s n x).ptn = s.ptn := rfl
@[simp] theorem setEng_bind : (setEng s n x).bind_ = s.bind_ := rfl
@[simp] theorem setEng_cq : (setEng s n x).cq = s.cq := rfl
@[simp] theorem setEng_cam : (setEng s n x).cam = s.cam := rfl
@[simp] theorem setEng_fdb : (setEng s n x).fdb = s.fdb := rfl
@[simp] theorem setEng_cfg : (setEng s n x).cfg = s.cfg := rfl
@[simp] theorem setEng_t2 : (setEng s n x).t2 = s.t2 := rfl
@[simp] theorem setEng_mt : (setEng s n x).mt = s.mt := rfl
@[simp] theorem setEng_qm : (setEng s n x).qm = s.qm := rfl
@[simp] theorem setEng_ports : (setEng s n x).ports = s.ports := rfl
@[simp] theorem setEng_fwd : (setEng s n x).fwd = s.fwd := rfl
@[simp] theorem setEng_radio : (setEng s n x).radio = s.radio := rfl
@[simp] theorem setEng_pka : (setEng s n x).pka = s.pka := rfl
@[simp] theorem setEng_cc : (setEng s n x).cc = s.cc := rfl
@[simp] theorem setEng_fuse : (setEng s n x).fuse = s.fuse := rfl
@[simp] theorem setEng_dbg : (setEng s n x).dbg = s.dbg := rfl
@[simp] theorem setEng_pwr : (setEng s n x).pwr = s.pwr := rfl
@[simp] theorem setEng_hup : (setEng s n x).hup = s.hup := rfl
@[simp] theorem setEng_prm : (setEng s n x).prm = s.prm := rfl
@[simp] theorem setEng_fcu : (setEng s n x).fcu = s.fcu := rfl
@[simp] theorem setEng_pmc : (setEng s n x).pmc = s.pmc := rfl
@[simp] theorem setEng_twn : (setEng s n x).twn = s.twn := rfl
@[simp] theorem setEng_out : (setEng s n x).out = s.out := rfl
@[simp] theorem setEng_freeCtr : (setEng s n x).freeCtr = s.freeCtr := rfl
@[simp] theorem setEng_pending : (setEng s n x).pending = s.pending := rfl
end

section
variable (s : State) (n : Nat) (x : Ptn)
@[simp] theorem setPtn_dev : (setPtn s n x).dev = s.dev := rfl
@[simp] theorem setPtn_bus : (setPtn s n x).bus = s.bus := rfl
@[simp] theorem setPtn_gr : (setPtn s n x).gr = s.gr := rfl
@[simp] theorem setPtn_tb : (setPtn s n x).tb = s.tb := rfl
@[simp] theorem setPtn_evc : (setPtn s n x).evc = s.evc := rfl
@[simp] theorem setPtn_tou : (setPtn s n x).tou = s.tou := rfl
@[simp] theorem setPtn_irig : (setPtn s n x).irig = s.irig := rfl
@[simp] theorem setPtn_tsu : (setPtn s n x).tsu = s.tsu := rfl
@[simp] theorem setPtn_eng : (setPtn s n x).eng = s.eng := rfl
@[simp] theorem setPtn_core : (setPtn s n x).core = s.core := rfl
@[simp] theorem setPtn_bind : (setPtn s n x).bind_ = s.bind_ := rfl
@[simp] theorem setPtn_cq : (setPtn s n x).cq = s.cq := rfl
@[simp] theorem setPtn_cam : (setPtn s n x).cam = s.cam := rfl
@[simp] theorem setPtn_fdb : (setPtn s n x).fdb = s.fdb := rfl
@[simp] theorem setPtn_cfg : (setPtn s n x).cfg = s.cfg := rfl
@[simp] theorem setPtn_t2 : (setPtn s n x).t2 = s.t2 := rfl
@[simp] theorem setPtn_mt : (setPtn s n x).mt = s.mt := rfl
@[simp] theorem setPtn_qm : (setPtn s n x).qm = s.qm := rfl
@[simp] theorem setPtn_ports : (setPtn s n x).ports = s.ports := rfl
@[simp] theorem setPtn_fwd : (setPtn s n x).fwd = s.fwd := rfl
@[simp] theorem setPtn_radio : (setPtn s n x).radio = s.radio := rfl
@[simp] theorem setPtn_pka : (setPtn s n x).pka = s.pka := rfl
@[simp] theorem setPtn_cc : (setPtn s n x).cc = s.cc := rfl
@[simp] theorem setPtn_fuse : (setPtn s n x).fuse = s.fuse := rfl
@[simp] theorem setPtn_dbg : (setPtn s n x).dbg = s.dbg := rfl
@[simp] theorem setPtn_pwr : (setPtn s n x).pwr = s.pwr := rfl
@[simp] theorem setPtn_hup : (setPtn s n x).hup = s.hup := rfl
@[simp] theorem setPtn_prm : (setPtn s n x).prm = s.prm := rfl
@[simp] theorem setPtn_fcu : (setPtn s n x).fcu = s.fcu := rfl
@[simp] theorem setPtn_pmc : (setPtn s n x).pmc = s.pmc := rfl
@[simp] theorem setPtn_twn : (setPtn s n x).twn = s.twn := rfl
@[simp] theorem setPtn_out : (setPtn s n x).out = s.out := rfl
@[simp] theorem setPtn_freeCtr : (setPtn s n x).freeCtr = s.freeCtr := rfl
@[simp] theorem setPtn_pending : (setPtn s n x).pending = s.pending := rfl
end

section
variable (s : State) (n : Nat) (x : Port)
@[simp] theorem setPort_dev : (setPort s n x).dev = s.dev := rfl
@[simp] theorem setPort_bus : (setPort s n x).bus = s.bus := rfl
@[simp] theorem setPort_gr : (setPort s n x).gr = s.gr := rfl
@[simp] theorem setPort_tb : (setPort s n x).tb = s.tb := rfl
@[simp] theorem setPort_evc : (setPort s n x).evc = s.evc := rfl
@[simp] theorem setPort_tou : (setPort s n x).tou = s.tou := rfl
@[simp] theorem setPort_irig : (setPort s n x).irig = s.irig := rfl
@[simp] theorem setPort_tsu : (setPort s n x).tsu = s.tsu := rfl
@[simp] theorem setPort_eng : (setPort s n x).eng = s.eng := rfl
@[simp] theorem setPort_core : (setPort s n x).core = s.core := rfl
@[simp] theorem setPort_ptn : (setPort s n x).ptn = s.ptn := rfl
@[simp] theorem setPort_bind : (setPort s n x).bind_ = s.bind_ := rfl
@[simp] theorem setPort_cq : (setPort s n x).cq = s.cq := rfl
@[simp] theorem setPort_cam : (setPort s n x).cam = s.cam := rfl
@[simp] theorem setPort_fdb : (setPort s n x).fdb = s.fdb := rfl
@[simp] theorem setPort_cfg : (setPort s n x).cfg = s.cfg := rfl
@[simp] theorem setPort_t2 : (setPort s n x).t2 = s.t2 := rfl
@[simp] theorem setPort_mt : (setPort s n x).mt = s.mt := rfl
@[simp] theorem setPort_qm : (setPort s n x).qm = s.qm := rfl
@[simp] theorem setPort_fwd : (setPort s n x).fwd = s.fwd := rfl
@[simp] theorem setPort_radio : (setPort s n x).radio = s.radio := rfl
@[simp] theorem setPort_pka : (setPort s n x).pka = s.pka := rfl
@[simp] theorem setPort_cc : (setPort s n x).cc = s.cc := rfl
@[simp] theorem setPort_fuse : (setPort s n x).fuse = s.fuse := rfl
@[simp] theorem setPort_dbg : (setPort s n x).dbg = s.dbg := rfl
@[simp] theorem setPort_pwr : (setPort s n x).pwr = s.pwr := rfl
@[simp] theorem setPort_hup : (setPort s n x).hup = s.hup := rfl
@[simp] theorem setPort_prm : (setPort s n x).prm = s.prm := rfl
@[simp] theorem setPort_fcu : (setPort s n x).fcu = s.fcu := rfl
@[simp] theorem setPort_pmc : (setPort s n x).pmc = s.pmc := rfl
@[simp] theorem setPort_twn : (setPort s n x).twn = s.twn := rfl
@[simp] theorem setPort_out : (setPort s n x).out = s.out := rfl
@[simp] theorem setPort_freeCtr : (setPort s n x).freeCtr = s.freeCtr := rfl
@[simp] theorem setPort_pending : (setPort s n x).pending = s.pending := rfl
end

section
variable (s : State) (n : Nat) (x : Radio)
@[simp] theorem setRadio_dev : (setRadio s n x).dev = s.dev := rfl
@[simp] theorem setRadio_bus : (setRadio s n x).bus = s.bus := rfl
@[simp] theorem setRadio_gr : (setRadio s n x).gr = s.gr := rfl
@[simp] theorem setRadio_tb : (setRadio s n x).tb = s.tb := rfl
@[simp] theorem setRadio_evc : (setRadio s n x).evc = s.evc := rfl
@[simp] theorem setRadio_tou : (setRadio s n x).tou = s.tou := rfl
@[simp] theorem setRadio_irig : (setRadio s n x).irig = s.irig := rfl
@[simp] theorem setRadio_tsu : (setRadio s n x).tsu = s.tsu := rfl
@[simp] theorem setRadio_eng : (setRadio s n x).eng = s.eng := rfl
@[simp] theorem setRadio_core : (setRadio s n x).core = s.core := rfl
@[simp] theorem setRadio_ptn : (setRadio s n x).ptn = s.ptn := rfl
@[simp] theorem setRadio_bind : (setRadio s n x).bind_ = s.bind_ := rfl
@[simp] theorem setRadio_cq : (setRadio s n x).cq = s.cq := rfl
@[simp] theorem setRadio_cam : (setRadio s n x).cam = s.cam := rfl
@[simp] theorem setRadio_fdb : (setRadio s n x).fdb = s.fdb := rfl
@[simp] theorem setRadio_cfg : (setRadio s n x).cfg = s.cfg := rfl
@[simp] theorem setRadio_t2 : (setRadio s n x).t2 = s.t2 := rfl
@[simp] theorem setRadio_mt : (setRadio s n x).mt = s.mt := rfl
@[simp] theorem setRadio_qm : (setRadio s n x).qm = s.qm := rfl
@[simp] theorem setRadio_ports : (setRadio s n x).ports = s.ports := rfl
@[simp] theorem setRadio_fwd : (setRadio s n x).fwd = s.fwd := rfl
@[simp] theorem setRadio_pka : (setRadio s n x).pka = s.pka := rfl
@[simp] theorem setRadio_cc : (setRadio s n x).cc = s.cc := rfl
@[simp] theorem setRadio_fuse : (setRadio s n x).fuse = s.fuse := rfl
@[simp] theorem setRadio_dbg : (setRadio s n x).dbg = s.dbg := rfl
@[simp] theorem setRadio_pwr : (setRadio s n x).pwr = s.pwr := rfl
@[simp] theorem setRadio_hup : (setRadio s n x).hup = s.hup := rfl
@[simp] theorem setRadio_prm : (setRadio s n x).prm = s.prm := rfl
@[simp] theorem setRadio_fcu : (setRadio s n x).fcu = s.fcu := rfl
@[simp] theorem setRadio_pmc : (setRadio s n x).pmc = s.pmc := rfl
@[simp] theorem setRadio_twn : (setRadio s n x).twn = s.twn := rfl
@[simp] theorem setRadio_out : (setRadio s n x).out = s.out := rfl
@[simp] theorem setRadio_freeCtr : (setRadio s n x).freeCtr = s.freeCtr := rfl
@[simp] theorem setRadio_pending : (setRadio s n x).pending = s.pending := rfl
end

section
variable (s : State) (n : Nat) (x : Bind)
@[simp] theorem setBind_dev : (setBind s n x).dev = s.dev := rfl
@[simp] theorem setBind_bus : (setBind s n x).bus = s.bus := rfl
@[simp] theorem setBind_gr : (setBind s n x).gr = s.gr := rfl
@[simp] theorem setBind_tb : (setBind s n x).tb = s.tb := rfl
@[simp] theorem setBind_evc : (setBind s n x).evc = s.evc := rfl
@[simp] theorem setBind_tou : (setBind s n x).tou = s.tou := rfl
@[simp] theorem setBind_irig : (setBind s n x).irig = s.irig := rfl
@[simp] theorem setBind_tsu : (setBind s n x).tsu = s.tsu := rfl
@[simp] theorem setBind_eng : (setBind s n x).eng = s.eng := rfl
@[simp] theorem setBind_core : (setBind s n x).core = s.core := rfl
@[simp] theorem setBind_ptn : (setBind s n x).ptn = s.ptn := rfl
@[simp] theorem setBind_cq : (setBind s n x).cq = s.cq := rfl
@[simp] theorem setBind_cam : (setBind s n x).cam = s.cam := rfl
@[simp] theorem setBind_fdb : (setBind s n x).fdb = s.fdb := rfl
@[simp] theorem setBind_cfg : (setBind s n x).cfg = s.cfg := rfl
@[simp] theorem setBind_t2 : (setBind s n x).t2 = s.t2 := rfl
@[simp] theorem setBind_mt : (setBind s n x).mt = s.mt := rfl
@[simp] theorem setBind_qm : (setBind s n x).qm = s.qm := rfl
@[simp] theorem setBind_ports : (setBind s n x).ports = s.ports := rfl
@[simp] theorem setBind_fwd : (setBind s n x).fwd = s.fwd := rfl
@[simp] theorem setBind_radio : (setBind s n x).radio = s.radio := rfl
@[simp] theorem setBind_pka : (setBind s n x).pka = s.pka := rfl
@[simp] theorem setBind_cc : (setBind s n x).cc = s.cc := rfl
@[simp] theorem setBind_fuse : (setBind s n x).fuse = s.fuse := rfl
@[simp] theorem setBind_dbg : (setBind s n x).dbg = s.dbg := rfl
@[simp] theorem setBind_pwr : (setBind s n x).pwr = s.pwr := rfl
@[simp] theorem setBind_hup : (setBind s n x).hup = s.hup := rfl
@[simp] theorem setBind_prm : (setBind s n x).prm = s.prm := rfl
@[simp] theorem setBind_fcu : (setBind s n x).fcu = s.fcu := rfl
@[simp] theorem setBind_pmc : (setBind s n x).pmc = s.pmc := rfl
@[simp] theorem setBind_twn : (setBind s n x).twn = s.twn := rfl
@[simp] theorem setBind_out : (setBind s n x).out = s.out := rfl
@[simp] theorem setBind_freeCtr : (setBind s n x).freeCtr = s.freeCtr := rfl
@[simp] theorem setBind_pending : (setBind s n x).pending = s.pending := rfl
end

section
variable (s : State) (n i : Nat) (x : Sq)
@[simp] theorem setSq_dev : (setSq s n i x).dev = s.dev := rfl
@[simp] theorem setSq_bus : (setSq s n i x).bus = s.bus := rfl
@[simp] theorem setSq_gr : (setSq s n i x).gr = s.gr := rfl
@[simp] theorem setSq_tb : (setSq s n i x).tb = s.tb := rfl
@[simp] theorem setSq_evc : (setSq s n i x).evc = s.evc := rfl
@[simp] theorem setSq_tou : (setSq s n i x).tou = s.tou := rfl
@[simp] theorem setSq_irig : (setSq s n i x).irig = s.irig := rfl
@[simp] theorem setSq_tsu : (setSq s n i x).tsu = s.tsu := rfl
@[simp] theorem setSq_eng : (setSq s n i x).eng = s.eng := rfl
@[simp] theorem setSq_core : (setSq s n i x).core = s.core := rfl
@[simp] theorem setSq_ptn : (setSq s n i x).ptn = s.ptn := rfl
@[simp] theorem setSq_bind : (setSq s n i x).bind_ = s.bind_ := rfl
@[simp] theorem setSq_cam : (setSq s n i x).cam = s.cam := rfl
@[simp] theorem setSq_fdb : (setSq s n i x).fdb = s.fdb := rfl
@[simp] theorem setSq_cfg : (setSq s n i x).cfg = s.cfg := rfl
@[simp] theorem setSq_t2 : (setSq s n i x).t2 = s.t2 := rfl
@[simp] theorem setSq_mt : (setSq s n i x).mt = s.mt := rfl
@[simp] theorem setSq_qm : (setSq s n i x).qm = s.qm := rfl
@[simp] theorem setSq_ports : (setSq s n i x).ports = s.ports := rfl
@[simp] theorem setSq_fwd : (setSq s n i x).fwd = s.fwd := rfl
@[simp] theorem setSq_radio : (setSq s n i x).radio = s.radio := rfl
@[simp] theorem setSq_pka : (setSq s n i x).pka = s.pka := rfl
@[simp] theorem setSq_cc : (setSq s n i x).cc = s.cc := rfl
@[simp] theorem setSq_fuse : (setSq s n i x).fuse = s.fuse := rfl
@[simp] theorem setSq_dbg : (setSq s n i x).dbg = s.dbg := rfl
@[simp] theorem setSq_pwr : (setSq s n i x).pwr = s.pwr := rfl
@[simp] theorem setSq_hup : (setSq s n i x).hup = s.hup := rfl
@[simp] theorem setSq_prm : (setSq s n i x).prm = s.prm := rfl
@[simp] theorem setSq_fcu : (setSq s n i x).fcu = s.fcu := rfl
@[simp] theorem setSq_pmc : (setSq s n i x).pmc = s.pmc := rfl
@[simp] theorem setSq_twn : (setSq s n i x).twn = s.twn := rfl
@[simp] theorem setSq_out : (setSq s n i x).out = s.out := rfl
@[simp] theorem setSq_freeCtr : (setSq s n i x).freeCtr = s.freeCtr := rfl
@[simp] theorem setSq_pending : (setSq s n i x).pending = s.pending := rfl
end

section
variable (s : State) (n i : Nat) (x : Ring)
@[simp] theorem setCq_dev : (setCq s n i x).dev = s.dev := rfl
@[simp] theorem setCq_bus : (setCq s n i x).bus = s.bus := rfl
@[simp] theorem setCq_gr : (setCq s n i x).gr = s.gr := rfl
@[simp] theorem setCq_tb : (setCq s n i x).tb = s.tb := rfl
@[simp] theorem setCq_evc : (setCq s n i x).evc = s.evc := rfl
@[simp] theorem setCq_tou : (setCq s n i x).tou = s.tou := rfl
@[simp] theorem setCq_irig : (setCq s n i x).irig = s.irig := rfl
@[simp] theorem setCq_tsu : (setCq s n i x).tsu = s.tsu := rfl
@[simp] theorem setCq_eng : (setCq s n i x).eng = s.eng := rfl
@[simp] theorem setCq_core : (setCq s n i x).core = s.core := rfl
@[simp] theorem setCq_ptn : (setCq s n i x).ptn = s.ptn := rfl
@[simp] theorem setCq_bind : (setCq s n i x).bind_ = s.bind_ := rfl
@[simp] theorem setCq_cam : (setCq s n i x).cam = s.cam := rfl
@[simp] theorem setCq_fdb : (setCq s n i x).fdb = s.fdb := rfl
@[simp] theorem setCq_cfg : (setCq s n i x).cfg = s.cfg := rfl
@[simp] theorem setCq_t2 : (setCq s n i x).t2 = s.t2 := rfl
@[simp] theorem setCq_mt : (setCq s n i x).mt = s.mt := rfl
@[simp] theorem setCq_qm : (setCq s n i x).qm = s.qm := rfl
@[simp] theorem setCq_ports : (setCq s n i x).ports = s.ports := rfl
@[simp] theorem setCq_fwd : (setCq s n i x).fwd = s.fwd := rfl
@[simp] theorem setCq_radio : (setCq s n i x).radio = s.radio := rfl
@[simp] theorem setCq_pka : (setCq s n i x).pka = s.pka := rfl
@[simp] theorem setCq_cc : (setCq s n i x).cc = s.cc := rfl
@[simp] theorem setCq_fuse : (setCq s n i x).fuse = s.fuse := rfl
@[simp] theorem setCq_dbg : (setCq s n i x).dbg = s.dbg := rfl
@[simp] theorem setCq_pwr : (setCq s n i x).pwr = s.pwr := rfl
@[simp] theorem setCq_hup : (setCq s n i x).hup = s.hup := rfl
@[simp] theorem setCq_prm : (setCq s n i x).prm = s.prm := rfl
@[simp] theorem setCq_fcu : (setCq s n i x).fcu = s.fcu := rfl
@[simp] theorem setCq_pmc : (setCq s n i x).pmc = s.pmc := rfl
@[simp] theorem setCq_twn : (setCq s n i x).twn = s.twn := rfl
@[simp] theorem setCq_out : (setCq s n i x).out = s.out := rfl
@[simp] theorem setCq_freeCtr : (setCq s n i x).freeCtr = s.freeCtr := rfl
@[simp] theorem setCq_pending : (setCq s n i x).pending = s.pending := rfl
end

section
variable (s : State) (n i : Nat) (x : Ring)
@[simp] theorem setEr_dev : (setEr s n i x).dev = s.dev := rfl
@[simp] theorem setEr_bus : (setEr s n i x).bus = s.bus := rfl
@[simp] theorem setEr_gr : (setEr s n i x).gr = s.gr := rfl
@[simp] theorem setEr_tb : (setEr s n i x).tb = s.tb := rfl
@[simp] theorem setEr_evc : (setEr s n i x).evc = s.evc := rfl
@[simp] theorem setEr_tou : (setEr s n i x).tou = s.tou := rfl
@[simp] theorem setEr_irig : (setEr s n i x).irig = s.irig := rfl
@[simp] theorem setEr_tsu : (setEr s n i x).tsu = s.tsu := rfl
@[simp] theorem setEr_eng : (setEr s n i x).eng = s.eng := rfl
@[simp] theorem setEr_core : (setEr s n i x).core = s.core := rfl
@[simp] theorem setEr_ptn : (setEr s n i x).ptn = s.ptn := rfl
@[simp] theorem setEr_bind : (setEr s n i x).bind_ = s.bind_ := rfl
@[simp] theorem setEr_cam : (setEr s n i x).cam = s.cam := rfl
@[simp] theorem setEr_fdb : (setEr s n i x).fdb = s.fdb := rfl
@[simp] theorem setEr_cfg : (setEr s n i x).cfg = s.cfg := rfl
@[simp] theorem setEr_t2 : (setEr s n i x).t2 = s.t2 := rfl
@[simp] theorem setEr_mt : (setEr s n i x).mt = s.mt := rfl
@[simp] theorem setEr_qm : (setEr s n i x).qm = s.qm := rfl
@[simp] theorem setEr_ports : (setEr s n i x).ports = s.ports := rfl
@[simp] theorem setEr_fwd : (setEr s n i x).fwd = s.fwd := rfl
@[simp] theorem setEr_radio : (setEr s n i x).radio = s.radio := rfl
@[simp] theorem setEr_pka : (setEr s n i x).pka = s.pka := rfl
@[simp] theorem setEr_cc : (setEr s n i x).cc = s.cc := rfl
@[simp] theorem setEr_fuse : (setEr s n i x).fuse = s.fuse := rfl
@[simp] theorem setEr_dbg : (setEr s n i x).dbg = s.dbg := rfl
@[simp] theorem setEr_pwr : (setEr s n i x).pwr = s.pwr := rfl
@[simp] theorem setEr_hup : (setEr s n i x).hup = s.hup := rfl
@[simp] theorem setEr_prm : (setEr s n i x).prm = s.prm := rfl
@[simp] theorem setEr_fcu : (setEr s n i x).fcu = s.fcu := rfl
@[simp] theorem setEr_pmc : (setEr s n i x).pmc = s.pmc := rfl
@[simp] theorem setEr_twn : (setEr s n i x).twn = s.twn := rfl
@[simp] theorem setEr_out : (setEr s n i x).out = s.out := rfl
@[simp] theorem setEr_freeCtr : (setEr s n i x).freeCtr = s.freeCtr := rfl
@[simp] theorem setEr_pending : (setEr s n i x).pending = s.pending := rfl
end

section
variable (s : State) (n i : Nat) (x : Queue)
@[simp] theorem setQueue_dev : (setQueue s n i x).dev = s.dev := rfl
@[simp] theorem setQueue_bus : (setQueue s n i x).bus = s.bus := rfl
@[simp] theorem setQueue_gr : (setQueue s n i x).gr = s.gr := rfl
@[simp] theorem setQueue_tb : (setQueue s n i x).tb = s.tb := rfl
@[simp] theorem setQueue_evc : (setQueue s n i x).evc = s.evc := rfl
@[simp] theorem setQueue_tou : (setQueue s n i x).tou = s.tou := rfl
@[simp] theorem setQueue_irig : (setQueue s n i x).irig = s.irig := rfl
@[simp] theorem setQueue_tsu : (setQueue s n i x).tsu = s.tsu := rfl
@[simp] theorem setQueue_eng : (setQueue s n i x).eng = s.eng := rfl
@[simp] theorem setQueue_core : (setQueue s n i x).core = s.core := rfl
@[simp] theorem setQueue_ptn : (setQueue s n i x).ptn = s.ptn := rfl
@[simp] theorem setQueue_bind : (setQueue s n i x).bind_ = s.bind_ := rfl
@[simp] theorem setQueue_cq : (setQueue s n i x).cq = s.cq := rfl
@[simp] theorem setQueue_cam : (setQueue s n i x).cam = s.cam := rfl
@[simp] theorem setQueue_fdb : (setQueue s n i x).fdb = s.fdb := rfl
@[simp] theorem setQueue_cfg : (setQueue s n i x).cfg = s.cfg := rfl
@[simp] theorem setQueue_t2 : (setQueue s n i x).t2 = s.t2 := rfl
@[simp] theorem setQueue_mt : (setQueue s n i x).mt = s.mt := rfl
@[simp] theorem setQueue_ports : (setQueue s n i x).ports = s.ports := rfl
@[simp] theorem setQueue_fwd : (setQueue s n i x).fwd = s.fwd := rfl
@[simp] theorem setQueue_radio : (setQueue s n i x).radio = s.radio := rfl
@[simp] theorem setQueue_pka : (setQueue s n i x).pka = s.pka := rfl
@[simp] theorem setQueue_cc : (setQueue s n i x).cc = s.cc := rfl
@[simp] theorem setQueue_fuse : (setQueue s n i x).fuse = s.fuse := rfl
@[simp] theorem setQueue_dbg : (setQueue s n i x).dbg = s.dbg := rfl
@[simp] theorem setQueue_pwr : (setQueue s n i x).pwr = s.pwr := rfl
@[simp] theorem setQueue_hup : (setQueue s n i x).hup = s.hup := rfl
@[simp] theorem setQueue_prm : (setQueue s n i x).prm = s.prm := rfl
@[simp] theorem setQueue_fcu : (setQueue s n i x).fcu = s.fcu := rfl
@[simp] theorem setQueue_pmc : (setQueue s n i x).pmc = s.pmc := rfl
@[simp] theorem setQueue_twn : (setQueue s n i x).twn = s.twn := rfl
@[simp] theorem setQueue_out : (setQueue s n i x).out = s.out := rfl
@[simp] theorem setQueue_freeCtr : (setQueue s n i x).freeCtr = s.freeCtr := rfl
@[simp] theorem setQueue_pending : (setQueue s n i x).pending = s.pending := rfl
end

section
variable (s : State) (n : Nat) (x : Sched)
@[simp] theorem setSched_dev : (setSched s n x).dev = s.dev := rfl
@[simp] theorem setSched_bus : (setSched s n x).bus = s.bus := rfl
@[simp] theorem setSched_gr : (setSched s n x).gr = s.gr := rfl
@[simp] theorem setSched_tb : (setSched s n x).tb = s.tb := rfl
@[simp] theorem setSched_evc : (setSched s n x).evc = s.evc := rfl
@[simp] theorem setSched_tou : (setSched s n x).tou = s.tou := rfl
@[simp] theorem setSched_irig : (setSched s n x).irig = s.irig := rfl
@[simp] theorem setSched_tsu : (setSched s n x).tsu = s.tsu := rfl
@[simp] theorem setSched_eng : (setSched s n x).eng = s.eng := rfl
@[simp] theorem setSched_core : (setSched s n x).core = s.core := rfl
@[simp] theorem setSched_ptn : (setSched s n x).ptn = s.ptn := rfl
@[simp] theorem setSched_bind : (setSched s n x).bind_ = s.bind_ := rfl
@[simp] theorem setSched_cq : (setSched s n x).cq = s.cq := rfl
@[simp] theorem setSched_cam : (setSched s n x).cam = s.cam := rfl
@[simp] theorem setSched_fdb : (setSched s n x).fdb = s.fdb := rfl
@[simp] theorem setSched_cfg : (setSched s n x).cfg = s.cfg := rfl
@[simp] theorem setSched_t2 : (setSched s n x).t2 = s.t2 := rfl
@[simp] theorem setSched_mt : (setSched s n x).mt = s.mt := rfl
@[simp] theorem setSched_ports : (setSched s n x).ports = s.ports := rfl
@[simp] theorem setSched_fwd : (setSched s n x).fwd = s.fwd := rfl
@[simp] theorem setSched_radio : (setSched s n x).radio = s.radio := rfl
@[simp] theorem setSched_pka : (setSched s n x).pka = s.pka := rfl
@[simp] theorem setSched_cc : (setSched s n x).cc = s.cc := rfl
@[simp] theorem setSched_fuse : (setSched s n x).fuse = s.fuse := rfl
@[simp] theorem setSched_dbg : (setSched s n x).dbg = s.dbg := rfl
@[simp] theorem setSched_pwr : (setSched s n x).pwr = s.pwr := rfl
@[simp] theorem setSched_hup : (setSched s n x).hup = s.hup := rfl
@[simp] theorem setSched_prm : (setSched s n x).prm = s.prm := rfl
@[simp] theorem setSched_fcu : (setSched s n x).fcu = s.fcu := rfl
@[simp] theorem setSched_pmc : (setSched s n x).pmc = s.pmc := rfl
@[simp] theorem setSched_twn : (setSched s n x).twn = s.twn := rfl
@[simp] theorem setSched_out : (setSched s n x).out = s.out := rfl
@[simp] theorem setSched_freeCtr : (setSched s n x).freeCtr = s.freeCtr := rfl
@[simp] theorem setSched_pending : (setSched s n x).pending = s.pending := rfl
end

section
variable (s : State) (n : Nat) (x : Rsq)
@[simp] theorem setRsq_dev : (setRsq s n x).dev = s.dev := rfl
@[simp] theorem setRsq_bus : (setRsq s n x).bus = s.bus := rfl
@[simp] theorem setRsq_gr : (setRsq s n x).gr = s.gr := rfl
@[simp] theorem setRsq_tb : (setRsq s n x).tb = s.tb := rfl
@[simp] theorem setRsq_evc : (setRsq s n x).evc = s.evc := rfl
@[simp] theorem setRsq_tou : (setRsq s n x).tou = s.tou := rfl
@[simp] theorem setRsq_irig : (setRsq s n x).irig = s.irig := rfl
@[simp] theorem setRsq_tsu : (setRsq s n x).tsu = s.tsu := rfl
@[simp] theorem setRsq_eng : (setRsq s n x).eng = s.eng := rfl
@[simp] theorem setRsq_core : (setRsq s n x).core = s.core := rfl
@[simp] theorem setRsq_ptn : (setRsq s n x).ptn = s.ptn := rfl
@[simp] theorem setRsq_bind : (setRsq s n x).bind_ = s.bind_ := rfl
@[simp] theorem setRsq_cq : (setRsq s n x).cq = s.cq := rfl
@[simp] theorem setRsq_cam : (setRsq s n x).cam = s.cam := rfl
@[simp] theorem setRsq_fdb : (setRsq s n x).fdb = s.fdb := rfl
@[simp] theorem setRsq_cfg : (setRsq s n x).cfg = s.cfg := rfl
@[simp] theorem setRsq_t2 : (setRsq s n x).t2 = s.t2 := rfl
@[simp] theorem setRsq_mt : (setRsq s n x).mt = s.mt := rfl
@[simp] theorem setRsq_ports : (setRsq s n x).ports = s.ports := rfl
@[simp] theorem setRsq_fwd : (setRsq s n x).fwd = s.fwd := rfl
@[simp] theorem setRsq_radio : (setRsq s n x).radio = s.radio := rfl
@[simp] theorem setRsq_pka : (setRsq s n x).pka = s.pka := rfl
@[simp] theorem setRsq_cc : (setRsq s n x).cc = s.cc := rfl
@[simp] theorem setRsq_fuse : (setRsq s n x).fuse = s.fuse := rfl
@[simp] theorem setRsq_dbg : (setRsq s n x).dbg = s.dbg := rfl
@[simp] theorem setRsq_pwr : (setRsq s n x).pwr = s.pwr := rfl
@[simp] theorem setRsq_hup : (setRsq s n x).hup = s.hup := rfl
@[simp] theorem setRsq_prm : (setRsq s n x).prm = s.prm := rfl
@[simp] theorem setRsq_fcu : (setRsq s n x).fcu = s.fcu := rfl
@[simp] theorem setRsq_pmc : (setRsq s n x).pmc = s.pmc := rfl
@[simp] theorem setRsq_twn : (setRsq s n x).twn = s.twn := rfl
@[simp] theorem setRsq_out : (setRsq s n x).out = s.out := rfl
@[simp] theorem setRsq_freeCtr : (setRsq s n x).freeCtr = s.freeCtr := rfl
@[simp] theorem setRsq_pending : (setRsq s n x).pending = s.pending := rfl
end

section
variable (s : State) (n i : Nat) (x : Ctr)
@[simp] theorem setCtr_dev : (setCtr s n i x).dev = s.dev := rfl
@[simp] theorem setCtr_bus : (setCtr s n i x).bus = s.bus := rfl
@[simp] theorem setCtr_gr : (setCtr s n i x).gr = s.gr := rfl
@[simp] theorem setCtr_tb : (setCtr s n i x).tb = s.tb := rfl
@[simp] theorem setCtr_evc : (setCtr s n i x).evc = s.evc := rfl
@[simp] theorem setCtr_tou : (setCtr s n i x).tou = s.tou := rfl
@[simp] theorem setCtr_irig : (setCtr s n i x).irig = s.irig := rfl
@[simp] theorem setCtr_tsu : (setCtr s n i x).tsu = s.tsu := rfl
@[simp] theorem setCtr_eng : (setCtr s n i x).eng = s.eng := rfl
@[simp] theorem setCtr_core : (setCtr s n i x).core = s.core := rfl
@[simp] theorem setCtr_ptn : (setCtr s n i x).ptn = s.ptn := rfl
@[simp] theorem setCtr_bind : (setCtr s n i x).bind_ = s.bind_ := rfl
@[simp] theorem setCtr_cq : (setCtr s n i x).cq = s.cq := rfl
@[simp] theorem setCtr_cam : (setCtr s n i x).cam = s.cam := rfl
@[simp] theorem setCtr_fdb : (setCtr s n i x).fdb = s.fdb := rfl
@[simp] theorem setCtr_cfg : (setCtr s n i x).cfg = s.cfg := rfl
@[simp] theorem setCtr_t2 : (setCtr s n i x).t2 = s.t2 := rfl
@[simp] theorem setCtr_mt : (setCtr s n i x).mt = s.mt := rfl
@[simp] theorem setCtr_qm : (setCtr s n i x).qm = s.qm := rfl
@[simp] theorem setCtr_ports : (setCtr s n i x).ports = s.ports := rfl
@[simp] theorem setCtr_fwd : (setCtr s n i x).fwd = s.fwd := rfl
@[simp] theorem setCtr_radio : (setCtr s n i x).radio = s.radio := rfl
@[simp] theorem setCtr_pka : (setCtr s n i x).pka = s.pka := rfl
@[simp] theorem setCtr_cc : (setCtr s n i x).cc = s.cc := rfl
@[simp] theorem setCtr_fuse : (setCtr s n i x).fuse = s.fuse := rfl
@[simp] theorem setCtr_dbg : (setCtr s n i x).dbg = s.dbg := rfl
@[simp] theorem setCtr_pwr : (setCtr s n i x).pwr = s.pwr := rfl
@[simp] theorem setCtr_hup : (setCtr s n i x).hup = s.hup := rfl
@[simp] theorem setCtr_prm : (setCtr s n i x).prm = s.prm := rfl
@[simp] theorem setCtr_fcu : (setCtr s n i x).fcu = s.fcu := rfl
@[simp] theorem setCtr_twn : (setCtr s n i x).twn = s.twn := rfl
@[simp] theorem setCtr_out : (setCtr s n i x).out = s.out := rfl
@[simp] theorem setCtr_freeCtr : (setCtr s n i x).freeCtr = s.freeCtr := rfl
@[simp] theorem setCtr_pending : (setCtr s n i x).pending = s.pending := rfl
end

section
variable (s : State) (o : Output)
@[simp] theorem emit_dev : (emit s o).dev = s.dev := rfl
@[simp] theorem emit_bus : (emit s o).bus = s.bus := rfl
@[simp] theorem emit_gr : (emit s o).gr = s.gr := rfl
@[simp] theorem emit_tb : (emit s o).tb = s.tb := rfl
@[simp] theorem emit_evc : (emit s o).evc = s.evc := rfl
@[simp] theorem emit_tou : (emit s o).tou = s.tou := rfl
@[simp] theorem emit_irig : (emit s o).irig = s.irig := rfl
@[simp] theorem emit_tsu : (emit s o).tsu = s.tsu := rfl
@[simp] theorem emit_eng : (emit s o).eng = s.eng := rfl
@[simp] theorem emit_core : (emit s o).core = s.core := rfl
@[simp] theorem emit_ptn : (emit s o).ptn = s.ptn := rfl
@[simp] theorem emit_bind : (emit s o).bind_ = s.bind_ := rfl
@[simp] theorem emit_cq : (emit s o).cq = s.cq := rfl
@[simp] theorem emit_cam : (emit s o).cam = s.cam := rfl
@[simp] theorem emit_fdb : (emit s o).fdb = s.fdb := rfl
@[simp] theorem emit_cfg : (emit s o).cfg = s.cfg := rfl
@[simp] theorem emit_t2 : (emit s o).t2 = s.t2 := rfl
@[simp] theorem emit_mt : (emit s o).mt = s.mt := rfl
@[simp] theorem emit_qm : (emit s o).qm = s.qm := rfl
@[simp] theorem emit_ports : (emit s o).ports = s.ports := rfl
@[simp] theorem emit_fwd : (emit s o).fwd = s.fwd := rfl
@[simp] theorem emit_radio : (emit s o).radio = s.radio := rfl
@[simp] theorem emit_pka : (emit s o).pka = s.pka := rfl
@[simp] theorem emit_cc : (emit s o).cc = s.cc := rfl
@[simp] theorem emit_fuse : (emit s o).fuse = s.fuse := rfl
@[simp] theorem emit_dbg : (emit s o).dbg = s.dbg := rfl
@[simp] theorem emit_pwr : (emit s o).pwr = s.pwr := rfl
@[simp] theorem emit_hup : (emit s o).hup = s.hup := rfl
@[simp] theorem emit_prm : (emit s o).prm = s.prm := rfl
@[simp] theorem emit_fcu : (emit s o).fcu = s.fcu := rfl
@[simp] theorem emit_pmc : (emit s o).pmc = s.pmc := rfl
@[simp] theorem emit_twn : (emit s o).twn = s.twn := rfl
@[simp] theorem emit_freeCtr : (emit s o).freeCtr = s.freeCtr := rfl
@[simp] theorem emit_pending : (emit s o).pending = s.pending := rfl
end

section
variable (s : State) 
@[simp] theorem freeNext_dev : (freeNext s).dev = s.dev := rfl
@[simp] theorem freeNext_bus : (freeNext s).bus = s.bus := rfl
@[simp] theorem freeNext_gr : (freeNext s).gr = s.gr := rfl
@[simp] theorem freeNext_tb : (freeNext s).tb = s.tb := rfl
@[simp] theorem freeNext_evc : (freeNext s).evc = s.evc := rfl
@[simp] theorem freeNext_tou : (freeNext s).tou = s.tou := rfl
@[simp] theorem freeNext_irig : (freeNext s).irig = s.irig := rfl
@[simp] theorem freeNext_tsu : (freeNext s).tsu = s.tsu := rfl
@[simp] theorem freeNext_eng : (freeNext s).eng = s.eng := rfl
@[simp] theorem freeNext_core : (freeNext s).core = s.core := rfl
@[simp] theorem freeNext_ptn : (freeNext s).ptn = s.ptn := rfl
@[simp] theorem freeNext_bind : (freeNext s).bind_ = s.bind_ := rfl
@[simp] theorem freeNext_cq : (freeNext s).cq = s.cq := rfl
@[simp] theorem freeNext_cam : (freeNext s).cam = s.cam := rfl
@[simp] theorem freeNext_fdb : (freeNext s).fdb = s.fdb := rfl
@[simp] theorem freeNext_cfg : (freeNext s).cfg = s.cfg := rfl
@[simp] theorem freeNext_t2 : (freeNext s).t2 = s.t2 := rfl
@[simp] theorem freeNext_mt : (freeNext s).mt = s.mt := rfl
@[simp] theorem freeNext_qm : (freeNext s).qm = s.qm := rfl
@[simp] theorem freeNext_ports : (freeNext s).ports = s.ports := rfl
@[simp] theorem freeNext_fwd : (freeNext s).fwd = s.fwd := rfl
@[simp] theorem freeNext_radio : (freeNext s).radio = s.radio := rfl
@[simp] theorem freeNext_pka : (freeNext s).pka = s.pka := rfl
@[simp] theorem freeNext_cc : (freeNext s).cc = s.cc := rfl
@[simp] theorem freeNext_fuse : (freeNext s).fuse = s.fuse := rfl
@[simp] theorem freeNext_dbg : (freeNext s).dbg = s.dbg := rfl
@[simp] theorem freeNext_pwr : (freeNext s).pwr = s.pwr := rfl
@[simp] theorem freeNext_hup : (freeNext s).hup = s.hup := rfl
@[simp] theorem freeNext_prm : (freeNext s).prm = s.prm := rfl
@[simp] theorem freeNext_fcu : (freeNext s).fcu = s.fcu := rfl
@[simp] theorem freeNext_pmc : (freeNext s).pmc = s.pmc := rfl
@[simp] theorem freeNext_twn : (freeNext s).twn = s.twn := rfl
@[simp] theorem freeNext_out : (freeNext s).out = s.out := rfl
@[simp] theorem freeNext_pending : (freeNext s).pending = s.pending := rfl
end

section
variable (s : State) (c i : Nat) (d : Decision)
@[simp] theorem see_dev : (see s c i d).dev = s.dev := rfl
@[simp] theorem see_bus : (see s c i d).bus = s.bus := rfl
@[simp] theorem see_tb : (see s c i d).tb = s.tb := rfl
@[simp] theorem see_evc : (see s c i d).evc = s.evc := rfl
@[simp] theorem see_tou : (see s c i d).tou = s.tou := rfl
@[simp] theorem see_irig : (see s c i d).irig = s.irig := rfl
@[simp] theorem see_tsu : (see s c i d).tsu = s.tsu := rfl
@[simp] theorem see_eng : (see s c i d).eng = s.eng := rfl
@[simp] theorem see_core : (see s c i d).core = s.core := rfl
@[simp] theorem see_ptn : (see s c i d).ptn = s.ptn := rfl
@[simp] theorem see_bind : (see s c i d).bind_ = s.bind_ := rfl
@[simp] theorem see_cq : (see s c i d).cq = s.cq := rfl
@[simp] theorem see_cam : (see s c i d).cam = s.cam := rfl
@[simp] theorem see_fdb : (see s c i d).fdb = s.fdb := rfl
@[simp] theorem see_cfg : (see s c i d).cfg = s.cfg := rfl
@[simp] theorem see_t2 : (see s c i d).t2 = s.t2 := rfl
@[simp] theorem see_mt : (see s c i d).mt = s.mt := rfl
@[simp] theorem see_qm : (see s c i d).qm = s.qm := rfl
@[simp] theorem see_ports : (see s c i d).ports = s.ports := rfl
@[simp] theorem see_fwd : (see s c i d).fwd = s.fwd := rfl
@[simp] theorem see_radio : (see s c i d).radio = s.radio := rfl
@[simp] theorem see_pka : (see s c i d).pka = s.pka := rfl
@[simp] theorem see_cc : (see s c i d).cc = s.cc := rfl
@[simp] theorem see_fuse : (see s c i d).fuse = s.fuse := rfl
@[simp] theorem see_dbg : (see s c i d).dbg = s.dbg := rfl
@[simp] theorem see_pwr : (see s c i d).pwr = s.pwr := rfl
@[simp] theorem see_hup : (see s c i d).hup = s.hup := rfl
@[simp] theorem see_prm : (see s c i d).prm = s.prm := rfl
@[simp] theorem see_fcu : (see s c i d).fcu = s.fcu := rfl
@[simp] theorem see_pmc : (see s c i d).pmc = s.pmc := rfl
@[simp] theorem see_twn : (see s c i d).twn = s.twn := rfl
@[simp] theorem see_out : (see s c i d).out = s.out := rfl
@[simp] theorem see_freeCtr : (see s c i d).freeCtr = s.freeCtr := rfl
@[simp] theorem see_pending : (see s c i d).pending = s.pending := rfl
end

section
variable (s : State) (v : W32)
@[simp] theorem readBack_dev : (readBack s v).dev = s.dev := rfl
@[simp] theorem readBack_gr : (readBack s v).gr = s.gr := rfl
@[simp] theorem readBack_tb : (readBack s v).tb = s.tb := rfl
@[simp] theorem readBack_evc : (readBack s v).evc = s.evc := rfl
@[simp] theorem readBack_tou : (readBack s v).tou = s.tou := rfl
@[simp] theorem readBack_irig : (readBack s v).irig = s.irig := rfl
@[simp] theorem readBack_tsu : (readBack s v).tsu = s.tsu := rfl
@[simp] theorem readBack_eng : (readBack s v).eng = s.eng := rfl
@[simp] theorem readBack_core : (readBack s v).core = s.core := rfl
@[simp] theorem readBack_ptn : (readBack s v).ptn = s.ptn := rfl
@[simp] theorem readBack_bind : (readBack s v).bind_ = s.bind_ := rfl
@[simp] theorem readBack_cq : (readBack s v).cq = s.cq := rfl
@[simp] theorem readBack_cam : (readBack s v).cam = s.cam := rfl
@[simp] theorem readBack_fdb : (readBack s v).fdb = s.fdb := rfl
@[simp] theorem readBack_cfg : (readBack s v).cfg = s.cfg := rfl
@[simp] theorem readBack_t2 : (readBack s v).t2 = s.t2 := rfl
@[simp] theorem readBack_mt : (readBack s v).mt = s.mt := rfl
@[simp] theorem readBack_qm : (readBack s v).qm = s.qm := rfl
@[simp] theorem readBack_ports : (readBack s v).ports = s.ports := rfl
@[simp] theorem readBack_fwd : (readBack s v).fwd = s.fwd := rfl
@[simp] theorem readBack_radio : (readBack s v).radio = s.radio := rfl
@[simp] theorem readBack_pka : (readBack s v).pka = s.pka := rfl
@[simp] theorem readBack_cc : (readBack s v).cc = s.cc := rfl
@[simp] theorem readBack_fuse : (readBack s v).fuse = s.fuse := rfl
@[simp] theorem readBack_dbg : (readBack s v).dbg = s.dbg := rfl
@[simp] theorem readBack_pwr : (readBack s v).pwr = s.pwr := rfl
@[simp] theorem readBack_hup : (readBack s v).hup = s.hup := rfl
@[simp] theorem readBack_prm : (readBack s v).prm = s.prm := rfl
@[simp] theorem readBack_fcu : (readBack s v).fcu = s.fcu := rfl
@[simp] theorem readBack_pmc : (readBack s v).pmc = s.pmc := rfl
@[simp] theorem readBack_twn : (readBack s v).twn = s.twn := rfl
@[simp] theorem readBack_out : (readBack s v).out = s.out := rfl
@[simp] theorem readBack_freeCtr : (readBack s v).freeCtr = s.freeCtr := rfl
@[simp] theorem readBack_pending : (readBack s v).pending = s.pending := rfl
end

section
variable (s : State) (a : Nat) (v : W32)
@[simp] theorem pendWrite_dev : (pendWrite s a v).dev = s.dev := rfl
@[simp] theorem pendWrite_gr : (pendWrite s a v).gr = s.gr := rfl
@[simp] theorem pendWrite_tb : (pendWrite s a v).tb = s.tb := rfl
@[simp] theorem pendWrite_evc : (pendWrite s a v).evc = s.evc := rfl
@[simp] theorem pendWrite_tou : (pendWrite s a v).tou = s.tou := rfl
@[simp] theorem pendWrite_irig : (pendWrite s a v).irig = s.irig := rfl
@[simp] theorem pendWrite_tsu : (pendWrite s a v).tsu = s.tsu := rfl
@[simp] theorem pendWrite_eng : (pendWrite s a v).eng = s.eng := rfl
@[simp] theorem pendWrite_core : (pendWrite s a v).core = s.core := rfl
@[simp] theorem pendWrite_ptn : (pendWrite s a v).ptn = s.ptn := rfl
@[simp] theorem pendWrite_bind : (pendWrite s a v).bind_ = s.bind_ := rfl
@[simp] theorem pendWrite_cq : (pendWrite s a v).cq = s.cq := rfl
@[simp] theorem pendWrite_cam : (pendWrite s a v).cam = s.cam := rfl
@[simp] theorem pendWrite_fdb : (pendWrite s a v).fdb = s.fdb := rfl
@[simp] theorem pendWrite_cfg : (pendWrite s a v).cfg = s.cfg := rfl
@[simp] theorem pendWrite_t2 : (pendWrite s a v).t2 = s.t2 := rfl
@[simp] theorem pendWrite_mt : (pendWrite s a v).mt = s.mt := rfl
@[simp] theorem pendWrite_qm : (pendWrite s a v).qm = s.qm := rfl
@[simp] theorem pendWrite_ports : (pendWrite s a v).ports = s.ports := rfl
@[simp] theorem pendWrite_fwd : (pendWrite s a v).fwd = s.fwd := rfl
@[simp] theorem pendWrite_radio : (pendWrite s a v).radio = s.radio := rfl
@[simp] theorem pendWrite_pka : (pendWrite s a v).pka = s.pka := rfl
@[simp] theorem pendWrite_cc : (pendWrite s a v).cc = s.cc := rfl
@[simp] theorem pendWrite_fuse : (pendWrite s a v).fuse = s.fuse := rfl
@[simp] theorem pendWrite_dbg : (pendWrite s a v).dbg = s.dbg := rfl
@[simp] theorem pendWrite_pwr : (pendWrite s a v).pwr = s.pwr := rfl
@[simp] theorem pendWrite_hup : (pendWrite s a v).hup = s.hup := rfl
@[simp] theorem pendWrite_prm : (pendWrite s a v).prm = s.prm := rfl
@[simp] theorem pendWrite_fcu : (pendWrite s a v).fcu = s.fcu := rfl
@[simp] theorem pendWrite_pmc : (pendWrite s a v).pmc = s.pmc := rfl
@[simp] theorem pendWrite_twn : (pendWrite s a v).twn = s.twn := rfl
@[simp] theorem pendWrite_out : (pendWrite s a v).out = s.out := rfl
@[simp] theorem pendWrite_freeCtr : (pendWrite s a v).freeCtr = s.freeCtr := rfl
@[simp] theorem pendWrite_pending : (pendWrite s a v).pending = s.pending := rfl
end

section
variable (s : State) (p : Pkt)
@[simp] theorem setPkt_dev : (setPkt s p).dev = s.dev := rfl
@[simp] theorem setPkt_bus : (setPkt s p).bus = s.bus := rfl
@[simp] theorem setPkt_gr : (setPkt s p).gr = s.gr := rfl
@[simp] theorem setPkt_tb : (setPkt s p).tb = s.tb := rfl
@[simp] theorem setPkt_evc : (setPkt s p).evc = s.evc := rfl
@[simp] theorem setPkt_tou : (setPkt s p).tou = s.tou := rfl
@[simp] theorem setPkt_irig : (setPkt s p).irig = s.irig := rfl
@[simp] theorem setPkt_tsu : (setPkt s p).tsu = s.tsu := rfl
@[simp] theorem setPkt_eng : (setPkt s p).eng = s.eng := rfl
@[simp] theorem setPkt_core : (setPkt s p).core = s.core := rfl
@[simp] theorem setPkt_ptn : (setPkt s p).ptn = s.ptn := rfl
@[simp] theorem setPkt_bind : (setPkt s p).bind_ = s.bind_ := rfl
@[simp] theorem setPkt_cq : (setPkt s p).cq = s.cq := rfl
@[simp] theorem setPkt_cam : (setPkt s p).cam = s.cam := rfl
@[simp] theorem setPkt_fdb : (setPkt s p).fdb = s.fdb := rfl
@[simp] theorem setPkt_cfg : (setPkt s p).cfg = s.cfg := rfl
@[simp] theorem setPkt_t2 : (setPkt s p).t2 = s.t2 := rfl
@[simp] theorem setPkt_mt : (setPkt s p).mt = s.mt := rfl
@[simp] theorem setPkt_ports : (setPkt s p).ports = s.ports := rfl
@[simp] theorem setPkt_fwd : (setPkt s p).fwd = s.fwd := rfl
@[simp] theorem setPkt_radio : (setPkt s p).radio = s.radio := rfl
@[simp] theorem setPkt_pka : (setPkt s p).pka = s.pka := rfl
@[simp] theorem setPkt_cc : (setPkt s p).cc = s.cc := rfl
@[simp] theorem setPkt_fuse : (setPkt s p).fuse = s.fuse := rfl
@[simp] theorem setPkt_dbg : (setPkt s p).dbg = s.dbg := rfl
@[simp] theorem setPkt_pwr : (setPkt s p).pwr = s.pwr := rfl
@[simp] theorem setPkt_hup : (setPkt s p).hup = s.hup := rfl
@[simp] theorem setPkt_prm : (setPkt s p).prm = s.prm := rfl
@[simp] theorem setPkt_fcu : (setPkt s p).fcu = s.fcu := rfl
@[simp] theorem setPkt_pmc : (setPkt s p).pmc = s.pmc := rfl
@[simp] theorem setPkt_twn : (setPkt s p).twn = s.twn := rfl
@[simp] theorem setPkt_out : (setPkt s p).out = s.out := rfl
@[simp] theorem setPkt_freeCtr : (setPkt s p).freeCtr = s.freeCtr := rfl
@[simp] theorem setPkt_pending : (setPkt s p).pending = s.pending := rfl
end

section
variable (s : State) (i : Nat)
@[simp] theorem delPkt_dev : (delPkt s i).dev = s.dev := rfl
@[simp] theorem delPkt_bus : (delPkt s i).bus = s.bus := rfl
@[simp] theorem delPkt_gr : (delPkt s i).gr = s.gr := rfl
@[simp] theorem delPkt_tb : (delPkt s i).tb = s.tb := rfl
@[simp] theorem delPkt_evc : (delPkt s i).evc = s.evc := rfl
@[simp] theorem delPkt_tou : (delPkt s i).tou = s.tou := rfl
@[simp] theorem delPkt_irig : (delPkt s i).irig = s.irig := rfl
@[simp] theorem delPkt_tsu : (delPkt s i).tsu = s.tsu := rfl
@[simp] theorem delPkt_eng : (delPkt s i).eng = s.eng := rfl
@[simp] theorem delPkt_core : (delPkt s i).core = s.core := rfl
@[simp] theorem delPkt_ptn : (delPkt s i).ptn = s.ptn := rfl
@[simp] theorem delPkt_bind : (delPkt s i).bind_ = s.bind_ := rfl
@[simp] theorem delPkt_cq : (delPkt s i).cq = s.cq := rfl
@[simp] theorem delPkt_cam : (delPkt s i).cam = s.cam := rfl
@[simp] theorem delPkt_fdb : (delPkt s i).fdb = s.fdb := rfl
@[simp] theorem delPkt_cfg : (delPkt s i).cfg = s.cfg := rfl
@[simp] theorem delPkt_t2 : (delPkt s i).t2 = s.t2 := rfl
@[simp] theorem delPkt_mt : (delPkt s i).mt = s.mt := rfl
@[simp] theorem delPkt_ports : (delPkt s i).ports = s.ports := rfl
@[simp] theorem delPkt_fwd : (delPkt s i).fwd = s.fwd := rfl
@[simp] theorem delPkt_radio : (delPkt s i).radio = s.radio := rfl
@[simp] theorem delPkt_pka : (delPkt s i).pka = s.pka := rfl
@[simp] theorem delPkt_cc : (delPkt s i).cc = s.cc := rfl
@[simp] theorem delPkt_fuse : (delPkt s i).fuse = s.fuse := rfl
@[simp] theorem delPkt_dbg : (delPkt s i).dbg = s.dbg := rfl
@[simp] theorem delPkt_pwr : (delPkt s i).pwr = s.pwr := rfl
@[simp] theorem delPkt_hup : (delPkt s i).hup = s.hup := rfl
@[simp] theorem delPkt_prm : (delPkt s i).prm = s.prm := rfl
@[simp] theorem delPkt_fcu : (delPkt s i).fcu = s.fcu := rfl
@[simp] theorem delPkt_pmc : (delPkt s i).pmc = s.pmc := rfl
@[simp] theorem delPkt_twn : (delPkt s i).twn = s.twn := rfl
@[simp] theorem delPkt_out : (delPkt s i).out = s.out := rfl
@[simp] theorem delPkt_freeCtr : (delPkt s i).freeCtr = s.freeCtr := rfl
@[simp] theorem delPkt_pending : (delPkt s i).pending = s.pending := rfl
end

end Sys2Proof.Machine
end

