-- ==== Sys2Proof/Laws/Tab.lean ====
section
/-! SUPPORT. Sparse tables: what an entry reads as after each operation, and that every operation keeps the canonical form. -/

namespace Sys2Proof.Machine

section
variable {α : Type} (d : Nat → α)

/-- An entry after an index is listed. -/
@[simp] theorem tget_tput (t : Tab α) (i j : Nat) (v : α) : tget d (tput t i v) j = if j = i then v else tget d t j := by
  induction t with
  | nil =>
    simp only [tput, tget]
    by_cases h : j = i
    · rw [if_pos h.symm, if_pos h]
    · rw [if_neg fun e => h e.symm, if_neg h]
  | cons e r ih =>
    obtain ⟨k, w⟩ := e
    simp only [tput]
    split
    · rename_i hik
      simp only [tget]
      by_cases h : j = i
      · rw [if_pos h.symm, if_pos h]
      · rw [if_neg fun e => h e.symm, if_neg h]
    · split
      · rename_i _ hki
        simp only [tget]
        by_cases h : j = i
        · rw [if_pos h.symm, if_pos h]
        · rw [if_neg fun e => h e.symm, if_neg h, if_neg fun e => h (e.symm.trans hki)]
      · rename_i _ hki
        simp only [tget, ih]
        by_cases h : j = i
        · rw [if_neg fun e => hki (e.trans h), if_pos h, if_pos h]
        · rw [if_neg h, if_neg h]

/-- An entry after an index is removed. -/
@[simp] theorem tget_tdel (t : Tab α) (i j : Nat) : tget d (tdel t i) j = if j = i then d i else tget d t j := by
  induction t with
  | nil => simp only [tdel, tget]; split <;> simp_all
  | cons e r ih =>
    obtain ⟨k, w⟩ := e
    simp only [tdel]
    split
    · rw [ih]; split <;> simp_all [tget]; intro h; simp_all
    · simp only [tget, ih]; split <;> split <;> simp_all

/-- An entry after an entry is set. -/
@[simp] theorem tget_tset [DecidableEq α] (t : Tab α) (i j : Nat) (v : α) :
    tget d (tset d t i v) j = if j = i then v else tget d t j := by
  unfold tset
  split
  · rw [tget_tdel]; simp_all
  · rw [tget_tput]

/-- A key of a table with an index removed is a key of the table. -/
theorem mem_tdel (t : Tab α) (i : Nat) (e : Nat × α) (h : e ∈ tdel t i) : e ∈ t := by
  induction t with
  | nil => exact h
  | cons x r ih =>
    simp only [tdel] at h
    split at h
    · exact List.mem_cons_of_mem _ (ih h)
    · rcases List.mem_cons.mp h with h | h
      · exact h ▸ List.mem_cons_self
      · exact List.mem_cons_of_mem _ (ih h)

/-- A key of a table with an index listed is the index or a key of the table. -/
theorem mem_tput (t : Tab α) (i : Nat) (v : α) (e : Nat × α) (h : e ∈ tput t i v) : e = (i, v) ∨ e ∈ t := by
  induction t with
  | nil => exact .inl (List.mem_singleton.mp h)
  | cons x r ih =>
    simp only [tput] at h
    split at h
    · exact (List.mem_cons.mp h)
    · split at h
      · rcases List.mem_cons.mp h with h | h
        · exact .inl h
        · exact .inr (List.mem_cons_of_mem _ h)
      · rcases List.mem_cons.mp h with h | h
        · exact .inr (h ▸ List.mem_cons_self)
        · rcases ih h with h | h
          · exact .inl h
          · exact .inr (List.mem_cons_of_mem _ h)

/-- Removing an index keeps the canonical form. -/
theorem twf_tdel [DecidableEq α] (t : Tab α) (i : Nat) (h : twf d t = true) : twf d (tdel t i) = true := by
  induction t with
  | nil => rfl
  | cons x r ih =>
    obtain ⟨k, w⟩ := x
    simp only [twf, Bool.and_eq_true, List.all_eq_true, decide_eq_true_eq] at h
    simp only [tdel]
    split
    · exact ih h.2
    · simp only [twf, Bool.and_eq_true, List.all_eq_true, decide_eq_true_eq]
      exact ⟨⟨h.1.1, fun e he => h.1.2 e (mem_tdel r i e he)⟩, ih h.2⟩

/-- Listing an index under a value it does not read as anyway keeps the canonical form. -/
theorem twf_tput [DecidableEq α] (t : Tab α) (i : Nat) (v : α) (hv : v ≠ d i) (h : twf d t = true) :
    twf d (tput t i v) = true := by
  induction t with
  | nil => simp [tput, twf, hv]
  | cons x r ih =>
    obtain ⟨k, w⟩ := x
    simp only [twf, Bool.and_eq_true, List.all_eq_true, decide_eq_true_eq] at h
    simp only [tput]
    split
    · rename_i hk
      simp only [twf, Bool.and_eq_true, List.all_eq_true, decide_eq_true_eq, List.mem_cons]
      refine ⟨⟨by simp [hv], ?_⟩, ⟨h.1.1, h.1.2⟩, h.2⟩
      rintro e (rfl | he)
      · exact hk
      · exact Nat.lt_trans hk (h.1.2 e he)
    · split
      · rename_i _ hk
        subst hk
        simp only [twf, Bool.and_eq_true, List.all_eq_true, decide_eq_true_eq]
        exact ⟨⟨by simp [hv], h.1.2⟩, h.2⟩
      · rename_i h1 h2
        simp only [twf, Bool.and_eq_true, List.all_eq_true, decide_eq_true_eq]
        refine ⟨⟨h.1.1, fun e he => ?_⟩, ih h.2⟩
        rcases mem_tput r i v e he with rfl | he
        · show k < i; omega
        · exact h.1.2 e he

/-- Setting an entry keeps the canonical form. -/
theorem twf_tset [DecidableEq α] (t : Tab α) (i : Nat) (v : α) (h : twf d t = true) : twf d (tset d t i v) = true := by
  unfold tset
  split
  · exact twf_tdel d t i h
  · exact twf_tput d t i v (by assumption) h

/-- Setting successive entries keeps the canonical form. -/
theorem twf_tputs [DecidableEq α] (t : Tab α) (i : Nat) (l : List α) (h : twf d t = true) : twf d (tputs d t i l) = true := by
  induction l generalizing t i with
  | nil => exact h
  | cons v r ih => exact ih _ _ (twf_tset d t i v h)

end

end Sys2Proof.Machine
end

