-- ==== Sys2Proof/Tests/Slice0.lean ====
section
/-! SUPPORT. The model's own tests: ill-formed commands that the check refuses, a few single steps whose result the spec
gives, and for every statement with hypotheses a state and operands that meet them. -/

set_option maxRecDepth 20000

namespace Sys2Proof.Tests

open Sys2Proof Sys2Proof.Machine

/-- The machine at grain 0 with every island clocked, out of reset and its firmware running. -/
def up : State :=
  { State.reset with
      dev := { State.reset.dev with clkOk := 0x3FFF, inReset := false, intReset := false, resetN := true } }

/-- Command 0 of PT0 with opcode `op` and the given bytes at the given offsets, checked and ready. -/
def cmdOf (op : Nat) (l : List (Nat × Byte)) : Cmd :=
  { id := 0, pt := 0, sq := some 0, bytes := l.foldl (fun b x => b.set x.1 x.2) ((BitVec.ofNat 8 op) :: List.replicate 63 0),
    arrive := 0, state := .ready, engine := none, at_ := 0, done := false }

/-- The machine `up` with that command in flight. -/
def cmdUp (op : Nat) (l : List (Nat × Byte)) : State := { up with cq := { up.cq with cmds := [cmdOf op l], nextCmd := 1 } }

/-- A drain-class setting holds a value. -/
def withDrain (s : State) (sid idx : Nat) (v : List W32) : State :=
  { s with cfg := { s.cfg with drain := tset settingReset s.cfg.drain (skey sid idx) v } }

/-- An epoch-class setting holds a value in the one live epoch, owned by PT0. -/
def withLive (s : State) (sid idx : Nat) (v : List W32) : State :=
  let e := { newest s with
    vals := tset settingReset (newest s).vals (skey sid idx) v, own := tset (fun _ => none) (newest s).own (skey sid idx) (some 0) }
  { s with cfg := { s.cfg with epochs := [e] } }

/-- The machine in state `st` of the power manager. -/
def pwrUp (st : BitVec 2) : State := { up with pwr := { up.pwr with state := st, vaon := true } }

/-- A command with an index beyond what the device has is ill-formed. -/
theorem test_ill_formed_a :
    (∀ x1 x2 x3, Instr.wf (.registerWrite (.pf 16) x1 x2 x3) = false) ∧
    (∀ x1, Instr.wf (.maxFieldRead (.pf 16) x1) = false) ∧
    (Instr.wf (.grCountLoRead (.pf 16)) = false) ∧
    (Instr.wf (.tbTimeNsRead (.pf 16)) = false) ∧
    (∀ x1, Instr.wf (.tbFreqLoWrite (.pf 16) x1) = false) ∧
    (∀ x1, Instr.wf (.tbFreqHiWrite (.pf 16) x1) = false) ∧
    (Instr.wf (.tbFreqLoRead (.pf 16)) = false) ∧
    (∀ x1, Instr.wf (.tbRefCtlWrite (.pf 16) x1) = false) ∧
    (∀ x1, Instr.wf (.refEdge x1 (65536)) = false) ∧
    (∀ x1, Instr.wf (.ppsEdge x1 (65536)) = false) ∧
    (∀ x1, Instr.wf (.tbErrEstWrite (.pf 16) x1) = false) ∧
    (∀ x1 x2, Instr.wf (.ecapEdge (32) x1 x2) = false) ∧
    (∀ x1 x2, Instr.wf (.ecapEdge x1 x2 (65536)) = false) ∧
    (∀ x1, Instr.wf (.evcRecPop (.pf 16) x1) = false) ∧
    (∀ x1, Instr.wf (.evcRecPop x1 (32)) = false) ∧
    (Instr.wf (.tbSmpPop (.pf 16)) = false) ∧
    (Instr.wf (.toutEdge (8)) = false) ∧
    (∀ x1 x2 x3, Instr.wf (.touWrite (.pf 16) x1 x2 x3) = false) ∧
    (∀ x1 x2 x3, Instr.wf (.touWrite x1 (8) x2 x3) = false) ∧
    (∀ x1 x2 x3, Instr.wf (.touWrite x1 x2 (6) x3) = false) ∧
    (Instr.wf (.irigFrameStart (8)) = false) ∧
    (∀ x1 x2, Instr.wf (.touIrigWrite (.pf 16) x1 x2) = false) ∧
    (∀ x1, Instr.wf (.frameStart (96) x1) = false) ∧
    (∀ x1, Instr.wf (.frameStart x1 (65536)) = false) := by
  simp [Instr.wf, Master.wf, QKind.count]

/-- A command with an index beyond what the device has is ill-formed. -/
theorem test_ill_formed_b :
    (∀ x1 x2 x3 x4 x5, Instr.wf (.frameReceived (96) x1 x2 x3 x4 x5) = false) ∧
    (∀ x1 x2, Instr.wf (.microwordExecute (64) x1 x2) = false) ∧
    (∀ x1, Instr.wf (.ucodeParityRewrite (64) x1) = false) ∧
    (∀ x1, Instr.wf (.ucodeParityRewrite x1 (4096)) = false) ∧
    (∀ x1, Instr.wf (.reseqGapTimeout (102) x1) = false) ∧
    (∀ x1, Instr.wf (.timedRelease (102) x1) = false) ∧
    (∀ x1, Instr.wf (.portTransmitStart (102) x1) = false) ∧
    (Instr.wf (.frameTxEnd (102)) = false) ∧
    (Instr.wf (.matchEntryTimeout (96)) = false) ∧
    (∀ x1, Instr.wf (.tsuTxsPop (.pf 16) x1) = false) ∧
    (∀ x1, Instr.wf (.tsuTxsPop x1 (96)) = false) ∧
    (Instr.wf (.gateEntryStart (102)) = false) ∧
    (∀ x1, Instr.wf (.preemptVerify (96) x1) = false) ∧
    (Instr.wf (.engineWedge (64)) = false) ∧
    (∀ x1 x2, Instr.wf (.ptnBindWrite (.pf 16) x1 x2) = false) ∧
    (∀ x1 x2, Instr.wf (.ptnBindWrite x1 (16) x2) = false) ∧
    (Instr.wf (.partitionReset (16)) = false) ∧
    (Instr.wf (.partitionResetComplete (16)) = false) ∧
    (Instr.wf (.partitionResetDeadline (16)) = false) ∧
    (∀ x1 x2, Instr.wf (.ptnWinResetWrite (.pf 16) x1 x2) = false) ∧
    (∀ x1 x2, Instr.wf (.ptnWinResetWrite x1 (16) x2) = false) ∧
    (∀ x1 x2 x3, Instr.wf (.sqDoorbell (.pf 16) x1 x2 x3) = false) ∧
    (∀ x1 x2 x3, Instr.wf (.sqDoorbell x1 (16) x2 x3) = false) ∧
    (∀ x1 x2 x3, Instr.wf (.sqDoorbell x1 x2 (8) x3) = false) := by
  simp [Instr.wf, Master.wf, QKind.count]

/-- A command with an index beyond what the device has is ill-formed. -/
theorem test_ill_formed_c :
    (∀ x1 x2 x3 x4, Instr.wf (.headDoorbell (.pf 16) x1 x2 x3 x4) = false) ∧
    (∀ x1 x2 x3 x4, Instr.wf (.headDoorbell x1 (16) x2 x3 x4) = false) ∧
    (∀ x1 x2 x3, Instr.wf (.headDoorbell x1 x2 true 4 x3) = false) ∧
    (∀ x1 x2 x3, Instr.wf (.headDoorbell x1 x2 false 8 x3) = false) ∧
    (∀ x1 x2 x3 x4, Instr.wf (.queueEnWrite (.pf 16) x1 x2 x3 x4) = false) ∧
    (∀ x1 x2 x3 x4, Instr.wf (.queueEnWrite x1 (16) x2 x3 x4) = false) ∧
    (∀ x1 x2 x3, Instr.wf (.queueEnWrite x1 x2 .sq 8 x3) = false) ∧
    (∀ x1 x2 x3, Instr.wf (.queueEnWrite x1 x2 .cq 8 x3) = false) ∧
    (∀ x1 x2 x3, Instr.wf (.queueEnWrite x1 x2 .er 4 x3) = false) ∧
    (∀ x1 x2, Instr.wf (.completionWrite (16) x1 x2) = false) ∧
    (∀ x1 x2, Instr.wf (.completionWrite x1 (8) x2) = false) ∧
    (∀ x1 x2, Instr.wf (.interruptCoalesceTimeout (16) x1 x2) = false) ∧
    (∀ x1, Instr.wf (.interruptCoalesceTimeout x1 true 4) = false) ∧
    (∀ x1, Instr.wf (.interruptCoalesceTimeout x1 false 8) = false) ∧
    (∀ x1, Instr.wf (.camContextTimeout (16) x1) = false) ∧
    (∀ x1, Instr.wf (.camContextTimeout x1 (16)) = false) ∧
    (Instr.wf (.prmScrubLine (1008)) = false) ∧
    (∀ x1 x2, Instr.wf (.prmRegionWrite (.pf 16) x1 x2) = false) ∧
    (∀ x1 x2, Instr.wf (.prmRegionWrite x1 (16) x2) = false) ∧
    (∀ x1, Instr.wf (.pkaDpOp (.pf 16) x1) = false) ∧
    (Instr.wf (.pkaKeystore (64)) = false) ∧
    (Instr.wf (.tileTransferComplete (14336)) = false) ∧
    (∀ x1, Instr.wf (.linkConditionChange (96) x1) = false) ∧
    (Instr.wf (.upHoldExpiry (96)) = false) := by
  simp [Instr.wf, Master.wf, QKind.count]

/-- A command with an index beyond what the device has is ill-formed. -/
theorem test_ill_formed_d :
    (Instr.wf (.downHoldExpiry (96)) = false) ∧
    (∀ x1 x2, Instr.wf (.prtCtlWrite (.pf 16) x1 x2) = false) ∧
    (∀ x1 x2, Instr.wf (.prtCtlWrite x1 (96) x2) = false) ∧
    (∀ x1, Instr.wf (.cascCtlWrite (.pf 16) x1) = false) ∧
    (∀ x1 x2 x3, Instr.wf (.puntRingWrite (16) x1 x2 x3) = false) ∧
    (Instr.wf (.puntVectorDeferred (16)) = false) ∧
    (∀ x1 x2, Instr.wf (.sendRingPoll (16) x1 x2) = false) ∧
    (∀ x1 x2 x3, Instr.wf (.sendRingRead (16) x1 x2 x3) = false) ∧
    (Instr.wf (.scheduleStart (4)) = false) ∧
    (Instr.wf (.chainStart (4)) = false) ∧
    (Instr.wf (.spanStart (4)) = false) ∧
    (Instr.wf (.burstStart (4)) = false) ∧
    (∀ x1 x2, Instr.wf (.burstEnd (4) x1 x2) = false) ∧
    (∀ x1 x2, Instr.wf (.dpdUpdate (4) x1 x2) = false) ∧
    (Instr.wf (.paLimit (4)) = false) ∧
    (∀ x1 x2, Instr.wf (.syncDetect (4) x1 x2) = false) ∧
    (∀ x1 x2, Instr.wf (.syncDetect x1 x2 (65536)) = false) ∧
    (∀ x1 x2 x3, Instr.wf (.burstDecoded (4) x1 x2 x3) = false) ∧
    (∀ x1, Instr.wf (.radioFrameRelease (4) x1) = false) ∧
    (∀ x1 x2, Instr.wf (.noiseFloorMeasure (4) x1 x2) = false) ∧
    (Instr.wf (.dclkLoss (4)) = false) ∧
    (Instr.wf (.dclkReturn (4)) = false) ∧
    (∀ x1, Instr.wf (.mdmHeldRelease (.pf 16) x1) = false) ∧
    (∀ x1, Instr.wf (.mdmHeldRelease x1 (4)) = false) := by
  simp [Instr.wf, Master.wf, QKind.count]

/-- A command with an index beyond what the device has is ill-formed. -/
theorem test_ill_formed_e :
    (∀ x1 x2, Instr.wf (.rfSpiGo (.pf 16) x1 x2) = false) ∧
    (∀ x1 x2, Instr.wf (.rfSpiGo x1 (4) x2) = false) ∧
    (∀ x1, Instr.wf (.rfSpiComplete (4) x1) = false) ∧
    (Instr.wf (.lockstepFault (0)) = false) ∧
    (∀ x1, Instr.wf (.ccWdogKick (.pf 16) x1) = false) ∧
    (∀ x1 x2, Instr.wf (.ccFuseProgGo (some (.pf 16)) x1 x2) = false) ∧
    (∀ x1 x2, Instr.wf (.semAcq (.pf 16) x1 x2) = false) ∧
    (∀ x1 x2, Instr.wf (.semAcq x1 (64) x2) = false) ∧
    (∀ x1 x2, Instr.wf (.semRel (.pf 16) x1 x2) = false) ∧
    (∀ x1 x2, Instr.wf (.semRel x1 (64) x2) = false) ∧
    (∀ x1 x2, Instr.wf (.semRenew (.pf 16) x1 x2) = false) ∧
    (∀ x1 x2, Instr.wf (.semRenew x1 (64) x2) = false) ∧
    (Instr.wf (.semLeaseExpiry (64)) = false) ∧
    (Instr.wf (.railTimeout (8)) = false) ∧
    (Instr.wf (.pwrGoodLoss (8)) = false) ∧
    (∀ x1, Instr.wf (.fcuXreset (.pf 16) x1) = false) ∧
    (∀ x1 x2 x3 x4, Instr.wf (.pmcCfgWrite (.pf 16) x1 x2 x3 x4) = false) ∧
    (∀ x1 x2 x3 x4, Instr.wf (.pmcCfgWrite x1 (168) x2 x3 x4) = false) ∧
    (∀ x1 x2 x3 x4, Instr.wf (.pmcCfgWrite x1 x2 (8) x3 x4) = false) ∧
    (∀ x1 x2 x3, Instr.wf (.pmcClr (.pf 16) x1 x2 x3) = false) ∧
    (∀ x1 x2 x3, Instr.wf (.pmcClr x1 (168) x2 x3) = false) ∧
    (∀ x1 x2 x3, Instr.wf (.pmcClr x1 x2 (8) x3) = false) ∧
    (∀ x1 x2 x3 x4, Instr.wf (.counterViewRead (.pf 16) x1 x2 x3 x4) = false) ∧
    (∀ x1 x2 x3 x4, Instr.wf (.counterViewRead x1 (16) x2 x3 x4) = false) := by
  simp [Instr.wf, Master.wf, QKind.count]

/-- A command with an index beyond what the device has is ill-formed. -/
theorem test_ill_formed_f :
    (∀ x1 x2 x3 x4, Instr.wf (.counterViewRead x1 x2 (168) x3 x4) = false) ∧
    (∀ x1 x2 x3 x4, Instr.wf (.counterViewRead x1 x2 x3 (8) x4) = false) ∧
    (∀ x1, Instr.wf (.twnCtlWrite (.pf 16) x1) = false) ∧
    (Instr.wf (.islandClockOk (14)) = false) ∧
    (∀ x1, Instr.wf (.devBootLoadWrite (.pf 16) x1) = false) ∧
    (Instr.wf (.pcieFunctionReset (16)) = false) := by
  simp [Instr.wf, Master.wf, QKind.count]

/-! ### Single steps -/

/-- One field of the state after the step that runs `c` on `s`, where it answers a next state. -/
def after {α : Type} (c : Instr) (s : State) (f : State → α) : Option α :=
  match step { s with pending := [c] } with
  | .next t => some (f t)
  | _ => none

/-- A grain boundary counts one (R35). -/
theorem test_grain_counts : after (.grainBoundary 0) up (·.gr.count) = some 1 := by decide

/-- A write of 2 bytes is refused with ACCESS_WIDTH (R7, R30). -/
theorem test_access_width : after (.registerWrite .cc 0x07800004 2 0) up (fun t => t.gr.seen.length) = some 1 := by decide

/-- FLOOR 7 is reserved and keeps the field; DN_WIN takes its value (R560). -/
theorem test_pwr_floor : (pwrApply up 0x04 0x14006427).pwr.floor = 0 ∧ (pwrApply up 0x04 0x14006427).pwr.dnWin = 20 := by decide

/-- TWN_ALIVE_OUT toggles while it runs (R610). -/
theorem test_alive : after .aliveToggle { up with twn := { up.twn with aliveRun := true } } (·.twn.aliveOut) = some true := by decide

/-- RESET_N low gives REASON 1 (R633, R646). -/
theorem test_reset_reason : after .resetNAssert (pwrUp 1) (·.dev.reason) = some 1 := by decide

/-- PFAIL_N starts a shed with CAUSE 0 (R39, R556). -/
theorem test_pfail : after .pfailNAssert (pwrUp 1) (fun t => t.pwr.shed.map (·.1)) = some (some 0) := by decide

/-- SET_EN with MASK 0x0F and VALUE 0x05 sets the enables of rails 0 and 2 and lowers 1 and 3 (R537). -/
theorem test_set_en : setEn 0xFA 0x0F05 = 0xF5 := by decide

/-- The setpoints of rows 0 and 6 are 620 and 860 mV (R540). -/
theorem test_rows : rowMv 0 = 620 ∧ rowMv 6 = 860 := by decide

/-- The check value of CRC-32 over the digits 1 to 9 (IEEE 802.3). -/
theorem test_crc32 : crc32 [0x31, 0x32, 0x33, 0x34, 0x35, 0x36, 0x37, 0x38, 0x39] = 0xCBF43926 := by decide

/-- Fields of an event record (R179). -/
theorem test_event_record : evRecord 672 true false 3 0x01020304 5 =
    [0xA0, 0x42, 3, 0, 4, 3, 2, 1, 5, 0, 0, 0, 0, 0, 0, 0] := by decide

/-- The 32 bytes of a fault record (R571). -/
theorem test_fault_record :
    let r : Rec := { cls := 2, src := 224, cause := 0x71, pt := some 3, data := 1 }
    let x : FRec := { rec_ := r, fence := true, count := 1, epoch := 2, grain := 9, seq := 7, last := 9 }
    (frecBytes x).take 8 = [0xE0, 0x60, 0x71, 0, 0x13, 1, 2, 0] ∧ (frecBytes x).length = 32 := by decide

/-- A unit that does not exist stops with a fault. -/
theorem test_no_unit : step { up with pending := [.toutEdge 8] } = .fault .noSuchUnit := rfl


/-! ### WellFormedCommandsAnswerAState -/

theorem wit_WellFormedCommandsAnswerAState :
    (Instr.toutEdge 7).wf = true ∧ (Instr.toutEdge 8).wf = false := by decide

/-! ### CommandsLeaveTheQueue -/

theorem wit_CommandsLeaveTheQueue :
    (∃ t, exec .highz State.reset = .next t) ∧
    (∃ t, step { State.reset with pending := [.highz, .clamp] } = .next t) := ⟨⟨_, rfl⟩, ⟨_, rfl⟩⟩

/-! ### SvnFloorNeverFalls -/

theorem wit_SvnFloorNeverFalls : ∃ t, step { State.reset with pending := [.fuseProgDone] } = .next t := ⟨_, rfl⟩

/-! ### RefusedRegisterCommands -/

theorem wit_RefusedRegisterCommands :
    refusal up (.pf 1) 0x00200000 4 false true = some 3 ∧ refusal State.reset .mgt 0x00200010 4 true true = some 5 ∧
    refusal { up with pka := { up.pka with fenced := true } } .cc 0x06C00000 4 true true = some 4 := by decide

/-! ### AccessCausesInOrder -/

theorem wit_AccessCausesInOrder :
    ((2 : Nat) ≠ 4 ∨ (0 : Nat) % 4 ≠ 0) ∧
    (0x00200048 % 4 = 0 ∧ reaches up (.pf 1) 0x00200048 = false) ∧
    (0x0020004C % 4 = 0 ∧ reaches up .mgt 0x0020004C = true ∧ barred up .mgt 0x0020004C true = false ∧ regValue up .mgt 0x0020004C = none) ∧
    (reaches State.reset .mgt 0x00200048 = true ∧ barred State.reset .mgt 0x00200048 true = false ∧
      (regValue State.reset .mgt 0x00200048).isSome = true ∧ servedBy 0x00200048 = some 1 ∧ clkOk State.reset 1 = false) := by decide

theorem wit_AccessCausesInOrder_fenced :
    let w := { up with cc := { up.cc with state := 3 } }
    0x07000020 % 4 = 0 ∧ reaches w .mgt 0x07000020 = true ∧ barred w .mgt 0x07000020 true = false ∧
    (regValue w .mgt 0x07000020).isSome = true ∧ (servedBy 0x07000020 = some 2 ∧ clkOk w 2 = true) ∧
    unitFencedAt w 0x07000020 = true := by decide

/-! ### PlainRegisterAccesses -/

theorem wit_PlainRegisterAccesses :
    allowed up .mgt 0x00200048 true ∧ allowed up .cc 0x00200040 true ∧ allowed up (.pf 0) 0 true ∧
    allowed up .mgt 0x0010000C false ∧ allowed up .mgt 0x00100010 false ∧ allowed up .mgt 0 false ∧
    allowed up .mgt 0x00100000 false := by decide

/-! ### CommandsThatDoNotRun -/

theorem wit_CommandsThatDoNotRun :
    cmdAt up 0 = none ∧ (cmdAt (cmdUp 0x08 []) 0).map (·.state) = some .ready ∧ opOf (cmdOf 0x08 []) ≠ 0x10 ∧
    (let c := { cmdOf 0x21 [] with id := 1 }
     objectHeld { up with cq := { up.cq with cmds := [cmdOf 0x20 [], c] } } c = true ∧ objectHeld { up with cq := { up.cq with cmds := [c] } } c = false) := by decide

/-! ### GrainBoundaryCountsOne -/

theorem wit_GrainBoundaryCountsOne :
    (clkOk up 1 = true ∧ up.dev.inReset = false) ∧ clkOk State.reset 1 = false := by decide

/-! ### BacklogAdmission -/

theorem wit_BacklogAdmission :
    let x : Inp := ⟨4, 95, .link 95 true 0⟩
    State.reset.gr.backlog.length ≤ 4096 ∧ x.cls ≤ 5 ∧
    x ∈ ({ up.gr with seen := [x] } : Gr).seen ∧ (⟨0, x⟩ : Entry) ∈ ({ up.gr with waiting := [⟨0, x⟩] } : Gr).waiting ∧
    ({ up.gr with waiting := [⟨0, x⟩] } : Gr).waiting ≠ [] ∧
    3584 ≤ ({ up.gr with backlog := List.replicate 3584 ⟨0, x⟩ } : Gr).backlog.length := by decide

/-! ### DecisionsTakeTheHead -/

theorem wit_DecisionsTakeTheHead :
    let b := fun (d : Decision) => ({ up with gr := { up.gr with backlog := [⟨0, ⟨4, 0, d⟩⟩] } } : State)
    let b6 := fun (d : Decision) => ({ up with gr := { up.gr with backlog := [⟨0, ⟨6, 0, d⟩⟩] } } : State)
    let e : LearnEv := { pt := 0, port := 95, vid := 1, mac := 2 }
    up.twn.shared = [] ∧ up.gr.backlog = [] ∧
    (b (.link 95 true 0)).gr.backlog = ⟨0, ⟨4, 0, .link 95 true 0⟩⟩ :: [] ∧
    (b (.link 0 false 3)).gr.backlog = ⟨0, ⟨4, 0, .link 0 false 3⟩⟩ :: [] ∧
    (b (.link 96 true 0)).gr.backlog = ⟨0, ⟨4, 0, .link 96 true 0⟩⟩ :: [] ∧
    (b6 (.learn e)).gr.backlog = ⟨0, ⟨6, 0, .learn e⟩⟩ :: [] ∧ (b6 (.sweep 7)).gr.backlog = ⟨0, ⟨6, 0, .sweep 7⟩⟩ :: [] := by decide

/-! ### TimeBaseRegisters -/

theorem wit_TimeBaseRegisters :
    allowed up .mgt 0x00200000 false ∧ allowed up .mgt 0x00200010 false ∧ allowed up .mgt 0x00200038 false ∧
    allowed up .cc 0x00200010 true ∧ allowed up .cc 0x00200014 true ∧ allowed up .cc 0x00200020 true ∧
    allowed up (.pf 0) 0x00200044 true := by decide

/-! ### ReferenceQualification -/

theorem wit_ReferenceQualification :
    let w := { up with gr := { up.gr with count := 1000000 } }
    let p := { up with gr := { up.gr with count := 2200000000 }, tb := { up.tb with ppsA := { ok := true, last := some 1100000000, good := 10 } } }
    (w.gr.count.toNat % 1000000 = 0 ∧ w.gr.count ≠ 0) ∧
    (State.reset.gr.count.toNat % 1000000 ≠ 0 ∨ State.reset.gr.count = 0) ∧
    refSilent w false = true ∧ (65535 : Nat) < 65536 ∧ (ppsIn up true).last = none ∧
    (ppsIn p false).last = some 1100000000 ∧ 1100000000 ≤ since p 1100000000 := by decide

/-! ### HoldoverSamplingAndGrowth -/

theorem wit_HoldoverSamplingAndGrowth :
    let w := { up with gr := { up.gr with count := 1048576 } }
    (w.gr.count.toNat % 2 ^ 20 = 0 ∧ w.gr.count ≠ 0 ∧ w.tb.holdPrev = false ∧ (w.tb.means.head?.map (·.1)) ≠ some w.gr.count) ∧
    ({ up.tb with holdPrev := true } : Tb).holdPrev = true ∧
    1000000000 ≤ ({ up.tb with growth := 1000000000 } : Tb).growth ∧
    ({ up.tb with growth := 999999999 } : Tb).growth < 1000000000 ∧
    (let l := { up with tb := { up.tb with src := 1 } }
     srcOk l l.tb.src.toNat = false ∧ l.tb.holdover = false ∧ juniorPaired l = false ∧ paired l = false ∧ l.tb.pRef = none ∧ l.twn.times = []) := by decide

/-! ### CaptureInputs -/

theorem wit_CaptureInputs :
    let x := { Evc.reset with en := true, lastAt := some (0, 0) }
    let w := setEvc { up with gr := { up.gr with count := 8 } } 31 x
    let d := setEvc { up with gr := { up.gr with count := 7 } } 31 x
    allowed up .mgt (0x00400000 + 0x20 * 31 + 0x1C) false ∧ (evcAt up 31).en = false ∧
    ((evcAt d 31).en = true ∧ (evcAt d 31).lastAt = some (0, 0) ∧ since d 0 * 65536 + 65535 < 0 + 8 * 65536) ∧
    ((evcAt w 31).en = true ∧ (evcAt w 31).edge.getLsbD 0 = true ∧ (evcAt w 31).edge.getLsbD 1 = false ∧
      (evcAt w 31).lastAt = some (0, 0) ∧ 0 + 8 * 65536 ≤ since w 0 * 65536 + 0) := by decide

/-! ### TimeOutputs -/

theorem wit_TimeOutputs :
    let x := { Tou.reset with mode := 2 }
    let hi := setTou { up with tb := { up.tb with t := 1000000 * 2 ^ 48 } } 7 { x with level := true }
    let lo := setTou up 7 { x with period := 20 }
    let iv := setTou up 7 { Tou.reset with mode := 3 }
    ((touAt hi 7).level = true ∧ touDue hi (touAt hi 7) ((touAt hi 7).riseAt + highTime (touAt hi 7)) = true) ∧
    ((touAt lo 7).level = false ∧ nextRise lo (touAt lo 7) (touAt lo 7).seekFrom = some 0 ∧ touDue lo (touAt lo 7) 0 = true) ∧
    ((touAt up 7).mode = 0 ∧ (touAt up 7).level = false) ∧
    ((touAt iv 7).mode = 3 ∧ (iv.tb.t + 2048 * 2 ^ 48) % secUnits < 4096 * 2 ^ 48 ∧ (touAt iv 7).level = false ∧ (touAt iv 7).irigBits = []) ∧
    (allowed lo .cc (0x00401000 + 0x20 * 7) true ∧ (touAt lo 7).mode ≠ 0 ∧ fld 0x0E 0 2 = (touAt lo 7).mode.toNat) ∧
    (allowed lo .cc (0x00401000 + 0x20 * 7 + 4 * 1) true ∧ allowed lo .cc (0x00401000 + 0x20 * 7 + 4 * 5) true) := by decide

theorem wit_TimeOutputs_irig :
    let w := { up with tb := { up.tb with t := 5 * secUnits }, irig := { up.irig with leapArm := true, leapSec := 4 } }
    (allowed up .mgt 0x00401104 true ∧ up.irig.leapArm = false) ∧ (allowed up .mgt 0x00401100 true ∧ bit 0x00200025 24 = false) ∧
    (allowed w .mgt 0x00401104 true ∧ w.irig.leapArm = true ∧ (5 : W32).toNat ≤ tSec w.tb.t % 2 ^ 32) ∧
    (w.irig.leapArm = true ∧ w.irig.leapSec.toNat < tSec w.tb.t % 2 ^ 32) := by decide

/-! ### TimeAdjustments -/

theorem wit_TimeAdjustments :
    let w := cmdUp 0x08 [(16, 1)]
    let j := { w with twn := { w.twn with state := twPAIRED } }
    let h := { w with twn := { w.twn with state := twSOLO } }
    let z := cmdUp 0x08 []
    let a : Adj := { set := false, at_ := 0, step := 0, value := 0, cmd := none }
    (readyCmd j 0 0x08 (cmdOf 0x08 [(16, 1)]) ∧ paired j = true ∧ senior j = false) ∧
    (readyCmd h 0 0x08 (cmdOf 0x08 [(16, 1)]) ∧ h.twn.state = twSOLO) ∧
    (readyCmd z 0 0x08 (cmdOf 0x08 []) ∧ paired z = false ∧ z.twn.state ≠ twSOLO ∧
      future z (BitVec.ofNat 64 (par (cmdOf 0x08 []) 16 8)) = false) ∧
    (readyCmd w 0 0x08 (cmdOf 0x08 [(16, 1)]) ∧ paired w = false ∧ w.twn.state ≠ twSOLO ∧
      future w (BitVec.ofNat 64 (par (cmdOf 0x08 [(16, 1)]) 16 8)) = true) ∧
    reached up a.at_ = true ∧ reached up ({ a with at_ := 1 } : Adj).at_ = false ∧ up.tb.adj = none := by decide

/-! ### FrameStartAndPolicingInterval -/

theorem wit_FrameStartAndPolicingInterval :
    let w := setPort up 95 { portAt up 95 with state := 1 }
    (95 < 96 ∧ 65535 < 65536 ∧ w.pwr.shed = none ∧ (portAt w 95).state ≠ 0 ∧ arrivingOn w 95 = none) ∧
    (portAt up 95).state = 0 ∧ up.gr.count.toNat % 1000 = 0 ∧
    ({ up with gr := { up.gr with count := 999 } } : State).gr.count.toNat % 1000 ≠ 0 := by decide

/-! ### ReceivedFramesAndDispatch -/

theorem wit_ReceivedFramesAndDispatch :
    let p := newPkt up 95 0 0 0 [] .arriving
    let w := fun (u d : Bool) => addPkt (setPort up 95 { portAt up 95 with up := u, down := d }) p
    arrivingOn (fecCount up 95 0 0) 95 = none ∧
    (arrivingOn (fecCount (w false false) 95 0 0) 95 = some p ∧ accepts (fecCount (w false false) 95 0 0) 95 p.grain = false) ∧
    (arrivingOn (fecCount (w true false) 95 0 0) 95 = some p ∧ accepts (fecCount (w true false) 95 0 0) 95 p.grain = true ∧
      macReject (List.replicate 59 0) true = some 6 ∧ macReject (List.replicate 60 0) true = none) := by
  decide

/-! ### TimestampUnitRows -/

theorem wit_TimestampUnitRows : allowed up .mgt (0x0030001C + 0x1000 * 95) false := by decide

/-! ### FinishedPacketsLeaveTheirEngine -/

/-- A finished packet of port 95 in engine 63. -/
def finishedPkt : Pkt := { newPkt up 95 0 0 0 (List.replicate 60 0) .finished with engine := some 63 }

/-- The machine holding that packet. -/
def finishedUp (p : Pkt) : State := addPkt up p

theorem wit_FinishedPacketsLeaveTheirEngine :
    let s := finishedUp finishedPkt
    let s1 := engineDone s finishedPkt
    (pktAt s 0 = some finishedPkt ∧ s.pwr.shed = none ∧ finishedPkt.stage = .finished ∧ firstOfEngine s finishedPkt = true) ∧
    (newPkt up 95 0 0 0 [] .inEngine).stage ≠ .finished ∧
    ((rsqAt s1 95).lostSet.contains finishedPkt.seq = false ∧ (ptnAt s1 0).resetting = false ∧ s1.cfg.quiesces = [] ∧
      rewriteOk s1 (epochOf s1 0) finishedPkt = true ∧ ttlPunt s1 (epochOf s1 0) finishedPkt = false ∧
      destWord s1 (epochOf s1 0) finishedPkt = none ∧ finishedPkt.direct = none ∧ finishedPkt.punt = none ∧
      finishedPkt.pass = none ∧ finishedPkt.engine = some 63) ∧
    (portOwner s1 95 = 0 ∧ portOwner (finishedUp { finishedPkt with part := 1 }) 95 ≠ 1) ∧
    (guarNow s 0 < 1 ∧ guarNow s 0 + cellsOf finishedPkt.bytes ≤ ceilNow s 0) := by decide

theorem wit_FinishedPacketsLeaveTheirEngine_discards :
    let l := setRsq (finishedUp finishedPkt) 95 { Rsq.reset with lostSet := [0] }
    let r := setPtn (finishedUp finishedPkt) 0 { Ptn.reset with resetting := true }
    let m := setRsq up 101 { Rsq.reset with missing := [(7, 0)] }
    ((rsqAt (engineDone l finishedPkt) 95).lostSet.contains 0 = true) ∧
    ((ptnAt (engineDone r finishedPkt) 0).resetting = true) ∧
    ((rsqAt m 101).missing.find? (fun x => decide (x.1 = 7)) = some (7, 0) ∧ since m 0 < m.qm.gap.toNat * 1000) ∧
    (let t := { m with gr := { m.gr with count := 4000 } }
     t.qm.gap.toNat * 1000 ≤ since t 0) ∧ (rsqAt up 0).missing.find? (fun x => decide (x.1 = 7)) = none := by decide

theorem wit_FinishedPacketsLeaveTheirEngine_drain :
    let q : Quiesce := { at_ := 0, until_ := 0, pt := 0, cmd := none, num := 0, image := none, sets := [], egress := [],
                         ingress := [95], parts := [], all := false, lost := 0 }
    let s := finishedUp finishedPkt
    let d := { s with cfg := { s.cfg with quiesces := [q] } }
    (engineDone d finishedPkt).cfg.quiesces.any (fun d => d.all || d.parts.contains 0 || d.ingress.contains 95) = true ∧
    (ptnAt up 0).usedCells + 65536 * 8 > ceilNow up 0 := by decide

/-! ### TransmissionAndRelease -/

/-- Port 95 up and transmitting. -/
def sends : State := setPort up 95 { portAt up 95 with state := 3, squelched := false, up := true }

/-- A prompt copy of packet 0 that the resequencer has released, or a timed one due at `r`. -/
def aCopy (r : Option Nat) : Copy := mkCopy up Epoch.zero finishedPkt 95 (List.replicate 60 0) false |> fun c => { c with relAt := r, relG := some 0 }

theorem wit_TransmissionAndRelease :
    let w := setQueue sends 95 0 { Queue.reset with copies := [aCopy none], cells := 1 }
    let t := setQueue sends 95 0 { Queue.reset with copies := [aCopy (some 0)], cells := 1 }
    let k := setQueue up 101 0 { Queue.reset with copies := [aCopy none], cells := 1 }
    (portSends up 100 = false) ∧ (portSends w 95 = true ∧ (schedAt w 95).tx = none ∧ nextTimed w 95 = none ∧ nextPrompt w 95 = some (aCopy none)) ∧
    (∀ q < 8, (promptHead w 95 q).all (fun d => !tooLong w 95 d) = true) ∧
    (portSends t 95 = true ∧ (nextTimed t 95).isSome = true ∧ nextTimed (markHeld t 95) 95 = some (aCopy (some 0)) ∧
      onTime (markHeld t 95) (aCopy (some 0)) = true ∧ (schedAt (markHeld t 95) 95).tx = none) ∧
    plainHead k 101 = some (aCopy none) ∧ nextTimed (markHeld sends 95) 95 = none := by decide

theorem wit_TransmissionAndRelease_end :
    let x : Tx := { copy := aCopy none, queue := 0, start := 0, bits := 672 }
    let s := setSched sends 95 { Sched.reset with tx := some x, verify := 1 }
    let t := { s with gr := { s.gr with count := 1000000 } }
    (schedAt up 0).tx = none ∧ ((schedAt t 95).tx = some x ∧ portRate t 95 = 0) ∧
    (schedAt t 95).verify = 1 ∧ (schedAt up 95).verify ≠ 1 := by decide

/-! ### EnginesExecutePackets -/

/-- Packet 0 in execution in engine 63. -/
def enginePkt (b : List Byte) : Pkt := { newPkt up 95 0 0 0 b .inEngine with engine := some 63 }

/-- The machine with word 5 of region B written, and a packet at that word. -/
def microUp : State :=
  let s := addPkt up { enginePkt (List.replicate 60 0) with ctx := { ctxZero with pc := 5 } }
  { s with cfg := { s.cfg with ucode := [(5, some 0)] } }

theorem wit_EnginesExecutePackets :
    let s := addPkt up (enginePkt ((List.replicate 60 0).set 12 0x88 |>.set 13 0xFB))
    let p := { enginePkt (List.replicate 60 0) with ctx := { ctxZero with pc := 5 } }
    let s0 := setEng microUp 63 { engAt microUp 63 with stepped := true }
    (pktAt microUp 0 = some p ∧ microUp.pwr.shed = none ∧ p.engine = some 63 ∧ engFenced microUp 63 = false ∧
      p.stage = .inEngine ∧ p.ctx.wait = none ∧ runsBase microUp (epochOf microUp 0) = false ∧
      (engAt microUp 63).badWords.contains (ucodeBase microUp (epochOf microUp 0) + 5) = false ∧ p.ctx.steps < 1024 ∧
      mf (ucodeWord microUp 5) 37 5 ≠ 14 ∧
      (mwNext s0 (ucodeWord microUp 5) p (ucodeLen microUp)).2 = none) ∧
    (runsBase s (epochOf s 0) = true ∧ (engAt s 63).badWords = [] ∧
      (pktAt s 0).map (fun p => (p.ctx.pc, etherType p.bytes)) = some (0, 0x88FB)) := by decide

theorem wit_EnginesExecutePackets_entry :
    let p := newPkt up 95 0 0 0 [] .dispatched
    let s := setEng up 63 { Eng.reset with disp := [0], parityAt := [(7, 0)] }
    (p.stage = .dispatched ∧ (engAt s 63).disp.head? = some p.id ∧ (engAt s 63).held.length < 8) ∧
    ((3 + 4, (0 : Grain)) ∈ (engAt s 63).parityAt ∧ since s 0 < 1000000) ∧
    (mf (2 <<< 89) 89 4 = 2 ∧ mf (3 <<< 89) 89 4 = 3 ∧ mf (9 <<< 89) 89 4 = 9 ∧ mf (1 <<< 59) 59 1 = 1 ∧
      (p.bytes.take 256).length * 8 < (0 + mf (1 <<< 59) 53 6) * 8 + mf (1 <<< 59) 50 3 + (mf (1 <<< 59) 46 4 + 1)) ∧
    (mf (14 <<< 37 ||| 1 <<< 29) 37 5 = 14 ∧ mf (14 <<< 37 ||| 1 <<< 29) 29 1 = 1 ∧ mf (14 <<< 37) 29 1 ≠ 1) := by decide

/-! ### EngineFaultsAndLatencyWindows -/

theorem wit_EngineFaultsAndLatencyWindows :
    let s := setEng up 63 { Eng.reset with badWords := [4095], watch := 50000 }
    let w := { up with core := { up.core with win := 1 }, gr := { up.gr with count := 1999999 } }
    ((engAt up 63).badWords.contains 4095 = false ∧ (engAt s 63).badWords.contains 4095 = true) ∧
    (0 < 64 ∧ 0 ≠ 63 ∧ (engAt s 0).fence = 0 ∧ 4095 ∉ (engAt s 0).badWords) ∧
    (50000 ≤ (engAt s 63).watch.toNat ∧ (engAt s 63).fence = 0) ∧ (engAt up 0).watch.toNat < 50000 ∧
    (w.core.win * 1000000 + 999999 ≤ w.gr.count.toNat ∧ w.dev.inReset = false) ∧
    (up.gr.count.toNat < up.core.win * 1000000 + 999999) := by decide

theorem wit_EngineFaultsAndLatencyWindows_alone :
    let s := { up with eng := (List.range 64).map fun k => (k, { Eng.reset with badWords := [4095] }) }
    (engAt s 63).badWords.contains 4095 = true ∧
    (∀ k, k < 64 → k ≠ 63 → (engAt s k).fence = 0 → 4095 ∈ (engAt s k).badWords) := by decide

/-! ### LookupsReturn -/

/-- Packet 0 in engine 63, waiting for `l`. -/
def waitPkt (l : Option Lookup) : Pkt := { enginePkt (List.replicate 60 0) with ctx := { ctxZero with wait := l } }

/-- The machine with that packet and trained DDR5. -/
def waitUp (l : Option Lookup) : State :=
  let s := addPkt up (waitPkt l)
  { s with t2 := { s.t2 with aOk := true, bOk := true } }

theorem wit_LookupsReturn :
    (pktAt (waitUp none) 0 = some (waitPkt none) ∧ (waitPkt none).engine = some 63 ∧ (waitUp none).pwr.shed = none) ∧
    (pktAt (waitUp (some .fdb)) 0 = some (waitPkt (some .fdb)) ∧ (fdbLookup (waitUp (some .fdb)) 0 0 0).1 = none) ∧
    (camProfile (waitUp (some (.cam 63))) (epochOf (waitUp none) 0) 0 63 = none) ∧
    (t2Tile (waitUp none) (epochOf (waitUp none) 0) 3 0 = none) ∧ ((waitPkt (some (.stateLd 31))).flow = 0) := by decide

theorem wit_LookupsReturn_tiles :
    let x : Tile := { red := false, pt := 0, touch := 0, home := none, moving := some 63, flows := [], reds := [] }
    let s := setTile (waitUp (some (.stateLd 0))) 14335 (some x)
    let q : State := { s with mt := { s.mt with reqs := [{ pkt := 0, tile := none, since := 0 }] } }
    tileAt s 14335 = some x ∧ x.moving = some 63 ∧
    (q.mt.reqs.find? (fun r => decide (r.pkt = 0) && r.tile.isNone) = some { pkt := 0, tile := none, since := 0 } ∧
      (pktAt q 0).isSome = true ∧ since q 0 < 2000 ∧ 2000 ≤ since { q with gr := { q.gr with count := 2000 } } 0) := by decide

theorem wit_LookupsReturn_profile :
    let s := withLive (waitUp (some (.cam 0))) sCAM_PROFILE 0 [1, 0]
    camProfile s (epochOf s 0) 0 0 = some { multi := false, casc := false, range := false, blocks := 0 } := by decide

/-! ### TierTwoRows -/

theorem wit_TierTwoRows :
    let s := cmdUp 0x28 []
    let d : State := { s with t2 := { s.t2 with aOk := true, bOk := true } }
    let e := withDrain d sT2_BASE 0 [0, 64, 64, 1]
    (readyCmd s 0 0x28 (cmdOf 0x28 []) ∧ ddrOk s = false) ∧
    (readyCmd d 0 0x28 (cmdOf 0x28 []) ∧ ddrOk d = true ∧ t2Stages d 0 = false) ∧
    (readyCmd e 0 0x28 (cmdOf 0x28 []) ∧ ddrOk e = true ∧ t2Stages e 0 = true ∧ par (cmdOf 0x28 []) 12 4 + bufLen (cmdOf 0x28 []) / 2048 ≤ t2Size e 0) ∧
    (up.dev.inReset = false ∧ up.dev.t2Done = false ∧ ({ up.dev with dirOk := true } : Dev).dirOk = true) := by decide

/-! ### PartitionResetRows -/

theorem wit_PartitionResetRows :
    let r : State := setPtn up 15 { Ptn.reset with resetting := true }
    let e : State := { up with gr := { up.gr with backlog := [⟨0, ⟨2, 17, .ptnReset 15⟩⟩] } }
    let d : State := { r with gr := { r.gr with count := 64000, backlog := [⟨0, ⟨2, 17, .ptnReset 15⟩⟩] } }
    (allowed up .mgt (0x05400000 + 4 * 15) true ∧ (bindAt up 15).en = true ∧ (bindAt (setBind up 15 ⟨1, false⟩) 15).en = false ∧
      allowed (setBind up 15 ⟨1, false⟩) .mgt (0x05400000 + 4 * 15) true ∧ fld 0x1F 0 4 ≠ 0) ∧
    (allowed up .mgt (0x08000004 + 0x100000 * 15) true ∧ fld 0xC1EA 0 16 = 0xC1EA ∧ fld 0 0 16 ≠ 0xC1EA) ∧
    (e.twn.shared = [] ∧ Decision.ptnReset 15 ≠ .ptnReset 0 ∧ (ptnAt e 15).resetting = false ∧ (ptnAt d 15).resetting = true) ∧
    ((ptnAt d 15).rstEnd = false ∧ (!d.qm.pkts.any (fun p => decide (p.part = 15) && decide (p.stage ≠ .arriving))) = true ∧
      (ptnAt d 15).rstT + 64000 ≤ since d (ptnAt d 15).rstAt) ∧
    (since r (ptnAt r 15).rstAt < (ptnAt r 15).rstT + 64000) ∧
    (!(addPkt up { finishedPkt with part := 15 }).qm.pkts.any (fun p => decide (p.part = 15) && decide (p.stage ≠ .arriving))) = false := by
  decide

theorem wit_PartitionResetRows_command :
    let c := cmdOf 0x05 [(8, 15)]
    let s := cmdUp 0x05 [(8, 15)]
    let p : State := { s with cq := { s.cq with cmds := [{ c with pt := 1 }] } }
    (readyCmd s 0 0x05 c ∧ c.pt = 0 ∧ (ptnAt s (parBits c 8 0 4)).resetting = false) ∧
    (readyCmd p 0 0x05 { c with pt := 1 } ∧ parBits c 8 0 4 ≠ 1) ∧
    (let r := setPtn s 15 { Ptn.reset with resetting := true }
     readyCmd r 0 0x05 c ∧ (ptnAt r (parBits c 8 0 4)).resetting = true) := by decide

/-! ### DoorbellsAndEnables -/

theorem wit_DoorbellsAndEnables :
    let r := setPtn up 15 { Ptn.reset with resetting := true }
    let e := setSq (setCq (setEr up 15 3 { Ring.reset with en := true }) 15 7 { Ring.reset with en := true }) 15 7 { Sq.reset with en := true }
    let l := setEr (setCq (setSq up 15 7 { Sq.reset with loc := true }) 15 7 { Ring.reset with loc := true }) 15 3 { Ring.reset with loc := true }
    (allowed r .mgt (0x0800100C + 0x100000 * 15 + 0x20 * 7) true ∧ (ptnAt r 15).resetting = true ∧
      allowed up .mgt (0x0800100C + 0x100000 * 15 + 0x20 * 7) true ∧ (ptnAt up 15).resetting = false ∧
      fld 3 0 12 < sqSize (sqAt up 15 7) ∧ sqSize (sqAt up 15 7) ≤ fld 0xFFF 0 12) ∧
    (allowed up .mgt (0x0800200C + 0x100000 * 15 + 0x20 * 3) true ∧ fld 3 0 12 < ringSize (erAt up 15 3).loc (erAt up 15 3).size 64 ∧
      ringSize (erAt up 15 3).loc (erAt up 15 3).size 64 ≤ fld 0xFFF 0 12) ∧
    (allowed up .mgt (0x0800110C + 0x100000 * 15 + 0x20 * 7) true ∧ fld 3 0 12 < ringSize (cqAt up 15 7).loc (cqAt up 15 7).size 32 ∧
      ringSize (cqAt up 15 7).loc (cqAt up 15 7).size 32 ≤ fld 0xFFF 0 12) ∧
    (allowed e .mgt (0x08001008 + 0x100000 * 15 + 0x20 * 7) true ∧ (sqAt e 15 7).en = true ∧ (cqAt e 15 7).en = true ∧
      (erAt e 15 3).en = true ∧ allowed e .mgt (0x08001108 + 0x100000 * 15 + 0x20 * 7) true ∧
      allowed e .mgt (0x08002008 + 0x100000 * 15 + 0x20 * 3) true) ∧
    (allowed l .mgt (0x08001008 + 0x100000 * 15 + 0x20 * 7) true ∧ (sqAt l 15 7).en = false ∧ bit 0x80 7 = true ∧ bit 0x400 10 = true ∧
      enableRefused l 15 true 0 false = none ∧ enableRefused up 15 false 0 false = some 2 ∧
      allowed l .mgt (0x08001108 + 0x100000 * 15 + 0x20 * 7) true ∧ allowed l .mgt (0x08002008 + 0x100000 * 15 + 0x20 * 3) true) := by
  decide

/-! ### CommandsFetchedCheckedAndCompleted -/

theorem wit_CommandsFetchedCheckedAndCompleted :
    let f : State := setSq { up with dev := { up.dev with bootDone := true } } 15 7 { Sq.reset with en := true, tail := 3 }
    let l : State := setSq f 15 7 { Sq.reset with en := true, tail := 3, loc := true }
    let c := { cmdOf 0x00 [] with state := .arriving }
    let bad := { cmdOf 0x02 [] with state := .arriving }
    let a := fun (c : Cmd) => ({ up with cq := { up.cq with cmds := [c] }, gr := { up.gr with backlog := [⟨0, ⟨7, 0, .command 0⟩⟩] } } : State)
    (fetchOn f = true ∧ nextSq f = some (15, 7) ∧ (sqAt f 15 7).loc = false) ∧ (nextSq l = some (15, 7) ∧ (sqAt l 15 7).loc = true) ∧
    fetchOn up = false ∧
    (cmdAt (a c) 0 = some c ∧ c.state = .arriving ∧ c.done = false ∧ (a c).twn.shared = [] ∧
      (let s1 : State := { a c with gr := { (a c).gr with backlog := [] } }
       firstFail s1 c = none ∧ heldByFence s1 c = false ∧ opEngine (opOf c) = false)) ∧
    (let s1 : State := { a bad with gr := { (a bad).gr with backlog := [] } }
     firstFail s1 bad = some (stNOT_SUPPORTED, false) ∧ opOf bad ≠ 0x22) ∧
    readyCmd (cmdUp 0 []) 0 0 (cmdOf 0 []) := by decide

theorem wit_CommandsFetchedCheckedAndCompleted_held :
    let x := { cmdOf 0x00 [(1, 1), (2, 1)] with id := 1, state := .arriving }
    let y := { cmdOf 0x12 [] with state := .arriving }
    let z := { cmdOf 0x11 [(12, 1)] with state := .arriving }
    let s : State := { up with cq := { up.cq with cmds := [cmdOf 0x00 [], x] } }
    let t : State := withDrain { up with cq := { up.cq with cmds := [z] } } sCAM_BLOCK_OWN 0 [0]
    (firstFail s x = none ∧ heldByFence s x = true) ∧ (firstFail t z = none ∧ heldByFence t z = false ∧ opEngine (opOf z) = true ∧
      leastEngine t = some 0) ∧
    (let d : State := { t with eng := (List.range 64).map fun k => (k, { Eng.reset with fence := 2 }) }
     firstFail d z = none ∧ leastEngine d = none) ∧ opOf y = 0x12 := by decide

theorem wit_CommandsFetchedCheckedAndCompleted_done :
    let f := { cmdOf 0x00 [] with state := .fenced }
    let s : State := { up with cq := { up.cq with cmds := [f] } }
    let g := { cmdOf 0x28 [] with state := .fenced }
    let u : State := { up with cq := { up.cq with cmds := [g] } }
    let w : State := complete (cmdUp 0 []) 0 stDONE []
    let e := setCq w 0 0 { Ring.reset with en := true }
    (let k := { cmdOf 0x22 [(1, 4), (2, 1)] with id := 1, state := .arriving }
     let v : State := { up with cq := { up.cq with cmds := [cmdOf 0x20 [], k] } }
     (firstFail v k).isSome = true ∧ ((firstFail v k).map (·.2)) = some false ∧ opOf k = 0x22 ∧ objectHeld v k = true) ∧
    (cmdAt s 0 = some f ∧ f.done = false ∧ heldByFence s f = false ∧ namesFenced s f = false ∧ opEngine (opOf f) = false) ∧
    (cmdAt u 0 = some g ∧ heldByFence u g = false ∧ namesFenced u g = true ∧ opOf g ≠ 0x22) ∧
    ((w.cq.cpls.find? fun c => decide (c.pt = 0) && decide (c.cq = 0)).isSome = true ∧ cqNoRoom w 0 0 = true ∧
      (cqAt w 0 0).stalled = false) ∧
    ((e.cq.cpls.find? fun c => decide (c.pt = 0) && decide (c.cq = 0)).isSome = true ∧ cqNoRoom e 0 0 = false ∧
      (cqAt e 0 0).loc = false ∧ e.dev.perst = true) ∧
    (cmdAt (cmdUp 0 []) 0 = some (cmdOf 0 []) ∧ (cmdOf 0 []).sq = some 0 ∧ (cmdOf 0 []).engine = none) := by decide

/-! ### CamCommands -/

theorem wit_CamCommands :
    let w := cmdUp 0x10 [(8, 31), (10, 255)]
    let l := withLive (cmdUp 0x12 [(8, 63)]) sCAM_PROFILE 63 [1, 1]
    let k := withLive (cmdUp 0x12 [(8, 63)]) sCAM_PROFILE 63 [5, 1]
    let m : State := { k with cam := { k.cam with cascEn := true, aligned := true } }
    let f : State := { l with cam := { l.cam with fenced := 1 } }
    (readyCmd w 0 0x10 (cmdOf 0x10 [(8, 31), (10, 255)]) ∧
      (parBits (cmdOf 0x10 [(8, 31)]) 12 0 1 = 1 ↔ camRange w 31 = true)) ∧
    (readyCmd (cmdUp 0x11 [(12, 1)]) 0 0x11 (cmdOf 0x11 [(12, 1)])) ∧
    (readyCmd l 0 0x12 (cmdOf 0x12 [(8, 63)]) ∧ (camProfile l (newest l) 0 63).isSome = true ∧ camProfile l (newest l) 0 0 = none ∧
      camProfile l (newest l) 0 63 = some ⟨false, false, false, 1⟩ ∧ camAllFenced l 0 ⟨false, false, false, 1⟩ = false) ∧
    (camProfile f (newest f) 0 63 = some ⟨false, false, false, 1⟩ ∧ camAllFenced f 0 ⟨false, false, false, 1⟩ = true) ∧
    (camProfile k (newest k) 0 63 = some ⟨false, true, false, 1⟩ ∧ camAllFenced k 0 ⟨false, true, false, 1⟩ = false ∧ k.cam.cascEn = false) ∧
    (readyCmd m 0 0x12 (cmdOf 0x12 [(8, 63)]) ∧ camProfile m (newest m) 0 63 = some ⟨false, true, false, 1⟩ ∧ m.cam.slotQ.length < 64) := by
  decide

theorem wit_CamCommands_walk :
    let w : Walk := { live := true, exhausted := false, num := 0, prof := ⟨false, false, false, 1⟩, key := 0, last := 0, remain := 1, used := 0 }
    let x : CamEnt := { range := false, key := 0, mask := 0, pairs := [] }
    let s := setCamEnt (setWalk (cmdUp 0x13 [(8, 15)]) 0 15 (some w)) 0 7 (some x)
    let d := setWalk (cmdUp 0x13 [(8, 15)]) 0 15 (some { w with live := false })
    let z := setWalk (cmdUp 0x13 [(8, 15)]) 0 15 (some { w with remain := 0 })
    (readyCmd s 0 0x13 (cmdOf 0x13 [(8, 15)]) ∧ walkAt s 0 15 = some w ∧ w.remain ≠ 0 ∧
      (camLocalAfter s 0 w.prof w.key w.last).1 = some 7) ∧
    (walkAt d 0 15 = some { w with live := false }) ∧ (walkAt z 0 15 = some { w with remain := 0 }) ∧
    walkAt up 0 15 = none ∧ (since s w.used < 1000000) ∧
    (1000000 ≤ since { s with gr := { s.gr with count := 1000000 } } w.used) ∧ x.range = false := by decide

/-! ### ForwardingDatabaseRows -/

theorem wit_ForwardingDatabaseRows :
    let s := cmdUp 0x18 [(14, 1), (16, 95)]
    let c := cmdOf 0x18 [(14, 1), (16, 95)]
    let z := withDrain s sFDB_REGION 0 [0]
    let j : State := { s with twn := { s.twn with state := twPAIRED } }
    let d := cmdUp 0x19 [(14, 1)]
    (readyCmd s 0 0x18 c ∧ twinOf c = false ∧ fdbBucket s 0 (fdbMac c.bytes) (fdbVid c.bytes) = some 33935) ∧
    (fdbFind s 33935 (fdbMac c.bytes) (fdbVid c.bytes) = none ∧ freeWay s 33935 = some 0) ∧
    (readyCmd z 0 0x18 c ∧ fdbBucket z 0 (fdbMac c.bytes) (fdbVid c.bytes) = none) ∧
    (readyCmd d 0 0x19 (cmdOf 0x19 [(14, 1)]) ∧ readyCmd (cmdUp 0x1A []) 0 0x1A (cmdOf 0x1A []) ∧
      readyCmd (cmdUp 0x1B [(14, 1)]) 0 0x1B (cmdOf 0x1B [(14, 1)])) ∧
    (let t := cmdOf 0x18 [(1, 4)]
     twinOf t = true ∧ readyCmd (cmdUp 0x18 [(1, 4)]) 0 0x18 t ∧ paired (cmdUp 0x18 [(1, 4)]) = false) ∧
    (paired j = true ∧ j.twn.shared.length < 16384) := by decide

/-! ### CascadeRows -/

/-- The machine of position 1 of a cascade of four, aligned. -/
def cascUpState : State :=
  { up with dev := { up.dev with sCascPos := 1 }, cam := { up.cam with cascEn := true, aligned := true, cascLast := 3, dLock := true, uLock := true } }

theorem wit_CascadeRows :
    let t : State := { up with cam := { up.cam with cascEn := true, trainAt := some 0 } }
    let r := cascReq (some 0) none 0 0 ⟨true, true, false, 1⟩ 0 false 0
    let q : State := { cascUpState with cam := { cascUpState.cam with slotQ := [r], cycleAt := -4 } }
    allowed up .mgt 0x07F00000 true ∧ (allowed t .mgt 0x07F00000 true ∧ t.cam.cascEn = true ∧ bit 1 0 = true) ∧
    (t.cam.trainAt.isSome = true ∧ t.cam.aligned = false) ∧
    (laneUsed cascUpState true = true ∧ laneUsed cascUpState false = true ∧ laneUsed up true = false) ∧
    (q.cam.slotQ = [r] ∧ cascUp q = true ∧ inSlot q = true ∧ (cascAnswer q r.pt r.def_ r.key r.walk r.after).1 = none) ∧
    (cascUpState.cam.slotQ = []) := by decide

theorem wit_CascadeRows_records :
    let x : CamEnt := { range := false, key := 0, mask := 0, pairs := [] }
    let k := withLive (setCamEnt cascUpState 0 7 (some x)) sCAM_PROFILE 0 [5, 1]
    let b := withCrc16 (0x01 :: List.replicate 37 0)
    let a := withCrc16 (0x10 :: 4 :: List.replicate 12 0)
    let o := withCrc16 (0x10 :: 0 :: List.replicate 12 0)
    (b.length = 40 ∧ le b 38 2 = (crc16 (b.take 38)).toNat ∧ le b 0 1 = 1 ∧
      camProfile k (newest k) 0 0 = some ⟨false, true, false, 1⟩ ∧
      (cascAnswer k 0 ⟨false, true, false, 1⟩ (keyOf (slice b 8 24)) false 0).1 = some (2 ^ 17 + 7)) ∧
    (a.length = 16 ∧ le a 14 2 = (crc16 (a.take 14)).toNat ∧ le a 1 1 / 4 % 4 = cpos cascUpState ∧ le a 0 1 = 0x10) ∧
    (o.length = 16 ∧ le o 14 2 = (crc16 (o.take 14)).toNat ∧ le o 1 1 / 4 % 4 ≠ cpos cascUpState) := by decide

theorem wit_CascadeRows_form :
    let r := { cascReq (some 0) none 0 0 ⟨true, true, false, 1⟩ 0 false 0 with sent := some 0, recs := [⟨1, 0x10, 7, 1⟩, ⟨2, 0x12, 0, 0⟩] }
    let s : State := { waitUp (some (.cam 0)) with cam := { up.cam with pendCasc := [r] } }
    let t : State := { s with gr := { s.gr with count := 112 } }
    (s.cam.pendCasc = [r] ∧ r.sent = some 0 ∧ r.pkt = some 0 ∧ (pktAt s 0).isSome = true ∧ since s 0 < 112 ∧ 112 ≤ since t 0) ∧
    (lowestOf r.recs 0x10 = some ⟨1, 0x10, 7, 1⟩ ∧ lowestOf r.recs 0x12 = some ⟨2, 0x12, 0, 0⟩) ∧ up.cam.pendCasc = [] ∧
    lowestOf [⟨1, 0x10, 7, 1⟩] 0x12 = none := by decide

/-! ### ConfigurationCommands -/

theorem wit_ConfigurationCommands :
    let t : Txn := ⟨0, false, []⟩
    let o := fun op => ({ cmdUp op [] with cfg := { up.cfg with txns := [t] } } : State)
    let k : Commit := { pt := 0, twin := false, at_ := 1, cmd := some 0, drainOk := false, image := none, sets := [], waiting := false,
                        until_ := 0, remote := false }
    let p : State := { o 0x23 with cfg := { (o 0x23).cfg with commits := [k] } }
    let h := setSem (cmdUp 0x20 []) 16 (some { holder := ⟨false, 0, 1, none⟩, until_ := 1, frozen := none, waiters := [] })
    let u := setSem (cmdUp 0x20 []) 16 (some { holder := ⟨true, 0, 1, some 0⟩, until_ := 1, frozen := none, waiters := [] })
    (readyCmd (cmdUp 0x20 []) 0 0x20 (cmdOf 0x20 []) ∧ semAt (cmdUp 0x20 []) 16 = none ∧ txnOf (cmdUp 0x20 []) 0 = none ∧
      (txnOf (o 0x20) 0).isSome = true) ∧
    (readyCmd (o 0x21) 0 0x21 (cmdOf 0x21 []) ∧ txnOf (o 0x21) 0 = some t ∧ commitOf (o 0x21) 0 = none ∧ t.sets.length < 4096) ∧
    (readyCmd (o 0x22) 0 0x22 (cmdOf 0x22 []) ∧ txnOf (o 0x22) 0 = some t) ∧
    (readyCmd p 0 0x23 (cmdOf 0x23 []) ∧ commitOf p 0 = some k ∧ commitOf (o 0x23) 0 = none) ∧
    (readyCmd h 0 0x20 (cmdOf 0x20 []) ∧ (semAt h 16).isSome = true ∧ readyCmd u 0 0x20 (cmdOf 0x20 []) ∧ (semAt u 16).isSome = true) := by
  decide

theorem wit_ConfigurationCommands_full :
    let t : Txn := ⟨0, false, (List.replicate 4096 (skey sFDB_AGE 0, []))⟩
    4096 ≤ t.sets.length ∧ t.sets.all (fun x => decide (x.1 ≠ setKey (cmdOf 0x21 []))) = true := by
  refine ⟨by simp, ?_⟩
  simp only [List.all_replicate]
  decide

theorem wit_ConfigurationCommands_image :
    let s := cmdUp 0x44 []
    let l : State := { s with cc := { s.cc with semLost := 0x10000 } }
    (readyCmd s 0 0x44 (cmdOf 0x44 []) ∧ s.cc.semLost.getLsbD 16 = false ∧ semAt s 16 = none ∧ imageForm [] = false ∧
      ([] : List Byte).length = bufLen (cmdOf 0x44 [])) ∧
    (readyCmd l 0 0x44 (cmdOf 0x44 []) ∧ l.cc.semLost.getLsbD 16 = true) := by decide

/-! ### CommitsOpenEpochsAndDrain -/

theorem wit_CommitsOpenEpochsAndDrain :
    let k : Commit := { pt := 0, twin := false, at_ := 1, cmd := none, drainOk := true, image := none, sets := [(skey sPTN_WEIGHT 0, [2])],
                        waiting := true, until_ := 64001, remote := false }
    let i : Commit := { k with sets := [] }
    let s := fun (k : Commit) (g : Grain) => ({ up with gr := { up.gr with count := g, backlog := [⟨g, ⟨5, 0, .commit 0⟩⟩] }, cfg := { up.cfg with commits := [k] } } : State)
    let m := fun (k : Commit) (g : Grain) => ({ s k g with gr := { (s k g).gr with backlog := [] } } : State)
    ((s k 1).twn.shared = [] ∧ (s k 1).twn.state = twOFF ∧ (s k 1).twn.ready = none ∧ before 1 k.at_ = false) ∧
    (changing (m k 1) k.sets ≠ [] ∧ before k.until_ 1 = false ∧ mayOpen (m k 1) 1 k = true ∧ commitCheck (m k 1) k 1 = none) ∧
    (changing (m i 1) i.sets = []) ∧ (before k.until_ 64002 = true ∧ before 64002 k.at_ = false) ∧ joins up 0 = false ∧
    ((s k 64001).cfg.commits.find? (fun c => c.waiting && reached (s k 64001) c.until_) = some k) := by decide

theorem wit_CommitsOpenEpochsAndDrain_epochs :
    let a : Epoch := { Epoch.zero with num := 1, opened := 5 }
    let s : State := { up with cfg := { up.cfg with epochs := [a, Epoch.zero], mirrors := [⟨0, true, true, false⟩] } }
    let q : Quiesce := { at_ := 0, until_ := 0, pt := 0, cmd := none, num := 0, image := none, sets := [], egress := [],
                         ingress := [], parts := [], all := false, lost := 0 }
    let d : State := { up with cfg := { up.cfg with quiesces := [q] } }
    let k : Commit := { pt := 0, twin := false, at_ := 0, cmd := none, drainOk := true, image := none, sets := [(skey sPTN_WEIGHT 0, [2])],
                        waiting := true, until_ := 64000, remote := false }
    (s.cfg.epochs = [a, Epoch.zero] ∧ a.opened ≠ s.gr.count ∧ openingPends s = false ∧ (∀ p ∈ s.qm.pkts, p.epoch ≠ 0)) ∧
    (reached s 0 = true ∧ reached s 1 = false) ∧ (d.cfg.quiesces.find? (fun x => !remains d x) = some q) ∧
    (d.cfg.quiesces.find? (fun x => reached d x.until_) = some q ∧
      (quiescePurge d q).cfg.quiesces.find? (fun y => decide (y.at_ = q.at_) && decide (y.pt = q.pt) && decide (y.num = q.num)) = some q) ∧
    (mayOpen s 0 k = false) := by decide

/-! ### CountersAndCensus -/

theorem wit_CountersAndCensus :
    let x : Census := { num := 0, at_ := 1, epoch := 0, ents := [] }
    let p : State := { cmdUp 0x30 [] with pmc := { up.pmc with pend := some 1 } }
    let q : State := { cmdUp 0x30 [] with pmc := { up.pmc with pend := some 2 } }
    let w : State := { cmdUp 0x30 [] with pmc := { up.pmc with writing := some x } }
    let r : State := { cmdUp 0x31 [] with pmc := { up.pmc with slots := [x] } }
    allowed up .mgt (0x07D00000 + 167 * 0x40 + 7 * 8 + 4) true ∧ allowed up .cc 0x07D00000 true ∧
    (allowed up .mgt (winBase 15 + 0x10000) false ∧ allowed up .mgt (winBase 0 + 0x10000 + 167 * 0x40 + 7 * 8 + 4) false ∧
      ctrOf 0 (ctrAt up 167 7) = true ∧ ctrOf 15 (ctrAt up 0 0) = false) ∧
    (readyCmd (cmdUp 0x30 []) 0 0x30 (cmdOf 0x30 []) ∧ par (cmdOf 0x30 []) 16 8 = 0) ∧
    (readyCmd p 0 0x30 (cmdOf 0x30 []) ∧ p.pmc.pend = some 1 ∧ readyCmd q 0 0x30 (cmdOf 0x30 []) ∧ reached q 2 = false ∧
      readyCmd w 0 0x30 (cmdOf 0x30 []) ∧ w.pmc.writing = some x) ∧
    (readyCmd r 0 0x31 (cmdOf 0x31 []) ∧ r.pmc.slots.find? (fun x => decide (x.num.toNat = par (cmdOf 0x31 []) 8 2)) = some x ∧
      readyCmd (cmdUp 0x31 []) 0 0x31 (cmdOf 0x31 []) ∧ (cmdUp 0x31 []).pmc.slots = []) ∧
    reached { p with gr := { p.gr with count := 1 } } 1 = true := by decide

/-! ### PersistentRecordRows -/

/-- A command of PT0 that has run, and a region of four units for PT0. -/
def storeUp (n : Nat) : State :=
  let s := cmdUp 0x34 [(12, BitVec.ofNat 8 n), (52, BitVec.ofNat 8 (64 * n))]
  { s with prm := { s.prm with regions := [(0, (0, 4))], wait := [(0, List.replicate (64 * n) 1)] }, hup := { s.hup with eBank := 1000000000 },
           gr := { s.gr with backlog := [⟨0, ⟨0, 16, .store 0⟩⟩] } }

theorem wit_PersistentRecordRows :
    let c := cmdOf 0x34 [(12, 1), (52, 64)]
    let l := { storeUp 1 with hup := { up.hup with low := true } }
    (readyCmd (storeUp 1) 0 0x34 c ∧ (storeUp 1).twn.shared = [] ∧ cmdAt (storeUp 1) 0 = some c ∧ rangePrm (storeUp 1) c = true ∧
      rangePrm (storeUp 0) (cmdOf 0x34 [(12, 0), (52, 0)]) = false ∧ (storeUp 1).prm.stores = [] ∧ (storeUp 1).pwr.shed = none ∧
      (storeUp 1).hup.low = false ∧ covers (storeUp 1) (storeFor (storeUp 1) c []).energy = true ∧ l.hup.low = true) ∧
    ((storeUp 1).prm.wait.find? (fun w => match cmdAt (storeUp 1) w.1 with | some c => decide (c.pt = 0) | none => false)).isSome = true := by
  decide

theorem wit_PersistentRecordRows_full :
    let x : Store := { cmd := none, owner := 0, first := 4096, lines := [zeroLine], scrub := [], energy := 0, admitAt := 0, startAt := some 0 }
    let f := { storeUp 1 with prm := { (storeUp 1).prm with stores := List.replicate 64 x } }
    64 ≤ (f.prm.stores.filter fun y => decide (y.owner = 0)).length ∧ storeEnds f x = false ∧
    storeEnds { f with gr := { f.gr with count := 2250 } } x = true ∧ (∃ y ∈ f.prm.stores, y.owner = 0) := by decide

theorem wit_PersistentRecordRows_lines :
    let x : Store := { cmd := none, owner := 0, first := 4096, lines := [zeroLine], scrub := [], energy := 0, admitAt := 0, startAt := none }
    let f := { up with prm := { up.prm with stores := [x] } }
    let z := { up with prm := { up.prm with scrub := [0], badLines := [8192], regions := [(1, (0, 4))] } }
    readyCmd (cmdUp 0x35 []) 0 0x35 (cmdOf 0x35 []) ∧ lineStored f 4096 = some zeroLine ∧ f.prm.stores ≠ [] ∧
    (lineStored z 4096 = none ∧ unitOf 4096 = some 0 ∧ z.prm.scrub.contains 0 = true) ∧
    (lineStored z 8192 = none ∧ unitOf 8192 = some 16 ∧ z.prm.scrub.contains 16 = false ∧ z.prm.badLines.contains 8192 = true ∧
      z.prm.badLines.contains 8193 = false) ∧
    (z.prm.scrubLast = none ∧ z.prm.stores = [] ∧ z.hup.low = false ∧ z.pwr.shed = none ∧ z.prm.scrub.contains 1007 = false) ∧
    (allowed up .mgt (0x07820000 + 4 * 15) true ∧ fld 0x00010003 0 10 < 0 + 4 ∧ 0 < fld 0x00010003 0 10 + fld 0x00010003 16 10 ∧
      tget (fun _ => ((0, 0) : Nat × Nat)) z.prm.regions 1 = (0, 4)) := by decide

/-! ### HoldUpBankRows -/

theorem wit_HoldUpBankRows :
    let b := { up with hup := { up.hup with vMin := 9000, eBank := 1000000000, period := 1, dueAt := 0, test := none } }
    let d := { b with gr := { b.gr with count := 1000000000 } }
    let x := { d with hup := { d.hup with eBank := 0, v := 10, iTest := 10 } }
    let m := { cmdUp 0x70 [] with hup := b.hup }
    let n := { cmdUp 0x70 [] with hup := x.hup }
    b.hup.vMin ≠ 0 ∧
    (let l := { b with hup := { b.hup with low := true } }
     l.hup.low = true ∧ held l + 2000000 ≤ 2000 * l.hup.eBank ∧ (let z := { l with hup := { l.hup with eBank := 0 } }; 2000 * z.hup.eBank < held z + 2000000)) ∧
    (b.hup.low = false ∧ heldStores b + reserve b ≤ 2000 * b.hup.eBank ∧
      (let z := { b with hup := { b.hup with pHold := 1, eBank := 0 } }; 2000 * z.hup.eBank < heldStores z + reserve z)) ∧
    (d.hup.period ≠ 0 ∧ d.pwr.shed = none ∧ d.hup.period.toNat * 1000000000 ≤ since d d.hup.dueAt ∧ d.hup.test = none ∧
      covers d (testEnergy d) = true ∧ covers x (testEnergy x) = false) ∧
    (readyCmd m 0 0x70 (cmdOf 0x70 []) ∧ covers m (testEnergy m) = true ∧ readyCmd n 0 0x70 (cmdOf 0x70 []) ∧
      covers n (testEnergy n) = false) := by decide

theorem wit_HoldUpBankRows_ends :
    let b := { up with hup := { up.hup with vMin := 9000, test := some none, iTest := 1000, div := 400, testAt := 0 },
                       gr := { up.gr with count := 2000000 } }
    (b.hup.test = some none ∧ 2000000 ≤ since b b.hup.testAt ∧ testBad b 0 0 0 = true ∧ testBad b 131080 16384 16383 = false ∧
      since { b with gr := { b.gr with count := 1999999 } } 0 < 2000000) := by decide

/-! ### KeyServices -/

/-- A service of PT0 for command 0 at the head of the order. -/
def serviceUp (op : Nat) (slot : Nat) (endAt : Option Grain) (slices : Bool) : State :=
  let s := cmdUp op []
  let v : Service := { cmd := 0, pt := 0, op := BitVec.ofNat 8 op, alg := 10, slot := slot, dest := 1, len := 0, input := [], endAt := endAt,
                       slices := slices, status := 0, output := [1], outAt := 0, key := none }
  { s with pka := { s.pka with queue := [v], entOk := true, drbgOk := true, inst := true } }

theorem wit_KeyServices :
    let s := serviceUp 0x50 0 none false
    readyCmd (cmdUp 0x50 []) 0 0x50 (cmdOf 0x50 []) ∧ readyCmd (cmdUp 0x51 []) 0 0x51 (cmdOf 0x51 []) ∧
    readyCmd (cmdUp 0x52 []) 0 0x52 (cmdOf 0x52 []) ∧ readyCmd (cmdUp 0x58 []) 0 0x58 (cmdOf 0x58 []) ∧
    readyCmd (cmdUp 0x59 []) 0 0x59 (cmdOf 0x59 []) ∧ readyCmd (cmdUp 0x5A []) 0 0x5A (cmdOf 0x5A []) ∧
    readyCmd (cmdUp 0x5B []) 0 0x5B (cmdOf 0x5B []) ∧
    (s.pka.queue.filter (fun v => v.endAt.isSome || v.slices || serves s v) = s.pka.queue ∧ ccFenced s = false ∧ s.dbg.halted = false ∧
      serviceMissing s 0 = false ∧ slotBusy s 0 [0] = false ∧ keyOwner s 0 = 0 ∧ keyAt s 0 = none ∧
      s.pka.queue.all (fun v => !isRsaGen v) = true) := by decide

theorem wit_KeyServices_ends :
    let g := serviceUp 0x50 0 (some 0) false
    let z := serviceUp 0x50 0 (some 0) true
    (g.pka.queue.all (fun v => decide (v.endAt = some 0 ∧ v.slices = false ∧ v.output ≠ [])) = true ∧ reached g 0 = true ∧
      reached g 1 = false ∧ (cmdAt g 0).isSome = true) ∧
    (z.pka.queue.all (fun v => v.slices && v.endAt.isSome) = true ∧ (cmdAt z 0).isSome = true) := by decide

theorem wit_KeyServices_found :
    let k := privKey 4 (List.replicate 32 1)
    let o := setKeySlot up 0 (some { kind := 1, alg := 5, priv := List.replicate 32 1, pub := [] })
    keyOwner up 63 = 0 ∧ (keyAt o 0).isSome = true ∧ keyAt up 0 = none ∧ k.kind = 1 ∧ (pubLens 5).contains 32 = true ∧
    mlenOk 4 0 = true ∧ mlenOk 1 32 = true ∧ zeros [0, 0, 0, 0] 3 1 = true ∧ le [0, 0, 0, 0] 0 2 = 0 := by
  refine ⟨by decide, by decide, by decide, rfl, by decide, by decide, by decide, by decide, by decide⟩

/-! ### KeySlotsEntropyAndDatapath -/

theorem wit_KeySlotsEntropyAndDatapath :
    let pubKey : KeySlot := { kind := 2, alg := 5, priv := [], pub := List.replicate 32 9 }
    let sec : KeySlot := { kind := 3, alg := 11, priv := List.replicate 32 9, pub := [] }
    let p := fun op l => setKeySlot (cmdUp op l) 0 (some pubKey)
    let q := fun op l => setKeySlot (cmdUp op l) 0 (some sec)
    (readyCmd (p 0x53 []) 0 0x53 (cmdOf 0x53 []) ∧ slotBusy (p 0x53 []) 0 [0] = false ∧ pubKey.kind ≠ 3 ∧ bufLen (cmdOf 0x53 []) < 32 ∧
      readyCmd (q 0x53 []) 0 0x53 (cmdOf 0x53 []) ∧ keyAt (q 0x53 []) 0 = some sec ∧ keyAt up 0 = none ∧ 32 ≤ bufLen (cmdOf 0x53 [(52, 32)])) ∧
    (readyCmd (p 0x54 []) 0 0x54 (cmdOf 0x54 []) ∧ slotBusy (p 0x54 []) 0 [0] = false ∧ slotBusy (serviceUp 0x50 0 (some 0) false) 1 [0] = true) ∧
    (readyCmd (q 0x5C [(12, 1)]) 0 0x5C (cmdOf 0x5C [(12, 1)]) ∧ slotBusy (q 0x5C [(12, 1)]) 0 (slotsNamed (cmdOf 0x5C [(12, 1)])) = false ∧
      par (cmdOf 0x5C [(12, 1)]) 12 1 = 1 ∧ sec.alg.toNat = 11 ∧ par (cmdOf 0x5C []) 12 1 = 0) ∧
    (allowed up .cc 0x06C00000 true ∧ allowed up .mgt 0x06C00000 true) ∧
    (let b := { up with pka := { up.pka with x := 0, a := 8, b := 16 } }
     dpRefused b 0 1 = false ∧ dpRefused up 0 1 = true ∧ dpRefused { up with pka := { up.pka with x := 4095 } } 0 1 = true) ∧
    (let d := { up with pka := { up.pka with entOk := true, drbgOk := true, reqs := 4096 } }
     d.pka.drbgOk = true ∧ 4096 ≤ d.pka.reqs ∧ up.dev.inReset = false) := by decide

/-! ### LinkStateMachine -/

/-- Port 0 in a link state with conditions that are all good. -/
def linkUp (st : Nat) (good : Bool) : State :=
  setPort up 0 { Port.reset with
    state := BitVec.ofNat 3 st, sig := good, cdr := good, sync := good, fec := true, an := true, lf := false, rf := false, hiBer := false,
    adminDown := false }

theorem wit_LinkStateMachine :
    (portAt (linkUp 0 false) 0).state = 0 ∧ ((portAt (linkUp 1 true) 0).state = 1 ∧ badConds (linkUp 1 true) 0 (portAt (linkUp 1 true) 0) = []) ∧
    ((portAt (linkUp 2 false) 0).state = 2 ∧ badConds (linkUp 2 false) 0 (portAt (linkUp 2 false) 0) = [2, 3, 4]) ∧
    ((portAt (linkUp 3 false) 0).state = 3 ∧ badConds (linkUp 3 false) 0 (portAt (linkUp 3 false) 0) = [2, 3, 4]) ∧
    ((portAt (linkUp 4 true) 0).state = 4 ∧ badConds (linkUp 4 true) 0 (portAt (linkUp 4 true) 0) = []) ∧
    (let u := setPort up 95 { Port.reset with state := 2, upHold := 1 }
     since u (portAt u 95).upSince < (portAt u 95).upHold.toNat * 1000 ∧
       1000 ≤ since { u with gr := { u.gr with count := 1000 } } (portAt u 95).upSince) ∧
    (allowed up .mgt (0x01000000 + 95 * 0x10000) true ∧ bit 1 0 = true ∧ up.fcu.xDue = none ∧ up.fcu.holding = false ∧ up.pwr.shed = none) := by
  decide

theorem wit_LinkStateMachine_mode :
    let g := withDrain (linkUp 3 true) sPORT_MODE 0 [3]
    portMode g 0 = 3 ∧ anApplies g 0 = true ∧ (portAt g 0).state = 3 ∧ (portAt g 0).an = true ∧
    (let a := withDrain (setPort up 0 { Port.reset with adminDown := true }) sPORT_MODE 0 [5]
     (portAt a 0).state = 0 ∧ (portAt a 0).adminDown = true ∧ portMode a 0 ≠ 0) := by decide

/-! ### PuntAndSendRings -/

/-- PT0 with both rings enabled on function 0. -/
def ringsUp : State :=
  let s := withLive up sFWD_MCAST 8320 [0, 0, 0, 0, 0x80000040, 0, 0, 0x80000040, 0, 0]
  { s with dev := { s.dev with perst := true } }

theorem wit_PuntAndSendRings :
    let c : Copy := { aCopy none with pkt := 0, part := 0 }
    let q := setQueue (finishedUp finishedPkt) 100 0 { Queue.reset with copies := [c], cells := 1 }
    (plainHead q 100).isSome = true ∧ (pktAt q 0).isSome = true ∧ q.pwr.shed = none ∧ ringOn up 0 false = false := by decide

theorem wit_PuntAndSendRings_on :
    (ringOn ringsUp 0 false = true ∧ fnDma ringsUp 0 = true ∧ ringFn ringsUp 0 false = 0 ∧ (ptnAt ringsUp 0).puntStop = false) ∧
    (le (List.replicate 15 0 ++ [1]) 15 1).testBit 0 = true ∧
    ((ptnAt up 15).puntVecAt = none ∧ (ptnAt up 15).puntDefer = false) ∧
    (sendOn ringsUp 0 = true ∧ (ptnAt ringsUp 0).sendDesc = none ∧ (ptnAt ringsUp 0).sendPollAt = none ∧ sendOn up 0 = false) := by decide

theorem wit_PuntAndSendRings_descriptor :
    let d : List Byte := List.replicate 8 0 ++ [60] ++ List.replicate 6 0 ++ [1]
    le d 8 2 % 2 ^ 14 = 60 ∧ (sendPkt up 0 d [] 0).direct = none ∧
    (sendPkt up 0 (List.replicate 8 0 ++ [60, 0, 0, 0, 1]) [] 0).direct.isSome = true := by decide

/-! ### RadioConfigurationCommands -/

theorem wit_RadioConfigurationCommands :
    let good : List (Nat × Byte) := [(10, 1), (12, 250), (17, 8), (20, 50), (24, 1)]
    let x : TdmSched := { spans := 1, chain := 250, span := 2048, hem := 50, start := 1 }
    (readyCmd (cmdUp 0x60 good) 0 0x60 (cmdOf 0x60 good) ∧ ¬ (x.chain * 1000 < x.spans * x.span ∨ x.span ≤ 2 * x.hem ∨
      x.start * secUnits ≤ (cmdUp 0x60 good).tb.t) ∧ par (cmdOf 0x60 good) 16 4 = 2048 ∧ par (cmdOf 0x60 good) 24 8 = 1) ∧
    (readyCmd (cmdUp 0x61 [(9, 1)]) 0 0x61 (cmdOf 0x61 [(9, 1)]) ∧ nodeGet (nodesNext (radioAt up 0)) 1 = none ∧
      nodeList (nodesNext (radioAt up 0)) = []) ∧
    (let e : NodeEnt := { state := 1, count := 0, mask := 1, sync := 0, offset := 0 }
     let t := setRadio (cmdUp 0x62 [(9, 1)]) 0 { Radio.reset with nodes := [(1, some e)] }
     readyCmd t 0 0x62 (cmdOf 0x62 [(9, 1)]) ∧ (nodeGet (nodesNext (radioAt t 0)) 1).isSome = true ∧
       nodeList (nodesNext (radioAt t 0)) = [(1, e)]) ∧
    (readyCmd (cmdUp 0x63 []) 0 0x63 (cmdOf 0x63 []) ∧ (radioAt up 0).shapeCmd = none ∧ (radioAt up 0).burst = none ∧ ccFenced up = false ∧
      shapeOf true ([1, 1] ++ List.replicate 118 0) ≠ none ∧ shapeOf true [] = none) ∧
    (allowed up .mgt (0x06000008 + 0x1000 * 3) true ∧ allowed up .cc (0x06000034 + 0x1000 * 3) true ∧ bit 0x48 6 = true ∧
      (radioAt up 3).spiBusy = false ∧ (radioAt up 3).holdCause ≠ 3) := by decide

/-! ### ChainsSpansAndBursts -/

/-- Channel 0 enabled, clocked and idle. -/
def radioUp (r : Radio) : State :=
  withDrain (setRadio up 0 { r with dclkOk := true }) sRADIO_MODE 0 [0x0A100A01, 100000, 0, 0, 0x00010420]

/-- A schedule of two spans, and the channel in a chain of it: the beacon span and a downlink span. -/
def aSched : TdmSched := { spans := 2, chain := 250, span := 40000, hem := 50, start := 0 }

/-- Channel 0 in chain 0 of that schedule. -/
def inChain : Radio := { Radio.reset with sched := some aSched, chainOn := true, chain := 0, roles := [0, 255], spanIdx := 0, dclkOk := true }

theorem wit_ChainsSpansAndBursts :
    let w := { Radio.reset with nextSched := some aSched }
    let u := radioUp { Radio.reset with sched := some aSched }
    ((radioAt (radioUp w) 0).nextSched = some aSched ∧ aSched.start * secUnits ≤ (radioUp w).tb.t ∧ up.dev.inReset = false) ∧
    ((radioAt u 0).sched = some aSched ∧ posAt aSched u.tb.t = some (0, 0, some 0) ∧ (radioAt u 0).chainOn = false) ∧
    (schedOn (radioAt (radioUp inChain) 0) = some aSched ∧ schedOn Radio.reset = none ∧
      posAt { aSched with start := 1 } u.tb.t = none) ∧
    (rWorks (radioUp inChain) 0 = true ∧ inChain.held = false ∧ inChain.pa = false ∧ inChain.burst = none ∧ rWorks up 0 = false) := by decide

theorem wit_ChainsSpansAndBursts_slot :
    let t := { radioUp inChain with tb := { up.tb with t := 40 * usU } }
    let d := { radioUp inChain with tb := { up.tb with t := 40040 * usU } }
    (burstSlot t 0).map (fun x => x.1.1) = some 0 ∧ fwRuns t = true ∧ (burstSlot d 0).map (fun x => x.1.1) = some 255 ∧
    burstSlot (radioUp inChain) 0 = none ∧ plainHead d 96 = none := by decide

theorem wit_ChainsSpansAndBursts_end :
    let b : TxBurst := { beacon := true, frame := [], start := 0, end_ := 0, copy := none, endAt := 0 }
    let s := radioUp { inChain with burst := some b, pa := true }
    let k : Shape := { Radio.reset.shape with dpd := false, mask := [(0, 0), (1, 0)] }
    ((radioAt s 0).burst = some b ∧ reached s b.endAt = true ∧ reached s 1 = false ∧ (radioAt s 0).pa = true) ∧
    (worstBin k.mask [(0, 1)] = some 0 ∧ worstBin k.mask [] = none) ∧
    41000000 ≤ since { s with gr := { s.gr with count := 41000000 } } (radioAt s 0).paAt ∧
    (radioAt up 0).dclkOk = false ∧
    (let h : Shape := { k with dpd := true, ko := 1, md := 1, mu := 0, coef := List.replicate 28 0 }
     coefOk h (List.replicate 28 0) (List.replicate 28 0) = true) := by decide

/-! ### RadioReception -/

/-- A node that is ACTIVE and holds span 1. -/
def aNode : NodeEnt := { state := 1, count := 0, mask := 2, sync := 0x12345678, offset := 0 }

theorem wit_RadioReception :
    let r : Radio := { inChain with nodes := [(7, some aNode)], nodeRx := true, roles := [0, 7], spanIdx := 1, rxDly := 0, syncErr := 2 }
    let b : RxBurst := { node := 7, sync := 0, from_ := 0, to_ := 0, type_ := 0, hdrNode := 0, payload := [], report := [], result := 0,
                         decoded := false, collided := false, keep := false, bad := false, relAt := 0, inScope := false }
    let s := { radioUp r with gr := { up.gr with count := 100 } }
    (rListens s 0 = true ∧ syncNode r 0x12345678 = some 7 ∧ syncNode r 0 = none ∧ rListens up 0 = false) ∧
    (([b, b].filter fun b => !b.decoded).length = 2 ∧ (r.tracked.filter fun b => !b.decoded).length < 2) ∧
    (nodeOf r 7 = some aNode ∧ aNode.state ≠ 2 ∧ [b].find? (fun b => !b.decoded) = some b) ∧
    ([{ b with decoded := true, keep := true }].find? (fun b => b.decoded && decide (b.relAt ≤ s.tb.t))).isSome = true := by decide

theorem wit_RadioReception_idle :
    let s := { radioUp { inChain with roles := [0, 255], spanIdx := 1 } with tb := { up.tb with t := 80000 * usU - 1 } }
    rWorks s 0 = true ∧ idleSpan s 0 = true ∧ (radioAt s 0).spanBusy = false ∧ (radioAt s 0).pa = false ∧
    posAt aSched s.tb.t = some (0, 0, some 1) ∧ (radioAt s 0).spanIdx = 1 ∧ 0 + (1 + 1) * spanU aSched ≤ s.tb.t + hemU aSched ∧
    (∃ w ∈ nodeWindows aSched { inChain with roles := [0, 7] } 7 (60000 * usU),
      w.1 + (hemU aSched : Nat) ≤ ((60000 * usU : Nat) : Int) ∧ ((60000 * usU : Nat) : Int) < w.2.1 - (hemU aSched : Nat)) := by decide

/-! ### ControlClusterRows -/

/-- The cluster runs. -/
def clusterUp : State := { up with cc := { up.cc with state := 1, period := 1000, testAt := 0, wdForce := 1, wdCount := 1000000 } }

theorem wit_ControlClusterRows :
    let t := { clusterUp with gr := { up.gr with count := 1000000 } }
    let d := { clusterUp with dbg := { up.dbg with level := 2 }, fuse := { up.fuse with boardHash := 0 } }
    (ccLive t = true ∧ t.cc.period.toNat * 1000 ≤ since t t.cc.testAt ∧ ¬ (clusterUp.cc.period.toNat * 1000 ≤ since clusterUp 0)) ∧
    ((12 : BitVec 4) ≠ 0 ∧ (1 : BitVec 4).getLsbD 0 = true ∧ (2 : BitVec 4).getLsbD 0 = false ∧ (2 : BitVec 4).getLsbD 1 = true) ∧
    (allowed clusterUp .cc 0x07000020 true ∧ fld 0x5A170001 16 16 = 0x5A17 ∧ fld 0 16 16 ≠ 0x5A17) ∧
    (clusterUp.cc.wdForce.toNat * 1000000 ≤ clusterUp.cc.wdCount) ∧
    (allowed clusterUp .mgt 0x07000080 true ∧ refusal clusterUp (.pf 1) 0x07000080 4 true true = some 3) ∧
    (d.dbg.level = 2 ∧ ccFenced d = false ∧ d.cc.progBusy = false ∧ (dbgLog d 0x07000080 true).fuse.boardHash = 0 ∧ fld 0xF05E 0 16 = 0xF05E) ∧
    (readyCmd (cmdUp 0x40 []) 0 0x40 (cmdOf 0x40 []) ∧ readyCmd (cmdUp 0x48 []) 0 0x48 (cmdOf 0x48 [])) := by decide

/-! ### SemaphoresAndLeases -/

theorem wit_SemaphoresAndLeases :
    let c : Lease := { hcu := false, token := 7, lease := 1, cmd := none }
    let y : Sem := { holder := c, until_ := 0, frozen := none, waiters := [c] }
    let s := setSem up 63 (some y)
    let f := setSem up 63 (some { y with waiters := List.replicate 8 c })
    (allowed up .cc (0x07010000 + 0x10 * 63) true ∧ allowed up .cc (0x07010000 + 0x10 * 63 + 4) true ∧
      allowed up .mgt (0x07010000 + 0x10 * 63 + 8) true) ∧
    (fld 0x00010007 16 16 ≠ 0 ∧ semAt up 63 = none ∧ leasesFrozen up = false) ∧
    (semAt s 63 = some y ∧ y.waiters.length < 8 ∧ semMine s 63 (fld 0x00010007 0 16) = true ∧ semMine s 63 8 = false ∧ y.frozen = none ∧
      reached s y.until_ = true ∧ reached s 1 = false) ∧
    (semAt f 63).map (fun x => decide (8 ≤ x.waiters.length)) = some true := by decide

/-! ### TapInstructionsAndSessions -/

theorem wit_TapInstructionsAndSessions :
    let k : KeySlot := { kind := 3, alg := 11, priv := List.replicate 32 1, pub := [] }
    let s := setKeySlot { up with dbg := { up.dbg with nonce := some 5, allow := 2, blockTo := some 3 } } 0 (some k)
    tapCodes.contains (0xFF : BitVec 8).toNat = false ∧ tapCodes.contains (0x01 : BitVec 8).toNat = true ∧ up.dbg.level = 0 ∧
    up.dbg.blockTo = none ∧ s.pwr.aon.toNat < 3 ∧ s.dbg.nonce = some 5 ∧ min (min (2 : BitVec 2).toNat 2) s.dbg.allow.toNat ≠ 0 ∧
    keyAt s s.dbg.slot.toNat = some k ∧ keyOwner s s.dbg.slot.toNat = 0 ∧ keyAt up up.dbg.slot.toNat = none := by decide

/-! ### DebugAccesses -/

theorem wit_DebugAccesses :
    let s := { clusterUp with dbg := { up.dbg with level := 2 } }
    let f := { s with dbg := { s.dbg with halted := true }, cc := { s.cc with state := 2 } }
    (up.dbg.level = 0 ∧ (1 : BitVec 2).toNat = 1 ∧ 2 ≤ s.dbg.level.toNat) ∧
    (coreWord s.cc.tcm s.cc.coreRegs 0 = some 0 ∧ coreWord s.cc.tcm s.cc.coreRegs 2 = none) ∧
    (accessCause s .cc 0x00200048 4 false = none ∧ peekRefused s 0x00200048 = false ∧ peekRefused s 0x00200038 = true ∧
      accessCause s .cc 0x00200038 4 false = none ∧ accessCause s .cc 2 4 false = some 1) ∧
    (debugCause s 0x00200048 = none ∧ debugCause s 0x07000060 = none ∧ debugCause s 2 = some 1) ∧
    (up.cc.state = 0 ∧ s.cc.state ≠ 0 ∧ s.cc.state ≠ 3 ∧ s.dbg.halted = false ∧ f.dbg.halted = true ∧ f.cc.state = 2) := by decide

/-! ### RailsSequencesAndRegulator -/

theorem wit_power :
    let p := State.reset.pwr
    p.upSeq = false ∧ p.railFail = false ∧ p.off = false ∧ p.state ≠ 3 ∧ p.en = 0 ∧ State.reset.dev.inReset = true := by decide

theorem wit_rails :
    let s : State := { up with pwr := { up.pwr with upSeq := true, vaon := true } }
    s.pwr.vaon = true ∧ s.pwr.upSeq = true ∧ (railTimeout 7 s).pwr.railFail = true ∧ (railTimeout 7 s).pwr.en = 0 ∧ (7 : Nat) < 8 ∧
      (railRetry (railTimeout 7 s)).pwr.en = 1 := by decide

theorem wit_sequencer :
    let s : State := { up with dev := { up.dev with phase := 5, fwOk := true }, cc := { up.cc with state := 1 } }
    s.dev.phase = 5 ∧ s.dev.fwOk = true ∧ ccFenced s = false ∧ s.pwr.seqOk = false ∧ seqImageBad s [0] = some 1 := by decide

theorem wit_sequencer_words : sqf 0x5000000000000000 59 5 = 10 ∧ sqf 0 59 5 = 0 := by decide

theorem wit_seq_fail :
    let s : State := { up with pwr := { up.pwr with seqFail := some (2, 7) } }
    s.pwr.seqFail = some (2, 7) ∧ (seqFail s).pwr.en = 1 ∧ (seqFail s).pwr.seqFail = none := by decide

theorem wit_vout :
    let s : State := { pwrUp 1 with pwr := { (pwrUp 1).pwr with row := 3, riseAt := some 0, floor := 1 } }
    s.pwr.state = 1 ∧ (voutPoll 730 true s).pwr.conf = 3 ∧ (voutPoll 729 true s).pwr.riseAt = some 0 ∧
      (voutPoll 639 true s).gr.seen ≠ [] ∧ (voutPoll 640 true s).gr.seen = [] := by decide

theorem wit_vcore_slow :
    let s : State := { pwrUp 1 with pwr := { (pwrUp 1).pwr with row := 3, conf := 2, riseAt := some 0 }, gr := { up.gr with count := 1000000 } }
    since s 0 = 1000000 ∧ (vcoreSlow s).pwr.row = 2 := by decide

theorem wit_standby : (pwrUp 1).pwr.shed = none ∧ railsOff (pwrUp 1) = false ∧ (standbyEntry [] (pwrUp 1)).pwr.state = 3 := by decide

theorem wit_wake :
    (pwrUp 3).pwr.state = 3 ∧ (pwrUp 3).pwr.vaon = true ∧ wakes (pwrUp 3) 1 = true ∧ (wake 1 [] (pwrUp 3)).dev.reason = 5 := by decide

/-! ### EventRecordsAndRings -/

/-- The machine whose PT0 has its on-die ER 0 enabled with tail `t`, and takes source `src` there. -/
def evUp (t src : Nat) : State :=
  let s := setEr up 0 0 { Ring.reset with en := true, loc := true, tail := t }
  setPtn s 0 { ptnAt s 0 with evSel := tset (fun _ => 0) (ptnAt s 0).evSel src 4 }

theorem wit_event_ring :
    evRing (evUp 63 672) 0 672 = some 0 ∧ erWouldLose (evUp 63 672) 0 0 = true ∧ erWouldLose (evUp 62 672) 0 0 = false ∧
      (erAt (raise (evUp 62 672) 672 3 0) 0 0).tail = 63 ∧ (erAt (raise (evUp 63 672) 672 3 0) 0 0).lost = 1 ∧
      (raise (evUp 62 672) 672 3 0).prm.soe.length = 1 := by decide

theorem wit_event_lost :
    evRing (erPut (evUp 63 451) 0 0 451 0 0 0) 0 451 = some 0 ∧ evRing (erPut (evUp 63 672) 0 0 672 0 0 0) 0 451 = none := by decide

theorem wit_event_off : evRing up 0 672 = none ∧ (erAt up 0 0).en = false := by decide

theorem wit_event_failed :
    let s := setEr up 0 0 { Ring.reset with en := true, size := 6 }
    (erAt s 0 0).en = true ∧ (erAt s 0 0).loc = false ∧ (erAt (erPut { s with dev := { s.dev with perst := false } } 0 0 1 0 0 0) 0 0).err = 5 := by
  decide

/-! ### FaultRecordsFencesAndFatalActions -/

theorem wit_fault_seen :
    detectClass 70 0x22 = some 2 ∧ srcFenced up 70 = false ∧ detectClass 70 0x50 = none ∧ detectClass 160 0x50 = some 0 ∧
      detectClass 161 0x51 = none ∧ detectClass 227 0x70 = some 2 ∧ detectClass 228 0x70 = none := by decide

/-- The machine with a fault at the head of its backlog. -/
def faultUp (r : Rec) : State := { up with gr := { up.gr with backlog := [⟨0, ⟨1, r.src, .fault r⟩⟩] } }

theorem wit_fault_applied :
    let r : Rec := { cls := 1, src := 16, cause := 2, pt := some 0, data := 0x1234 }
    (faultUp r).twn.shared = [] ∧ clkOk (faultUp r) 1 = true ∧ (faultDetected none (faultUp r)).fcu.hist.length = 1 ∧
      (faultDetected none (faultUp r)).dev.accAddr = 0x1234 := by decide

theorem wit_fault_stopped :
    let r : Rec := { cls := 3, src := 4, cause := 0xA0, pt := none, data := 1 }
    let s : State := { State.reset with gr := { State.reset.gr with seen := [⟨1, 4, .fault r⟩] } }
    clkOk s 1 = false ∧ isFatal s r = false ∧ (faultDetected none s).fcu.hist.map (fun x => (x.rec_.cause, x.grain)) = [(0xA0, BitVec.allOnes 64)] := by
  decide

theorem wit_fence :
    let r : Rec := { cls := 2, src := 224, cause := 0x70, pt := none, data := 0 }
    lastUnit up r = none ∧ (radioAt (applyFault up r 0) 0).fenced = true ∧ srcFenced (applyFault up r 0) 224 = true ∧
      fencedAt (applyFault up r 0) 224 0 = true := by decide

theorem wit_fatal :
    let r : Rec := { cls := 3, src := 1, cause := 0x11, pt := none, data := 0 }
    isFatal up r = true ∧ (applyFault up r 5).fcu.xDue = some 5 := by decide

theorem wit_last_engine :
    let r : Rec := { cls := 2, src := 64, cause := 0x22, pt := none, data := 0 }
    let s := (List.range 63).foldl (fun s e => setEng s (e + 1) { engAt s (e + 1) with fence := 3 }) up
    lastUnit s r = some 0x14 := by decide

theorem wit_fault_merge :
    let r : Rec := { cls := 0, src := 160, cause := 0x50, pt := none, data := 0 }
    let s := fcuRecord up r false 0
    (s.fcu.hist.getLast?.map fun x => merges x r 1000000) = some true ∧ (s.fcu.hist.getLast?.map fun x => merges x r 1000001) = some false := by
  decide

theorem wit_fatal_reset :
    let s : State := { up with fcu := { up.fcu with xDue := some 0 }, gr := { up.gr with count := 10000 } }
    s.fcu.holding = false ∧ 10000 ≤ since s 0 ∧ (fatalReset s).dev.reason = 3 := by decide

theorem wit_xreset :
    let s : State := { up with fcu := { up.fcu with holding := true, xDue := some 0 } }
    allowed s .cc 0x07C00000 true ∧ s.fcu.holding = true ∧ fld 0xD5E70001 16 16 = 0xD5E7 := by decide

theorem wit_fcu_hist : readyCmd (cmdUp 0x03 []) 0 0x03 (cmdOf 0x03 []) := by decide

/-! ### PowerFailShedAndLossOfSupply -/

theorem wit_pfail : (pwrUp 1).pwr.shed = none ∧ supplied (pwrUp 1) = true ∧ supplied (pwrUp 3) = false := by decide

theorem wit_monitor :
    let s : State := { pwrUp 1 with pwr := { (pwrUp 1).pwr with enMon := true }, hup := { up.hup with vTrip := 9000, v := 9000, vMin := 1 } }
    s.hup.vTrip.toNat ≤ s.hup.v.toNat ∧ (hupSample 0 s).hup.v.toNat < (hupSample 0 s).hup.vTrip.toNat ∧ (hupSample 0 s).pwr.enMon = true := by
  decide

theorem wit_rail_lost :
    let s : State := { pwrUp 1 with pwr := { (pwrUp 1).pwr with en := 0xFF, good := 0xFF } }
    s.pwr.en.toNat.testBit 7 = true ∧ s.pwr.good.toNat.testBit 7 = true ∧ supplied s = true := by decide

/-- The machine in a shed whose record is captured. -/
def shedUp : State := { pwrUp 2 with pwr := { (pwrUp 2).pwr with shed := some (1, 0), lg := some [1, 2] } }

theorem wit_second_source :
    shedUp.pwr.shed = some (1, 0) ∧ (shedStart shedUp 0).pwr.shed = some (0, 0) ∧ shedUp.pwr.shedDone = false ∧ shedUp.pwr.lg = some [1, 2] := by
  decide

theorem wit_shed_complete :
    let s : State := { shedUp with pwr := { shedUp.pwr with shedDone := true } }
    s.pwr.shed ≠ none ∧ s.prm.stores = [] ∧ s.pwr.off = false ∧ (shedComplete [] s).pwr.off = true ∧ (shedComplete [] s).pwr.en = 0 ∧
      (inputRestored (shedComplete [] s)).dev.reason = 6 := by decide

theorem wit_supply : up.prm.stores = [] ∧ (supplyLoss up).pwr.vaon = false := by decide

/-! ### DeviceResetKeepsAndReleases -/

theorem wit_pins :
    pinPhase (resetNAssert (pwrUp 1)) = .reset ∧ pinPhase State.reset = .reset ∧ pinPhase shedUp = .standby ∧ pinPhase (pwrUp 1) = .boot := by
  decide

theorem wit_reset_n :
    (pwrUp 1).pwr.shed = none ∧ railsOff (pwrUp 1) = false ∧ railsOff (pwrUp 3) = true ∧ (resetNAssert (pwrUp 1)).dev.reason = 1 ∧
      (resetNAssert (pwrUp 1)).dev.inReset = true := by decide

theorem wit_dev_reset : readyCmd (cmdUp 0x01 []) 0 0x01 (cmdOf 0x01 []) := by decide

theorem wit_release :
    let s := resetNAssert (pwrUp 1)
    s.dev.resetN = false ∧ s.dev.inReset = true ∧ s.dev.intReset = false ∧ railsOff s = false ∧
      (resetNRelease 0b100110 s).dev.sBootSrc = 2 ∧ (resetNRelease 0b100110 s).dev.phase = 1 := by decide

theorem wit_internal_release :
    let s := deviceReset (pwrUp 1) 2 false
    s.dev.intReset = true ∧ railsOff s = false ∧ s.pwr.railFail = false ∧ s.pwr.shed = none ∧ s.dev.resetN = true := by decide

/-! ### IslandsBootPhasesAndTemperature -/

/-- The machine out of reset in boot phase `p` with the given straps. -/
def bootUp (p : BitVec 4) (straps : BitVec 6) : State :=
  { resetNRelease straps (resetNAssert (pwrUp 1)) with dev := { (resetNRelease straps (resetNAssert (pwrUp 1))).dev with phase := p } }

theorem wit_island :
    (bootUp 2 0).dev.inReset = false ∧ clkOk (bootUp 2 0) 1 = false ∧ islandMay (bootUp 2 0) 1 = true ∧ islandMay (bootUp 2 0) 13 = false := by
  decide

theorem wit_phases :
    (bootUp 1 0).prm.stores = [] ∧ (bootPhaseEnd [] [] (bootUp 1 0)).dev.phase = 2 ∧ (bootUp 3 2).dev.sBootSrc = 2 ∧
      streamWhole (bootUp 3 2) = false ∧ dirGood [] = false := by decide

theorem wit_phase_end :
    (bootPhaseEnd [] [] up).dev.phase = 0 ∧ (bootPhaseEnd [] [] { up with dev := { up.dev with phase := 2 } }).dev.phase = 3 ∧
      (bootPhaseEnd [] [] { up with dev := { up.dev with phase := 4 } }).dev.phase = 5 := by decide

theorem wit_boot_done :
    (bootUp 5 0).dev.inReset = false ∧ (bootDone (bootUp 5 0)).dev.bootDone = true ∧ (bootUp 5 0).fcu.priorX = false := by decide

theorem wit_boot_load : allowed (bootUp 3 2) .mgt 0x1C true ∧ (bootUp 3 2).dev.phase = 3 := by decide

theorem wit_tj :
    let s : State := { up with dev := { up.dev with alarmTj := 400 } }
    s.dev.hot = false ∧ s.dev.inReset = false ∧ (tjSample 400 s).dev.hot = true ∧ (tjSample 399 s).dev.hot = false ∧
      (tjSample 381 (tjSample 400 s)).dev.hot = true ∧ (tjSample 380 (tjSample 400 s)).dev.hot = false := by decide

/-! ### TorvFramesAndLink -/

/-- The machine in twin state `st` at rejoin step `k`, the link up, its cluster running. -/
def twinUp (st : BitVec 3) (k : Nat) (snr : Bool) : State :=
  { up with
    twn := { up.twn with state := st, link := true, alive := true, joinStep := k, lastKa := some 0 }
    dev := { up.dev with sSenior := snr }
    cc := { up.cc with state := 1 } }

/-- A frame with its check. -/
def frameOf (type : Nat) (body : List Byte) : List Byte :=
  let f := leBytes 1 type ++ [0] ++ leBytes 2 body.length ++ leBytes 4 7 ++ leBytes 8 0 ++ body
  f ++ leBytes 4 (crc32 f).toNat

theorem wit_frame :
    (twinUp 2 0 true).twn.link = true ∧ frameGood 0x0C 8 (frameOf 0x0C (List.replicate 8 1)) = true ∧
      frameNext (twinUp 2 0 true) (frameOf 0x0C (List.replicate 8 1)) = true ∧ frameGood 0x0C 8 (frameOf 0x0D (List.replicate 8 1)) = false := by
  decide

theorem wit_frame_gap :
    let s : State := { twinUp 2 0 true with twn := { (twinUp 2 0 true).twn with fseqRx := some 6 } }
    frameNext s (frameOf 1 []) = true ∧ s.twn.fseqRx = some 6 ∧
      frameNext { s with twn := { s.twn with fseqRx := some 5 } } (frameOf 1 []) = false := by decide

theorem wit_link_down :
    paired (joinsEnd (linkOff (twinUp 2 0 true)) 0x16 []) = true ∧ (joinsEnd (linkOff (twinUp 1 1 true)) 0x16 []).twn.state = 1 ∧
      (linkDown (twinUp 2 0 true) 1).twn.state = 3 ∧ (linkDown (twinUp 2 0 true) 1).twn.seps = 1 := by decide

theorem wit_keepalive_timeout :
    let s : State := { twinUp 2 0 true with gr := { up.gr with count := 4000 } }
    s.twn.lastKa = some 0 ∧ since s 0 = 4000 := by decide

theorem wit_link_up :
    let s : State := { twinUp 1 0 true with twn := { (twinUp 1 0 true).twn with link := false } }
    s.pwr.shed = none ∧ s.twn.link = false ∧ s.twn.state ≠ 0 ∧ s.twn.alive = true ∧ s.dev.inReset = false := by decide

theorem wit_rejoin_step1 :
    joining (twinUp 1 1 false) = true ∧ senior (twinUp 1 1 false) = false ∧ senior (twinUp 1 1 true) = true ∧
      (twinUp 1 1 false).twn.probes = [] ∧ (roleRx (twinUp 1 1 true) [1]).twn.cause = 3 := by decide

theorem wit_probes :
    let l := List.replicate 15 (probeResult 0 5 5 0)
    let s : State := { twinUp 1 1 false with twn := { (twinUp 1 1 false).twn with probes := l } }
    (probeReplyRx s (List.replicate 8 0 ++ leBytes 8 5 ++ leBytes 8 5)).twn.goff = 5 ∧ l.length = 15 := by decide

theorem wit_time :
    senior (twinUp 2 0 false) = false ∧ paired (twinUp 2 0 false) = true ∧
      before (timeOf (List.replicate 40 0)).apply (pairGrain (twinUp 2 0 false)) = false ∧ (timeOf (List.replicate 40 0)).load = false := by decide

/-! ### SharedDecisionsAndTransfers -/

theorem wit_decision :
    let b := leBytes 8 100 ++ List.replicate 24 0
    paired (twinUp 2 0 true) = true ∧ before (grainAt b 0) (pairGrain (twinUp 2 0 true)) = false ∧ le b 8 1 = 0 ∧
      (decisionRx (twinUp 2 0 true) b).twn.shared.length = 1 := by decide

theorem wit_decision_late :
    let s : State := { twinUp 2 0 true with gr := { up.gr with count := 5 } }
    before (grainAt (leBytes 8 4) 0) (pairGrain s) = true ∧ (decisionRx s (leBytes 8 4)).twn.late = 1 := by decide

theorem wit_carried :
    let s := twinUp 2 0 true
    let b := leBytes 8 100 ++ List.replicate 8 0 ++ [0x01] ++ List.replicate 63 0
    paired s = true ∧ le (slice b 16 64) 0 1 ≠ 0x21 ∧ (cmdAt (addCmd s 0 none (slice b 16 64) 0) s.cq.nextCmd).isSome = true := by decide

/-- A pair where this device's command 0 waits for the verdict of the partner. -/
def verdictUp : State :=
  let s := twinUp 2 0 true
  { s with
    cq := { s.cq with cmds := [cmdOf 0x2C []], nextCmd := 1 }
    twn := { s.twn with shared := [{ apply := 100, remote := false, index := 0, learn := none, bucket := none, cmd := some 0, carried := none, ok := false }] } }

theorem wit_verdict :
    (verdictUp.twn.shared.find? (verdictOf verdictUp 100 0 0)).isSome = true ∧
      (verdictRx verdictUp (leBytes 8 100 ++ [0, 5] ++ List.replicate 6 0)).twn.shared = [] ∧
      ((verdictRx verdictUp (leBytes 8 100 ++ [0, 1] ++ List.replicate 6 0)).twn.shared.map (·.ok)) = [true] := by decide

theorem wit_ready :
    paired (twinUp 1 3 true) = false ∧ joining (twinUp 1 3 true) = true ∧ (le (leBytes 10 0 ++ [2]) 10 1).testBit 1 = true := by decide

theorem wit_way : (le (List.replicate 9 0 ++ [3]) 9 1).testBit 0 = true ∧ (le (List.replicate 32 0) 9 1).testBit 0 = false := by decide

theorem wit_bulk_end :
    joining (twinUp 1 2 false) = true ∧ senior (twinUp 1 2 false) = false ∧ (twinUp 1 2 false).twn.joinStep = 2 ∧
      (bulkEndRx (twinUp 1 2 false) [1, 0, 0, 0, 0, 0, 0, 0]).twn.joinStep = 3 := by decide

theorem wit_shared_command :
    let s : State := { verdictUp with gr := { up.gr with count := 100 }, twn := { verdictUp.twn with state := 3 } }
    (sharedFirst s).isSome = true ∧ s.gr.backlog = [] ∧ s.pwr.shed = none ∧
      ((sharedDecisionApply s).cq.cmds.map (·.done)) = [true] := by decide

theorem wit_opening :
    let s : State := { twinUp 2 0 true with
      twn := { (twinUp 2 0 true).twn with ready := some (0, 0, false), partReady := some (0, 0, false) }
      gr := { up.gr with count := 5000 } }
    sharedFirst s = none ∧ (openAt s).isSome = true ∧ before (pairGrain s) ((openAt s).getD 0) = false ∧ s.cfg.epochs.length < 2 ∧
      ownOpening s = false := by decide

/-! ### TwinStatesPresenceAndRejoin -/

theorem wit_twin_to :
    (twinUp 2 0 true).twn.state ≠ 3 ∧ (twinTo (twinUp 2 0 true) 3 1).twn.state = 3 ∧ (twinTo (twinUp 2 0 true) 4 2).twn.cause = 2 ∧
      (twinTo (twinUp 1 4 true) 2 0).twn.pairedOnce = true ∧ senior (twinUp 2 0 true) = true := by decide

theorem wit_alive :
    let s : State := { twinUp 5 0 false with twn := { (twinUp 5 0 false).twn with alive := false, link := false } }
    s.twn.alive = false ∧ s.dev.inReset = false ∧ s.twn.link = false ∧ s.twn.state = 5 := by decide

theorem wit_witness :
    let s : State := { twinUp 2 0 true with
      twn := { (twinUp 2 0 true).twn with pairedOnce := true, alive := false, aliveStop := some 10 }
      gr := { up.gr with count := 16750 } }
    (pairGrain s).toNat % 16000 = 750 ∧ s.twn.pairedOnce = true ∧ senior s = true ∧ (witnessSample false s).twn.state = 4 := by decide

theorem wit_alive_lost :
    (aliveLost (twinUp 3 0 false) true).twn.state = 5 ∧ (aliveLost (twinUp 5 0 false) true).twn.state = 5 ∧
      (aliveLost (twinUp 5 0 false) false).twn.state = 4 := by decide

theorem wit_link_holds :
    (linkHolds { twinUp 3 0 true with twn := { (twinUp 3 0 true).twn with auto := true } }).twn.state = 1 ∧
      (linkHolds { twinUp 3 0 true with twn := { (twinUp 3 0 true).twn with auto := false } }).twn.state = 3 := by decide

theorem wit_twn_ctl :
    allowed up .cc 0x07E00000 true ∧ up.twn.state = 0 ∧ (twnCtlWrite 0x01000001 up).twn.state = 1 ∧ (twnCtlWrite 0x01000001 up).twn.lag = 256 ∧
      (twnCtlWrite 0x00FF0001 up).twn.lag = 1024 ∧ (twnCtlWrite 0 (twinUp 2 0 true)).twn.state = 0 := by decide

theorem wit_rejoin_retry :
    let s : State := { twinUp 1 0 true with twn := { (twinUp 1 0 true).twn with retry := true }, gr := { up.gr with count := 1000000000 } }
    s.twn.retry = true ∧ s.twn.link = true ∧ s.twn.alive = true ∧ since s s.twn.failAt = 1000000000 := by decide

theorem wit_rejoin_complete :
    joining (twinUp 1 4 true) = true ∧ (twinUp 1 4 true).twn.joinStep = 4 ∧
      before (pairGrain (twinUp 1 4 true)) (twinUp 1 4 true).twn.joinAt = false ∧ senior (twinUp 1 4 true) = true ∧
      (rejoinComplete (twinUp 1 4 true)).twn.state = 2 := by decide

theorem wit_twin_rejoin :
    let s : State := { cmdUp 0x78 [] with twn := { up.twn with state := 3, link := true, alive := true }, cc := { up.cc with state := 1 } }
    readyCmd s 0 0x78 (cmdOf 0x78 []) ∧ s.twn.state = 3 ∧ s.twn.partCcFenced = false ∧ s.twn.link = true := by decide

/-! ### DeviceResetRestoresSettings -/

theorem wit_reset_settings :
    (deviceReset (cmdUp 0x01 []) 2 false).cfg.txns = [] ∧ cur (deviceReset up 2 false) sQM_REL 0 = [1000000] ∧
      settingWords sQM_REL 0 = some 1 ∧ readyCmd (cmdUp 0x01 []) 0 0x01 (cmdOf 0x01 []) := by decide

/-! ### SecondSupplySourceInAShed -/

theorem wit_shed_source :
    shedUp.pwr.shed = some (1, 0) ∧ (0 : Grain) = shedUp.gr.count ∧ (shedStart shedUp 0).pwr.shed = some (0, 0) ∧
      (shedStart shedUp 3).pwr.shed = some (1, 0) := by decide

theorem wit_shed_record : ∃ l : List Byte, l.length = 9728 ∧ l[8]? = some (BitVec.ofNat 8 1) :=
  ⟨List.replicate 9728 1, List.length_replicate, by rw [List.getElem?_replicate]; rfl⟩

theorem wit_shed_sample :
    let s : State := { shedUp with gr := { up.gr with count := 9 } }
    (hupSample 0 s).pwr.shed = some (1, 0) ∧ (hupSample 0 s).gr.count = 9 := by decide

end Sys2Proof.Tests
end

section
/-! PROOFS. The family of the scope chapter: every row answers by the shared frame `ev` over its own well-formedness, and what a
plain access of a register that no rule refuses does. -/

namespace Sys2Proof.Machine

/-! ## Outcomes of rows -/

/-- Every row answers through the frame `ev`, and the condition it gives the frame is its own well-formedness. The row of
BYPASS answers through `evIf`, which is `ev` of a state that may be the unchanged one. -/
theorem exec_eq_ev_wf (i : Instr) (s : State) : ∃ t, exec i s = ev i.wf t := by
  cases i with
  | bypass code => exact ⟨if !tapCodes.contains code.toNat then tapIr s code false [false] else s, rfl⟩
  | _ => exact ⟨_, rfl⟩

/-- Settles O2: a row's outcome is that of `ev` over its well-formedness. -/
theorem wellFormedCommandsAnswerAState : Obligations.WellFormedCommandsAnswerAState := by
  intro i s
  obtain ⟨t, ht⟩ := exec_eq_ev_wf i s
  constructor
  · intro hwf
    exact ⟨t, by rw [ht, hwf, ev_true]⟩
  · intro hwf
    rw [ht, hwf, ev_false]

/-! ## Plain accesses -/

/-- No rule beyond R22 bars an access below the PKA datapath. -/
theorem barred_below_datapath {a : Nat} (s : State) (m : Master) (w : Bool) (ha : a < 0x06C00000) : barred s m a w = false := by
  have h1 : ¬ 0x06C00000 ≤ a := by omega
  have h2 : ¬ 0x07000060 ≤ a := by omega
  have h3 : ¬ 0x08000000 ≤ a := by omega
  simp [barred, fuseRegister, h1, h2, h3]

/-- A word access to a mapped register that nothing bars is judged by R26 to R30 alone. -/
theorem accessCause_eq_refusal {s : State} {m : Master} {a : Nat} {w : Bool} (hb : barred s m a w = false)
    (hm : (regValue s m a).isSome = true) : accessCause s m a 4 w = refusal s m a 4 w true := by
  unfold accessCause
  rw [hb, hm, Bool.false_and, if_neg Bool.false_ne_true]
  split
  · next h => rw [refusal, if_pos h]
  · rfl

/-- REGISTER_WRITE of a mapped register below the PKA datapath that no rule refuses has the register's effect. -/
theorem exec_registerWrite_allowed {s : State} {m : Master} {a : Nat} {v : W32} (h : allowed s m a true) (ha : a < 0x06C00000)
    (hm : (regValue s m a).isSome = true) : exec (.registerWrite m a 4 v) s = .next (regEffect s m a v) := by
  obtain ⟨hwf, hnone⟩ := h
  have hc : accessCause s m a 4 true = none := (accessCause_eq_refusal (barred_below_datapath s m true ha) hm).trans hnone
  show ev m.wf (registerWrite m a 4 v s) = _
  rw [hwf, ev_true, registerWrite, hc]

/-- MAX_FIELD_READ of a mapped register below the PKA datapath that no rule refuses returns the register's value and takes what
a normal read takes (log entry 139). -/
theorem exec_maxFieldRead_allowed {s : State} {m : Master} {a : Nat} {r : W32} (h : allowed s m a false) (ha : a < 0x06C00000)
    (hr : regValue s m a = some r) : exec (.maxFieldRead m a) s = .next (readBack (regTake s a) r) := by
  obtain ⟨hwf, hnone⟩ := h
  have hc : accessCause s m a 4 false = none :=
    (accessCause_eq_refusal (barred_below_datapath s m false ha) (Option.isSome_of_eq_some hr)).trans hnone
  show ev m.wf (registerRead m a s) = _
  rw [hwf, ev_true, registerRead, hc, hr, Option.getD_some]

/-- GR_COUNT_LO read where no rule refuses it returns the low word and latches the high one. -/
theorem exec_grCountLoRead_allowed {s : State} {m : Master} (h : allowed s m 0x00100000 false) :
    exec (.grCountLoRead m) s = .next (readBack (latchCount s) (w32 s.gr.count.toNat)) := by
  obtain ⟨hwf, hnone⟩ := h
  show ev m.wf _ = _
  rw [hwf, ev_true, regRd_allowed _ _ hnone]

/-- Settles O7: an allowed write answers the map's effect and an allowed read the map's value with what the read takes; the map at
the seven addresses is evaluated. -/
theorem plainRegisterAccesses : Obligations.PlainRegisterAccesses := by
  intro s m v
  refine ⟨fun h => ?_, fun h => ?_, fun h => ?_, fun h => ?_, fun h => ?_, fun h => ?_, fun h => ?_⟩
  · exact exec_registerWrite_allowed h (by decide) rfl
  · exact exec_registerWrite_allowed h (by decide) rfl
  · exact exec_registerWrite_allowed h (by decide) rfl
  · exact exec_maxFieldRead_allowed h (by decide) rfl
  · exact exec_maxFieldRead_allowed h (by decide) rfl
  · exact exec_maxFieldRead_allowed h (by decide) rfl
  · exact exec_grCountLoRead_allowed h

end Sys2Proof.Machine
end

section
/-! PROOFS. The family of the architecture chapter, accesses: a row that is an access of a register judges it by R26 to R30 first, so
a refused access is the refusal alone. -/

namespace Sys2Proof.Machine

/-! ## Rows that access a register -/

/-- The row of `i` judges the access `(m, a, w)` before it has its effect. -/
def JudgesAccess (i : Instr) (s : State) (acc : Master × Nat × Bool) : Prop :=
  match acc with
  | (m, a, true) => ∃ k, exec i s = ev i.wf (regWr s m a k)
  | (m, a, false) => ∃ v k, exec i s = ev i.wf (regRd s m a v k)

/-- A row that answers a judged write of the register that `registerOf` names judges its access. -/
theorem judgesAccess_of_regWr {i : Instr} {s : State} {m : Master} {a b : Nat} {k : State → State} {acc : Master × Nat × Bool}
    (hacc : registerOf i = some acc) (hreg : registerOf i = some (m, b, true)) (hab : a = b)
    (hexec : exec i s = ev i.wf (regWr s m a k)) : JudgesAccess i s acc := by
  obtain rfl : acc = (m, b, true) := Option.some.inj (hacc.symm.trans hreg)
  subst hab
  exact ⟨k, hexec⟩

/-- A row that answers a judged read of the register that `registerOf` names judges its access. -/
theorem judgesAccess_of_regRd {i : Instr} {s : State} {m : Master} {a b : Nat} {v : State → W32} {k : State → State}
    {acc : Master × Nat × Bool} (hacc : registerOf i = some acc) (hreg : registerOf i = some (m, b, false)) (hab : a = b)
    (hexec : exec i s = ev i.wf (regRd s m a v k)) : JudgesAccess i s acc := by
  obtain rfl : acc = (m, b, false) := Option.some.inj (hacc.symm.trans hreg)
  subst hab
  exact ⟨v, k, hexec⟩

/-- Every register command judges the access of its master to its register; where a block gives the address through its own
register function, the two spellings of the address agree. -/
theorem registerOf_judgesAccess {i : Instr} {acc : Master × Nat × Bool} (s : State) (h : registerOf i = some acc) :
    JudgesAccess i s acc := by
  cases i with
  | grCountLoRead => exact judgesAccess_of_regRd h rfl rfl rfl
  | tbTimeNsRead => exact judgesAccess_of_regRd h rfl rfl rfl
  | tbFreqLoRead => exact judgesAccess_of_regRd h rfl rfl rfl
  | tbSmpPop => exact judgesAccess_of_regRd h rfl rfl rfl
  | evcRecPop => exact judgesAccess_of_regRd h rfl (by omega) rfl
  | tsuTxsPop => exact judgesAccess_of_regRd h rfl (by rw [tsuReg]; omega) rfl
  | counterViewRead _ _ _ _ hi =>
    exact judgesAccess_of_regRd h rfl (by cases hi <;> simp only [winBase, b1, reduceIte, Bool.false_eq_true] <;> omega) rfl
  | tbFreqLoWrite => exact judgesAccess_of_regWr h rfl rfl rfl
  | tbFreqHiWrite => exact judgesAccess_of_regWr h rfl rfl rfl
  | tbRefCtlWrite => exact judgesAccess_of_regWr h rfl rfl rfl
  | tbErrEstWrite => exact judgesAccess_of_regWr h rfl rfl rfl
  | touWrite => exact judgesAccess_of_regWr h rfl rfl rfl
  | touIrigWrite => exact judgesAccess_of_regWr h rfl rfl rfl
  | ptnBindWrite => exact judgesAccess_of_regWr h rfl rfl rfl
  | prmRegionWrite => exact judgesAccess_of_regWr h rfl rfl rfl
  | cascCtlWrite => exact judgesAccess_of_regWr h rfl rfl rfl
  | ccWdogKick => exact judgesAccess_of_regWr h rfl rfl rfl
  | fcuXreset => exact judgesAccess_of_regWr h rfl rfl rfl
  | twnCtlWrite => exact judgesAccess_of_regWr h rfl rfl rfl
  | devBootLoadWrite => exact judgesAccess_of_regWr h rfl rfl rfl
  | ptnWinResetWrite => exact judgesAccess_of_regWr h rfl (by rw [winBase]; omega) rfl
  | sqDoorbell => exact judgesAccess_of_regWr h rfl (by rw [queueReg, winBase]; omega) rfl
  | headDoorbell _ _ er =>
    exact judgesAccess_of_regWr h rfl (by cases er <;> simp only [queueReg, winBase, reduceIte, Bool.false_eq_true] <;> omega) rfl
  | queueEnWrite _ _ kind =>
    exact judgesAccess_of_regWr h rfl (by cases kind <;> simp only [queueReg, winBase] <;> omega) rfl
  | prtCtlWrite => exact judgesAccess_of_regWr h rfl (by rw [portReg]; omega) rfl
  | mdmHeldRelease => exact judgesAccess_of_regWr h rfl (by rw [mdmReg]; omega) rfl
  | rfSpiGo => exact judgesAccess_of_regWr h rfl (by rw [mdmReg]; omega) rfl
  | semAcq => exact judgesAccess_of_regWr h rfl (by rw [semReg]; omega) rfl
  | semRel => exact judgesAccess_of_regWr h rfl (by rw [semReg]; omega) rfl
  | semRenew => exact judgesAccess_of_regWr h rfl (by rw [semReg]; omega) rfl
  | pmcCfgWrite _ _ _ hi =>
    exact judgesAccess_of_regWr h rfl (by cases hi <;> simp only [pmcReg, b1, reduceIte, Bool.false_eq_true] <;> omega) rfl
  | pmcClr => exact judgesAccess_of_regWr h rfl (by simp only [pmcReg, b1, reduceIte, Bool.false_eq_true]; omega) rfl
  | _ => cases h

/-- A judged access that one of R26 to R30 refuses is the refusal, and a read returns 0. -/
theorem exec_refused {i : Instr} {s : State} {m : Master} {a c : Nat} {w : Bool} (hj : JudgesAccess i s (m, a, w)) (hwf : i.wf = true)
    (hc : refusal s m a 4 w true = some c) :
    exec i s = .next (if w then refuse s m a true c else readBack (refuse s m a false c) 0) := by
  cases w with
  | true =>
    obtain ⟨k, hk⟩ := hj
    rw [hk, hwf, ev_true, regWr_refused k hc, if_pos rfl]
  | false =>
    obtain ⟨v, k, hk⟩ := hj
    rw [hk, hwf, ev_true, regRd_refused v k hc, if_neg Bool.false_ne_true]

/-- A refusal is one more input for the sequencer: a class K fault of the master's source, whose island is the serving one for
ISLAND_DOWN and 0 for every other cause. -/
theorem refuse_eq_see (s : State) (m : Master) (a c : Nat) (w : Bool) :
    refuse s m a w c = see s 1 (if m = .cc then 32 else 16 + masterPt s m) (.fault
      { cls := 1, src := if m = .cc then 32 else 16 + masterPt s m, cause := c, pt := if m = .cc then none else some (masterPt s m),
        data := a % 2 ^ 32 + 2 ^ 32 * b1 w + 2 ^ 36 * if c = 5 then (servedBy a).getD 0 else 0 }) := by
  unfold refuse
  cases servedBy a with
  | some d => cases m <;> rfl
  | none =>
    rw [Option.getD_none, ite_self]
    cases m <;> rfl

/-- Settles O5: each register command judges its access, and a refusal is one more class K input of the master's source. -/
theorem refusedRegisterCommands : Obligations.RefusedRegisterCommands := by
  refine ⟨fun i s m a c w hreg hwf hc => exec_refused (registerOf_judgesAccess s hreg) hwf hc, fun s m a c w => ?_⟩
  rw [refuse_eq_see]
  cases m <;> rfl

end Sys2Proof.Machine
end

section
/-! PROOFS. The family of the architecture chapter, ingress: the start of a frame and of a policing interval. -/

namespace Sys2Proof.Machine

/-! ## Start of a frame -/

/-- The frame that starts on a port: stamped at ingress, with the port's next number, of this grain and the newest epoch. -/
def startedPkt (s : State) (port sub : Nat) : Pkt :=
  newPkt s port 0 (compensate (stampOf s sub) (-((tsuAt s port).ing.toNat : Int))) (tsuCtl (tsuAt s port)) [] .arriving

/-- A start of frame where none arrives, on a port whose receive path is on, brings in one packet. -/
theorem frameStart_begins {s : State} {port : Nat} (sub : Nat) (hstate : (portAt s port).state ≠ 0) (hnone : arrivingOn s port = none) :
    frameStart port sub s = addPkt s (startedPkt s port sub) := by
  rw [frameStart, if_neg hstate, hnone]
  rfl

/-- A start of frame on a port whose receive path is off is none. -/
theorem frameStart_off {s : State} {port : Nat} (sub : Nat) (hstate : (portAt s port).state = 0) : frameStart port sub s = s := by
  rw [frameStart, if_pos hstate]

/-- FRAME_START of an existing port and sub-grain answers its state, in a shed the state as it is. -/
theorem exec_frameStart {port sub : Nat} (s : State) (hport : port < 96) (hsub : sub < 65536) :
    exec (.frameStart port sub) s = .next (powered s (frameStart port sub s)) := by
  show ev (decide (port < 96) && decide (sub < 65536)) _ = _
  rw [decide_eq_true hport, decide_eq_true hsub, Bool.and_self, ev_true]

/-- What keeps the state as it is keeps it in a shed too. -/
theorem powered_self (s : State) : powered s s = s := ite_self s

/-! ## Start of a policing interval -/

/-- A partition written reads as written, and the others as before. -/
theorem ptnAt_setPtn (s : State) (n k : Nat) (x : Ptn) : ptnAt (setPtn s n x) k = if k = n then x else ptnAt s k :=
  tget_tset _ _ _ _ _

/-- A partition at the start of an interval: nothing offered or admitted, and its weight. -/
def intervalPtn (x : Ptn) (weight : Nat) : Ptn := { x with offered := 0, admitted := 0, polW := weight }

/-- The interval of one partition begins, with its weight in the newest epoch. -/
def beginInterval (s : State) (n : Nat) : State := setPtn s n (intervalPtn (ptnAt s n) (weightOf s n))

/-- At a grain that is a multiple of 1,000 the intervals of the 16 partitions begin. -/
theorem policingIntervalStart_due {s : State} (h : s.gr.count.toNat % 1000 = 0) :
    policingIntervalStart s = (List.range 16).foldl beginInterval s := if_pos h

/-- Beginning intervals writes nothing but the partitions. -/
theorem foldl_beginInterval_frame (l : List Nat) (s : State) :
    l.foldl beginInterval s = { s with ptn := (l.foldl beginInterval s).ptn } := by
  induction l generalizing s with
  | nil => rfl
  | cons n l ih => exact ih (beginInterval s n)

/-- Each partition whose interval begins, once or more often, stands at its start under the weight it had at first; the others
stay. -/
theorem ptnAt_foldl_beginInterval (l : List Nat) (s : State) (k : Nat) :
    ptnAt (l.foldl beginInterval s) k = if k ∈ l then intervalPtn (ptnAt s k) (weightOf s k) else ptnAt s k := by
  induction l generalizing s with
  | nil => rfl
  | cons n l ih =>
    have hweight : weightOf (beginInterval s n) k = weightOf s k := rfl
    have hentry : ptnAt (beginInterval s n) k = if k = n then intervalPtn (ptnAt s n) (weightOf s n) else ptnAt s k :=
      ptnAt_setPtn s n k _
    rw [List.foldl_cons, ih, hweight, hentry]
    by_cases hkn : k = n
    · subst hkn
      rw [if_pos rfl, if_pos List.mem_cons_self]
      exact ite_self _
    · simp only [List.mem_cons, hkn, false_or, if_false]

/-- Settles O18: a start of frame before a shed adds the started packet, and an interval begins for each of the 16 partitions. -/
theorem frameStartAndPolicingInterval : Obligations.FrameStartAndPolicingInterval := by
  intro s port sub
  refine ⟨fun hport hsub hshed hstate hnone => ?_, fun hport hsub hstate => ?_, fun hgrain => ?_, fun hgrain => ?_⟩
  · refine ⟨startedPkt s port sub, ?_, rfl, rfl, rfl, rfl, rfl, rfl, rfl⟩
    rw [exec_frameStart s hport hsub, powered_on _ hshed, frameStart_begins sub hstate hnone]
    rfl
  · rw [exec_frameStart s hport hsub, frameStart_off sub hstate, powered_self]
  · refine ⟨(List.range 16).foldl beginInterval s, next_congr (policingIntervalStart_due hgrain), foldl_beginInterval_frame _ s,
      fun n => ?_⟩
    simp only [ptnAt_foldl_beginInterval, List.mem_range, intervalPtn]
  · exact next_congr (if_neg hgrain)

end Sys2Proof.Machine
end

section
/-! PROOFS. The family of the architecture chapter, faults: how a detected fault is seen, applied and recorded, what the fatal action
and its reset wait for, and what the grain monitor reports. -/

namespace Sys2Proof.Machine

/-! ## Detection -/

/-- What a unit may not report, or has reported with its fence, is no fault. -/
theorem faultSeen_none {s : State} {src cause : Nat} (data : Nat) (h : detectClass src cause = none ∨ srcFenced s src = true) :
    faultSeen s src cause data = s := by
  unfold faultSeen
  cases hc : detectClass src cause with
  | none => rfl
  | some c => exact if_pos (h.resolve_left (by rw [hc]; exact Option.some_ne_none c))

/-- A cause that its source may report, of a unit not fenced, is an input of class P1. -/
theorem faultSeen_some {s : State} {src cause : Nat} {c : BitVec 2} (data : Nat) (hc : detectClass src cause = some c)
    (hf : srcFenced s src = false) : faultSeen s src cause data =
      see s 1 src (.fault { cls := c, src := src, cause := cause, pt := none, data := data % 2 ^ 64 }) := by
  unfold faultSeen
  rw [hc, hf]
  rfl

/-- A fault at the head of the backlog that no shared decision precedes is applied at its stamp. -/
theorem faultDetected_head {s : State} {e : Entry} {r : List Entry} {f : Rec} (hclk : clkOk s 1 = true)
    (hhead : s.gr.backlog = e :: r) (hf : e.inp.what = .fault f)
    (hshared : s.twn.shared.any (fun d => sharedDue s d && sharedAhead s d e) = false) :
    faultDetected none s = applyFault { s with gr := { s.gr with backlog := r } } f e.stamp := by
  have hfault : faultOf e.inp.what = some f := by rw [hf]; rfl
  simp only [faultDetected, takeHead, hclk, hhead, hfault, hshared, Option.isSome_some, Bool.not_false, and_self, if_true]

/-- A fault at the head of the backlog that a shared decision precedes waits. -/
theorem faultDetected_preceded {s : State} {e : Entry} {r : List Entry} (hclk : clkOk s 1 = true) (hhead : s.gr.backlog = e :: r)
    (hshared : s.twn.shared.any (fun d => sharedDue s d && sharedAhead s d e) = true) : faultDetected none s = s := by
  simp only [faultDetected, takeHead, hclk, hhead, hshared, Bool.not_true, Bool.false_eq_true, and_false, if_true, if_false]

/-- While D1 is stopped and no fault has been seen, none is applied. -/
theorem faultDetected_stopped_none {s : State} (hclk : clkOk s 1 = false)
    (hseen : s.gr.seen.find? (fun i => (faultOf i.what).isSome) = none) : faultDetected none s = s := by
  simp only [faultDetected, faultStopped, hclk, hseen, Bool.false_eq_true, if_false]

/-- While D1 is stopped the first fault seen is applied. -/
theorem faultDetected_stopped_some {s : State} {i : Inp} {f : Rec} (hclk : clkOk s 1 = false)
    (hseen : s.gr.seen.find? (fun i => (faultOf i.what).isSome) = some i) (hf : i.what = .fault f) :
    faultDetected none s = applyFault { s with gr := { s.gr with seen := s.gr.seen.erase i } } f s.gr.count := by
  have hfault : faultOf i.what = some f := by rw [hf]; rfl
  simp only [faultDetected, faultStopped, hclk, hseen, hfault, Bool.false_eq_true, if_false]

/-! ## Application -/

section Apply
variable {s : State} {r : Rec} {g : Grain}

/-- A fenced unit records no further fault. -/
theorem applyFault_fenced_other (hf : srcFenced s r.src = true) (h : r.cls ≠ 2 ∨ fencedAt s r.src g = false) :
    applyFault s r g = s := by
  rw [applyFault, if_pos hf, if_neg]
  rintro ⟨hcls, hat⟩
  exact h.elim (fun h => h hcls) fun h => Bool.false_ne_true (h.symm.trans hat)

/-- A class F fault of the grain of the unit's fence is recorded. -/
theorem applyFault_fenced_classF (hf : srcFenced s r.src = true) (hcls : r.cls = 2) (hat : fencedAt s r.src g = true) :
    applyFault s r g = fcuRecord s r false g := by
  rw [applyFault, if_pos hf, if_pos ⟨hcls, hat⟩]

/-- A class X fault that is not fatal is recorded. -/
theorem applyFault_notFatal (hf : srcFenced s r.src = false) (hcls : r.cls = 3) (hx : isFatal s r = false) :
    applyFault s r g = fcuRecord s r false g := by
  rw [applyFault, hf, if_neg Bool.false_ne_true, if_pos hcls, fatalApply, hx]
  rfl

/-- A fatal fault is recorded and takes the fatal action. -/
theorem applyFault_fatal (hf : srcFenced s r.src = false) (hcls : r.cls = 3) (hx : isFatal s r = true) :
    applyFault s r g = fatalAction (fcuRecord s r false g) g := by
  rw [applyFault, hf, if_neg Bool.false_ne_true, if_pos hcls, fatalApply, hx]
  rfl

/-- A class F fault that fences a unit which is not the last of its kind. -/
theorem applyFault_classF (hf : srcFenced s r.src = false) (hcls : r.cls = 2) (hcause : r.cause ≠ 0x42) (hlast : lastUnit s r = none) :
    applyFault s r g = fenceApply s r g := by
  rw [applyFault, hf, if_neg Bool.false_ne_true, if_neg (by rw [hcls]; decide), if_pos ⟨hcls, hcause⟩, hlast]

/-- A class F fault of the last live unit of its kind is a class X fault. -/
theorem applyFault_lastUnit {c : Nat} (hf : srcFenced s r.src = false) (hcls : r.cls = 2) (hcause : r.cause ≠ 0x42)
    (hlast : lastUnit s r = some c) : applyFault s r g = fatalApply s { r with cls := 3, cause := c, data := r.cause } g := by
  rw [applyFault, hf, if_neg Bool.false_ne_true, if_neg (by rw [hcls]; decide), if_pos ⟨hcls, hcause⟩, hlast]

/-- The access record takes a refused access, which is of class K, and nothing else. -/
theorem accessRecord_not_classK (s : State) {r : Rec} (h : r.cls ≠ 1) : accessRecord s r = s := if_neg fun hk => h hk.1

/-- A class C fault and CASC_LINK are recorded and have no further effect. -/
theorem applyFault_recordOnly (hf : srcFenced s r.src = false) (h : (r.cls = 2 ∧ r.cause = 0x42) ∨ r.cls = 0) :
    applyFault s r g = fcuRecord s r false g := by
  have hx : r.cls ≠ 3 := by rcases h with ⟨hcls, -⟩ | hcls <;> rw [hcls] <;> decide
  have hk : r.cls ≠ 1 := by rcases h with ⟨hcls, -⟩ | hcls <;> rw [hcls] <;> decide
  have hfence : ¬ (r.cls = 2 ∧ r.cause ≠ 0x42) := by
    rintro ⟨hcls, hcause⟩
    rcases h with ⟨-, h⟩ | h
    · exact hcause h
    · exact absurd (hcls.symm.trans h) (by decide)
  rw [applyFault, hf, if_neg Bool.false_ne_true, if_neg hx, if_neg hfence, accessRecord_not_classK _ hk]
  split
  · next hcls _ => exact absurd hcls hk
  · rfl

/-- A class K fault of a partition is recorded, in the access record too, and raises K_FAULT of the partition. -/
theorem applyFault_classK_partition {n : Nat} (hf : srcFenced s r.src = false) (hcls : r.cls = 1) (hpt : r.pt = some n) :
    applyFault s r g = raiseAt (accessRecord (fcuRecord s r false g) r) (448 + 8 * n) r.cause r.src g := by
  have hfence : ¬ (r.cls = 2 ∧ r.cause ≠ 0x42) := fun h => absurd (hcls.symm.trans h.1) (by decide)
  rw [applyFault, hf, if_neg Bool.false_ne_true, if_neg (by rw [hcls]; decide), if_neg hfence, hcls, hpt]
  rfl

/-- A class K fault of no partition is recorded, in the access record too. -/
theorem applyFault_classK_device (hf : srcFenced s r.src = false) (hcls : r.cls = 1) (hpt : r.pt = none) :
    applyFault s r g = accessRecord (fcuRecord s r false g) r := by
  have hfence : ¬ (r.cls = 2 ∧ r.cause ≠ 0x42) := fun h => absurd (hcls.symm.trans h.1) (by decide)
  rw [applyFault, hf, if_neg Bool.false_ne_true, if_neg (by rw [hcls]; decide), if_neg hfence, hcls, hpt]
  rfl

end Apply

/-! ## The history -/

/-- Counting a fault leaves the history and its SEQ. -/
theorem fcuCount_hist_seq (s : State) (cls : BitVec 2) :
    (fcuCount s cls).fcu.hist = s.fcu.hist ∧ (fcuCount s cls).fcu.seq = s.fcu.seq := by
  unfold fcuCount
  dsimp only
  split
  · exact ⟨rfl, rfl⟩
  · split
    · exact ⟨rfl, rfl⟩
    · split <;> exact ⟨rfl, rfl⟩

/-- A fault is counted in the counter of its class. -/
theorem fcuCount_counts (s : State) (cls : BitVec 2) :
    (cls = 0 → (fcuCount s cls).fcu.cntC = satInc s.fcu.cntC) ∧ (cls = 1 → (fcuCount s cls).fcu.cntK = satInc s.fcu.cntK) ∧
    (cls = 2 → (fcuCount s cls).fcu.cntF = satInc s.fcu.cntF) ∧ (cls = 3 → (fcuCount s cls).fcu.cntX = satInc s.fcu.cntX) := by
  refine ⟨?_, ?_, ?_, ?_⟩ <;> (rintro rfl; rfl)

/-- The record of a fault decided at grain `g` with its `seq`, while D1 runs. -/
def newFRec (s : State) (r : Rec) (fence : Bool) (g : Grain) (seq : BitVec 32) : FRec :=
  { rec_ := r, fence := fence, count := 1, epoch := (newest s).num, grain := g, seq := seq, last := g.setWidth 32 }

section Record
variable {s : State} {r : Rec} {g : Grain}

/-- While D1 runs, an occurrence that the newest record takes is counted there. -/
theorem fcuRecord_merged {x : FRec} (fence : Bool) (hclk : clkOk s 1 = true) (hlast : s.fcu.hist.getLast? = some x)
    (hmerge : merges x r g = true) : (fcuRecord s r fence g).fcu = { (fcuCount s r.cls).fcu with
      hist := modLast (fun x => { x with count := satInc x.count, last := g.setWidth 32 }) (fcuCount s r.cls).fcu.hist } := by
  obtain ⟨hhist, -⟩ := fcuCount_hist_seq s r.cls
  simp only [fcuRecord, hclk, hhist, hlast, hmerge, Bool.and_self, if_true]

/-- While D1 runs, a fault that the newest record does not take adds a record; of 33 the oldest goes, counted in LOST. -/
theorem fcuRecord_added (fence : Bool) (hclk : clkOk s 1 = true)
    (hmerge : ∀ x, s.fcu.hist.getLast? = some x → merges x r g = false) : (fcuRecord s r fence g).fcu = { (fcuCount s r.cls).fcu with
      seq := s.fcu.seq + 1
      hist := (s.fcu.hist ++ [newFRec s r fence g (s.fcu.seq + 1)]).drop (s.fcu.hist.length - 31)
      lost := if 32 ≤ s.fcu.hist.length then satInc (fcuCount s r.cls).fcu.lost else (fcuCount s r.cls).fcu.lost } := by
  obtain ⟨hhist, hseq⟩ := fcuCount_hist_seq s r.cls
  cases hlast : s.fcu.hist.getLast? with
  | none => simp only [fcuRecord, hclk, hhist, hseq, hlast, Bool.true_and, Bool.false_eq_true, if_false, if_true]; rfl
  | some x =>
    simp only [fcuRecord, hclk, hhist, hseq, hlast, hmerge x hlast, Bool.true_and, Bool.false_eq_true, if_false, if_true]; rfl

end Record

/-- An entry added at the end of a list is its last one, also when all but 32 entries go from the front. -/
theorem getLast?_drop_concat {α : Type} (l : List α) (x : α) : ((l ++ [x]).drop (l.length - 31)).getLast? = some x := by
  rw [List.drop_append_of_le_length (by omega), List.getLast?_concat]

/-! ## The fatal action and its reset -/

/-- A fatal action under way is not taken again. -/
theorem fatalAction_taken {s : State} (g : Grain) (h : s.fcu.xDue ≠ none) : fatalAction s g = s :=
  if_pos (Option.isSome_iff_ne_none.mpr h)

/-- Where no fatal action is under way no reset is due. -/
theorem fatalReset_none {s : State} (h : s.fcu.xDue = none) : fatalReset s = s := by rw [fatalReset, h]

/-- A hold, or a time not yet run out, leaves the reset for later. -/
theorem fatalReset_waits {s : State} {x : Grain} (hx : s.fcu.xDue = some x)
    (h : s.fcu.holding = true ∨ (since s x < 10000 ∧ clkOk s 1 = true)) : fatalReset s = s := by
  rw [fatalReset, hx]
  refine if_neg fun ⟨hhold, hdue⟩ => ?_
  rcases h with hh | ⟨hsince, hclk⟩
  · rw [hh] at hhold
    exact Bool.false_ne_true hhold
  · rcases hdue with hdue | hdue
    · omega
    · rw [hclk] at hdue
      exact Bool.false_ne_true hdue

/-- A fatal fault that does not hold resets the device when its time has run out, or at once while D1 is stopped. -/
theorem fatalReset_due {s : State} {x : Grain} (hx : s.fcu.xDue = some x) (hhold : s.fcu.holding = false)
    (h : 10000 ≤ since s x ∨ clkOk s 1 = false) : fatalReset s = deviceReset s 3 false := by
  rw [fatalReset, hx]
  exact if_pos ⟨by rw [hhold]; rfl, h.imp id fun hclk => by rw [hclk]; rfl⟩

/-- FCU_XRESET that no rule refuses writes FCU_CTL. -/
theorem exec_fcuXreset_allowed {s : State} {m : Master} (v : W32) (h : allowed s m 0x07C00000 true) :
    exec (.fcuXreset m v) s = .next (fcuCtlWrite v s) := by
  obtain ⟨hwf, hnone⟩ := h
  show ev m.wf _ = _
  rw [hwf, ev_true, regWr_allowed _ hnone]

/-- FCU_CTL written without XRESET, or while nothing holds, sets X_HOLD alone. -/
theorem fcuCtlWrite_plain {s : State} {v : W32} (h : fld v 16 16 ≠ 0xD5E7 ∨ s.fcu.holding = false) :
    fcuCtlWrite v s = { s with fcu := { s.fcu with xHold := bit v 0 } } :=
  if_neg fun ⟨hkey, hhold⟩ => h.elim (fun h => h hkey) fun h => Bool.false_ne_true (h.symm.trans hhold)

/-- XRESET ends a hold by a device reset. -/
theorem fcuCtlWrite_xreset {s : State} {v : W32} (hkey : fld v 16 16 = 0xD5E7) (hhold : s.fcu.holding = true) :
    fcuCtlWrite v s = deviceReset { s with fcu := { s.fcu with xHold := bit v 0 } } 4 false := if_pos ⟨hkey, hhold⟩

/-! ## The grain monitor -/

section Monitor
variable {s : State} {ppm : Int} {gap : Nat}

/-- Within its bounds, or while D1 is stopped, the monitor reports nothing. -/
theorem grainLost_none (h : clkOk s 1 = false ∨ (ppm.natAbs ≤ 2000 ∧ gap < 100)) : grainLost ppm gap s = s :=
  if_pos (h.imp (fun hclk => by rw [hclk]; rfl) id)

/-- Beyond its bounds, while D1 runs, the monitor sees a class X fault; with a gap D1 counts as stopped. -/
theorem grainLost_some (hclk : clkOk s 1 = true) (h : ¬ (ppm.natAbs ≤ 2000 ∧ gap < 100)) : grainLost ppm gap s =
    let t := xFault s 0 0x10 (BitVec.ofInt 64 ppm).toNat
    if 100 ≤ gap then { t with dev := { s.dev with clkOk := s.dev.clkOk &&& ~~~2#14 } } else t :=
  if_neg fun h' => h'.elim (fun hstop => by rw [hclk] at hstop; exact Bool.false_ne_true hstop) h

end Monitor

/-- Settles O51: each branch of detection, of application, of the history, of the fatal action and of the grain monitor is one of
the lemmas above. -/
theorem faultRecordsFencesAndFatalActions : Obligations.FaultRecordsFencesAndFatalActions := by
  refine ⟨fun s src cause data => ⟨fun h => ?_, fun c hc hf => ?_⟩, fun s e r f hclk hhead hf => ⟨fun h => ?_, fun h => ?_⟩,
    fun s hclk => ⟨fun h => ?_, fun i f hi hf => ?_⟩, fun s r g => ?_, fun s r fence g hclk => ?_,
    fun s g => ⟨fatalAction_taken g, fun h => ?_, fun x hx => ⟨fun h => ?_, fun hhold h => ?_⟩⟩, fun s m v h => ?_,
    fun s id c ok h => ?_, fun s ppm gap => ⟨fun h => ?_, fun hclk hppm hgap => ?_, fun hclk hgap => ?_⟩⟩
  · exact next_congr (faultSeen_none data h)
  · exact next_congr (faultSeen_some data hc hf)
  · exact next_congr (faultDetected_head hclk hhead hf h)
  · exact next_congr (faultDetected_preceded hclk hhead h)
  · exact next_congr (faultDetected_stopped_none hclk h)
  · exact next_congr (faultDetected_stopped_some hclk hi hf)
  · exact ⟨applyFault_fenced_other, applyFault_fenced_classF, applyFault_notFatal, applyFault_fatal, applyFault_classF,
      fun _ => applyFault_lastUnit, applyFault_recordOnly, fun _ => applyFault_classK_partition, applyFault_classK_device⟩
  · obtain ⟨hhist, hseq⟩ := fcuCount_hist_seq s r.cls
    refine ⟨hhist, hseq, fun x => fcuRecord_merged fence hclk, fun hmerge => ?_, fcuCount_counts s r.cls⟩
    rw [fcuRecord_added fence hclk hmerge, hseq]
    exact ⟨rfl, getLast?_drop_concat _ _, rfl⟩
  · exact next_congr (fatalReset_none h)
  · exact next_congr (fatalReset_waits hx h)
  · exact next_congr (fatalReset_due hx hhold h)
  · rw [exec_fcuXreset_allowed v h]
    exact ⟨fun hplain => next_congr (fcuCtlWrite_plain hplain), fun hkey hhold => next_congr (fcuCtlWrite_xreset hkey hhold)⟩
  · exact next_congr (runCmd_ready _ h)
  · exact next_congr (grainLost_none h)
  · exact next_congr ((grainLost_some hclk (by omega)).trans (if_neg (by omega)))
  · exact next_congr ((grainLost_some hclk (by omega)).trans (if_pos hgap))

end Sys2Proof.Machine
end

section
/-! PROOFS. The family of the grain chapter, boundaries: what a grain boundary counts, and what its admission takes into the backlog. -/

namespace Sys2Proof.Machine

/-! ## The count of grains -/

/-- Counting a grain adds one, sets LOCK and records the measured deviation. -/
theorem grainTick_grain (x : BitVec 12) (s : State) : gp (grainTick x s) = (s.gr.count + 1, true, x) := by
  unfold grainTick
  simp only [occupancyCount_grain, censusBoundary_grain, gp_foldl _ _ _ watchGrain_grain, wdogGrain_grain, aonGrain_grain,
    tbBoundary_grain]
  rfl

/-- All that a boundary does after the count leaves the three as counted. -/
theorem grainBoundary_grain {x : BitVec 12} {s : State} (hclk : clkOk s 1 = true) (hrst : s.dev.inReset = false) :
    gp (grainBoundary x s) = (s.gr.count + 1, true, x) := by
  unfold grainBoundary
  rw [hclk, hrst, Bool.not_true, Bool.or_false, if_neg Bool.false_ne_true]
  simp only [keepaliveSend_grain, poolEmpty_grain, creditBoundary_grain, holdUpdate_grain, admitLow_grain, admitHigh_grain,
    commitSee_grain, sweepSee_grain, shareLearns_grain, radioLinks_grain, readyAnswer_grain, resetsEnded_grain, validUpdate_grain,
    pendAll_grain, grainTick_grain]

/-- Without D1's clock, or in reset, no boundary comes. -/
theorem grainBoundary_none {s : State} (x : BitVec 12) (h : clkOk s 1 = false ∨ s.dev.inReset = true) : grainBoundary x s = s :=
  if_pos (by rcases h with h | h <;> simp [h])

/-- Settles O9: the boundary keeps the count, the lock and the deviation that its tick has set. -/
theorem grainBoundaryCountsOne : Obligations.GrainBoundaryCountsOne := by
  intro s x
  refine ⟨fun hclk hrst => ⟨grainBoundary x s, rfl, ?_⟩, fun h => next_congr (grainBoundary_none x h)⟩
  have hgp : gp (grainBoundary x s) = (s.gr.count + 1, true, x) := grainBoundary_grain hclk hrst
  exact ⟨congrArg Prod.fst hgp, congrArg (·.2.1) hgp, congrArg (·.2.2) hgp⟩

/-! ## Admission -/

/-- Putting an input in its place adds it and nothing else. -/
theorem insInp_perm (x : Inp) (l : List Inp) : (insInp x l).Perm (x :: l) := by
  induction l with
  | nil => exact List.Perm.refl _
  | cons y r ih =>
    unfold insInp
    split
    · exact List.Perm.refl _
    · exact (ih.cons y).trans (List.Perm.swap x y r)

/-- Putting inputs in their order keeps them all. -/
theorem sortInps_perm (l : List Inp) : (sortInps l).Perm l := by
  have hfold : ∀ a : List Inp, (l.foldl (fun a x => insInp x a) a).Perm (l ++ a) := by
    induction l with
    | nil => exact fun a => List.Perm.refl _
    | cons x r ih => exact fun a => (ih _).trans (((insInp_perm x a).append_left r).trans List.perm_middle)
  exact (hfold []).trans (by rw [List.append_nil])

/-- The inputs of P0-P5 that a boundary takes from their sources, stamped with its grain. -/
def takenHigh (s : State) : List Entry :=
  (sortInps (s.gr.seen.filter fun x => decide (x.cls ≤ 5) && !sourceFull s x)).map fun x => ⟨s.gr.count, x⟩

/-- A taken input is one seen of P0-P5 whose source is not full, with the grain as its stamp. -/
theorem mem_takenHigh {s : State} {x : Inp} (hx : x ∈ s.gr.seen) (hcls : x.cls ≤ 5) (hfree : sourceFull s x = false) :
    (⟨s.gr.count, x⟩ : Entry) ∈ takenHigh s := by
  refine List.mem_map.mpr ⟨x, (sortInps_perm _).mem_iff.mpr (List.mem_filter.mpr ⟨hx, ?_⟩), rfl⟩
  rw [hfree, decide_eq_true hcls]
  rfl

section High
variable (s : State)

theorem admitHigh_backlog :
    (admitHigh s).gr.backlog = s.gr.backlog ++ (s.gr.waiting ++ takenHigh s).take (4096 - s.gr.backlog.length) := rfl

theorem admitHigh_waiting : (admitHigh s).gr.waiting = (s.gr.waiting ++ takenHigh s).drop (4096 - s.gr.backlog.length) := rfl

theorem admitHigh_seen : (admitHigh s).gr.seen =
    (s.gr.seen.filter fun x => decide (x.cls ≤ 5) && sourceFull s x) ++ s.gr.seen.filter fun x => decide (6 ≤ x.cls) := rfl

/-- What waited or was taken is in the backlog or waits after the admission. -/
theorem mem_admitHigh {e : Entry} (h : e ∈ s.gr.waiting ++ takenHigh s) :
    e ∈ (admitHigh s).gr.backlog ∨ e ∈ (admitHigh s).gr.waiting := by
  rw [← List.take_append_drop (4096 - s.gr.backlog.length) (s.gr.waiting ++ takenHigh s)] at h
  rw [admitHigh_backlog, admitHigh_waiting, List.mem_append]
  exact (List.mem_append.mp h).imp .inr id

/-- Every input seen is taken, of a full source, or of P6 or P7. -/
theorem length_seen_split : (takenHigh s).length + (admitHigh s).gr.seen.length = s.gr.seen.length := by
  rw [admitHigh_seen, takenHigh, List.length_map, (sortInps_perm _).length_eq, List.length_append]
  induction s.gr.seen with
  | nil => rfl
  | cons x l ih =>
    by_cases hcls : x.cls ≤ 5
    · have hlow : ¬ 6 ≤ x.cls := by omega
      cases hfull : sourceFull s x <;> simp [hcls, hlow, hfull] <;> omega
    · have hlow : 6 ≤ x.cls := by omega
      simp [hcls, hlow]
      omega

end High

/-- Stamping commands leaves the sequencer. -/
theorem foldl_stampCmd_gr (l : List Inp) (s : State) : (l.foldl stampCmd s).gr = s.gr := by
  induction l generalizing s with
  | nil => rfl
  | cons x l ih =>
    have hx : (stampCmd s x).gr = s.gr := by
      unfold stampCmd
      split <;> rfl
    rw [List.foldl_cons, ih, hx]

/-- The entries that the admission of P6 and P7 appends: no more than 3,584 leave room for, and none while an input waits. -/
theorem admitLow_backlog (s : State) : ∃ l : List Entry, (admitLow s).gr.backlog = s.gr.backlog ++ l ∧
    l.length ≤ if s.gr.waiting.isEmpty then 3584 - s.gr.backlog.length else 0 := by
  refine ⟨_, congrArg (·.backlog) (foldl_stampCmd_gr _ _), ?_⟩
  rw [List.length_map]
  exact List.length_take_le _ _

/-- Settles O10: the admission of P0-P5 splits what is seen and what waits, and that of P6 and P7 appends within its room. -/
theorem backlogAdmission : Obligations.BacklogAdmission := by
  intro s
  have hhigh : s.gr.backlog.length ≤ 4096 → (admitHigh s).gr.backlog.length ≤ 4096 := by
    intro h
    rw [admitHigh_backlog, List.length_append, List.length_take]
    omega
  refine ⟨fun h => ⟨hhigh h, ?_⟩, ?_, fun x hcls hx => ?_, fun e he => mem_admitHigh s (List.mem_append_left _ he), fun h => ?_⟩
  · obtain ⟨l, hl, hlen⟩ := admitLow_backlog (admitHigh s)
    have := hhigh h
    rw [hl, List.length_append]
    split at hlen <;> omega
  · have hsplit := length_seen_split s
    rw [admitHigh_backlog, admitHigh_waiting, List.length_append, List.length_take, List.length_drop, List.length_append]
    omega
  · cases hfull : sourceFull s x with
    | false => exact .inl ⟨_, mem_admitHigh s (List.mem_append_right _ (mem_takenHigh hx hcls hfull)), rfl, rfl⟩
    | true =>
      refine .inr (List.mem_append_left _ (List.mem_filter.mpr ⟨hx, ?_⟩))
      rw [hfull, decide_eq_true hcls]
      rfl
  · obtain ⟨l, hl, hlen⟩ := admitLow_backlog s
    have hroom : (if s.gr.waiting.isEmpty then 3584 - s.gr.backlog.length else 0) = 0 := by
      rcases h with hdeep | hwait
      · rw [Nat.sub_eq_zero_of_le hdeep, ite_self]
      · rw [if_neg (by rwa [List.isEmpty_iff])]
    rw [hl, List.eq_nil_of_length_eq_zero (Nat.le_zero.mp (hlen.trans_eq hroom)), List.append_nil]

end Sys2Proof.Machine
end

section
/-! PROOFS. The family of the grain chapter, the head of the backlog: link, learning and sweep decisions, and four in a row. -/

namespace Sys2Proof.Machine

section Head
variable {s : State} {e : Entry} {r : List Entry}

/-- The state in which the head entry has been taken. -/
def behead (s : State) (r : List Entry) : State := { s with gr := { s.gr with backlog := r } }

theorem behead_self : behead s s.gr.backlog = s := rfl

theorem behead_behead (q : List Entry) : behead (behead s q) r = behead s r := rfl

theorem portAt_behead (p : Nat) : portAt (behead s r) p = portAt s p := rfl

theorem radioAt_behead (m : Nat) : radioAt (behead s r) m = radioAt s m := rfl

/-- With no shared decision waiting, a head of the wanted kind is taken. -/
theorem takeHead_some {f : Decision → Bool} (hshared : s.twn.shared = []) (hhead : s.gr.backlog = e :: r)
    (hkind : f e.inp.what = true) : takeHead s f = some (behead s r, e) := by
  simp [takeHead, behead, hshared, hhead, hkind]

/-- A head of another kind is not taken. -/
theorem takeHead_otherKind {f : Decision → Bool} (hhead : s.gr.backlog = e :: r) (hkind : f e.inp.what = false) :
    takeHead s f = none := by
  simp [takeHead, hhead, hkind]

/-- A link change at the head is applied with its stamp. -/
theorem linkDecision_head {p : Nat} {up : Bool} {c : BitVec 4} (hshared : s.twn.shared = []) (hhead : s.gr.backlog = e :: r)
    (hkind : e.inp.what = .link p up c) : linkDecision s = linkApply (behead s r) p up c e.stamp := by
  rw [linkDecision, takeHead_some hshared hhead (by rw [hkind])]
  simp only [hkind]

/-- A learning event at the head is applied with its stamp. -/
theorem learnDecision_head {x : LearnEv} (hshared : s.twn.shared = []) (hhead : s.gr.backlog = e :: r)
    (hkind : e.inp.what = .learn x) : learnDecision s = learnApply (behead s r) x e.stamp false := by
  rw [learnDecision, takeHead_some hshared hhead (by rw [hkind])]
  simp only [hkind]

/-- A sweep step at the head is applied with its stamp. -/
theorem ageingSweepStep_head {b : Nat} (hshared : s.twn.shared = []) (hhead : s.gr.backlog = e :: r)
    (hkind : e.inp.what = .sweep b) : ageingSweepStep s = sweepApply (behead s r) b e.stamp false := by
  rw [ageingSweepStep, takeHead_some hshared hhead (by rw [hkind])]
  simp only [hkind]

/-- Behind a sweep step no link change is taken. -/
theorem linkDecision_sweepHead {b : Nat} (hhead : s.gr.backlog = e :: r) (hkind : e.inp.what = .sweep b) : linkDecision s = s := by
  rw [linkDecision, takeHead_otherKind hhead (by rw [hkind])]

/-- Behind a sweep step no learning event is taken. -/
theorem learnDecision_sweepHead {b : Nat} (hhead : s.gr.backlog = e :: r) (hkind : e.inp.what = .sweep b) : learnDecision s = s := by
  rw [learnDecision, takeHead_otherKind hhead (by rw [hkind])]

/-- Behind a learning event no sweep step is taken. -/
theorem ageingSweepStep_learnHead {x : LearnEv} (hhead : s.gr.backlog = e :: r) (hkind : e.inp.what = .learn x) :
    ageingSweepStep s = s := by
  rw [ageingSweepStep, takeHead_otherKind hhead (by rw [hkind])]

/-- A link change at the head of the backlog is applied by the row of link decisions. -/
theorem headApply_link {p : Nat} {up : Bool} {c : BitVec 4} (hshared : s.twn.shared = []) (hhead : s.gr.backlog = e :: r)
    (hkind : e.inp.what = .link p up c) : headApply s = linkApply (behead s r) p up c e.stamp := by
  rw [← linkDecision_head hshared hhead hkind, headApply]
  simp only [hhead, hkind]

/-- Of an empty backlog nothing is applied. -/
theorem headApply_empty (h : s.gr.backlog = []) : headApply s = s := by rw [headApply, h]

end Head

/-- An up decision of an Ethernet port. -/
theorem linkApply_up (s : State) {p : Nat} (c : BitVec 4) (g : Grain) (hp : p < 96) : linkApply s p true c g = portUp s p g :=
  if_pos hp

/-- A down decision of an Ethernet port. -/
theorem linkApply_down (s : State) {p : Nat} (c : BitVec 4) (g : Grain) (hp : p < 96) : linkApply s p false c g = portDown s p c g :=
  if_pos hp

/-- A link change of a radio port gives it its level, and the stamp as its grain of decision. -/
theorem linkApply_radio (s : State) {p : Nat} (up : Bool) (c : BitVec 4) (g : Grain) (hp : 96 ≤ p) :
    linkApply s p up c g = setRadio s (p - 96) { radioAt s (p - 96) with up := up, decAt := g } := if_neg (by omega)

/-- The new level of a radio port. -/
def radioLevel (s : State) (m : Nat) (up : Bool) (g : Grain) : State := setRadio s m { radioAt s m with up := up, decAt := g }

theorem radioLevel_behead (s : State) (r : List Entry) (m : Nat) (up : Bool) (g : Grain) :
    radioLevel (behead s r) m up g = behead (radioLevel s m up g) r := rfl

/-- A radio link change at the head of the backlog is taken and sets the level. -/
theorem headApply_radio {s : State} {p idx cls : Nat} (up : Bool) (c : BitVec 4) (g : Grain) (r : List Entry)
    (hshared : s.twn.shared = []) (hp : 96 ≤ p) :
    headApply (behead s (⟨g, ⟨cls, idx, .link p up c⟩⟩ :: r)) = behead (radioLevel s (p - 96) up g) r := by
  have hlink := headApply_link (s := behead s (⟨g, ⟨cls, idx, .link p up c⟩⟩ :: r)) hshared rfl rfl
  rw [hlink, linkApply_radio _ _ _ _ hp, ← radioLevel_behead]
  rfl

/-- Settles O11: the head is taken and applied by the row of its kind; BACKLOG_APPLY does so four times. -/
theorem decisionsTakeTheHead : Obligations.DecisionsTakeTheHead := by
  intro s g ci p c r hshared
  refine ⟨fun hhead hp => ?_, fun hhead hp => ?_, fun u hhead hp => ?_, fun e hhead => ?_, fun b hhead => ?_, fun b hhead => ?_,
    fun e hhead => ?_, fun hempty => ?_, fun u1 u2 u3 u4 hhead => ?_⟩
  · exact next_congr ((linkDecision_head hshared hhead rfl).trans (linkApply_up _ _ _ hp))
  · refine next_congr ?_
    rw [linkDecision_head hshared hhead rfl, linkApply_down _ _ _ hp, portDown, portAt_behead]
    rfl
  · refine next_congr ?_
    rw [linkDecision_head hshared hhead rfl, linkApply_radio _ _ _ _ hp, radioAt_behead]
    rfl
  · refine next_congr ?_
    rw [learnDecision_head hshared hhead rfl]
    rfl
  · refine next_congr ?_
    rw [ageingSweepStep_head hshared hhead rfl]
    rfl
  · exact ⟨next_congr (linkDecision_sweepHead hhead rfl), next_congr (learnDecision_sweepHead hhead rfl)⟩
  · exact next_congr (ageingSweepStep_learnHead hhead rfl)
  · refine next_congr ?_
    simp only [backlogApply, headApply_empty hempty]
  · refine next_congr ?_
    show backlogApply s = radioLevel (radioLevel (radioLevel (radioLevel (behead s r) 0 u1 g) 1 u2 g) 2 u3 g) 3 u4 g
    rw [← behead_self (s := s), hhead, backlogApply, headApply_radio, headApply_radio, headApply_radio, headApply_radio]
    · simp only [Nat.reduceSub, radioLevel_behead, behead_behead]
    any_goals exact hshared
    all_goals decide

end Sys2Proof.Machine
end

section
/-! PROOFS. The family of the grain chapter, reset: what the registers and the stores hold after it. -/

namespace Sys2Proof.Machine

/-- The reset value of PORT_MODE of every port: disabled. -/
theorem settingReset_portMode {p : Nat} (hp : p < 96) : settingReset (skey sPORT_MODE p) = [0] := by
  have hsid : skey sPORT_MODE p / 65536 = sPORT_MODE := by unfold skey; omega
  have hidx : skey sPORT_MODE p % 65536 = p := by unfold skey; omega
  have hwords : settingWords sPORT_MODE p = some 1 := by rw [settingWords, if_pos (.inl rfl), if_pos hp]
  calc settingReset (skey sPORT_MODE p) = List.replicate ((settingWords sPORT_MODE p).getD 0) 0 := by
        rw [settingReset, hsid, hidx]
        rfl
    _ = [0] := by rw [hwords]; rfl

/-- After reset every port reads its mode from the reset value of its setting. -/
theorem portMode_reset {p : Nat} (hp : p < 96) : portMode State.reset p = 0 := by
  have hcur : cur State.reset sPORT_MODE p = settingReset (skey sPORT_MODE p) := rfl
  rw [portMode, cur0, hcur, settingReset_portMode hp]
  rfl

/-- Settles O58: PORT_MODE has its reset value at the index of every port; every other part is a closed fact about the registers
and stores at reset, the temperature alarm for either grade. -/
theorem resetValues : Obligations.ResetValues :=
  ⟨rfl, rfl, rfl, rfl, rfl, rfl, rfl, rfl, rfl, rfl, rfl, rfl, rfl, rfl, rfl, rfl, rfl, rfl, fun _ hp => portMode_reset hp, by decide⟩

end Sys2Proof.Machine
end

section
/-! PROOFS. The family of the grain chapter, rows of existing units: a row answers its state, and an access that no rule refuses
has its effect. -/

namespace Sys2Proof.Machine

/-- A row of an existing unit answers its state. -/
theorem ev_next {ok : Bool} {t u : State} (hok : ok = true) (h : t = u) : ev ok t = .next u := by rw [hok, ev_true, h]

section Access
variable {s : State} {m : Master} {a : Nat} {ok : Bool}

/-- A write row of an existing unit has its effect. -/
theorem ev_regWr_allowed (k : State → State) (h : allowed s m a true) (hok : ok = true) :
    ev ok (regWr s m a k) = .next (k s) := ev_next hok (regWr_allowed k h.2)

/-- A read row of an existing unit returns its value and takes what it takes. -/
theorem ev_regRd_allowed (v : State → W32) (k : State → State) (h : allowed s m a false) (hok : ok = true) :
    ev ok (regRd s m a v k) = .next (readBack (k s) (v s)) := ev_next hok (regRd_allowed v k h.2)

end Access

end Sys2Proof.Machine
end

section
/-! PROOFS. The family of the grain chapter, semaphores: what ACQ, REL and RENEW do at the boundary, and how a lease ends. -/

namespace Sys2Proof.Machine

section Sem
variable {s : State} {k : Nat}

/-! ## What the holder and the waiters do -/

theorem semAcquire_free (x : Lease) (h : semAt s k = none) : semAcquire s k x = setSem s k (some (semGranted s x [])) := by
  rw [semAcquire, h]

theorem semAcquire_waits {y : Sem} (x : Lease) (h : semAt s k = some y) (hw : y.waiters.length < 8) :
    semAcquire s k x = setSem s k (some { y with waiters := y.waiters ++ [x] }) := by
  rw [semAcquire, h]
  exact if_pos hw

theorem semAcquire_full {y : Sem} (x : Lease) (h : semAt s k = some y) (hw : 8 ≤ y.waiters.length) :
    semAcquire s k x = { s with cc := { s.cc with semFull := s.cc.semFull ||| semBit k } } := by
  rw [semAcquire, h]
  exact if_neg (by omega)

/-- Without waiters the semaphore is free. -/
theorem semPass_nil {l : List Lease} (h : l = []) : semPass s k l = setSem s k none := by rw [h, semPass]

/-- With waiters the head one is granted it. -/
theorem semPass_cons {l w : List Lease} {x : Lease} (h : l = x :: w) : semPass s k l = setSem s k (some (semGranted s x w)) := by
  rw [h, semPass]

theorem semFree_held {y : Sem} (h : semAt s k = some y) : semFree s k = semPass s k y.waiters := by rw [semFree, h]

/-- LOST of a semaphore that the cluster loses; of one that the HCU held nothing is noted. -/
def semLostNoted (s : State) (k : Nat) (y : Sem) : State :=
  if y.holder.hcu then s else { s with cc := { s.cc with semLost := s.cc.semLost ||| semBit k } }

theorem semRevoke_held {y : Sem} (h : semAt s k = some y) : semRevoke s k = semPass (semLostNoted s k y) k y.waiters := by
  rw [semRevoke, h]
  rfl

/-! ## The registers at the boundary -/

section Apply
variable {v : W32}

/-- LEASE 0 is ignored. -/
theorem semApply_acq_zero (h : fld v 16 16 = 0) : semApply s k 0 v = s := if_pos h

theorem semApply_acq (h : fld v 16 16 ≠ 0) : semApply s k 0 v =
    semAcquire s k { hcu := false, token := BitVec.ofNat 16 (fld v 0 16), lease := fld v 16 16, cmd := none } := if_neg h

/-- A release under another token, or by one that does not hold it, changes nothing. -/
theorem semApply_rel_other (h : semMine s k (fld v 0 16) = false) : semApply s k 4 v = s := if_neg (by rw [h]; decide)

theorem semApply_rel_mine (h : semMine s k (fld v 0 16) = true) : semApply s k 4 v = semFree s k := if_pos h

/-- A renewal asks whether the cluster holds the semaphore under its token, and for a lease that is not 0. -/
theorem semApply_renew_held {y : Sem} (hy : semAt s k = some y) : semApply s k 8 v =
    if semMine s k (fld v 0 16) ∧ fld v 16 16 ≠ 0 then setSem s k (some { y with
      until_ := s.gr.count + BitVec.ofNat 64 (fld v 16 16 * 1000)
      frozen := if y.frozen.isSome then some (BitVec.ofNat 64 (fld v 16 16 * 1000)) else none })
    else s := by
  unfold semApply
  rw [hy]
  rfl

/-- A renewal under another token, or by one that does not hold it, changes nothing. -/
theorem semApply_renew_other (h : semMine s k (fld v 0 16) = false) : semApply s k 8 v = s := by
  cases hy : semAt s k with
  | none => unfold semApply; rw [hy]; rfl
  | some y => rw [semApply_renew_held hy, if_neg fun h' => Bool.false_ne_true (h.symm.trans h'.1)]

/-- The holder moves the end of a lease that runs. -/
theorem semApply_renew_mine {y : Sem} (h : semMine s k (fld v 0 16) = true) (hy : semAt s k = some y) (hlease : fld v 16 16 ≠ 0)
    (hruns : y.frozen = none) : semApply s k 8 v = setSem s k
      (some { y with until_ := s.gr.count + BitVec.ofNat 64 (fld v 16 16 * 1000), frozen := none }) := by
  rw [semApply_renew_held hy, if_pos ⟨h, hlease⟩, hruns]
  rfl

end Apply

/-! ## The end of a lease -/

theorem semExpiry_free (h : semAt s k = none) : semExpiry k s = s := by rw [semExpiry, h]

/-- A frozen lease, or one whose end has not come, stays. -/
theorem semExpiry_runs {y : Sem} (hy : semAt s k = some y) (h : y.frozen.isSome = true ∨ reached s y.until_ = false) :
    semExpiry k s = s := by
  rw [semExpiry, hy]
  refine if_neg ?_
  rcases h with h | h
  · rw [← Option.not_isSome, h, Bool.not_true, Bool.false_and]
    exact Bool.false_ne_true
  · rw [h, Bool.and_false]
    exact Bool.false_ne_true

theorem semExpiry_due {y : Sem} (hy : semAt s k = some y) (hruns : y.frozen = none) (hdue : reached s y.until_ = true) :
    semExpiry k s = semPass (semLostNoted s k y) k y.waiters := by
  rw [← semRevoke_held hy, semExpiry, hy]
  exact if_pos (by rw [hruns, hdue]; rfl)

end Sem

/-- Settles O46: the three writes wait for the boundary, where each acts as its lemma above says; a lease that is due passes on. -/
theorem semaphoresAndLeases : Obligations.SemaphoresAndLeases := by
  refine ⟨fun s m k v hk => ⟨fun h => ?_, fun h => ?_, fun h => ?_⟩, fun s k v => ⟨fun h => ?_, fun h hfree hfrozen => ?_,
    fun y h hy => ⟨fun hw => ?_, fun hw => ?_⟩, fun h => ?_, fun y h hy => ⟨fun hw => ?_, fun x w hw => ?_, fun hlease hruns => ?_⟩⟩,
    fun s k hk => ⟨fun h => ?_, fun y hy => ⟨fun h => ?_, fun hruns hdue => ⟨fun hw => ?_, fun x w hw => ?_⟩⟩⟩⟩
  · exact ev_regWr_allowed _ h (by rw [h.1, decide_eq_true hk]; rfl)
  · exact ev_regWr_allowed _ h (by rw [h.1, decide_eq_true hk]; rfl)
  · exact ev_regWr_allowed _ h (by rw [h.1, decide_eq_true hk]; rfl)
  · exact semApply_acq_zero h
  · rw [semApply_acq h, semAcquire_free _ hfree, semGranted, hfrozen]
    rfl
  · rw [semApply_acq h, semAcquire_waits _ hy hw]
  · rw [semApply_acq h, semAcquire_full _ hy hw]
    rfl
  · exact ⟨semApply_rel_other h, semApply_renew_other h⟩
  · rw [semApply_rel_mine h, semFree_held hy, semPass_nil hw]
  · rw [semApply_rel_mine h, semFree_held hy, semPass_cons hw]
  · exact semApply_renew_mine h hy hlease hruns
  · exact ev_next (decide_eq_true hk) (semExpiry_free h)
  · exact ev_next (decide_eq_true hk) (semExpiry_runs hy h)
  · exact ev_next (decide_eq_true hk) ((semExpiry_due hy hruns hdue).trans (semPass_nil hw))
  · exact ev_next (decide_eq_true hk) ((semExpiry_due hy hruns hdue).trans (semPass_cons hw))

end Sys2Proof.Machine
end

section
/-! PROOFS. The family of the grain chapter, counters: their settings at a boundary, the view of a partition, and the census. -/

namespace Sys2Proof.Machine

/-! ## One counter -/

section Counter
variable {s : State} {u c : Nat}

theorem ctrAt_setCtr_same (x : Ctr) : ctrAt (setCtr s u c x) u c = x :=
  (tget_tset _ _ _ _ _).trans (if_pos rfl)

/-- Writing a counter leaves every other one. -/
theorem ctrAt_setCtr_other (x : Ctr) {j d : Nat} (hc : c < 8) (hd : d < 8) (h : (j, d) ≠ (u, c)) :
    ctrAt (setCtr s u c x) j d = ctrAt s j d := by
  refine (tget_tset _ _ _ _ _).trans (if_neg fun hkey => h ?_)
  have hj : j = u := by omega
  have hdc : d = c := by omega
  rw [hj, hdc]

/-! ## Settings (R600) -/

/-- Word +0 of a counter of an existing unit. -/
theorem pmcApply_lo (v : W32) (hu : u < 168) (hc : c < 8) : pmcApply s (u * 0x40 + c * 8) v = pmcCfgLo s u c v := by
  have hunit : (u * 0x40 + c * 8) / 0x40 = u := by omega
  have hctr : (u * 0x40 + c * 8) % 0x40 / 8 = c := by omega
  have hword : (u * 0x40 + c * 8) % 8 = 0 := by omega
  rw [pmcApply, hunit, hctr]
  exact (if_neg (by omega)).trans (if_pos hword)

/-- Word +4 of a counter of an existing unit. -/
theorem pmcApply_hi (v : W32) (hu : u < 168) (hc : c < 8) : pmcApply s (u * 0x40 + c * 8 + 4) v = pmcCfgHi s u c v := by
  have hunit : (u * 0x40 + c * 8 + 4) / 0x40 = u := by omega
  have hctr : (u * 0x40 + c * 8 + 4) % 0x40 / 8 = c := by omega
  have hword : (u * 0x40 + c * 8 + 4) % 8 ≠ 0 := by omega
  rw [pmcApply, hunit, hctr]
  exact (if_neg (by omega)).trans (if_neg hword)

/-- A write of either word leaves every other counter. -/
theorem ctrAt_pmcApply_other (v : W32) (hi : Bool) {j d : Nat} (hu : u < 168) (hc : c < 8) (hd : d < 8) (h : (j, d) ≠ (u, c)) :
    ctrAt (pmcApply s (u * 0x40 + c * 8 + 4 * b1 hi) v) j d = ctrAt s j d := by
  cases hi with
  | false => exact (congrArg (ctrAt · j d) (pmcApply_lo v hu hc)).trans (ctrAt_setCtr_other _ hc hd h)
  | true => exact (congrArg (ctrAt · j d) (pmcApply_hi v hu hc)).trans (ctrAt_setCtr_other _ hc hd h)

/-! ## The view of a partition (R601) -/

section View
variable {n : Nat}

/-- LO of an own counter returns the low word. -/
theorem viewWord_lo (h : ctrOf n (ctrAt s u c) = true) : viewWord s n u c false = w32 (ctrAt s u c).count.toNat := by
  rw [viewWord, h]
  rfl

/-- HI of an own counter returns the latch. -/
theorem viewWord_hi (h : ctrOf n (ctrAt s u c) = true) : viewWord s n u c true = w32 (ctrAt s u c).hi.toNat := by
  rw [viewWord, h]
  rfl

/-- A counter of another partition reads 0. -/
theorem viewWord_other (hi : Bool) (h : ctrOf n (ctrAt s u c) = false) : viewWord s n u c hi = 0 := by
  rw [viewWord, h]
  rfl

/-- Reading LO of an own counter latches the high word. -/
theorem viewTake_lo (h : ctrOf n (ctrAt s u c) = true) : viewTake s n u c false =
    setCtr s u c { ctrAt s u c with hi := BitVec.ofNat 16 ((ctrAt s u c).count.toNat / 2 ^ 32) } := by
  rw [viewTake, h]
  rfl

/-- Reading HI takes nothing. -/
theorem viewTake_hi : viewTake s n u c true = s := rfl

/-- Reading a counter of another partition takes nothing. -/
theorem viewTake_other (hi : Bool) (h : ctrOf n (ctrAt s u c) = false) : viewTake s n u c hi = s := by
  rw [viewTake, h, Bool.and_false]
  rfl

/-- COUNTER_VIEW_READ of an existing counter that no rule refuses returns the view's word. -/
theorem exec_counterViewRead_allowed {m : Master} {hi : Bool}
    (h : allowed s m (winBase n + 0x10000 + u * 0x40 + c * 8 + 4 * b1 hi) false) (hn : n < 16) (hu : u < 168) (hc : c < 8) :
    exec (.counterViewRead m n u c hi) s = .next (readBack (viewTake s n u c hi) (viewWord s n u c hi)) :=
  ev_regRd_allowed _ _ h (by simp [h.1, hn, hu, hc])

end View

end Counter

/-! ## The census (R220, R597) -/

section Census
variable {s : State}

/-- The grain of a census: AT, or the grain after the arrival stamp. -/
def censusAt (c : Cmd) : Grain := if par c 16 8 = 0 then c.arrive + 1 else BitVec.ofNat 64 (par c 16 8)

theorem pmcCensus_first (c : Cmd) (hp : s.pmc.pend = none) (hw : s.pmc.writing = none) : pmcCensus s c =
    running { s with pmc := { s.pmc with pend := some (censusAt c), pendCmds := [(c.id, false)], snap := none } } c.id := by
  rw [pmcCensus, hp, hw]
  rfl

theorem pmcCensus_joins (c : Cmd) (hp : s.pmc.pend = some (censusAt c)) : pmcCensus s c =
    running { s with pmc := { s.pmc with pendCmds := s.pmc.pendCmds ++ [(c.id, true)] } } c.id := by
  rw [pmcCensus, hp]
  exact if_pos rfl

/-- A census of another grain pends, or one is being written. -/
theorem pmcCensus_busy (c : Cmd) (h : (∃ p, s.pmc.pend = some p ∧ p ≠ censusAt c) ∨ (s.pmc.pend = none ∧ s.pmc.writing.isSome = true)) :
    pmcCensus s c = complete s c.id stCENSUS_BUSY [] := by
  rcases h with ⟨p, hp, hne⟩ | ⟨hp, hw⟩
  · rw [pmcCensus, hp]
    exact if_neg hne
  · obtain ⟨x, hx⟩ := Option.isSome_iff_exists.mp hw
    rw [pmcCensus, hp, hx]

theorem censusCapture_due {g : Grain} (hp : s.pmc.pend = some g) (hg : reached s g = true) :
    censusCapture s = { s with pmc := { s.pmc with
      pend := none, snap := none, writing := some (s.pmc.snap.getD (censusOf s g)), next := s.pmc.next + 1 } } := by
  rw [censusCapture, hp]
  exact if_pos hg

/-- No census pends, or its grain is not reached. -/
theorem censusCapture_none (h : ∀ g, s.pmc.pend = some g → reached s g = false) : censusCapture s = s := by
  unfold censusCapture
  cases hp : s.pmc.pend with
  | none => rfl
  | some g => exact if_neg (by rw [h g hp]; exact Bool.false_ne_true)

theorem censusComplete_writing {x : Census} (hw : s.pmc.writing = some x) : censusComplete s =
    s.pmc.pendCmds.foldl (fun s c => complete s c.1 (if c.2 then stNOTE else stDONE) (leBytes 8 x.at_.toNat ++ leBytes 2 x.num.toNat))
      { s with pmc := { s.pmc with writing := none, pendCmds := [], slots := (x :: s.pmc.slots).take 4 } } := by
  rw [censusComplete, hw]

theorem censusComplete_none (hw : s.pmc.writing = none) : censusComplete s = s := by rw [censusComplete, hw]

/-- PMC_READ of a census held gives its bytes to the buffer. -/
theorem pmcReadCmd_held {x : Census} {c : Cmd} (ok : Bool)
    (h : s.pmc.slots.find? (fun x => decide (x.num.toNat = par c 8 2)) = some x) :
    pmcReadCmd ok s c = bufOut s c ok 0 ((censusBytes x c.pt).take (bufLen c)) stDONE [] := by rw [pmcReadCmd, h]

theorem pmcReadCmd_absent {c : Cmd} (ok : Bool) (h : s.pmc.slots.find? (fun x => decide (x.num.toNat = par c 8 2)) = none) :
    pmcReadCmd ok s c = complete s c.id stBAD_PARAM [] := by rw [pmcReadCmd, h]

end Census

/-- Settles O35: a counter's settings, its view, and each branch of the census are the lemmas above. -/
theorem countersAndCensus : Obligations.CountersAndCensus := by
  refine ⟨fun s m u c hi v hu hc => ⟨fun h => ?_, fun h => ?_, ?_, ?_, fun j d hd hne => ctrAt_pmcApply_other v hi hu hc hd hne⟩,
    fun s m n u c hn hu hc => ⟨fun h hown => ?_, fun h hown => ?_, fun hi h hother => ?_⟩,
    fun s id c h => ⟨fun hp hw => ?_, fun hp => ?_, fun hbusy => ?_⟩,
    fun s => ⟨fun g hp hg => next_congr (censusCapture_due hp hg), fun h => next_congr (censusCapture_none h),
      fun x hw => next_congr (censusComplete_writing hw), fun hw => next_congr (censusComplete_none hw)⟩,
    fun s id c h => ⟨fun x hx => ⟨?_, ?_⟩, fun ok hx => ?_⟩⟩
  · exact ev_regWr_allowed _ h (by simp [h.1, hu, hc])
  · exact ev_regWr_allowed _ h (by simp [h.1, hu, hc])
  · exact (congrArg (ctrAt · u c) (pmcApply_lo v hu hc)).trans (ctrAt_setCtr_same _)
  · exact (congrArg (ctrAt · u c) (pmcApply_hi v hu hc)).trans (ctrAt_setCtr_same _)
  · rw [exec_counterViewRead_allowed h hn hu hc, viewTake_lo hown, viewWord_lo hown]
  · rw [exec_counterViewRead_allowed h hn hu hc, viewTake_hi, viewWord_hi hown]
  · rw [exec_counterViewRead_allowed h hn hu hc, viewTake_other hi hother, viewWord_other hi hother]
  · exact next_congr ((runCmd_ready _ h).trans (pmcCensus_first c hp hw))
  · exact next_congr ((runCmd_ready _ h).trans (pmcCensus_joins c hp))
  · exact next_congr ((runCmd_ready _ h).trans (pmcCensus_busy c hbusy))
  · exact next_congr ((runCmd_ready _ h).trans (pmcReadCmd_held true hx))
  · exact next_congr ((runCmd_ready _ h).trans (pmcReadCmd_held false hx))
  · exact next_congr ((runCmd_ready _ h).trans (pmcReadCmd_absent ok hx))

end Sys2Proof.Machine
end

section
/-! PROOFS. The family of the grain chapter, ports: the link-state machine, PRT_CTL at its boundary, and redundancy records that age. -/

namespace Sys2Proof.Machine

/-! ## A change of conditions (R259-R263, R276) -/

section Change
variable {s : State} {p : Nat} {c : LinkCond}

/-- The port with the conditions that the row reports: FEC counts only where the mode has it, negotiation where it applies. -/
def condPort (s : State) (p : Nat) (c : LinkCond) : Port :=
  { portAt s p with
    sig := c.sig, cdr := c.cdr, sync := c.sync, fec := c.fec || decide (portFec s p = 0), an := c.an || !anApplies s p, lf := c.lf
    rf := c.rf, hiBer := c.hiBer }

/-- An SGMII PHY drops the link of a port that is UP (R260). -/
def PhyDrops (s : State) (p : Nat) (c : LinkCond) : Prop :=
  portMode s p = 3 ∧ (portAt s p).state = 3 ∧ (portAt s p).an = true ∧ c.an = false

/-- The state in which the machine has judged the new conditions. -/
def condJudged (s : State) (p : Nat) (c : LinkCond) : State := linkJudge (setPort s p (condPort s p c)) p

/-- The judged state with the fault of an SGMII PHY that drops the link without a refusal. -/
def phyJudged (s : State) (p : Nat) (c : LinkCond) : State :=
  if portMode s p = 3 ∧ (portAt s p).state = 3 ∧ (portAt s p).an ∧ !c.an ∧ !c.anRefused then
    cFault (condJudged s p c) (256 + p) 0xD0 0
  else condJudged s p c

theorem phyJudged_fault (hphy : PhyDrops s p c) (href : c.anRefused = false) :
    phyJudged s p c = cFault (condJudged s p c) (256 + p) 0xD0 0 := by
  obtain ⟨hmode, hstate, han, hdrop⟩ := hphy
  exact if_pos ⟨hmode, hstate, han, by rw [hdrop]; rfl, by rw [href]; rfl⟩

theorem phyJudged_plain (h : ¬ PhyDrops s p c ∨ c.anRefused = true) : phyJudged s p c = condJudged s p c := by
  refine if_neg fun ⟨hmode, hstate, han, hdrop, href⟩ => ?_
  rcases h with h | h
  · exact h ⟨hmode, hstate, han, (Bool.not_eq_true' _).mp hdrop⟩
  · exact Bool.false_ne_true (((Bool.not_eq_true' _).mp href).symm.trans h)

/-- A port in OFF has its receive path off. -/
theorem linkConditionChange_off (h : (portAt s p).state = 0) : linkConditionChange p c s = s := if_pos h

/-- A refused negotiation raises CODE 4 where negotiation applies. -/
theorem linkConditionChange_on (h : (portAt s p).state ≠ 0) : linkConditionChange p c s =
    if c.anRefused && anApplies s p then raiseAt (phyJudged s p c) (4 * p + 3) 4 0 (s.gr.count + 1) else phyJudged s p c := if_neg h

/-- Without a refused negotiation the change is judged. -/
theorem linkConditionChange_judged (h : (portAt s p).state ≠ 0) (href : c.anRefused = false ∨ anApplies s p = false) :
    linkConditionChange p c s = phyJudged s p c := by
  rw [linkConditionChange_on h, if_neg]
  rcases href with href | href <;> simp [href]

theorem linkConditionChange_refused (h : (portAt s p).state ≠ 0) (href : c.anRefused = true) (happ : anApplies s p = true) :
    linkConditionChange p c s = raiseAt (condJudged s p c) (4 * p + 3) 4 0 (s.gr.count + 1) := by
  rw [linkConditionChange_on h, href, happ, phyJudged_plain (.inr href)]
  rfl

end Change

/-! ## The machine's judgement (R261) -/

section Judge
variable {s : State} {p : Nat}

theorem linkJudge_acquire_good (hst : (portAt s p).state = 1) (hbad : badConds s p (portAt s p) = []) :
    linkJudge s p = upHold (setPort s p { portAt s p with state := 2, upSince := s.gr.count }) p := by
  unfold linkJudge
  dsimp only
  rw [hst, hbad]
  rfl

theorem linkJudge_upWait_bad (hst : (portAt s p).state = 2) (hbad : badConds s p (portAt s p) ≠ []) :
    linkJudge s p = setPort s p { portAt s p with state := 1 } := by
  obtain ⟨c, l, hcl⟩ := List.exists_cons_of_ne_nil hbad
  unfold linkJudge
  dsimp only
  rw [hst, hcl]
  rfl

/-- A bad condition of a port that is UP: the decision at once, or the hold. -/
theorem linkJudge_up_bad {c : Nat} {l : List Nat} (hst : (portAt s p).state = 3) (hbad : badConds s p (portAt s p) = c :: l) :
    linkJudge s p =
      if (portAt s p).dnHold = 0 then see (setPort s p { portAt s p with state := 1 }) 4 p (.link p false (BitVec.ofNat 4 c))
      else setPort s p { portAt s p with state := 4, badSince := s.gr.count, badCause := BitVec.ofNat 4 c } := by
  unfold linkJudge
  dsimp only
  rw [hst, hbad]
  rfl

theorem linkJudge_downWait_good (hst : (portAt s p).state = 4) (hbad : badConds s p (portAt s p) = []) : linkJudge s p =
    raiseAt (setPort s p { portAt s p with state := 3, hits := satInc (portAt s p).hits }) (4 * p + 3) 2 0 (s.gr.count + 1) := by
  unfold linkJudge
  dsimp only
  rw [hst, hbad]
  rfl

/-- ACQUIRE and DOWN_WAIT stay under a bad condition. -/
theorem linkJudge_stays_bad (hst : (portAt s p).state = 1 ∨ (portAt s p).state = 4) (hbad : badConds s p (portAt s p) ≠ []) :
    linkJudge s p = s := by
  obtain ⟨c, l, hcl⟩ := List.exists_cons_of_ne_nil hbad
  unfold linkJudge
  dsimp only
  rw [hcl]
  rcases hst with hst | hst <;> rw [hst] <;> rfl

/-- UP_WAIT and UP stay while all is good. -/
theorem linkJudge_stays_good (hst : (portAt s p).state = 2 ∨ (portAt s p).state = 3) (hbad : badConds s p (portAt s p) = []) :
    linkJudge s p = s := by
  unfold linkJudge
  dsimp only
  rw [hbad]
  rcases hst with hst | hst <;> rw [hst] <;> rfl

/-! ## The holds (R261) -/

theorem upHold_ends (hst : (portAt s p).state = 2) (h : (portAt s p).upHold.toNat * 1000 ≤ since s (portAt s p).upSince) :
    upHold s p = see (setPort s p { portAt s p with state := 3 }) 4 p (.link p true 0) := if_pos ⟨hst, h⟩

theorem upHold_none (h : (portAt s p).state ≠ 2 ∨ since s (portAt s p).upSince < (portAt s p).upHold.toNat * 1000) : upHold s p = s :=
  if_neg fun ⟨hst, hle⟩ => h.elim (fun hne => hne hst) (fun hlt => absurd hle (by omega))

theorem downHold_ends (hst : (portAt s p).state = 4) (h : (portAt s p).dnHold.toNat * 1000 ≤ since s (portAt s p).badSince) :
    downHold s p = see (setPort s p { portAt s p with state := 1 }) 4 p (.link p false (portAt s p).badCause) := by
  refine (if_pos ⟨hst, h⟩).trans ?_
  rw [presentLink, BitVec.ofNat_toNat, BitVec.setWidth_eq]

theorem downHold_none (h : (portAt s p).state ≠ 4 ∨ since s (portAt s p).badSince < (portAt s p).dnHold.toNat * 1000) :
    downHold s p = s :=
  if_neg fun ⟨hst, hle⟩ => h.elim (fun hne => hne hst) (fun hlt => absurd hle (by omega))

end Judge

/-! ## PRT_CTL at its boundary (R261, R271) -/

section Ctl
variable {s : State} {p : Nat} {v : W32}

theorem portAt_setPort_same (s : State) (p : Nat) (x : Port) : portAt (setPort s p x) p = x :=
  (tget_tset _ _ _ _ _).trans (if_pos rfl)

/-- The port with the fields of PRT_CTL as written. -/
def ctlPort (s : State) (p : Nat) (v : W32) : Port :=
  { portAt s p with adminDown := bit v 0, dnHold := BitVec.ofNat 8 (fld v 8 8), upHold := BitVec.ofNat 16 (fld v 16 16) }

/-- ADMIN_DOWN of a port in OFF is stored. -/
theorem portCtlApply_down_off (hdown : bit v 0 = true) (hst : (portAt s p).state = 0) :
    portCtlApply s p v = setPort s p (ctlPort s p v) := (if_pos hdown).trans (if_pos hst)

/-- ADMIN_DOWN of any other port sends it to OFF with its decision. -/
theorem portCtlApply_down (hdown : bit v 0 = true) (hst : (portAt s p).state ≠ 0) :
    portCtlApply s p v = adminDecision (portOff (setPort s p (ctlPort s p v)) p) p (portAt s p).state.toNat :=
  (if_pos hdown).trans (if_neg hst)

/-- The one P4 decision of ADMIN_DOWN: an up input of its grain is withdrawn, a down input gives way to it, and without an input a
port that was up is decided down. -/
def adminDecided (s : State) (p st : Nat) (seen : Option Decision) : State :=
  match seen with
  | none => if 3 ≤ st then see s 4 p (.link p false 1) else s
  | some d => match d with
    | .link _ true _ => linkUnsee s p
    | _ => see (linkUnsee s p) 4 p (.link p false 1)

theorem adminDecision_eq (s : State) (p st : Nat) : adminDecision s p st = adminDecided s p st (linkSeen s p) := by
  unfold adminDecision adminDecided
  cases linkSeen s p with
  | none => rfl
  | some d =>
    cases d with
    | link q up cause => cases up <;> rfl
    | _ => rfl

/-- Leaving OFF is no decision. -/
theorem modeDecision_off (s : State) (p : Nat) : modeDecision s p 0 = s := rfl

/-- No fatal fault and no shed: a port acquires. -/
theorem portAcquire_runs (s : State) (p : Nat) (hx : s.fcu.xDue = none) (hhold : s.fcu.holding = false) (hshed : s.pwr.shed = none) :
    portAcquire s p = modeDecision (setPort s p { dropLocks (portAt s p) with state := 1, squelched := false }) p
      (portAt s p).state.toNat :=
  if_neg (by rw [hx, hhold, hshed]; decide)

/-- A port without ADMIN_DOWN any more, with a mode, acquires. -/
theorem portCtlApply_acquire (hdown : bit v 0 = false) (hst : (portAt s p).state = 0) (hwas : (portAt s p).adminDown = true)
    (hmode : portMode s p ≠ 0) (hx : s.fcu.xDue = none) (hhold : s.fcu.holding = false) (hshed : s.pwr.shed = none) :
    portCtlApply s p v =
      (let t := setPort s p (ctlPort s p v)
       setPort t p { dropLocks (portAt t p) with state := 1, squelched := false }) := by
  have hstate : (portAt (setPort s p (ctlPort s p v)) p).state.toNat = 0 := by
    rw [portAt_setPort_same]
    exact congrArg BitVec.toNat hst
  have happly : portCtlApply s p v = portAcquire (setPort s p (ctlPort s p v)) p :=
    (if_neg (by rw [hdown]; exact Bool.false_ne_true)).trans (if_pos ⟨hst, hmode, hwas⟩)
  rw [happly, portAcquire_runs (setPort s p (ctlPort s p v)) p hx hhold hshed, hstate, modeDecision_off]

end Ctl

/-! ## Redundancy records (R366) -/

section Forget
variable {s : State} {node : Nat} {mac : BitVec 48}

/-- A record of the node and source that no frame has renewed within FORGET. -/
def agedRed (s : State) (node : Nat) (mac : BitVec 48) (r : RedRec) : Bool :=
  decide (r.node = node) && decide (r.mac = mac) && decide (forgetOf s node * 1000000 ≤ since s r.last)

theorem agedRed_iff (r : RedRec) :
    agedRed s node mac r = true ↔ r.node = node ∧ r.mac = mac ∧ forgetOf s node * 1000000 ≤ since s r.last := by
  simp only [agedRed, Bool.and_eq_true, decide_eq_true_eq, and_assoc]

/-- A tile without its aged records. -/
def freshTile (s : State) (node : Nat) (mac : BitVec 48) (x : Tile) : Tile :=
  { x with reds := x.reds.filter fun r => !agedRed s node mac r.2 }

/-- A tile stays with its fresh records, unless it is left empty. -/
def forgetTile (s : State) (node : Nat) (mac : BitVec 48) (x : Tile) : Option Tile :=
  if tileRecords (freshTile s node mac x) = 0 ∧ tileRecords x ≠ 0 then none else some (freshTile s node mac x)

theorem redWindowForget_tiles : (redWindowForget node mac s).mt.tiles =
    (s.mt.tiles.map fun e => (e.1, e.2.bind (forgetTile s node mac))).filter fun e => e.2.isSome := rfl

/-- Every tile that stays is a tile of before without its aged records. -/
theorem mem_redWindowForget {i : Nat} {y : Tile} (h : (i, some y) ∈ (redWindowForget node mac s).mt.tiles) :
    ∃ x, (i, some x) ∈ s.mt.tiles ∧ y = freshTile s node mac x := by
  rw [redWindowForget_tiles] at h
  obtain ⟨⟨j, o⟩, hmem, heq⟩ := List.mem_map.mp (List.mem_filter.mp h).1
  obtain ⟨rfl, hbind⟩ := Prod.mk.inj heq
  obtain ⟨x, rfl, hx⟩ := Option.bind_eq_some_iff.mp hbind
  refine ⟨x, hmem, ?_⟩
  unfold forgetTile at hx
  split at hx
  · cases hx
  · exact (Option.some.inj hx).symm

/-- A tile with a fresh record stays. -/
theorem freshTile_mem {i : Nat} {x : Tile} (h : (i, some x) ∈ s.mt.tiles) {r : Nat × RedRec}
    (hr : r ∈ (freshTile s node mac x).reds) : (i, some (freshTile s node mac x)) ∈ (redWindowForget node mac s).mt.tiles := by
  have hpos : tileRecords (freshTile s node mac x) ≠ 0 := by
    have := List.length_pos_of_mem hr
    unfold tileRecords
    omega
  have hkeep : forgetTile s node mac x = some (freshTile s node mac x) := if_neg fun h => hpos h.1
  rw [redWindowForget_tiles]
  exact List.mem_filter.mpr ⟨List.mem_map.mpr ⟨_, h, Prod.ext rfl hkeep⟩, rfl⟩

end Forget

/-- Settles O40: the judgement, the holds, PRT_CTL and the ageing of records are the lemmas above, case by case. -/
theorem linkStateMachine : Obligations.LinkStateMachine := by
  refine ⟨fun s p c hp => ⟨fun h => ?_, fun h href hphy => ?_, fun hphy href => ?_, fun h href happ => ?_⟩,
    fun s p => ⟨linkJudge_acquire_good, linkJudge_upWait_bad, fun c l hst hbad => ⟨fun h => ?_, fun h => ?_⟩, linkJudge_downWait_good,
      linkJudge_stays_bad, linkJudge_stays_good⟩,
    fun s p hp => ⟨fun hst h => ?_, fun h => ?_, fun hst h => ?_, fun h => ?_⟩,
    fun s m p v hp => ⟨fun h => ?_, portCtlApply_down_off, fun hdown hst => ?_, portCtlApply_acquire⟩,
    fun s node mac => ⟨redWindowForget node mac s, rfl, rfl, fun i y hy r hr hold => ?_, fun i x hx r hr hfresh => ?_⟩⟩
  · exact ev_next (decide_eq_true hp) (linkConditionChange_off h)
  · exact ev_next (decide_eq_true hp) ((linkConditionChange_judged h href).trans (phyJudged_plain (.inl hphy)))
  · have hon : (portAt s p).state ≠ 0 := by rw [hphy.2.1]; decide
    exact ev_next (decide_eq_true hp) ((linkConditionChange_judged hon (.inl href)).trans (phyJudged_fault hphy href))
  · exact ev_next (decide_eq_true hp) (linkConditionChange_refused h href happ)
  · exact (linkJudge_up_bad hst hbad).trans (if_pos h)
  · exact (linkJudge_up_bad hst hbad).trans (if_neg h)
  · exact ev_next (decide_eq_true hp) (upHold_ends hst h)
  · exact ev_next (decide_eq_true hp) (upHold_none h)
  · exact ev_next (decide_eq_true hp) (downHold_ends hst h)
  · exact ev_next (decide_eq_true hp) (downHold_none h)
  · exact ev_regWr_allowed _ h (by simp [h.1, hp])
  · rw [portCtlApply_down hdown hst]
    rw [adminDecision_eq]
    rfl
  · obtain ⟨x, -, rfl⟩ := mem_redWindowForget hy
    have hkept := (List.mem_filter.mp hr).2
    rw [(agedRed_iff r.2).mpr hold] at hkept
    exact Bool.false_ne_true hkept
  · have hr' : r ∈ (freshTile s node mac x).reds :=
      List.mem_filter.mpr ⟨hr, by rw [Bool.not_eq_true', ← Bool.not_eq_true, agedRed_iff]; exact hfresh⟩
    exact ⟨_, freshTile_mem hx hr', hr', rfl, rfl⟩

end Sys2Proof.Machine
end

section
/-! PROOFS. The family of the grain chapter, commands: how they are fetched, checked at their decision, held by a fence, completed, and
how their completions are written. -/

namespace Sys2Proof.Machine

/-! ## Fetch (R168, R170) -/

section Fetch
variable {s : State} {n i : Nat}

/-- The state in which the round robin has moved on behind queue `i` of partition `n`. -/
def robinMoved (s : State) (n i : Nat) : State :=
  { s with cq := { s.cq with rrPt := (n + 1) % 16, rrSq := tset (fun _ => 0) s.cq.rrSq n ((i + 1) % 8) } }

/-- Nothing may be fetched. -/
theorem commandFetch_none (data : List Byte) (ok : Bool) (h : fetchOn s = false ∨ nextSq s = none) : commandFetch data ok s = s := by
  unfold commandFetch
  rcases h with h | h
  · rw [h]
  · rw [h]
    cases fetchOn s <;> rfl

/-- The next queue of the round robin is read, and stops where the read fails. -/
theorem commandFetch_next (data : List Byte) (ok : Bool) (hon : fetchOn s = true) (hnext : nextSq s = some (n, i)) :
    commandFetch data ok s =
      if !(sqAt s n i).loc && !ok then ringError (setSq (robinMoved s n i) n i { sqAt s n i with en := false, err := 4 }) n i 0 4
      else takeBurst (robinMoved s n i) n i (chunks64 (burstLen (sqAt s n i))
        (if (sqAt s n i).loc then tgets (fun _ => 0) s.cq.onSq (2048 * n + 64 * (sqAt s n i).head) (64 * burstLen (sqAt s n i))
         else data)) := by
  unfold commandFetch
  rw [hon, hnext]
  rfl

theorem commandFetch_failed (data : List Byte) (hon : fetchOn s = true) (hnext : nextSq s = some (n, i))
    (hloc : (sqAt s n i).loc = false) : commandFetch data false s =
      ringError (setSq (robinMoved s n i) n i { sqAt s n i with en := false, err := 4 }) n i 0 4 :=
  (commandFetch_next data false hon hnext).trans (if_pos (by rw [hloc]; rfl))

theorem commandFetch_memory (data : List Byte) (hon : fetchOn s = true) (hnext : nextSq s = some (n, i))
    (hloc : (sqAt s n i).loc = false) : commandFetch data true s =
      takeBurst (robinMoved s n i) n i (chunks64 (burstLen (sqAt s n i)) data) := by
  rw [commandFetch_next data true hon hnext, if_neg (by rw [Bool.not_true, Bool.and_false]; exact Bool.false_ne_true), hloc,
    if_neg Bool.false_ne_true]

theorem commandFetch_onDie (data : List Byte) (ok : Bool) (hon : fetchOn s = true) (hnext : nextSq s = some (n, i))
    (hloc : (sqAt s n i).loc = true) : commandFetch data ok s =
      takeBurst (robinMoved s n i) n i (chunks64 (burstLen (sqAt s n i))
        (tgets (fun _ => 0) s.cq.onSq (2048 * n + 64 * (sqAt s n i).head) (64 * burstLen (sqAt s n i)))) := by
  rw [commandFetch_next data ok hon hnext, if_neg (by rw [hloc]; exact Bool.false_ne_true), if_pos hloc]

end Fetch

/-! ## Decision (R207) -/

section Decide
variable {s : State} {c : Cmd}

/-- No command but a CFG_COMMIT waits for the earlier ones of its transaction. -/
theorem closesLater_other (h : opOf c ≠ 0x22) : closesLater s c = false := by
  rw [closesLater, decide_eq_false h, Bool.false_and]

theorem closesLater_commit (h : opOf c = 0x22) (hheld : objectHeld s c = true) : closesLater s c = true := by
  rw [closesLater, decide_eq_true h, hheld, Bool.and_self]

/-- Of a command that is no CFG_COMMIT the failed check gives the status. -/
theorem failCheck_other (f : Nat × Bool) (h : opOf c ≠ 0x22) : failCheck s c f = completeDup s c.id f.1 f.2 [] := by
  rw [failCheck, if_neg fun h' => h h'.1]

/-- An opcode that takes no engine is ready at once. -/
theorem makeReady_plain (h : opEngine (opOf c) = false) : makeReady s c = modCmd s c.id fun c => { c with state := .ready } := by
  rw [makeReady, h]
  rfl

/-- An opcode that takes an engine goes to the least-loaded live one. -/
theorem makeReady_engine {e : Nat} (h : opEngine (opOf c) = true) (he : leastEngine s = some e) : makeReady s c =
    modCmd (setEng s e { engAt s e with cmds := (engAt s e).cmds ++ [c.id] }) c.id fun c => { c with state := .ready, engine := some e } := by
  rw [makeReady, h, he]
  rfl

/-- With no live engine it is to be tried again (log entry 79). -/
theorem makeReady_noEngine (h : opEngine (opOf c) = true) (he : leastEngine s = none) :
    makeReady s c = complete s c.id stRETRY [] := by
  rw [makeReady, h, he]
  rfl

theorem arrive_fails {f : Nat × Bool} (hf : firstFail s c = some f) (hop : opOf c ≠ 0x22) :
    arrive s c = completeDup s c.id f.1 f.2 [] := by
  rw [arrive, hf, closesLater_other hop, ← failCheck_other f hop]
  exact if_neg (by rw [Bool.and_false]; exact Bool.false_ne_true)

/-- A CFG_COMMIT that fails waits behind the commands of its transaction. -/
theorem arrive_commitFails {f : Nat × Bool} (hf : firstFail s c = some f) (hdup : f.2 = false) (hop : opOf c = 0x22)
    (hheld : objectHeld s c = true) : arrive s c = modCmd s c.id fun c => { c with state := .fenced } := by
  rw [arrive, hf, closesLater_commit hop hheld]
  exact if_pos (by rw [hdup]; rfl)

theorem arrive_fenced (hf : firstFail s c = none) (hfence : heldByFence s c = true) :
    arrive s c = modCmd s c.id fun c => { c with state := .fenced } := by
  rw [arrive, hf, hfence]
  rfl

theorem arrive_passes (hf : firstFail s c = none) (hfence : heldByFence s c = false) : arrive s c = makeReady s c := by
  rw [arrive, hf, hfence]
  rfl

end Decide

section Arrival
variable {s : State} {id : Nat} {c : Cmd} {e : Entry} {r : List Entry}

/-- Another head of the backlog is no event of the command. -/
theorem commandArrival_otherHead (hhead : s.gr.backlog = e :: r) (h : e.inp.what ≠ .command id) : commandArrival id s = s := by
  rw [commandArrival, takeHead_otherKind hhead (decide_eq_false h)]

/-- A command whose input is at the head of the backlog is decided. -/
theorem commandArrival_head (hshared : s.twn.shared = []) (hhead : s.gr.backlog = e :: r) (h : e.inp.what = .command id)
    (hc : cmdAt s id = some c) (hst : c.state = .arriving) (hdone : c.done = false) : commandArrival id s = arrive (behead s r) c := by
  have hcmd : cmdAt (behead s r) id = some c := hc
  rw [commandArrival, takeHead_some hshared hhead (decide_eq_true h)]
  simp only [hcmd]
  exact if_pos ⟨hst, by rw [hdone]; rfl⟩

/-! ## A fence (R205) -/

/-- A command held by a fence starts once nothing holds it. -/
theorem fenceCommandStart_waits (hc : cmdAt s id = some c) (h : heldByFence s c = true ∨ closesLater s c = true) :
    fenceCommandStart id s = s := by
  rw [fenceCommandStart, hc]
  refine if_neg fun ⟨_, _, hfence, hcloses⟩ => ?_
  rcases h with h | h
  · rw [h] at hfence
    exact Bool.false_ne_true hfence
  · rw [h] at hcloses
    exact Bool.false_ne_true hcloses

/-- One that is no CFG_COMMIT is judged for the units it names, and else made ready. -/
theorem fenceCommandStart_other (hc : cmdAt s id = some c) (hdone : c.done = false) (hst : c.state = .fenced)
    (hfence : heldByFence s c = false) (hop : opOf c ≠ 0x22) : fenceCommandStart id s =
      if namesFenced s c then complete s c.id stUNIT_FENCED [] else makeReady s c := by
  rw [fenceCommandStart, hc]
  refine (if_pos ⟨hst, by rw [hdone]; rfl, by rw [hfence]; rfl, by rw [closesLater_other hop]; rfl⟩).trans ?_
  rw [if_neg hop]
  cases namesFenced s c with
  | true => exact failCheck_other _ hop
  | false => rfl

/-! ## Completion (R172-R175) -/

theorem completeDup_done (status : Nat) (dup : Bool) (result : List Byte) (hc : cmdAt s id = some c) (hdone : c.done = true) :
    completeDup s id status dup result = s := by
  rw [completeDup, hc]
  exact if_pos hdone

/-- A command without an engine leaves none. -/
theorem leaveEngine_none (hc : cmdAt s id = some c) (he : c.engine = none) : leaveEngine s id = s := by
  rw [leaveEngine, hc, Option.bind_some, he]

/-- The completion that command `c` of queue `i` forms. -/
def cplOf (s : State) (c : Cmd) (id i status : Nat) (dup : Bool) (result : List Byte) : Cpl :=
  { cmd := id, pt := c.pt, cq := (sqAt s c.pt i).cq.toNat, tag := BitVec.ofNat 12 (tagOf c), sq := BitVec.ofNat 3 i
    status := BitVec.ofNat 8 status, dup := dup, fw := isFw (opOf c), arrive := c.arrive, done := s.gr.count
    result := if status ≤ 1 then padTo 16 result else List.replicate 16 0 }

theorem completeDup_forms {i : Nat} (status : Nat) (dup : Bool) (result : List Byte) (hc : cmdAt s id = some c) (hdone : c.done = false)
    (hsq : c.sq = some i) (he : c.engine = none) : completeDup s id status dup result =
      (let s1 := modCmd s id fun c => { c with done := true, state := .running }
       { s1 with cq := { s1.cq with cpls := s.cq.cpls ++ [cplOf s c id i status dup result] } }) := by
  rw [completeDup, hc]
  refine (if_neg (by rw [hdone]; exact Bool.false_ne_true)).trans ?_
  rw [leaveEngine_none hc he, hsq]
  rfl

end Arrival

/-! ## The completion queue (R174-R176) -/

section Write
variable {s : State} {n j : Nat} {c : Cpl}

/-- The oldest completion of queue `j` of partition `n`. -/
def oldestCpl (s : State) (n j : Nat) : Option Cpl := s.cq.cpls.find? fun c => decide (c.pt = n) && decide (c.cq = j)

theorem completionWrite_none (ok : Bool) (h : oldestCpl s n j = none) : completionWrite n j ok s = s := by
  rw [completionWrite, show s.cq.cpls.find? _ = none from h]

/-- The oldest completion: a stall without room, the stop of the queue where the write fails, and else the write. -/
theorem completionWrite_some (ok : Bool) (h : oldestCpl s n j = some c) : completionWrite n j ok s =
    if cqNoRoom s n j then
      (if (cqAt s n j).stalled then s else raise (setCq s n j { cqAt s n j with stalled := true }) (448 + 8 * n + 2) 0 j)
    else if !(cqAt s n j).loc && !(ok && s.dev.perst) then
      ringError (setCq (dropCmd s c.cmd) n j { cqAt s n j with en := false, err := 5 }) n j 1 5
    else cqSignal (setCq (dropCmd (cqStore s n (cqAt s n j) (cplBytes s c (cqAt s n j).phase)) c.cmd) n j
      (ringAdvance (cqAt s n j) (ringSize (cqAt s n j).loc (cqAt s n j).size 32)
        (now (cqStore s n (cqAt s n j) (cplBytes s c (cqAt s n j).phase))))) n j := by
  rw [completionWrite, show s.cq.cpls.find? _ = some c from h]

/-- Storing a completion leaves the count of grains. -/
theorem cqStore_now (s : State) (n : Nat) (r : Ring) (b : List Byte) : now (cqStore s n r b) = s.gr.count := by
  unfold cqStore
  split <;> rfl

section Room
variable (ok : Bool) (h : oldestCpl s n j = some c)
include h

theorem completionWrite_stalled (hroom : cqNoRoom s n j = true) (hst : (cqAt s n j).stalled = true) : completionWrite n j ok s = s := by
  rw [completionWrite_some ok h, if_pos hroom, if_pos hst]

theorem completionWrite_stalls (hroom : cqNoRoom s n j = true) (hst : (cqAt s n j).stalled = false) : completionWrite n j ok s =
    raise (setCq s n j { cqAt s n j with stalled := true }) (448 + 8 * n + 2) 0 j := by
  rw [completionWrite_some ok h, if_pos hroom, if_neg (by rw [hst]; exact Bool.false_ne_true)]

theorem completionWrite_fails (hroom : cqNoRoom s n j = false) (hloc : (cqAt s n j).loc = false)
    (hbad : ok = false ∨ s.dev.perst = false) : completionWrite n j ok s =
      ringError (setCq (dropCmd s c.cmd) n j { cqAt s n j with en := false, err := 5 }) n j 1 5 := by
  rw [completionWrite_some ok h, if_neg (by rw [hroom]; exact Bool.false_ne_true), if_pos]
  rcases hbad with hbad | hbad <;> rw [hloc, hbad] <;> simp

theorem completionWrite_writes (hroom : cqNoRoom s n j = false)
    (hgood : (cqAt s n j).loc = true ∨ (ok = true ∧ s.dev.perst = true)) : completionWrite n j ok s =
      cqSignal (setCq (dropCmd (cqStore s n (cqAt s n j) (cplBytes s c (cqAt s n j).phase)) c.cmd) n j
        (ringAdvance (cqAt s n j) (ringSize (cqAt s n j).loc (cqAt s n j).size 32) s.gr.count)) n j := by
  rw [completionWrite_some ok h, if_neg (by rw [hroom]; exact Bool.false_ne_true), if_neg, cqStore_now]
  rcases hgood with hloc | ⟨hok, hperst⟩
  · rw [hloc]
    exact Bool.false_ne_true
  · rw [hok, hperst, Bool.and_self, Bool.not_true, Bool.and_false]
    exact Bool.false_ne_true

end Room

end Write

/-- Settles O29: fetch, decision, fence, completion and its write are the lemmas above, branch by branch. -/
theorem commandsFetchedCheckedAndCompleted : Obligations.CommandsFetchedCheckedAndCompleted := by
  refine ⟨fun s data ok => ⟨fun h => next_congr (commandFetch_none data ok h), fun n i hon hnext => ⟨fun hloc => ?_, fun hloc => ?_,
      fun hloc => ?_⟩⟩,
    fun s id c g r a b d hhead hshared hc hst hdone => ?_,
    fun s id c hc hdone hst => ⟨fun hfence => ?_, fun hop hheld => ?_, fun hfence hop hfree heng => ?_, fun hfence hnamed hop => ?_⟩,
    fun s id c h => next_congr (runCmd_ready _ h),
    fun s id status i c dup result hc => ⟨completeDup_done status dup result hc,
      fun hdone hsq he => ⟨cplOf s c id i status dup result, completeDup_forms status dup result hc hdone hsq he, rfl, rfl, rfl, rfl,
        rfl, rfl, rfl, rfl, rfl, rfl⟩⟩,
    fun s n j ok hn hj => ?_⟩
  · exact next_congr (commandFetch_failed data hon hnext hloc)
  · exact next_congr (commandFetch_memory data hon hnext hloc)
  · exact next_congr (commandFetch_onDie data ok hon hnext hloc)
  · have harrive : d = .command id → commandArrival id s = arrive (behead s r) c :=
      fun hd => commandArrival_head hshared hhead hd hc hst hdone
    refine ⟨fun hd => next_congr (commandArrival_otherHead hhead hd), fun f hd hf hop => ?_, fun f hd hf hdup hop hheld => ?_,
      fun hd hf hfence => ?_, fun hd hf hfence heng => ?_, fun e hd hf hfence heng he => ?_, fun hd hf hfence heng he => ?_⟩
    · exact next_congr ((harrive hd).trans (arrive_fails hf hop))
    · exact next_congr ((harrive hd).trans (arrive_commitFails hf hdup hop hheld))
    · exact next_congr ((harrive hd).trans (arrive_fenced hf hfence))
    · exact next_congr (((harrive hd).trans (arrive_passes hf hfence)).trans (makeReady_plain heng))
    · exact next_congr (((harrive hd).trans (arrive_passes hf hfence)).trans (makeReady_engine heng he))
    · exact next_congr (((harrive hd).trans (arrive_passes hf hfence)).trans (makeReady_noEngine heng he))
  · exact next_congr (fenceCommandStart_waits hc (.inl hfence))
  · exact next_congr (fenceCommandStart_waits hc (.inr (closesLater_commit hop hheld)))
  · refine next_congr ((fenceCommandStart_other hc hdone hst hfence hop).trans ?_)
    rw [hfree, if_neg Bool.false_ne_true, makeReady_plain heng]
  · exact next_congr ((fenceCommandStart_other hc hdone hst hfence hop).trans (if_pos hnamed))
  · have hrow : (decide (n < 16) && decide (j < 8)) = true := by rw [decide_eq_true hn, decide_eq_true hj]; rfl
    refine ⟨fun h => ?_, fun c h => ⟨fun hroom hstalled => ?_, fun hroom hstalled => ?_, fun hroom hloc hbad => ?_,
      fun hroom hgood => ?_⟩⟩
    · exact ev_next hrow (completionWrite_none ok h)
    · exact ev_next hrow (completionWrite_stalled ok h hroom hstalled)
    · exact ev_next hrow (completionWrite_stalls ok h hroom hstalled)
    · exact ev_next hrow (completionWrite_fails ok h hroom hloc hbad)
    · exact ev_next hrow (completionWrite_writes ok h hroom hgood)

end Sys2Proof.Machine
end

section
/-! PROOFS. The family of the grain chapter, supplies: what starts a shed, how it runs to power-down, and what holds without any supply. -/

namespace Sys2Proof.Machine

/-! ## The sources of a shed (R556) -/

section Source
variable {s : State}

/-- The state with PFAIL_N low. -/
def pfailLow (s : State) : State := { s with pwr := { s.pwr with pfailN := false } }

theorem pfailNAssert_enabled (h : s.pwr.enPfail = true) : pfailNAssert s = shedStart (pfailLow s) 0 := if_pos h

theorem pfailNAssert_masked (h : s.pwr.enPfail = false) : pfailNAssert s = pfailLow s :=
  if_neg fun h' => Bool.false_ne_true (h.symm.trans h')

theorem monitorTrip_falls {code : BitVec 12} (hwas : s.hup.vTrip.toNat ≤ s.hup.v.toNat)
    (hbelow : (hupSample code s).hup.v.toNat < (hupSample code s).hup.vTrip.toNat) (hen : (hupSample code s).pwr.enMon = true) :
    monitorTrip code s = shedStart (hupSample code s) 1 :=
  if_pos (by rw [decide_eq_true hwas, decide_eq_true hbelow, hen]; rfl)

/-- No fall below V_TRIP, or EN_MON clear: a sample and nothing else (log entry 130). -/
theorem monitorTrip_none {code : BitVec 12} (h : s.hup.v.toNat < s.hup.vTrip.toNat ∨
    (hupSample code s).hup.vTrip.toNat ≤ (hupSample code s).hup.v.toNat ∨ (hupSample code s).pwr.enMon = false) :
    monitorTrip code s = hupSample code s := by
  refine if_neg fun h' => ?_
  simp only [Bool.and_eq_true, decide_eq_true_eq] at h'
  obtain ⟨⟨hwas, hbelow⟩, hen⟩ := h'
  rcases h with h | h | h
  · omega
  · omega
  · exact Bool.false_ne_true (h.symm.trans hen)

/-- A rail that is on and good, with the supplies there. -/
abbrev RailHigh (s : State) (n : Nat) : Prop :=
  s.pwr.en.toNat.testBit n = true ∧ s.pwr.good.toNat.testBit n = true ∧ supplied s = true

theorem pwrGoodLoss_high {n : Nat} (h : RailHigh s n) : pwrGoodLoss n s =
    xFault (shedStart { s with pwr := { s.pwr with good := s.pwr.good &&& ~~~BitVec.ofNat 8 (2 ^ n) } } (3 + n)) 4 0xA1 n := if_pos h

theorem pwrGoodLoss_none {n : Nat} (h : ¬ RailHigh s n) : pwrGoodLoss n s = s := if_neg h

end Source

/-! ## The shed and its record (R557, R563) -/

section Shed
variable {s : State} {idx c : Nat} {p : Grain}

theorem shedStart_noSupply (hshed : s.pwr.shed = none) (h : supplied s = false) : shedStart s idx = s := by
  rw [shedStart, hshed, h]
  rfl

theorem shedStart_begins (hshed : s.pwr.shed = none) (h : supplied s = true) :
    shedStart s idx = validUpdate (shedEnter (paCutAll (squelchAll s)) idx (lgCapture s idx)) := by
  rw [shedStart, hshed, h]
  exact if_neg (by decide)

/-- In a shed, a source of a later grain or of no lower index starts nothing. -/
theorem shedStart_second (hshed : s.pwr.shed = some (c, p)) (h : p ≠ s.gr.count ∨ c ≤ idx) : shedStart s idx = s := by
  rw [shedStart, hshed]
  exact if_neg fun ⟨hgrain, hlt⟩ => h.elim (fun hne => hne hgrain) (fun hle => absurd hlt (by omega))

/-- Of the same grain the lower index becomes CAUSE. -/
theorem shedStart_lower (hshed : s.pwr.shed = some (c, p)) (hgrain : p = s.gr.count) (hlt : idx < c) : shedStart s idx = { s with
    pwr := { s.pwr with shed := some (idx, p), lg := s.pwr.lg.map fun l => l.take 8 ++ leBytes 1 idx ++ l.drop 9 } } := by
  rw [shedStart, hshed]
  exact if_pos ⟨hgrain, hlt⟩

/-- Outside a shed, without a captured record, or once it is written, no record is written. -/
theorem lastGaspWrite_none (h : s.pwr.shed = none ∨ s.pwr.lg = none ∨ s.pwr.shedDone = true) : lastGaspWrite s = s := by
  unfold lastGaspWrite
  cases hs : s.pwr.shed with
  | none => rfl
  | some x =>
    cases hl : s.pwr.lg with
    | none => rfl
    | some l => exact if_pos ((h.resolve_left (by rw [hs]; nofun)).resolve_left (by rw [hl]; nofun))

theorem lastGaspWrite_writes {l : List Byte} (hshed : s.pwr.shed = some (c, p)) (hl : s.pwr.lg = some l) (hdone : s.pwr.shedDone = false) :
    lastGaspWrite s = (let t := linesWrite s (152 * lgFree s) (linesOf 152 (lgRecord s l p))
                       { t with pwr := { t.pwr with shedDone := true, lg := none } }) := by
  unfold lastGaspWrite
  rw [hshed, hl, hdone]
  rfl

theorem lgFree_none (h : lgNewest s = none) : lgFree s = 0 := by rw [lgFree, h]

theorem lgFree_some {k q : Nat} (h : lgNewest s = some (k, q)) : lgFree s = 1 - k := by rw [lgFree, h]

/-! ## Power-down and return (R557, R558) -/

/-- The state whose islands have stopped for the rails to fall. -/
def islandsStopped (s : State) : State :=
  { s with pwr := { s.pwr with off := true }, dev := { s.dev with clkOk := 1, inReset := true, intReset := true, phase := 0 } }

/-- Before the record is written and the last store is durable, and once the rails are down, there is nothing to complete. -/
theorem shedComplete_none (io : List Nat)
    (h : s.pwr.shed = none ∨ s.pwr.shedDone = false ∨ s.prm.stores ≠ [] ∨ s.pwr.off = true) : shedComplete io s = s := by
  refine if_pos ?_
  rcases h with h | h | h | h
  · exact .inl (by rw [h]; rfl)
  · exact .inr (.inl (by rw [h]; rfl))
  · exact .inr (.inr (.inl (by rw [Bool.not_eq_true', List.isEmpty_eq_false_iff]; exact h)))
  · exact .inr (.inr (.inr h))

/-- The SHED entry, or the ROM sequence, lowers the rails. -/
theorem shedComplete_due (io : List Nat) (hshed : s.pwr.shed ≠ none) (hdone : s.pwr.shedDone = true) (hstores : s.prm.stores = [])
    (hoff : s.pwr.off = false) : shedComplete io s =
      if s.pwr.seqOk then seqEntry (islandsStopped s) 0 io else railsDown (islandsStopped s) := by
  refine if_neg ?_
  rw [hdone, hstores, hoff]
  rintro (h | h | h | h)
  · exact hshed (Option.isNone_iff_eq_none.mp h)
  all_goals exact Bool.false_ne_true h

theorem inputRestored_none (h : s.pwr.off = false ∨ s.pwr.vaon = false) : inputRestored s = s :=
  if_pos (h.imp (fun h => by rw [h]; rfl) (fun h => by rw [h]; rfl))

theorem inputRestored_resets (hoff : s.pwr.off = true) (hvaon : s.pwr.vaon = true) : inputRestored s =
    railsUp (deviceReset { s with pwr := { s.pwr with pfailN := true } } 6 false) :=
  if_neg (by rw [hoff, hvaon]; decide)

/-- Without a store under way nothing is cut. -/
theorem storeCut_none (h : s.prm.stores = []) : storeCut s = s := by rw [storeCut, h]

end Shed

/-- Settles O52: each source, the shed, its record, its end and the loss of all supplies are the lemmas above. -/
theorem powerFailShedAndLossOfSupply : Obligations.PowerFailShedAndLossOfSupply := by
  refine ⟨fun s => ⟨fun h => next_congr (pfailNAssert_enabled h), fun h => next_congr (pfailNAssert_masked h)⟩,
    fun s code => ⟨fun hwas hbelow hen => next_congr (monitorTrip_falls hwas hbelow hen), fun h => next_congr (monitorTrip_none h)⟩,
    fun s n hn => ⟨fun h => ev_next (decide_eq_true hn) (pwrGoodLoss_high h), fun h => ev_next (decide_eq_true hn) (pwrGoodLoss_none h)⟩,
    fun s idx => ⟨shedStart_noSupply, shedStart_begins, fun l => rfl, fun c p hshed => ⟨shedStart_second hshed, shedStart_lower hshed⟩⟩,
    fun s => ⟨fun h => next_congr (lastGaspWrite_none h), fun c p l hshed hl hdone => next_congr (lastGaspWrite_writes hshed hl hdone),
      lgFree_none, fun k q => lgFree_some⟩,
    fun s io => ⟨fun h => next_congr (shedComplete_none io h), fun hshed hdone hstores hoff => ⟨fun hseq => ?_, fun hseq => ?_⟩⟩,
    fun s => ⟨fun h => next_congr (inputRestored_none h), fun hoff hvaon => next_congr (inputRestored_resets hoff hvaon)⟩,
    fun s => ⟨supplyLoss s, rfl, rfl, rfl, rfl, rfl, rfl, rfl, rfl, rfl, rfl, rfl, rfl, rfl, rfl, rfl, storeCut_none⟩⟩
  · exact next_congr ((shedComplete_due io hshed hdone hstores hoff).trans (if_pos hseq))
  · exact next_congr ((shedComplete_due io hshed hdone hstores hoff).trans (if_neg (by rw [hseq]; exact Bool.false_ne_true)))

end Sys2Proof.Machine
end

section
/-! PROOFS. The family of the grain chapter, boot: islands that start, the phases of boot, and the temperature alarm. -/

namespace Sys2Proof.Machine

/-! ## Islands (R635) -/

section Island
variable {s : State} {d : Nat}

/-- The state with the clock of island `d` running. -/
def islandOn (s : State) (d : Nat) : State := { s with dev := { s.dev with clkOk := s.dev.clkOk ||| BitVec.ofNat 14 (2 ^ d) } }

theorem islandClockOk_none (h : s.dev.inReset = true ∨ clkOk s d = true ∨ islandMay s d = false) : islandClockOk d s = s :=
  if_pos (by rcases h with h | h | h <;> rw [h] <;> simp)

/-- An island that may start does; the count of grains begins with D1. -/
theorem islandClockOk_starts (hrst : s.dev.inReset = false) (hclk : clkOk s d = false) (hmay : islandMay s d = true) :
    islandClockOk d s =
      if d = 1 then { islandOn s d with gr := { (islandOn s d).gr with count := 0 } } else islandOn s d :=
  if_neg (by rw [hrst, hclk, hmay]; decide)

end Island

/-! ## Phases of boot (R636-R640) -/

section Phase
variable {s : State} (n0 n1 : List Byte)

/-- In reset, before STORES and from SERVICES on no phase ends here. -/
theorem bootPhaseEnd_none (h : s.dev.inReset = true ∨ s.dev.phase.toNat = 0 ∨ 5 ≤ s.dev.phase.toNat) : bootPhaseEnd n0 n1 s = s := by
  unfold bootPhaseEnd
  dsimp only
  rcases h with h | h
  · rw [h, if_pos rfl]
  · have hne : ∀ k : BitVec 4, 1 ≤ k.toNat → k.toNat ≤ 4 → s.dev.phase ≠ k := by
      rintro k h1 h4 rfl
      omega
    rw [if_neg (hne 1 (by decide) (by decide)), if_neg (hne 2 (by decide) (by decide)), if_neg (hne 3 (by decide) (by decide)),
      if_neg (hne 4 (by decide) (by decide)), ite_self]

section Running
variable (hrst : s.dev.inReset = false)
include hrst

theorem bootPhaseEnd_stores (hph : s.dev.phase = 1) : bootPhaseEnd n0 n1 s =
    if s.prm.stores.isEmpty then { s with dev := { s.dev with phase := 2 } } else s := by
  unfold bootPhaseEnd
  dsimp only
  rw [hrst, hph]
  rfl

theorem bootPhaseEnd_clocks (hph : s.dev.phase = 2) : bootPhaseEnd n0 n1 s =
    if clkOk s 1 && clkOk s 6 && clkOk s 12 && clkOk s 13 then { s with dev := { s.dev with phase := 3 } } else s := by
  unfold bootPhaseEnd
  dsimp only
  rw [hrst, hph]
  rfl

theorem bootPhaseEnd_load (hph : s.dev.phase = 3) : bootPhaseEnd n0 n1 s =
    if s.dev.sBootSrc = 2 ∧ !streamWhole s then s else bootLoad s (bootCopies s n0 n1) := by
  unfold bootPhaseEnd
  dsimp only
  rw [hrst, hph]
  rfl

theorem bootPhaseEnd_verify (hph : s.dev.phase = 4) : bootPhaseEnd n0 n1 s = bootVerify s (bootCopies s n0 n1) := by
  unfold bootPhaseEnd
  dsimp only
  rw [hrst, hph]
  rfl

end Running

end Phase

/-! ## The copies (R513, R638) -/

section Copies
variable {s : State}

/-- The copies in the order of the strap. -/
theorem bootCopies_strap (n0 n1 : List Byte) :
    (s.dev.sBootSrc = 0 → bootCopies s n0 n1 = [(0, n0), (1, n1)]) ∧ (s.dev.sBootSrc = 1 → bootCopies s n0 n1 = [(1, n1), (0, n0)]) ∧
    (s.dev.sBootSrc = 2 → bootCopies s n0 n1 = [(2, streamBytes s)]) ∧ (s.dev.sBootSrc = 3 → bootCopies s n0 n1 = []) := by
  refine ⟨fun h => ?_, fun h => ?_, fun h => ?_, fun h => ?_⟩ <;> (rw [bootCopies, h]; rfl)

variable {l : List (Nat × List Byte)}

theorem bootLoad_none (h : l.find? (fun x => dirGood x.2) = none) : bootLoad s l = { s with dev := { s.dev with phase := 4 } } := by
  rw [bootLoad, h]

theorem bootLoad_some {x : Nat × List Byte} (h : l.find? (fun x => dirGood x.2) = some x) : bootLoad s l =
    (let t := tcmLoad s (fwImage x.2)
     { t with dev := { t.dev with phase := 4, fwRead := true, dirOk := decide (le x.2 24 1 ≠ 0) } }) := by
  rw [bootLoad, h]

/-- With no copy that holds, the cluster fails with BOOT_AUTH. -/
theorem bootVerify_none (h : l.find? (fun x => copyGood s x.2) = none) :
    bootVerify s l = fFault { s with dev := { s.dev with phase := 5 } } 5 0x95 0 := by
  rw [bootVerify, h]

/-- The state in which the firmware `f` of the copy with code `k` runs from both TCMs. -/
def fwStarted (s : State) (k : Nat) (f : List Byte) : State :=
  let t := tcmLoad s f
  { t with
    dev := { s.dev with phase := 5, fwRead := true, fwOk := true, copy := BitVec.ofNat 2 k }
    cc := { t.cc with
      state := 1, svn := BitVec.ofNat 6 (le f 16 1), signer := BitVec.ofNat 2 (le f 6 1), version := BitVec.ofNat 32 (le f 8 4)
      build := BitVec.ofNat 32 (le f 12 4), advance := (le f 7 1).testBit 0, testAt := s.gr.count, wdCount := 0
      wdForce := s.cc.wdTime } }

theorem bootVerify_some {x : Nat × List Byte} (h : l.find? (fun x => copyGood s x.2) = some x) :
    bootVerify s l = fwStarted s x.1 (fwImage x.2) := by
  rw [bootVerify, h]
  rfl

end Copies

/-! ## The end of boot (R640, R646) -/

section Done
variable {s : State}

/-- The state in which boot is done. -/
def servicesUp (s : State) : State :=
  { s with
    dev := { s.dev with phase := 6, bootDone := true, bootTime := w32 (min (2 ^ 32 - 1) s.gr.count.toNat) }
    twn := { s.twn with aliveRun := true }
    pwr := { s.pwr with state := 1 } }

theorem bootDone_none (h : s.dev.phase ≠ 5 ∨ s.dev.inReset = true) : bootDone s = s := if_pos h

/-- Boot is done; a class X fault before it is told with its event. -/
theorem bootDone_services (hph : s.dev.phase = 5) (hrst : s.dev.inReset = false) : bootDone s =
    if s.fcu.priorX then raiseAt (servicesUp s) 674 0 (xSeq (servicesUp s)) 0 else servicesUp s :=
  if_neg (by rw [hrst]; rintro (h | h); exacts [h hph, Bool.false_ne_true h])

/-! ## The boot stream (R638, R648) -/

theorem bootLoadWrite_takes (v : W32) (hph : s.dev.phase = 3) (hsrc : s.dev.sBootSrc = 2) :
    bootLoadWrite v s = { s with dev := { s.dev with bootStream := v :: s.dev.bootStream } } := if_pos ⟨hph, hsrc⟩

theorem bootLoadWrite_ignored (v : W32) (h : s.dev.phase ≠ 3 ∨ s.dev.sBootSrc ≠ 2) : bootLoadWrite v s = s :=
  if_neg fun ⟨hph, hsrc⟩ => h.elim (fun h => h hph) (fun h => h hsrc)

theorem bootStreamTimeout_fails (hph : s.dev.phase = 3) (hsrc : s.dev.sBootSrc = 2) (hw : streamWhole s = false) :
    bootStreamTimeout s = fFault { s with dev := { s.dev with phase := 5, bootStream := [] } } 5 0x95 0 :=
  if_pos ⟨hph, hsrc, by rw [hw]; rfl⟩

theorem bootStreamTimeout_none (h : s.dev.phase ≠ 3 ∨ s.dev.sBootSrc ≠ 2 ∨ streamWhole s = true) : bootStreamTimeout s = s := by
  refine if_neg fun ⟨hph, hsrc, hw⟩ => ?_
  rcases h with h | h | h
  · exact h hph
  · exact h hsrc
  · rw [h] at hw
    exact Bool.false_ne_true hw

end Done

/-! ## Temperature (R675) -/

section Temperature
variable {s : State} {tj : BitVec 12}

/-- The state with the sample and its alarm. -/
def tjKept (s : State) (tj : BitVec 12) (hot : Bool) : State := { s with dev := { s.dev with tj := tj, hot := hot } }

/-- Out of reset a sample is kept and the alarm judged with its hysteresis of 20. -/
theorem tjSample_kept (hrst : s.dev.inReset = false) : tjSample tj s =
    if !s.dev.hot && decide (s.dev.alarmTj.toInt ≤ tj.toInt) then raise (tjKept s tj true) 677 1 tj.toNat
    else if s.dev.hot && decide (tj.toInt ≤ s.dev.alarmTj.toInt - 20) then raise (tjKept s tj false) 677 2 tj.toNat
    else { s with dev := { s.dev with tj := tj } } :=
  if_neg (by rw [hrst]; exact Bool.false_ne_true)

theorem tjSample_cold (hrst : s.dev.inReset = false) (hhot : s.dev.hot = false) : tjSample tj s =
    if s.dev.alarmTj.toInt ≤ tj.toInt then raise (tjKept s tj true) 677 1 tj.toNat else { s with dev := { s.dev with tj := tj } } := by
  rw [tjSample_kept hrst]
  simp only [hhot, Bool.not_false, Bool.true_and, decide_eq_true_eq, Bool.false_and, Bool.false_eq_true, if_false]

theorem tjSample_hot (hrst : s.dev.inReset = false) (hhot : s.dev.hot = true) : tjSample tj s =
    if tj.toInt ≤ s.dev.alarmTj.toInt - 20 then raise (tjKept s tj false) 677 2 tj.toNat else { s with dev := { s.dev with tj := tj } } := by
  rw [tjSample_kept hrst]
  simp only [hhot, Bool.not_true, Bool.true_and, decide_eq_true_eq, Bool.false_and, Bool.false_eq_true, if_false]

end Temperature

/-- Settles O54: islands, phases, copies, the stream and the temperature are the lemmas above. -/
theorem islandsBootPhasesAndTemperature : Obligations.IslandsBootPhasesAndTemperature := by
  refine ⟨fun s d hd => ⟨fun h => ?_, fun hrst hclk hmay => ⟨fun hne => ?_, fun h1 => ?_⟩⟩,
    fun s n0 n1 => ⟨fun h => next_congr (bootPhaseEnd_none n0 n1 h), fun hrst hph => ⟨fun h => ?_, fun h => ?_⟩,
      fun hrst hph => ⟨fun h => ?_, fun h => ?_⟩, fun hrst hph => ⟨fun hsrc hw => ?_, fun h => ?_⟩,
      fun hrst hph => next_congr (bootPhaseEnd_verify n0 n1 hrst hph)⟩,
    fun s n0 n1 l => ?_,
    fun s => ⟨fun h => next_congr (bootDone_none h), fun hph hrst => ⟨fun h => ?_, fun h => ?_⟩⟩,
    fun s m v h => ⟨fun hph hsrc => ?_, fun hno => ?_⟩,
    fun s => ⟨fun hph hsrc hw => next_congr (bootStreamTimeout_fails hph hsrc hw), fun h => next_congr (bootStreamTimeout_none h)⟩,
    fun s tj => ⟨fun h => next_congr (if_pos h), fun hrst => ⟨fun hhot h => ?_, fun hhot h => ?_, fun hhot h => ?_, fun hhot h => ?_⟩⟩⟩
  · exact ev_next (decide_eq_true hd) (islandClockOk_none h)
  · exact ev_next (decide_eq_true hd) ((islandClockOk_starts hrst hclk hmay).trans (if_neg hne))
  · exact ev_next (decide_eq_true hd) ((islandClockOk_starts hrst hclk hmay).trans (if_pos h1))
  · exact next_congr ((bootPhaseEnd_stores n0 n1 hrst hph).trans (if_pos (List.isEmpty_iff.mpr h)))
  · exact next_congr ((bootPhaseEnd_stores n0 n1 hrst hph).trans (if_neg (mt List.isEmpty_iff.mp h)))
  · exact next_congr ((bootPhaseEnd_clocks n0 n1 hrst hph).trans (if_pos h))
  · exact next_congr ((bootPhaseEnd_clocks n0 n1 hrst hph).trans (if_neg (Bool.not_eq_true _ ▸ h)))
  · exact next_congr ((bootPhaseEnd_load n0 n1 hrst hph).trans (if_pos ⟨hsrc, by rw [hw]; rfl⟩))
  · refine next_congr ((bootPhaseEnd_load n0 n1 hrst hph).trans (if_neg fun ⟨hsrc, hw⟩ => ?_))
    exact h.elim (fun h => h hsrc) (fun h => by rw [h] at hw; exact Bool.false_ne_true hw)
  · obtain ⟨h0, h1, h2, h3⟩ := bootCopies_strap (s := s) n0 n1
    refine ⟨h0, h1, h2, h3, bootLoad_none, fun x hx => bootLoad_some hx, bootVerify_none, fun x hx => ?_, fun b => ?_⟩
    · rw [bootVerify_some hx]
      exact ⟨rfl, rfl, rfl, rfl, rfl, rfl, rfl, rfl⟩
    · rw [copyGood, Bool.and_eq_true, Bool.and_eq_true, and_assoc]
  · exact next_congr ((bootDone_services hph hrst).trans (if_neg (by rw [h]; exact Bool.false_ne_true)))
  · exact next_congr ((bootDone_services hph hrst).trans (if_pos h))
  · exact (ev_regWr_allowed _ h h.1).trans (next_congr (bootLoadWrite_takes v hph hsrc))
  · exact (ev_regWr_allowed _ h h.1).trans (next_congr (bootLoadWrite_ignored v hno))
  · exact next_congr ((tjSample_cold hrst hhot).trans (if_neg (by omega)))
  · exact next_congr ((tjSample_cold hrst hhot).trans (if_pos h))
  · exact next_congr ((tjSample_hot hrst hhot).trans (if_neg (by omega)))
  · exact next_congr ((tjSample_hot hrst hhot).trans (if_pos h))

end Sys2Proof.Machine
end

section
/-! PROOFS. The family of the grain chapter, the pair: decisions and commands carried between the devices, verdicts, the transfer of a
region, and the application of shared decisions. -/

namespace Sys2Proof.Machine

section Received
variable {s : State} {b : List Byte}

/-! ## DECISION (R608, R613) -/

/-- The learning event or the sweep step that a DECISION frame carries. -/
def carriedDecision (b : List Byte) : Shared :=
  { apply := grainAt b 0, remote := true, index := le b 10 2, cmd := none, carried := none, ok := true
    learn := if le b 8 1 = 0 then
        some { pt := le b 9 1 % 16, mac := BitVec.ofNat 48 (be b 16 6), vid := BitVec.ofNat 12 (le b 22 2), port := le b 24 1 }
      else none
    bucket := if le b 8 1 = 1 then some (le b 16 4) else none }

theorem carriedDecision_learn (h : le b 8 1 = 0) : carriedDecision b =
    { apply := grainAt b 0, remote := true, index := le b 10 2, cmd := none, carried := none, ok := true, bucket := none
      learn := some { pt := le b 9 1 % 16, mac := BitVec.ofNat 48 (be b 16 6), vid := BitVec.ofNat 12 (le b 22 2), port := le b 24 1 } } := by
  rw [carriedDecision, h]
  rfl

theorem carriedDecision_sweep (h : le b 8 1 = 1) : carriedDecision b =
    { apply := grainAt b 0, remote := true, index := le b 10 2, cmd := none, carried := none, ok := true, bucket := some (le b 16 4)
      learn := none } := by
  rw [carriedDecision, h]
  rfl

theorem decisionRx_ignored (hp : paired s = false) (hj : joining s = false) : decisionRx s b = s :=
  if_pos (by rw [hp, hj]; rfl)

/-- Paired or joining, a late decision takes the link down, one of an unknown kind is ignored, and any other waits. -/
theorem decisionRx_taken (h : paired s = true ∨ joining s = true) : decisionRx s b =
    if before (grainAt b 0) (pairGrain s) then lateDecision s
    else if 1 < le b 8 1 then s
    else { s with twn := { s.twn with shared := s.twn.shared ++ [carriedDecision b] } } :=
  if_neg (by rcases h with h | h <;> rw [h] <;> simp)

theorem decisionRx_late (h : paired s = true ∨ joining s = true) (hlate : before (grainAt b 0) (pairGrain s) = true) :
    decisionRx s b = lateDecision s := (decisionRx_taken h).trans (if_pos hlate)

theorem decisionRx_unknown (h : paired s = true ∨ joining s = true) (hlate : before (grainAt b 0) (pairGrain s) = false)
    (hkind : 2 ≤ le b 8 1) : decisionRx s b = s := by
  rw [decisionRx_taken h, hlate, if_neg Bool.false_ne_true, if_pos (by omega)]

theorem decisionRx_waits (h : paired s = true ∨ joining s = true) (hlate : before (grainAt b 0) (pairGrain s) = false)
    (hkind : le b 8 1 ≤ 1) : decisionRx s b = { s with twn := { s.twn with shared := s.twn.shared ++ [carriedDecision b] } } := by
  rw [decisionRx_taken h, hlate, if_neg Bool.false_ne_true, if_neg (by omega)]

/-! ## TOUCH (R614) -/

theorem touchRx_noRegion (h : fdbBucket s (le b 8 1 % 16) (BitVec.ofNat 48 (be b 0 6)) (BitVec.ofNat 12 (le b 6 2)) = none) :
    touchRx s b = s := by rw [touchRx, h]

theorem touchRx_noEntry {k : Nat}
    (hk : fdbBucket s (le b 8 1 % 16) (BitVec.ofNat 48 (be b 0 6)) (BitVec.ofNat 12 (le b 6 2)) = some k)
    (h : fdbFind s k (BitVec.ofNat 48 (be b 0 6)) (BitVec.ofNat 12 (le b 6 2)) = none) : touchRx s b = s := by
  rw [touchRx, hk]
  dsimp only
  rw [h]

theorem touchRx_entry {k w : Nat} {x : FdbEnt}
    (hk : fdbBucket s (le b 8 1 % 16) (BitVec.ofNat 48 (be b 0 6)) (BitVec.ofNat 12 (le b 6 2)) = some k)
    (h : fdbFind s k (BitVec.ofNat 48 (be b 0 6)) (BitVec.ofNat 12 (le b 6 2)) = some (w, x)) :
    touchRx s b = setFdbEnt s k w (some { x with touch := later x.touch (fromPair s (grainAt b 16)) }) := by
  rw [touchRx, hk]
  dsimp only
  rw [h]

/-! ## COMMAND (R615) -/

theorem commandRx_unpaired (h : paired s = false) : commandRx s b = s := if_pos (by rw [h]; rfl)

/-- An entry of a transaction is kept with it. -/
theorem commandRx_entry (h : paired s = true) (hop : le (slice b 16 64) 0 1 = 0x21) :
    commandRx s b = entryRx s (le b 8 1 % 16) (slice b 16 64) := by
  unfold commandRx
  rw [h]
  exact if_pos hop

theorem commandRx_late (h : paired s = true) (hop : le (slice b 16 64) 0 1 ≠ 0x21) (hlate : before (grainAt b 0) (pairGrain s) = true) :
    commandRx s b = lateDecision s := by
  unfold commandRx
  rw [h]
  exact (if_neg hop).trans (if_pos hlate)

/-- The state in which the carried command has been admitted as one of its partition, without a queue. -/
def carriedAdded (s : State) (b : List Byte) : State := addCmd s (le b 8 1 % 16) none (slice b 16 64) s.gr.count

/-- The verdict `st` on carried command `c` goes back. -/
def verdictSent (s : State) (b : List Byte) (c : Cmd) (st : Nat) : State :=
  torvSend (carriedAdded s b) 0x05
    (leBytes 8 (grainAt b 0).toNat ++ leBytes 1 (le b 8 1 % 16) ++ leBytes 1 st ++ leBytes 2 (tagOf c) ++ leBytes 4 0)

/-- A carried command that is accepted waits for its pair grain. -/
def carriedWaits (s : State) (b : List Byte) (u : State) : State :=
  running { u with twn := { u.twn with shared := u.twn.shared ++
    [{ apply := grainAt b 0, remote := true, index := 128, learn := none, bucket := none, cmd := some s.cq.nextCmd
       carried := some (le b 8 1 % 16, slice b 16 64), ok := true }] } } s.cq.nextCmd

/-- The status of the checks, DONE where none fails. -/
def verdictStatus (t : State) (c : Cmd) : Nat := match firstFail t c with | some f => f.1 | none => stDONE

/-- A command in time is checked as if its partition had issued it, and its verdict goes back. -/
theorem commandRx_judged {c : Cmd} (h : paired s = true) (hop : le (slice b 16 64) 0 1 ≠ 0x21)
    (hlate : before (grainAt b 0) (pairGrain s) = false) (hc : cmdAt (carriedAdded s b) s.cq.nextCmd = some c) :
    commandRx s b =
      if verdictStatus (carriedAdded s b) c = stDONE then carriedWaits s b (verdictSent s b c (verdictStatus (carriedAdded s b) c))
      else dropCmd (verdictSent s b c (verdictStatus (carriedAdded s b) c)) s.cq.nextCmd := by
  have hmiss : ¬ before (grainAt b 0) (pairGrain s) = true := by rw [hlate]; exact Bool.false_ne_true
  unfold commandRx
  rw [h]
  refine (if_neg hop).trans ((if_neg hmiss).trans ?_)
  dsimp only
  rw [show cmdAt (addCmd s (le b 8 1 % 16) none (slice b 16 64) s.gr.count) s.cq.nextCmd = some c from hc]
  rfl

theorem commandRx_accepted {c : Cmd} (h : paired s = true) (hop : le (slice b 16 64) 0 1 ≠ 0x21)
    (hlate : before (grainAt b 0) (pairGrain s) = false) (hc : cmdAt (carriedAdded s b) s.cq.nextCmd = some c)
    (hf : firstFail (carriedAdded s b) c = none) : commandRx s b = carriedWaits s b (verdictSent s b c 0) := by
  have hst : verdictStatus (carriedAdded s b) c = stDONE := by rw [verdictStatus, hf]
  rw [commandRx_judged h hop hlate hc, hst, if_pos rfl]
  rfl

theorem commandRx_rejected {c : Cmd} {f : Nat × Bool} (h : paired s = true) (hop : le (slice b 16 64) 0 1 ≠ 0x21)
    (hlate : before (grainAt b 0) (pairGrain s) = false) (hc : cmdAt (carriedAdded s b) s.cq.nextCmd = some c)
    (hf : firstFail (carriedAdded s b) c = some f) (hne : f.1 ≠ 0) :
    commandRx s b = dropCmd (verdictSent s b c f.1) s.cq.nextCmd := by
  have hst : verdictStatus (carriedAdded s b) c = f.1 := by rw [verdictStatus, hf]
  rw [commandRx_judged h hop hlate hc, hst]
  exact if_neg hne

/-! ## VERDICT (R615) -/

/-- The shared command that a VERDICT frame answers. -/
def verdictFor (s : State) (b : List Byte) : Option Shared :=
  s.twn.shared.find? (verdictOf s (grainAt b 0) (le b 8 1 % 16) (le b 10 2 % 4096))

theorem verdictRx_none (h : verdictFor s b = none) : verdictRx s b = s := by
  rw [verdictRx, show s.twn.shared.find? _ = none from h]

/-- A late verdict takes the link down, an accepting one lets the command apply, and any other completes it. -/
theorem verdictRx_some {d : Shared} (h : verdictFor s b = some d) : verdictRx s b =
    if before (grainAt b 0) (pairGrain s) then lateDecision s
    else if le b 9 1 ≤ 1 then
      { s with twn := { s.twn with shared := s.twn.shared.map fun x => if x = d then { x with ok := true } else x } }
    else completeOpt { s with twn := { s.twn with shared := s.twn.shared.filter fun x => decide (x ≠ d) } } d.cmd (le b 9 1) [] := by
  rw [verdictRx, show s.twn.shared.find? _ = some d from h]

/-! ## READY (R616, R622) -/

/-- The partner's READY with its digest is kept. -/
def readyKept (s : State) (b : List Byte) : State :=
  { s with twn := { s.twn with
      partReady := some (grainAt b 0, BitVec.ofNat 16 (le b 8 2), (le b 10 1).testBit 0), digest := slice b 16 32 } }

theorem readyRx_paired (h : paired s = true) : readyRx s b =
    if (le b 10 1).testBit 0 then remoteCommit (readyKept s b) (grainAt b 0) else readyKept s b := if_pos h

/-- A device that is neither paired nor joining ignores READY. -/
theorem readyRx_ignored (hp : paired s = false) (hj : joining s = false) : readyRx s b = s := by
  unfold readyRx
  rw [hp, hj]
  rfl

theorem readyRx_joining (hp : paired s = false) (hj : joining s = true) : readyRx s b =
    if (le b 10 1).testBit 1 then readyKept s b else if s.twn.joinStep = 1 then digestJudge s (slice b 16 32) else s := by
  unfold readyRx
  rw [hp, hj]
  rfl

/-! ## The transfer of a region (R622, R624) -/

theorem bulkRx_ignored (h : takesBulk s (le b 4 4) = false) : bulkRx s b = s := if_neg (by rw [h]; exact Bool.false_ne_true)

theorem bulkRx_taken (h : takesBulk s (le b 4 4) = true) : bulkRx s b =
    (List.range 4).foldl (fun t w => setFdbEnt t (le b 4 4) w (wayOf s (slice b (8 + 32 * w) 32))) s := if_pos h

theorem wayOf_empty (h : (le b 9 1).testBit 0 = false) : wayOf s b = none := if_neg (by rw [h]; exact Bool.false_ne_true)

/-- A way with its valid bit is an entry of a shared partition, its grains taken over from the pair's count. -/
theorem wayOf_entry (h : (le b 9 1).testBit 0 = true) : ∃ x, wayOf s b = some x ∧ x.twin = true ∧ x.mac = BitVec.ofNat 48 (be b 0 6) ∧
    x.port = le b 8 1 ∧ x.touch = fromPair s (grainAt b 20) ∧ x.static = (le b 9 1).testBit 1 :=
  ⟨_, if_pos h, rfl, rfl, rfl, rfl, rfl⟩

/-- The state in which the partitions whose transfer has ended learn again. -/
def learnReleased (s : State) : State :=
  { s with twn := { s.twn with holdLearn := s.twn.holdLearn.filter fun n => s.twn.xfer.contains n } }

theorem bulkEndRx_more (hpass : le b 0 1 ≠ 0) (hn : le b 4 4 ≠ 0) : bulkEndRx s b = s := (if_neg hpass).trans (if_neg hn)

/-- A pass without buckets ends step 2 of a joining junior. -/
theorem bulkEndRx_last (hpass : le b 0 1 ≠ 0) (hn : le b 4 4 = 0) : bulkEndRx s b =
    if joining (learnReleased s) ∧ s.twn.joinStep = 2 ∧ !senior s then
      { learnReleased s with twn := { (learnReleased s).twn with joinStep := 3 } }
    else learnReleased s := (if_neg hpass).trans (if_pos hn)

/-- PASS 0 asks for the region of a partition (log entry 126). -/
theorem bulkEndRx_asked (hpass : le b 0 1 = 0) : bulkEndRx s b =
    if paired s ∧ le b 4 4 < 16 then
      sendPass { s with twn := { s.twn with
        holdLearn := (le b 4 4 :: s.twn.holdLearn).eraseDups, xfer := (le b 4 4 :: s.twn.xfer).eraseDups } }
    else s := if_pos hpass

end Received

/-! ## Application (R40, R199, R616) -/

section Apply
variable {s : State}

/-- The first due shared decision applies where every entry of the backlog comes after it. -/
theorem sharedDecisionApply_first {d : Shared} (h : sharedFirst s = some d) : sharedDecisionApply s =
    if s.gr.backlog.all (sharedAhead s d) then sharedApply s d else s := by rw [sharedDecisionApply, h]

theorem sharedDecisionApply_none (h : sharedFirst s = none) (ho : openAt s = none) : sharedDecisionApply s = s := by
  rw [sharedDecisionApply, h]
  dsimp only
  rw [ho]

/-- Both devices are free for the agreed opening: its pair grain has come, an epoch is free, and no own commit is to open first. -/
abbrev MayOpenAgreed (s : State) (a : Grain) : Prop :=
  before (pairGrain s) a = false ∧ s.cfg.epochs.length < 2 ∧ (paired s = true ∨ joining s = true) ∧ (paired s && ownOpening s) = false

/-- With no decision due, an agreed opening opens once both devices may. -/
theorem sharedDecisionApply_opening {a : Grain} (h : sharedFirst s = none) (ho : openAt s = some a) : sharedDecisionApply s =
    if MayOpenAgreed s a then sharedOpening s a else s := by
  rw [sharedDecisionApply, h]
  dsimp only
  rw [ho]
  simp only [Bool.not_eq_true']

variable {d : Shared}

/-- The state in which the decision waits no longer. -/
def sharedTaken (s : State) (d : Shared) : State := { s with twn := { s.twn with shared := s.twn.shared.erase d } }

theorem sharedApply_learn {e : LearnEv} (h : d.learn = some e) :
    sharedApply s d = learnApply (sharedTaken s d) e (fromPair s d.apply) d.remote := by
  unfold sharedApply
  dsimp only
  rw [h]
  rfl

theorem sharedApply_sweep {k : Nat} (hl : d.learn = none) (hb : d.bucket = some k) :
    sharedApply s d = sweepApply (sharedTaken s d) k (fromPair s d.apply) d.remote := by
  unfold sharedApply
  dsimp only
  rw [hl, hb]
  rfl

/-- A command that both devices have accepted takes effect; another completes with the status of the pair that is gone. -/
theorem sharedApply_command {c : Cmd} (hl : d.learn = none) (hb : d.bucket = none)
    (hc : d.cmd.bind (cmdAt (sharedTaken s d)) = some c) : sharedApply s d =
      if d.ok then
        (let r := fdbEff (sharedTaken s d) c.pt c.bytes (fromPair s d.apply) d.remote
         complete r.1 c.id r.2.1 r.2.2)
      else complete (sharedTaken s d) c.id (unsharedStatus (sharedTaken s d)) [] := by
  unfold sharedApply
  dsimp only
  rw [hl, hb]
  rw [show d.cmd.bind (cmdAt { s with twn := { s.twn with shared := s.twn.shared.erase d } }) = some c from hc]
  rfl

end Apply

/-- Settles O56: each frame and the application of each kind of shared decision are the lemmas above. -/
theorem sharedDecisionsAndTransfers : Obligations.SharedDecisionsAndTransfers := by
  refine ⟨fun s b => ⟨decisionRx_ignored, fun h => ⟨decisionRx_late h, decisionRx_unknown h, fun hlate hk => ?_, fun hlate hk => ?_⟩⟩,
    fun s b => ⟨touchRx_noRegion, fun k hk => ⟨touchRx_noEntry hk, fun w x => touchRx_entry hk⟩⟩,
    fun s b => ⟨commandRx_unpaired, commandRx_entry, fun h hop => ⟨commandRx_late h hop, fun hlate c hc =>
      ⟨commandRx_accepted h hop hlate hc, fun f => commandRx_rejected h hop hlate hc⟩⟩⟩,
    fun s b => ⟨verdictRx_none, fun d h => ⟨fun hlate => ?_, fun hlate hst => ?_, fun hlate hst => ?_⟩⟩,
    fun s b => ⟨fun h htwin => ?_, fun h htwin => ?_, readyRx_ignored, fun hp hj halign => ?_, fun hp hj halign hstep => ?_,
      fun hp hj halign hstep => ?_⟩,
    fun s b => ⟨bulkRx_ignored, bulkRx_taken, fun r => wayOf_empty, fun r => wayOf_entry, bulkEndRx_more,
      fun hpass hn hj hstep hsen => ?_, fun hpass hn h => ?_, fun hpass hp hn => ?_, fun hpass h => ?_⟩,
    fun s => ⟨fun hshed => next_congr (powered_off _ hshed), fun hshed => ?_⟩,
    fun s d => ⟨fun e => sharedApply_learn, fun k => sharedApply_sweep, fun c hl hb hc => ⟨fun hok => ?_, fun hok hst => ?_,
      fun hok hst => ?_⟩⟩⟩
  · rw [decisionRx_waits h hlate (by omega), carriedDecision_learn hk]
  · rw [decisionRx_waits h hlate (by omega), carriedDecision_sweep hk]
  · exact (verdictRx_some h).trans (if_pos hlate)
  · rw [verdictRx_some h, hlate, if_neg Bool.false_ne_true, if_pos hst]
  · rw [verdictRx_some h, hlate, if_neg Bool.false_ne_true, if_neg (by omega)]
  · exact (readyRx_paired h).trans (if_pos htwin)
  · exact (readyRx_paired h).trans (if_neg (by rw [htwin]; exact Bool.false_ne_true))
  · exact (readyRx_joining hp hj).trans (if_pos halign)
  · rw [readyRx_joining hp hj, halign, if_neg Bool.false_ne_true, if_pos hstep]
  · rw [readyRx_joining hp hj, halign, if_neg Bool.false_ne_true, if_neg hstep]
  · exact (bulkEndRx_last hpass hn).trans (if_pos ⟨hj, hstep, by rw [hsen]; rfl⟩)
  · refine (bulkEndRx_last hpass hn).trans (if_neg fun ⟨hj, hstep, hsen⟩ => ?_)
    rcases h with h | h | h
    · exact Bool.false_ne_true (h.symm.trans hj)
    · exact h hstep
    · rw [h] at hsen
      exact Bool.false_ne_true hsen
  · exact (bulkEndRx_asked hpass).trans (if_pos ⟨hp, hn⟩)
  · refine (bulkEndRx_asked hpass).trans (if_neg fun ⟨hp, hn⟩ => ?_)
    exact h.elim (fun h => Bool.false_ne_true (h.symm.trans hp)) (fun h => absurd hn (by omega))
  · have hrow : exec .sharedDecisionApply s = .next (sharedDecisionApply s) := next_congr (powered_on _ hshed)
    rw [hrow]
    refine ⟨fun d hd => ⟨fun hall => ?_, fun hall => ?_⟩, fun hd ho => ?_, fun a hd ho => ⟨fun hmay => ?_, fun hmay => ?_⟩⟩
    · exact next_congr ((sharedDecisionApply_first hd).trans (if_pos hall))
    · exact next_congr ((sharedDecisionApply_first hd).trans (if_neg (by rw [hall]; exact Bool.false_ne_true)))
    · exact next_congr (sharedDecisionApply_none hd ho)
    · exact next_congr ((sharedDecisionApply_opening hd ho).trans (if_pos hmay))
    · exact next_congr ((sharedDecisionApply_opening hd ho).trans (if_neg hmay))
  · exact (sharedApply_command hl hb hc).trans (if_pos hok)
  · rw [sharedApply_command hl hb hc, hok, if_neg Bool.false_ne_true]
    exact congrArg (complete _ _ · []) (if_pos hst)
  · rw [sharedApply_command hl hb hc, hok, if_neg Bool.false_ne_true]
    exact congrArg (complete _ _ · []) (if_neg hst)

end Sys2Proof.Machine
end

section
/-! PROOFS. The family of the time base chapter, registers: what each access of the time base latches, pops and stages. -/

namespace Sys2Proof.Machine

/-! ## Whose time it is (R617) -/

section Pair
variable {s : State}

/-- The junior of a pair is the device that is paired and not the senior. -/
theorem juniorPaired_iff : juniorPaired s = true ↔ paired s = true ∧ ¬ senior s = true := by simp [juniorPaired]

theorem seniorPaired_iff : seniorPaired s = true ↔ paired s = true ∧ senior s = true := Bool.and_eq_true_iff

/-- Away from a pair no device is a junior. -/
theorem juniorPaired_unpaired (h : paired s = false) : juniorPaired s = false := by rw [juniorPaired, h, Bool.false_and]

/-- Away from a pair no device is a senior. -/
theorem seniorPaired_unpaired (h : paired s = false) : seniorPaired s = false := by rw [seniorPaired, h, Bool.false_and]

/-- A device that is not the junior of a pair is its senior or away from a pair. -/
theorem seniorPaired_of_not_junior (h : ¬ (paired s = true ∧ ¬ senior s = true)) : seniorPaired s = paired s := by
  cases hp : paired s with
  | false => exact seniorPaired_unpaired hp
  | true => exact seniorPaired_iff.mpr ⟨hp, not_not.mp fun hs => h ⟨hp, hs⟩⟩

end Pair

/-! ## Reads and writes (R75, R76, R79) -/

section Write
variable {s : State}

/-- TB_FREQ_LO is staged, except on the junior of a pair. -/
theorem freqLoWrite_eq (v : W32) : freqLoWrite v s =
    if paired s ∧ ¬ senior s then s else { s with tb := { s.tb with stageLo := v } } :=
  if_congr juniorPaired_iff rfl rfl

theorem committedF_eq (v : W32) : committedF s v = BitVec.ofNat 40 (s.tb.stageLo.toNat + 2 ^ 32 * (v.toNat % 256)) := by
  rw [committedF, fld, pow_zero, Nat.div_one]
  rfl

/-- TB_FREQ_HI commits the word, carried by the senior of a pair; the junior and SOLO-HOLD discard it. -/
theorem freqHiWrite_eq (v : W32) : freqHiWrite v s =
    if (paired s ∧ ¬ senior s) ∨ s.twn.state = twSOLO then s
    else if paired s then timeChange s { noChange s (pairGrain s + lagOf s) with setF := some (committedF s v) }
    else { s with tb := { s.tb with pendF := some (committedF s v) } } := by
  have hdiscard : (juniorPaired s || decide (s.twn.state = twSOLO)) = true ↔ (paired s ∧ ¬ senior s) ∨ s.twn.state = twSOLO := by
    rw [Bool.or_eq_true, juniorPaired_iff, decide_eq_true_iff]
  by_cases h : (paired s ∧ ¬ senior s) ∨ s.twn.state = twSOLO
  · exact (if_pos (hdiscard.mpr h)).trans (if_pos h).symm
  · rw [if_neg h, freqHiWrite, if_neg (mt hdiscard.mp h), seniorPaired_of_not_junior fun hj => h (Or.inl hj)]

/-- TB_ERR_EST is staged, carried by the senior of a pair; the junior discards it. -/
theorem errEstWrite_eq (v : W32) : errEstWrite v s =
    if paired s ∧ ¬ senior s then s
    else if paired s then timeChange s { noChange s (pairGrain s + lagOf s) with est := some v }
    else { s with tb := { s.tb with pEst := some v } } := by
  by_cases h : paired s ∧ ¬ senior s
  · exact (if_pos (juniorPaired_iff.mpr h)).trans (if_pos h).symm
  · rw [if_neg h, errEstWrite, if_neg (mt juniorPaired_iff.mp h), seniorPaired_of_not_junior h]

end Write

/-- Settles O12: each access that no rule refuses has its register's effect, and on a pair the writes are those above. -/
theorem timeBaseRegisters : Obligations.TimeBaseRegisters := by
  intro s m v
  refine ⟨fun h => ?_, fun h => ?_, fun h => ?_, fun h => ?_, fun h => ?_, fun h => ?_, fun h => ?_⟩
  · exact ev_regRd_allowed _ latchTime h h.1
  · exact ev_regRd_allowed _ latchFreq h h.1
  · refine (ev_regRd_allowed _ smpPop h h.1).trans (next_congr (congrArg (readBack (smpPop s)) ?_))
    cases s.tb.fifo with
    | nil => rfl
    | cons r l => rfl
  · exact (ev_regWr_allowed _ h h.1).trans (next_congr (freqLoWrite_eq v))
  · refine (ev_regWr_allowed _ h h.1).trans (next_congr ?_)
    rw [freqHiWrite_eq, committedF_eq]
  · exact ev_regWr_allowed _ h h.1
  · exact (ev_regWr_allowed _ h h.1).trans (next_congr (errEstWrite_eq v))

end Sys2Proof.Machine
end

section
/-! PROOFS. The family of the time base chapter, adjustments: how TB_ADJUST is refused or scheduled, and how grain AT applies it. -/

namespace Sys2Proof.Machine

/-! ## The command (R73, R74, R617, R618) -/

section Schedule
variable {s : State} {c : Cmd}

/-- The grain AT of a TB_ADJUST. -/
def adjustAt (c : Cmd) : Grain := BitVec.ofNat 64 (par c 16 8)

/-- The adjustment that a TB_ADJUST asks for: a SET of a value, or a STEP. -/
def adjOf (c : Cmd) : Adj :=
  if parBits c 8 0 1 = 1 then
    { set := true, at_ := adjustAt c, step := 0, value := tMake (par c 24 6) (par c 32 4) (par c 36 1), cmd := some c.id }
  else { set := false, at_ := adjustAt c, step := stepOf c, value := 0, cmd := some c.id }

/-- The state in which the adjustment that was pending is cancelled. -/
def adjustCancelled (s : State) : State :=
  match s.tb.adj with
  | some a => completeOpt s a.cmd stADJUST_CANCELLED []
  | none => s

theorem tbAdjust_notOwner (h : (paired s = true ∧ senior s = false) ∨ s.twn.state = twSOLO) :
    tbAdjust s c = complete s c.id stNOT_OWNER [] := by
  refine if_pos (Bool.or_eq_true_iff.mpr (h.imp (fun hj => ?_) decide_eq_true))
  exact juniorPaired_iff.mpr ⟨hj.1, ne_true_of_eq_false hj.2⟩

section Alone
variable (hp : paired s = false) (hsolo : s.twn.state ≠ twSOLO)
include hp hsolo

theorem tbAdjust_late (h : future s (adjustAt c) = false) : tbAdjust s c = complete s c.id stBAD_PARAM [] := by
  rw [adjustAt] at h
  simp only [tbAdjust, juniorPaired_unpaired hp, hsolo, h, decide_false, Bool.or_self, Bool.false_eq_true, if_false, Bool.not_false,
    Bool.true_or, if_true]

/-- Away from a pair a TB_ADJUST for a grain to come becomes the pending adjustment and stays under way. -/
theorem tbAdjust_scheduled (h : future s (adjustAt c) = true) : tbAdjust s c =
    running { adjustCancelled s with tb := { (adjustCancelled s).tb with adj := some (adjOf c) } } c.id := by
  rw [adjustAt] at h
  simp only [tbAdjust, juniorPaired_unpaired hp, seniorPaired_unpaired hp, hsolo, h, decide_false, Bool.or_self, Bool.false_eq_true,
    if_false, Bool.not_true, Bool.false_and]
  by_cases hset : parBits c 8 0 1 = 1
  · rw [adjOf, if_pos hset]
    simp only [hset, decide_true, if_true]
    rfl
  · rw [adjOf, if_neg hset]
    simp only [hset, decide_false, Bool.false_eq_true, if_false]
    rfl

end Alone

end Schedule

/-! ## The application (R73, R87, R88) -/

section Apply
variable {s : State} {a : Adj}

theorem adjustApply_none (h : s.tb.adj = none) : adjustApply s = s := by rw [adjustApply, h]

theorem adjustApply_waits (ha : s.tb.adj = some a) (h : reached s a.at_ = false) : adjustApply s = s := by
  rw [adjustApply, ha]
  exact if_neg (by rw [h]; exact Bool.false_ne_true)

/-- At grain AT the adjustment is applied with nothing pending, and its command completes with AT. -/
theorem adjustApply_due (ha : s.tb.adj = some a) (h : reached s a.at_ = true) : adjustApply s =
    completeOpt (if a.set then applySet { s with tb := { s.tb with adj := none } } a.value
      else applyStep { s with tb := { s.tb with adj := none } } a.step) a.cmd stDONE (leBytes 8 a.at_.toNat) := by
  rw [adjustApply, ha]
  exact if_pos h

end Apply

/-- Settles O17: the command is refused, late or scheduled, and the row of its application waits for AT. -/
theorem timeAdjustments : Obligations.TimeAdjustments := by
  intro s c id
  refine ⟨fun h hown => ?_, fun h hp hsolo hfut => ?_, fun h hp hsolo hfut => ?_, fun a ha hat hset => ?_, fun a ha hat hset => ?_,
    fun a ha hat => ?_, fun h => ?_⟩
  · exact next_congr ((runCmd_ready _ h).trans (tbAdjust_notOwner hown))
  · exact next_congr ((runCmd_ready _ h).trans (tbAdjust_late hp hsolo hfut))
  · exact next_congr ((runCmd_ready _ h).trans (tbAdjust_scheduled hp hsolo hfut))
  · refine next_congr ((adjustApply_due ha hat).trans ?_)
    rw [hset, if_neg Bool.false_ne_true, applyStep]
  · refine next_congr ((adjustApply_due ha hat).trans ?_)
    rw [hset, if_pos rfl, applySet]
  · exact next_congr (adjustApply_waits ha hat)
  · exact next_congr (adjustApply_none h)

end Sys2Proof.Machine
end

section
/-! PROOFS. The family of the time base chapter, capture inputs: what an edge does, and what a read of the record pops. -/

namespace Sys2Proof.Machine

section Ecap
variable {s : State} {n sub : Nat} {rising : Bool}

/-! ## Edges (R66-R68) -/

/-- The edge falls within the 8 ns after the last stamped one (R66). -/
def inDeadTime (s : State) (n sub : Nat) : Bool :=
  match (evcAt s n).lastAt with
  | some (g, p) => decide (since s g * 65536 + sub < p + 8 * 65536)
  | none => false

theorem inDeadTime_of_last {g : Grain} {p : Nat} (hlast : (evcAt s n).lastAt = some (g, p))
    (h : since s g * 65536 + sub < p + 8 * 65536) : inDeadTime s n sub = true := by
  rw [inDeadTime, hlast]
  exact decide_eq_true h

theorem not_inDeadTime (h : ∀ g p, (evcAt s n).lastAt = some (g, p) → p + 8 * 65536 ≤ since s g * 65536 + sub) :
    inDeadTime s n sub = false := by
  unfold inDeadTime
  cases hlast : (evcAt s n).lastAt with
  | none => rfl
  | some gp => exact decide_eq_false (Nat.not_lt.mpr (h gp.1 gp.2 hlast))

/-- The input takes edges of the direction. -/
def takesEdge (x : Evc) (rising : Bool) : Bool := x.edge.getLsbD (if rising then 0 else 1)

theorem ignored_eq_not_takesEdge (x : Evc) :
    ((rising && !x.edge.getLsbD 0) || (!rising && !x.edge.getLsbD 1)) = !takesEdge x rising := by
  cases rising with
  | true => simp [takesEdge]
  | false => simp [takesEdge]

/-- The input with its edge at this instant stamped last. -/
def stampedEvc (s : State) (n sub : Nat) : Evc := { evcAt s n with lastAt := some (s.gr.count, sub) }

/-- The record of an edge: its compensated stamp and the grain stamp of the next boundary. -/
def edgeRec (s : State) (n sub : Nat) (rising : Bool) : EvcRec :=
  { stamp := compensate (stampOf s sub) (evcAt s n).dly.toInt, falling := !rising, loss := (evcAt s n).fifoLoss, grain := s.gr.count + 1 }

/-- One more record brings the level to THRESH for the first time since it was below. -/
def reachesThresh (x : Evc) : Bool := decide (x.thresh ≠ 0) && !x.raised && decide (x.thresh.toNat ≤ x.fifo.length + 1)

/-- A full FIFO counts the edge in LOST and marks the next record. -/
def edgeLost (s : State) (n sub : Nat) : State :=
  setEvc s n { stampedEvc s n sub with lost := satInc (evcAt s n).lost, fifoLoss := true }

/-- The record enters the FIFO, with the capture event where the level reaches THRESH. -/
def edgePushed (s : State) (n sub : Nat) (rising : Bool) : State :=
  let x := evcAt s n
  let s1 := setEvc s n { stampedEvc s n sub with
    fifo := x.fifo ++ [edgeRec s n sub rising], fifoLoss := false, raised := x.raised || reachesThresh x }
  if reachesThresh x then raiseAt s1 (608 + n) 0 0 (s.gr.count + 1) else s1

/-- A disabled input ignores the edge; on an enabled one an edge in the dead time counts in DEAD, one of a direction that the input
does not take is ignored, and another is lost to a full FIFO or pushed. -/
theorem ecapEdge_eq : ecapEdge n rising sub s =
    if !(evcAt s n).en then s
    else if inDeadTime s n sub then setEvc s n { evcAt s n with dead := satInc (evcAt s n).dead }
    else if !takesEdge (evcAt s n) rising then s
    else if 64 ≤ (evcAt s n).fifo.length then edgeLost s n sub else edgePushed s n sub rising := by
  rw [← ignored_eq_not_takesEdge]
  rfl

/-! ## EVC_REC3 (R83) -/

theorem evcPop_eq : evcPop n s = setEvc s n { evcAt s n with
    fifo := (evcAt s n).fifo.tail
    raised := (evcAt s n).raised && decide ((evcAt s n).thresh.toNat ≤ (evcAt s n).fifo.length - 1) } := by
  rw [evcPop, List.length_tail]

end Ecap

/-- Settles O15: on an enabled input the cases of an edge exclude each other, and a read pops the oldest record. -/
theorem captureInputs : Obligations.CaptureInputs := by
  intro s m n sub rising hn
  have hrow (hsub : sub < 65536) : exec (.ecapEdge n rising sub) s = .next (ecapEdge n rising sub s) :=
    ev_next (by rw [decide_eq_true hn, decide_eq_true hsub]; rfl) rfl
  refine ⟨fun h => ?_, fun hsub hen => ?_, fun g p hsub hen hlast hlt => ?_, fun hsub hen hedge hlast => ?_,
    fun hsub hen hedge hlast => ?_⟩
  · refine (ev_regRd_allowed _ (evcPop n) h (by rw [h.1, decide_eq_true hn]; rfl)).trans (next_congr ?_)
    rw [evcPop_eq]
    refine congrArg (readBack _) ?_
    cases (evcAt s n).fifo with
    | nil => rfl
    | cons r l => rfl
  · rw [hrow hsub, ecapEdge_eq, hen, Bool.not_false, if_pos rfl]
  · rw [hrow hsub, ecapEdge_eq, hen, Bool.not_true, if_neg Bool.false_ne_true, inDeadTime_of_last hlast hlt, if_pos rfl]
  · have htakes : takesEdge (evcAt s n) rising = true := hedge
    rw [hrow hsub, ecapEdge_eq, hen, Bool.not_true, if_neg Bool.false_ne_true, not_inDeadTime hlast, if_neg Bool.false_ne_true, htakes,
      Bool.not_true, if_neg Bool.false_ne_true]
    rfl
  · have hother : takesEdge (evcAt s n) rising = false := hedge
    rw [hrow hsub, ecapEdge_eq, hen, Bool.not_true, if_neg Bool.false_ne_true, not_inDeadTime hlast, if_neg Bool.false_ne_true, hother,
      Bool.not_false, if_pos rfl]

end Sys2Proof.Machine
end

section
/-! PROOFS. The family of the time base chapter, holdover: the samples of F, the entry into holdover, the growth of the error
estimate, and a boundary at which no write of TB_REF_CTL and no carried change waits. -/

namespace Sys2Proof.Machine

section Holdover
variable {s : State}

/-! ## Samples and growth (R61, R63) -/

/-- The samples of F with that of this boundary, those of the last 1,024 s kept. -/
def sampledMeans (s : State) : List (Grain × BitVec 40) :=
  (s.gr.count, s.tb.fPrev) :: s.tb.means.filter fun m => decide (since s m.1 < 1024 * 1000000000)

theorem holdoverSample_takes (hgrain : s.gr.count.toNat % 2 ^ 20 = 0) (hzero : s.gr.count ≠ 0) (hprev : s.tb.holdPrev = false)
    (hnew : s.tb.means.head?.map (·.1) ≠ some s.gr.count) :
    holdoverSample s = { s with tb := { s.tb with means := sampledMeans s } } :=
  if_pos ⟨hgrain, hzero, by rw [hprev]; rfl, hnew⟩

theorem holdoverSample_held (hprev : s.tb.holdPrev = true) : holdoverSample s = s :=
  if_neg fun ⟨_, _, hfree, _⟩ => by rw [hprev] at hfree; exact Bool.false_ne_true hfree

/-- A sample writes nothing but the samples. -/
theorem holdoverSample_frame (s : State) : holdoverSample s = { s with tb := { s.tb with means := (holdoverSample s).tb.means } } := by
  unfold holdoverSample
  split
  · rfl
  · rfl

theorem errEstGrowth_due (h : 1000000000 ≤ s.tb.growth) : errEstGrowth s =
    validUpdate { s with tb := { s.tb with
      errEst := satAdd s.tb.errEst ((s.tb.holdRate.toNat * 16 + 999) / 1000), growth := 0 } } := if_pos h

theorem errEstGrowth_none (h : s.tb.growth < 1000000000) : errEstGrowth s = s := if_neg (Nat.not_le.mpr h)

/-! ## Entry (R61) -/

theorem holdoverEntry_held (h : s.tb.holdover = true) : holdoverEntry s = s := if_pos (by rw [h, Bool.true_or])

/-- The state of a device away from a pair that enters holdover: HOLDOVER is set and F is the mean, where there is one. -/
def enteredHoldover (s : State) : State :=
  { s with tb := { s.tb with holdover := true, f := (meanF s).getD s.tb.f } }

/-- Away from a pair holdover is entered with the sample of this boundary taken. -/
theorem holdoverEntry_enters (hhold : s.tb.holdover = false) (hp : paired s = false) : holdoverEntry s =
    raise (enteredHoldover (holdoverSample s)) 577 0 (s.tb.src.toNat + 256 * b1 (meanF (holdoverSample s)).isSome) := by
  have hsrc : (holdoverSample s).tb.src = s.tb.src := by rw [holdoverSample_frame]
  have halone : seniorPaired (holdoverSample s) = false := by
    rw [holdoverSample_frame]
    exact seniorPaired_unpaired hp
  rw [holdoverEntry, hhold, juniorPaired_unpaired hp, Bool.or_self, if_neg Bool.false_ne_true, enteredHoldover]
  cases hm : meanF (holdoverSample s) with
  | none => simp only [hm, hsrc, Option.getD_none]
  | some f => simp only [hm, hsrc, halone, Bool.false_eq_true, if_false, Option.getD_some]

/-! ## The boundary (R56, R61) -/

theorem sourceLost_iff : sourceLost s = true ↔ srcOk s s.tb.src.toNat = false ∧ s.tb.holdover = false ∧ juniorPaired s = false := by
  simp only [sourceLost, Bool.and_eq_true, Bool.not_eq_true', and_assoc]

/-- The time over one boundary: the word in force advances TB_TIME, what the grain before had is kept, and the estimate that was
written is in force. -/
def timeAdvanced (s : State) : State :=
  { s with tb := { s.tb with
      t := (((s.tb.t : Int) + 2 ^ 48 + s.tb.f.toInt) % (tMod : Int)).toNat
      fPrev := s.tb.f, holdPrev := s.tb.holdover, pendF := none
      growth := if s.tb.pEst.isSome then 0 else s.tb.growth + 1, errEst := s.tb.pEst.getD s.tb.errEst, pEst := none } }

/-- The changes carried for this pair grain leave the queue and are applied (R617). -/
def carriedApplied (s : State) : State :=
  (s.twn.times.filter fun c => !c.load && !before (pairGrain s) c.apply).foldl timeChgApply
    { s with twn := { s.twn with times := s.twn.times.filter fun c => c.load || before (pairGrain s) c.apply } }

theorem carriedApplied_none (h : s.twn.times = []) : carriedApplied s = s := by
  rw [carriedApplied, h]
  exact congrArg (fun l => { s with twn := { s.twn with times := l } }) h.symm

/-- A write of TB_REF_CTL that waits takes effect. -/
def refCtlTaken (s : State) : State :=
  match s.tb.pRef with
  | some v => refCtlApply { s with tb := { s.tb with pRef := none } } v
  | none => s

theorem refCtlTaken_none (h : s.tb.pRef = none) : refCtlTaken s = s := by rw [refCtlTaken, h]

/-- The steps of a boundary in their order. -/
theorem tbBoundary_eq (s : State) : tbBoundary s =
    (let u := refCtlTaken (carriedApplied (timeAdvanced s))
     if sourceLost u then holdoverEntry u else { u with tb := { u.tb with f := s.tb.pendF.getD u.tb.f } }) := rfl

/-- With no write of TB_REF_CTL and no carried change waiting, the advance is followed by the loss of the source alone. -/
theorem tbBoundary_plain (href : s.tb.pRef = none) (htimes : s.twn.times = []) : tbBoundary s =
    if sourceLost s then holdoverEntry (timeAdvanced s)
    else { timeAdvanced s with tb := { (timeAdvanced s).tb with f := s.tb.pendF.getD s.tb.f } } := by
  have hnone : refCtlTaken (carriedApplied (timeAdvanced s)) = timeAdvanced s :=
    (congrArg refCtlTaken (carriedApplied_none (s := timeAdvanced s) htimes)).trans (refCtlTaken_none (s := timeAdvanced s) href)
  rw [tbBoundary_eq, hnone]
  rfl

end Holdover

/-- Settles O14: the samples, the growth, the boundary and the entry are the lemmas above. -/
theorem holdoverSamplingAndGrowth : Obligations.HoldoverSamplingAndGrowth := by
  intro s
  refine ⟨fun hgrain hzero hprev hnew => ?_, fun hprev => ?_, fun h => ?_, fun h => ?_, fun href htimes => ?_, fun hhold hp => ?_,
    holdoverEntry_held⟩
  · exact next_congr (holdoverSample_takes hgrain hzero hprev hnew)
  · exact next_congr (holdoverSample_held hprev)
  · exact next_congr (errEstGrowth_due h)
  · exact next_congr (errEstGrowth_none h)
  · exact (tbBoundary_plain href htimes).trans (if_congr sourceLost_iff rfl rfl)
  · exact holdoverEntry_enters hhold hp

end Sys2Proof.Machine
end

section
/-! PROOFS. The family of the time base chapter, reference inputs: windows, edges and limits of the REF and PPS inputs. -/

namespace Sys2Proof.Machine

/-! ## REF inputs (R58, R60) -/

section Ref
variable {s : State} {b : Bool}

/-- At the end of a window the gap of the next one is judged; the measured frequency clears the input or, without a gap, sets it. -/
theorem refWindowEnd_due (ppb : Int) (hgrain : s.gr.count.toNat % 1000000 = 0) (hzero : s.gr.count ≠ 0) : refWindowEnd b ppb s =
    if ppb < -100000 ∨ 100000 < ppb then refLost s b { refIn s b with gap := refSilent s b }
    else setRef s b { refIn s b with gap := refSilent s b, ok := (refIn s b).ok || !(refIn s b).gap } := by
  refine (if_pos ⟨hgrain, hzero⟩).trans (ite_congr rfl (fun _ => rfl) fun _ => ?_)
  cases hgap : (refIn s b).gap with
  | true => rw [if_pos rfl, Bool.not_true, Bool.or_false]
  | false => rw [if_neg Bool.false_ne_true, Bool.not_false, Bool.or_true]

theorem refWindowEnd_none (ppb : Int) (h : s.gr.count.toNat % 1000000 ≠ 0 ∨ s.gr.count = 0) : refWindowEnd b ppb s = s :=
  if_neg fun ⟨hgrain, hzero⟩ => h.elim (fun hg => hg hgrain) hzero

theorem refEdgeTimeout_silent (h : refSilent s b = true) : refEdgeTimeout b s = refLost s b { refIn s b with gap := true } := if_pos h

theorem selects_iff : selects s b = true ↔ s.tb.src.toNat = if b then 2 else 1 := decide_eq_true_iff

theorem nextBoundary_of_spacing (t : Nat) (h : smpSpacing s ≠ 0) : nextBoundary s t = (t / smpSpacing s + 1) * smpSpacing s := if_neg h

/-- The input with an edge in this grain. -/
def refEdgeSeen (s : State) (b : Bool) : State := setRef s b { refIn s b with last := some s.gr.count }

/-- An edge becomes the last one; of the selected source, at or after the sampling boundary, it is stamped as well. -/
theorem refEdge_eq (sub : Nat) : refEdge b sub s =
    if (s.tb.src.toNat = if b then 2 else 1) ∧ smpSpacing s ≠ 0 ∧ s.tb.smpFrom ≤ stampOf s sub then
      pushSmp { refEdgeSeen s b with tb := { (refEdgeSeen s b).tb with
        smpFrom := (stampOf s sub / smpSpacing s + 1) * smpSpacing s } } (if b then 1 else 0) (stampOf s sub)
    else refEdgeSeen s b := by
  refine ite_congr (by rw [selects_iff]) (fun h => ?_) fun _ => rfl
  rw [nextBoundary_of_spacing _ h.2.1]
  rfl

end Ref

/-! ## PPS inputs (R58, R61, R62) -/

section Pps
variable {s : State} {b : Bool} {g : Grain}

theorem ppsIn_setPps (s : State) (b : Bool) (p : PpsIn) : ppsIn (setPps s b p) b = p := by
  cases b with
  | true => rfl
  | false => rfl

theorem selects_setPps (s : State) (b : Bool) (p : PpsIn) : selects (setPps s b p) b = selects s b := by
  cases b with
  | true => rfl
  | false => rfl

theorem setPps_holdover (s : State) (b : Bool) (p : PpsIn) : (setPps s b p).tb.holdover = s.tb.holdover := by
  cases b with
  | true => rfl
  | false => rfl

theorem setPps_fPrev (s : State) (b : Bool) (p : PpsIn) : (setPps s b p).tb.fPrev = s.tb.fPrev := by
  cases b with
  | true => rfl
  | false => rfl

theorem paired_setPps (s : State) (b : Bool) (p : PpsIn) : paired (setPps s b p) = paired s := by
  cases b with
  | true => rfl
  | false => rfl

/-- The interval since the last edge lies within 10^9 grains and 100,000 (R58). -/
def goodInterval (s : State) (g : Grain) : Bool := decide (999900000 ≤ since s g ∧ since s g ≤ 1000100000)

/-- What an interval leaves of a PPS input: the tenth good one in a row qualifies it, one outside clears it. -/
def ppsAfter (s : State) (p : PpsIn) (good : Bool) : PpsIn :=
  let n := if good then min 10 (p.good + 1) else 0
  { ok := good && (p.ok || decide (n = 10)), last := some s.gr.count, good := n }

/-- The stamp of a PPS edge enters the sample FIFO. -/
def ppsStamped (s : State) (b : Bool) (sub : Nat) : State := pushSmp s (if b then 3 else 2) (stampOf s sub)

theorem ppsEdge_first (sub : Nat) (h : (ppsIn s b).last = none) : ppsEdge b sub s =
    setPps (ppsStamped s b sub) b { ppsIn s b with last := some s.gr.count } := by
  rw [ppsEdge, h]
  rfl

/-- A later edge judges its interval; the input of the selected source that qualifies anew ends holdover. -/
theorem ppsEdge_later (sub : Nat) (h : (ppsIn s b).last = some g) : ppsEdge b sub s =
    (let x := ppsAfter s (ppsIn s b) (goodInterval s g)
     let s1 := setPps (ppsStamped s b sub) b x
     if x.ok && !(ppsIn s b).ok && selects s1 b then { s1 with tb := { s1.tb with holdover := false } } else s1) := by
  rw [ppsEdge, h]
  by_cases hgood : 999900000 ≤ since s g ∧ since s g ≤ 1000100000
  · have hyes : goodInterval s g = true := decide_eq_true hgood
    refine (if_pos hgood).trans ((ite_and _ _ _ _).symm.trans (if_congr ?_ (by rw [hyes]; rfl) (by rw [hyes]; rfl)))
    rw [ppsIn_setPps, selects_setPps, selects_setPps, hyes]
    cases hok : (ppsIn s b).ok with
    | true => simp
    | false => simp [ppsAfter, hok, ppsStamped, and_comm]
  · have hno : goodInterval s g = false := decide_eq_false hgood
    refine (if_neg hgood).trans ?_
    rw [hno]
    rfl

/-- The input after its limit has passed. -/
def ppsCleared (s : State) (b : Bool) : State := setPps s b { ppsIn s b with ok := false, good := 0 }

/-- The limit clears the input; that of the selected source, qualified before, begins holdover, and away from a pair the word that
this boundary committed is discarded. -/
theorem ppsTimeout_due (hlast : (ppsIn s b).last = some g) (h : 1100000000 ≤ since s g) : ppsTimeout b s =
    if (ppsIn s b).ok = true ∧ (s.tb.src.toNat = if b then 2 else 1) ∧ s.tb.holdover = false then
      holdoverEntry (if paired s then ppsCleared s b else { ppsCleared s b with tb := { (ppsCleared s b).tb with f := s.tb.fPrev } })
    else ppsCleared s b := by
  have hbegins : ((ppsIn s b).ok && selects (ppsCleared s b) b && !(ppsCleared s b).tb.holdover) = true ↔
      (ppsIn s b).ok = true ∧ (s.tb.src.toNat = if b then 2 else 1) ∧ s.tb.holdover = false := by
    rw [ppsCleared, selects_setPps, Bool.and_eq_true, Bool.and_eq_true, selects_iff, and_assoc, Bool.not_eq_true', setPps_holdover]
  have hcleared : setPps s b { ok := false, last := some g, good := 0 } = ppsCleared s b :=
    congrArg (fun l => setPps s b { ok := false, last := l, good := 0 }) hlast.symm
  rw [ppsTimeout, hlast, hcleared]
  refine (if_pos h).trans (ite_congr (propext hbegins) (fun _ => ?_) fun _ => rfl)
  rw [ppsCleared, setPps_fPrev, paired_setPps]

end Pps

/-- Settles O13: windows, edges and limits of the two kinds of input are the lemmas above. -/
theorem referenceQualification : Obligations.ReferenceQualification := by
  intro s b ppb sub
  refine ⟨fun hgrain hzero => ?_, fun h => ?_, fun h => ?_, fun hsub => ?_, fun hsub hlast => ?_, fun g hsub hlast => ?_,
    fun g hlast h => ?_⟩
  · exact next_congr (refWindowEnd_due ppb hgrain hzero)
  · exact next_congr (refWindowEnd_none ppb h)
  · exact next_congr (refEdgeTimeout_silent h)
  · exact ev_next (decide_eq_true hsub) (refEdge_eq sub)
  · exact ev_next (decide_eq_true hsub) (ppsEdge_first sub hlast)
  · exact ev_next (decide_eq_true hsub) (ppsEdge_later sub hlast)
  · exact next_congr (ppsTimeout_due hlast h)

end Sys2Proof.Machine
end

section
/-! PROOFS. The family of the time base chapter, time outputs: their edges, the frames of IRIG-B, and what writes of their
registers keep and change. -/

namespace Sys2Proof.Machine

/-! ## Edges (R69, R84, R90) -/

section Edge
variable {s : State} {k : Nat}

/-- An output changes to `y` and drives its ball. -/
def touDriven (s : State) (k : Nat) (y : Tou) : State := emit (setTou s k y) (.tout k (ballLevel s y))

/-- An output at the end of its high time: it seeks its next edge after the one of this pulse. -/
def fallenTou (x : Tou) : Tou :=
  { x with level := false, seekFrom := x.riseAt + 1, irigIdx := if x.mode = 3 then x.irigIdx + 1 else x.irigIdx }

theorem toutEdge_falls (hhigh : (touAt s k).level = true)
    (hdue : touDue s (touAt s k) ((touAt s k).riseAt + highTime (touAt s k)) = true) :
    toutEdge k s = touDriven s k (fallenTou (touAt s k)) := by
  have hmode : (touAt s k).mode.toNat = 3 ↔ (touAt s k).mode = 3 := BitVec.toNat_inj (y := 3#2)
  simp only [toutEdge, hhigh, hdue, if_true, hmode]
  rfl

theorem toutEdge_rises {r : Nat} (hlow : (touAt s k).level = false) (hrise : nextRise s (touAt s k) (touAt s k).seekFrom = some r)
    (hdue : touDue s (touAt s k) r = true) :
    toutEdge k s = touDriven s k { touLoad (touAt s k) with level := true, riseAt := r } := by
  simp only [toutEdge, hlow, hrise, hdue, Bool.false_eq_true, if_false, if_true]
  rfl

theorem nextRise_off {x : Tou} (t : Nat) (h : x.mode = 0) : nextRise s x t = none := by
  rw [nextRise, h]
  rfl

theorem toutEdge_off (hmode : (touAt s k).mode = 0) (hlow : (touAt s k).level = false) : toutEdge k s = s := by
  simp only [toutEdge, hlow, nextRise_off _ hmode, Bool.false_eq_true, if_false]

/-- Near a second boundary a mode 3 output that is low and has no frame takes the frame of that second (R70). -/
theorem irigFrameStart_due (hmode : (touAt s k).mode = 3) (hnear : (s.tb.t + 2048 * 2 ^ 48) % secUnits < 4096 * 2 ^ 48)
    (hlow : (touAt s k).level = false) (hbits : (touAt s k).irigBits = []) :
    irigFrameStart k s = setTou s k { touAt s k with
      irigBits := irigFrame s ((s.tb.t + 2048 * 2 ^ 48) / secUnits), irigIdx := 0
      seekFrom := (s.tb.t + 2048 * 2 ^ 48) / secUnits * secUnits } := by
  have hsec : tSec ((s.tb.t + 2048 * 2 ^ 48) / secUnits * secUnits) = (s.tb.t + 2048 * 2 ^ 48) / secUnits :=
    Nat.mul_div_cancel _ (by decide)
  rw [irigFrameStart, if_pos ⟨by rw [hmode]; rfl, hnear, by rw [hlow]; rfl, Or.inl (by rw [hbits]; rfl)⟩, hsec]

end Edge

/-! ## Writes of an output (R84, R89) -/

section Write
variable {s : State} {k : Nat} {v : W32}

/-- An output changes to `y`, and its ball is driven where its level changes. -/
def touChanged (s : State) (k : Nat) (y : Tou) : State :=
  if ballLevel s (touAt s k) = ballLevel s y then setTou s k y else touDriven s k y

/-- A register of an output written outside mode 0: the values wait for their edge. -/
def touWritten (x : Tou) (off : Nat) (v : W32) : Tou :=
  let w : BitVec 30 := BitVec.ofNat 30 (fld v 0 30)
  if off = 1 then { x with pStartSec := some v }
  else if off = 2 then (if fld v 0 30 < 1000000000 then { x with pStartNs := some w } else x)
  else if off = 3 then
    (if 20 ≤ fld v 0 30 ∧ fld v 0 30 ≤ 1000000000 ∧ highOk x.mode.toNat (x.pHigh.getD x.high).toNat (fld v 0 30) = true then
      { x with pPeriod := some w } else x)
  else if off = 4 then
    (if highOk x.mode.toNat (fld v 0 30) (x.pPeriod.getD x.period).toNat = true then { x with pHigh := some w } else x)
  else { x with dly := BitVec.ofNat 16 (fld v 0 16) }

/-- TOU_CTL written with the mode kept. -/
def touCtlWritten (x : Tou) (v : W32) : Tou :=
  { x with pol := bit v 2, squelch := bit v 3, pPfrac := some (BitVec.ofNat 8 (fld v 8 8)) }

theorem mode_toNat_ne_zero {x : Tou} (h : x.mode ≠ 0) : x.mode.toNat ≠ 0 := fun h0 => h (BitVec.eq_of_toNat_eq h0)

theorem touWrite_ctl (hmode : (touAt s k).mode ≠ 0) (hkeep : fld v 0 2 = (touAt s k).mode.toNat) :
    touWrite k 0 v s = touChanged s k (touCtlWritten (touAt s k) v) := by
  simp only [touWrite, hkeep, ite_self, if_true, mode_toNat_ne_zero hmode, if_false]
  rfl

theorem touWrite_other {off : Nat} (hmode : (touAt s k).mode ≠ 0) (hlo : 1 ≤ off) (hhi : off < 6) :
    touWrite k off v s = touChanged s k (touWritten (touAt s k) off v) := by
  have hrun : (touAt s k).mode.toNat ≠ 0 := mode_toNat_ne_zero hmode
  interval_cases off <;> (simp only [touWrite, hrun, if_false]; rfl)

/-- Values that wait for their edge do not move the ball. -/
theorem ballLevel_touWritten (x : Tou) (off : Nat) : ballLevel s (touWritten x off v) = ballLevel s x := by
  unfold touWritten
  split_ifs <;> rfl

theorem touChanged_same {y : Tou} (h : ballLevel s y = ballLevel s (touAt s k)) : touChanged s k y = setTou s k y := if_pos h.symm

end Write

/-! ## TOU_IRIG, TOU_LEAP and the leap second (R72, R85) -/

section Leap
variable {s : State} {v : W32}

/-- With nothing armed there is nothing to judge. -/
theorem leapJudge_disarmed (h : s.irig.leapArm = false) : leapJudge s = s :=
  if_neg fun hj => Bool.false_ne_true (h.symm.trans hj.1)

/-- TOU_LEAP written. -/
def leapWritten (s : State) (v : W32) : State := { s with irig := { s.irig with leapSec := v } }

theorem irigWrite_leap_disarmed (h : s.irig.leapArm = false) : irigWrite true v s = leapWritten s v :=
  leapJudge_disarmed (s := leapWritten s v) h

/-- An arming whose LEAP_SEC is not ahead is refused. -/
theorem leapJudge_past (harm : s.irig.leapArm = true) (hpast : s.irig.leapSec.toNat ≤ tSec s.tb.t % 2 ^ 32) : leapJudge s =
    raise { s with irig := { s.irig with leapArm := false } } 580 0 s.irig.leapSec.toNat := if_pos ⟨harm, hpast⟩

theorem irigWrite_leap_past (harm : s.irig.leapArm = true) (hpast : v.toNat ≤ tSec s.tb.t % 2 ^ 32) : irigWrite true v s =
    raise { s with irig := { s.irig with leapSec := v, leapArm := false } } 580 0 v.toNat :=
  leapJudge_past (s := leapWritten s v) harm hpast

theorem irigWrite_disarms (h : bit v 24 = false) : irigWrite false v s = { s with irig := { s.irig with
    taiUtc := BitVec.ofNat 16 (fld v 0 16), local_ := if fld v 16 6 = 32 then s.irig.local_ else BitVec.ofNat 6 (fld v 16 6)
    dst := bit v 22, dsp := bit v 23, leapArm := false, leapDel := bit v 25 } } := by
  simp only [irigWrite, h, Bool.false_and, Bool.false_eq_true, if_false]

theorem leapSecondEnd_due (harm : s.irig.leapArm = true) (hpast : s.irig.leapSec.toNat < tSec s.tb.t % 2 ^ 32) :
    leapSecondEnd s = { s with irig := { s.irig with
      leapArm := false, taiUtc := if s.irig.leapDel then s.irig.taiUtc - 1 else s.irig.taiUtc + 1 } } := if_pos ⟨harm, hpast⟩

theorem leapSecondEnd_disarmed (h : s.irig.leapArm = false) : leapSecondEnd s = s :=
  if_neg fun hj => Bool.false_ne_true (h.symm.trans hj.1)

end Leap

/-- Settles O16: each edge and each write of an existing output is one of the lemmas above. -/
theorem timeOutputs : Obligations.TimeOutputs := by
  intro s m k v hk
  have hunit : decide (k < 8) = true := decide_eq_true hk
  refine ⟨fun hhigh hdue => ?_, fun r hlow hrise hdue => ?_, fun hmode hlow => ?_, fun hmode hnear hlow hbits => ?_,
    fun h hmode hkeep => ?_, fun hmode off hlo hhi h => ?_, fun h harm => ?_, fun h hbit => ?_, fun h harm hpast => ?_,
    fun harm hpast => ?_, fun harm => ?_⟩
  · exact ev_next hunit (toutEdge_falls hhigh hdue)
  · exact ev_next hunit (toutEdge_rises hlow hrise hdue)
  · exact ev_next hunit (toutEdge_off hmode hlow)
  · exact ev_next hunit (irigFrameStart_due hmode hnear hlow hbits)
  · exact (ev_regWr_allowed _ h (by rw [h.1, hunit]; rfl)).trans (next_congr (touWrite_ctl hmode hkeep))
  · refine (ev_regWr_allowed _ h (by rw [h.1, hunit, decide_eq_true hhi]; rfl)).trans (next_congr ?_)
    exact (touWrite_other hmode hlo hhi).trans (touChanged_same (ballLevel_touWritten _ _))
  · exact (ev_regWr_allowed _ h h.1).trans (next_congr (irigWrite_leap_disarmed harm))
  · exact (ev_regWr_allowed _ h h.1).trans (next_congr (irigWrite_disarms hbit))
  · exact (ev_regWr_allowed _ h h.1).trans (next_congr (irigWrite_leap_past harm hpast))
  · exact next_congr (leapSecondEnd_due harm hpast)
  · exact next_congr (leapSecondEnd_disarmed harm)

end Sys2Proof.Machine
end

section
/-! PROOFS. The family of the port chapter, timestamp units: what a read of TSU_TXS_W3 returns and pops, and which entries of the
match table stay. -/

namespace Sys2Proof.Machine

/-- A read of TSU_TXS_W3 of an existing port that no rule refuses returns the head's word and pops the head (R110). -/
theorem exec_tsuTxsPop_allowed {s : State} {m : Master} {p : Nat} (hp : p < 96) (h : allowed s m (tsuReg p 0x1C) false) :
    exec (.tsuTxsPop m p) s = .next (readBack (txsPop p s) (txsW3 s p)) :=
  ev_regRd_allowed _ _ h (by rw [h.1, decide_eq_true hp]; rfl)

/-- Settles O20: the pop of W3 is `txsPop`, which drops the head, and the timeout filters the match table by age. -/
theorem timestampUnitRows : Obligations.TimestampUnitRows := by
  intro s m p hp
  have haddr : 0x0030001C + 0x1000 * p = tsuReg p 0x1C := by rw [tsuReg]; omega
  refine ⟨fun h => ?_, ev_next (decide_eq_true hp) rfl⟩
  rw [haddr] at h
  exact exec_tsuTxsPop_allowed hp h

end Sys2Proof.Machine
end

section
/-! PROOFS. The family of the port chapter, the control cluster: its self-tests and detected faults, the watchdog, the fuse of the
board hash, and the two firmware commands. -/

namespace Sys2Proof.Machine

/-! ## Detected conditions (R508, R509) -/

section Detect
variable {s : State}

/-- Cores that are clocked are not fenced. -/
theorem ccFenced_of_ccLive (h : ccLive s = true) : ccFenced s = false := by
  have hst : s.cc.state = 1 ∨ s.cc.state = 2 := by simpa only [ccLive, Bool.or_eq_true, decide_eq_true_eq] using h
  rcases hst with hst | hst <;> rw [ccFenced, hst] <;> rfl

/-- With live cores the lowest condition of a set is the cause of one class F fault, and the others are its data. -/
theorem ccDetect_lowest {causes i : Nat} (hlive : ccLive s = true) (hi : i < 6) (hbit : causes.testBit i = true)
    (hlow : ∀ j < i, causes.testBit j = false) : ccDetect s causes = fFault s 5 (0x91 + i) (causes - 2 ^ i) := by
  have hfind : (List.range 6).find? (fun i => causes.testBit i) = some i :=
    List.find?_range_eq_some.mpr ⟨hbit, List.mem_range.mpr hi, fun j hj => by rw [hlow j hj]; rfl⟩
  simp only [ccDetect, hfind, ccFenced_of_ccLive hlive, Bool.false_eq_true, if_false]

/-- LOCKSTEP_FAULT of live cores detects its set of conditions. -/
theorem exec_lockstepFault_live {causes : BitVec 4} (hne : causes ≠ 0) (hlive : ccLive s = true) :
    exec (.lockstepFault causes) s = .next (ccDetect s causes.toNat) :=
  ev_next (decide_eq_true hne) (if_pos hlive)

theorem exec_lockstepFault_dead {causes : BitVec 4} (hne : causes ≠ 0) (hdead : ccLive s = false) :
    exec (.lockstepFault causes) s = .next s :=
  ev_next (decide_eq_true hne) (if_neg (by rw [hdead]; exact Bool.false_ne_true))

/-- The cores are live and PERIOD us have passed since the last self-test. -/
def SelfTestDue (s : State) : Prop := ccLive s = true ∧ s.cc.period.toNat * 1000 ≤ since s s.cc.testAt

/-- A self-test of this grain has moved to the next bit. -/
def selfTested (s : State) : State := { s with cc := { s.cc with testAt := s.gr.count, testBit := (s.cc.testBit + 1) % 256 } }

theorem selfTest_notDue (caught : Bool) (h : ¬ SelfTestDue s) : selfTest caught s = s := if_neg h

theorem selfTest_passes (h : SelfTestDue s) :
    selfTest true s = { selfTested s with cc := { (selfTested s).cc with passes := satInc s.cc.passes } } := if_pos h

/-- A self-test that is not caught is the cause COMPARATOR alone. -/
theorem selfTest_fails (h : SelfTestDue s) : selfTest false s = fFault (selfTested s) 5 0x93 0 :=
  have hlive : ccLive (selfTested s) = true := h.1
  (if_pos h).trans (ccDetect_lowest (causes := 4) (i := 2) hlive (by decide) (by decide) (by decide))

theorem tcmCorr_live (addr : Nat) (h : ccLive s = true) :
    tcmCorr addr s = cFault { s with cc := { s.cc with corr := satInc s.cc.corr } } 5 0x97 addr := if_pos h

theorem tcmCorr_dead (addr : Nat) (h : ccLive s = false) : tcmCorr addr s = s := if_neg (by rw [h]; exact Bool.false_ne_true)

end Detect

/-! ## The watchdog (R511, R513) -/

section Watchdog
variable {s : State} {v : W32}

/-- The TIME after a write of CC_WDOG: that of the write where it is 1 to 1,000, else the one before. -/
def wdogTime (s : State) (v : W32) : BitVec 10 :=
  if 1 ≤ fld v 0 10 ∧ fld v 0 10 ≤ 1000 then BitVec.ofNat 10 (fld v 0 10) else s.cc.wdTime

/-- CC_WDOG written without the key. -/
def wdogSet (s : State) (v : W32) : State := { s with cc := { s.cc with wdTime := wdogTime s v } }

/-- CC_WDOG written with the key: the count restarts under the TIME of the same write (log entry 120). -/
def wdogKicked (s : State) (v : W32) : State :=
  { s with cc := { s.cc with wdTime := wdogTime s v, wdCount := 0, wdForce := wdogTime s v } }

theorem wdogWrite_eq (s : State) (v : W32) :
    wdogWrite s v = if fld v 16 16 = 0x5A17 then svnAdvance (wdogKicked s v) else wdogSet s v := by
  by_cases hr : 1 ≤ fld v 0 10 ∧ fld v 0 10 ≤ 1000
  · have hin : inRange (fld v 0 10) 1 1000 = true := by rw [inRange, decide_eq_true hr.1, decide_eq_true hr.2]; rfl
    simp only [wdogWrite, wdogKicked, wdogSet, wdogTime, hin, if_true, if_pos hr]
  · have hout : inRange (fld v 0 10) 1 1000 = false := by
      rw [inRange, ← Bool.decide_and]
      exact decide_eq_false hr
    simp only [wdogWrite, wdogKicked, wdogSet, wdogTime, hout, Bool.false_eq_true, if_false, if_neg hr]

theorem wdogWrite_noKey (hkey : fld v 16 16 ≠ 0x5A17) : wdogWrite s v = wdogSet s v := by rw [wdogWrite_eq, if_neg hkey]

theorem wdogWrite_kick (hkey : fld v 16 16 = 0x5A17) (hadv : s.cc.advance = false) : wdogWrite s v = wdogKicked s v := by
  rw [wdogWrite_eq, if_pos hkey]
  exact if_neg fun h => Bool.false_ne_true (hadv.symm.trans h)

/-- The first kick of an image with ADVANCE raises the floor to the image's SVN (R513). -/
theorem wdogWrite_advances (hkey : fld v 16 16 = 0x5A17) (hadv : s.cc.advance = true) : wdogWrite s v =
    { wdogKicked s v with cc := { (wdogKicked s v).cc with advance := false },
                          fuse := { s.fuse with floor := BitVec.ofNat 6 (max s.fuse.floor.toNat s.cc.svn.toNat) } } := by
  rw [wdogWrite_eq, if_pos hkey]
  exact if_pos hadv

/-- CC_WDOG written by an access that no rule refuses. -/
theorem exec_ccWdogKick_allowed {m : Master} (v : W32) (h : allowed s m 0x07000020 true) :
    exec (.ccWdogKick m v) s = .next (wdogWrite s v) := ev_regWr_allowed _ h h.1

/-- The count at TIME is the cause FW_WATCHDOG alone. -/
theorem fwWatchdog_expires (hlive : ccLive s = true) (h : s.cc.wdForce.toNat * 1000000 ≤ s.cc.wdCount) :
    fwWatchdog s = fFault s 5 0x96 0 :=
  (if_pos ⟨hlive, h⟩).trans (ccDetect_lowest (causes := 0x20) (i := 5) hlive (by decide) (by decide) (by decide))

theorem fwWatchdog_none (h : ccLive s = false ∨ s.cc.wdCount < s.cc.wdForce.toNat * 1000000) : fwWatchdog s = s := by
  refine if_neg fun ⟨hlive, hcount⟩ => ?_
  rcases h with hdead | hruns
  · exact Bool.false_ne_true (hdead.symm.trans hlive)
  · exact Nat.not_le.mpr hruns hcount

end Watchdog

/-! ## The fuse of the board hash (R514) -/

section Fuse
variable {s : State} {v : W32}

theorem fuseProgDone_busy (h : s.cc.progBusy = true) : fuseProgDone s = { s with
    cc := { s.cc with progBusy := false, progDone := true }, fuse := { s.fuse with boardHash := s.cc.progVal } } := if_pos h

theorem fuseProgDone_idle (h : s.cc.progBusy = false) : fuseProgDone s = s := if_neg (by rw [h]; exact Bool.false_ne_true)

/-- REFUSED and DONE are cleared where they are written 1. -/
def progCleared (s : State) (v : W32) : State :=
  { s with cc := { s.cc with progRef := s.cc.progRef && !bit v 17, progDone := s.cc.progDone && !bit v 18 } }

/-- Without the key, or while a programming is under way, nothing starts. -/
theorem fuseProg_noGo (vio : Bool) (h : fld v 0 16 ≠ 0xF05E ∨ (progCleared s v).cc.progBusy = true) :
    fuseProg s v vio = progCleared s v := if_pos h

section Go
variable (hkey : fld v 0 16 = 0xF05E) (hidle : (progCleared s v).cc.progBusy = false)
include hkey hidle

/-- GO where no programming is under way: REFUSED for a field that is not blank; a blank one is programmed with VIO_18 in range. -/
theorem fuseProg_go (vio : Bool) : fuseProg s v vio =
    if (progCleared s v).fuse.boardHash ≠ 0 then { progCleared s v with cc := { (progCleared s v).cc with progRef := true } }
    else if vio then
      { progCleared s v with cc := { (progCleared s v).cc with progBusy := true, progVal := fuseStage (progCleared s v) } }
    else progCleared s v := by
  refine if_neg fun h => ?_
  rcases h with hno | hbusy
  · exact hno hkey
  · exact Bool.false_ne_true (hidle.symm.trans hbusy)

theorem fuseProg_refused (vio : Bool) (hset : (progCleared s v).fuse.boardHash ≠ 0) : fuseProg s v vio =
    { progCleared s v with cc := { (progCleared s v).cc with progRef := true } } := by
  rw [fuseProg_go hkey hidle, if_pos hset]

section Blank
variable (hblank : (progCleared s v).fuse.boardHash = 0)
include hblank

theorem fuseProg_starts : fuseProg s v true =
    { progCleared s v with cc := { (progCleared s v).cc with progBusy := true, progVal := fuseStage (progCleared s v) } } := by
  rw [fuseProg_go hkey hidle, if_neg (not_not_intro hblank), if_pos rfl]

theorem fuseProg_vioOut : fuseProg s v false = progCleared s v := by
  rw [fuseProg_go hkey hidle, if_neg (not_not_intro hblank), if_neg Bool.false_ne_true]

end Blank

end Go

/-- Without a LEVEL 2 session, or while the cluster is fenced, a write by the debug port is none. -/
theorem fuseGo_noSession (v : W32) (vio : Bool) (h : s.dbg.level ≠ 2 ∨ ccFenced s = true) : fuseGo none v vio s = s := by
  refine if_neg fun ⟨hlevel, hfree⟩ => ?_
  rcases h with hother | hfenced
  · exact hother (of_decide_eq_true hlevel)
  · rw [hfenced] at hfree
    exact Bool.false_ne_true hfree

/-- A write from a LEVEL 2 session is logged and has its effect. -/
theorem fuseGo_session (v : W32) (vio : Bool) (hlevel : s.dbg.level = 2) (hfree : ccFenced s = false) :
    fuseGo none v vio s = fuseProg (dbgLog s 0x07000080 true) v vio :=
  if_pos ⟨decide_eq_true hlevel, by rw [hfree]; rfl⟩

section Master
variable {m : Master}

theorem fuseGo_refused {c : Nat} (v : W32) (vio : Bool) (h : refusal s m 0x07000080 4 true true = some c) :
    fuseGo (some m) v vio s = refuse s m 0x07000080 true c := by
  simp only [fuseGo, h]

/-- A master's write that no other rule refuses is refused as ACCESS_OWNER. -/
theorem fuseGo_owner (v : W32) (vio : Bool) (h : refusal s m 0x07000080 4 true true = none) :
    fuseGo (some m) v vio s = refuse s m 0x07000080 true 3 := by
  simp only [fuseGo, h]

end Master

end Fuse

/-- Settles O45: self-tests, detected conditions, the watchdog, the fuse and the two commands are the lemmas above, case by case. -/
theorem controlClusterRows : Obligations.ControlClusterRows := by
  refine ⟨fun s caught => ⟨fun h => ?_, fun h => ?_, fun h => ?_⟩,
    fun s causes hne => ⟨exec_lockstepFault_dead hne, fun hlive => ?_⟩,
    fun s addr => ⟨fun h => next_congr (tcmCorr_live addr h), fun h => next_congr (tcmCorr_dead addr h)⟩,
    fun s m v h => ⟨fun hkey => ?_, fun hkey hadv => ?_, fun hkey hadv => ?_⟩,
    fun s => ⟨fun hlive h => ?_, fun h => ?_, fun h => ?_, fun h => ?_⟩,
    fun s v vio => ⟨fun m c hwf h => ?_, fun m h => ?_, fun h => ?_, fun hlevel hfree => ?_⟩,
    fun s id c => ⟨fun h => ?_, fun h => ?_⟩⟩
  · exact next_congr (selfTest_notDue caught h)
  · exact next_congr (selfTest_passes h)
  · exact next_congr (selfTest_fails h)
  · rw [exec_lockstepFault_live hne hlive]
    refine ⟨fun h0 => next_congr ?_, fun h0 h1 => next_congr ?_, fun h => next_congr ?_, fun h => next_congr ?_,
      fun h => next_congr ?_⟩
    · exact ccDetect_lowest hlive (i := 0) (by decide) h0 (fun j hj => absurd hj (Nat.not_lt_zero j))
    · refine ccDetect_lowest hlive (i := 1) (by decide) h1 fun j hj => ?_
      rw [Nat.lt_one_iff.mp hj]
      exact h0
    · subst h
      exact ccDetect_lowest hlive (i := 2) (by decide) (by decide) (by decide)
    · subst h
      exact ccDetect_lowest hlive (i := 2) (by decide) (by decide) (by decide)
    · subst h
      exact ccDetect_lowest hlive (i := 3) (by decide) (by decide) (by decide)
  · exact (exec_ccWdogKick_allowed v h).trans (next_congr (wdogWrite_noKey hkey))
  · exact (exec_ccWdogKick_allowed v h).trans (next_congr (wdogWrite_kick hkey hadv))
  · exact (exec_ccWdogKick_allowed v h).trans (next_congr (wdogWrite_advances hkey hadv))
  · exact next_congr (fwWatchdog_expires hlive h)
  · exact next_congr (fwWatchdog_none h)
  · exact next_congr (fuseProgDone_busy h)
  · exact next_congr (fuseProgDone_idle h)
  · exact ev_next hwf (fuseGo_refused v vio h)
  · exact ev_next h.1 (fuseGo_owner v vio h.2)
  · exact next_congr (fuseGo_noSession v vio h)
  · have hgo (vio : Bool) : exec (.ccFuseProgGo none v vio) s = .next (fuseProg (dbgLog s 0x07000080 true) v vio) :=
      next_congr (fuseGo_session v vio hlevel hfree)
    simp only [hgo]
    exact ⟨fun h => next_congr (fuseProg_noGo vio h), fun hkey hidle hset => next_congr (fuseProg_refused hkey hidle vio hset),
      fun hkey hidle hblank => ⟨next_congr (fuseProg_starts hkey hidle hblank), next_congr (fuseProg_vioOut hkey hidle hblank)⟩⟩
  · exact next_congr (runCmd_ready _ h)
  · exact next_congr (runCmd_ready _ h)

end Sys2Proof.Machine
end

section
/-! PROOFS. The family of the clockless core chapter, transmission: what a port starts, when its timed copies are released, and how
a frame leaves the wire. -/

namespace Sys2Proof.Machine

/-- The schedule of a port written reads as written. -/
theorem schedAt_setSched (s : State) (p : Nat) (x : Sched) : schedAt (setSched s p x) p = x :=
  (tget_tset _ _ _ _ _).trans (if_pos rfl)

/-! ## Prompt copies (R379, R380, R383) -/

section Prompt
variable {s : State} {p : Nat} {dev : Int} {c : Copy}

/-- A head that can pass its gate is not discarded, nor is any copy behind it. -/
theorem dropTooLong_none {q : Nat} (h : (promptHead s p q).all (fun d => !tooLong s p d) = true) (n : Nat) :
    dropTooLong s p q n = s := by
  cases n with
  | zero => rfl
  | succ n =>
    cases hhead : promptHead s p q with
    | none => rw [dropTooLong, hhead]
    | some c =>
      rw [hhead, Option.all_some, Bool.not_eq_true'] at h
      simp only [dropTooLong, hhead, h, Bool.false_eq_true, if_false]

/-- Where every head can pass its gate, the port discards none. -/
theorem foldl_dropTooLong_none (h : ∀ q < 8, (promptHead s p q).all (fun d => !tooLong s p d) = true) :
    (List.range 8).foldl (fun t q => dropTooLong t p q (queueAt t p q).copies.length) s = s :=
  List.foldlRecOn (motive := fun t => t = s) (List.range 8) _ rfl fun t ht q hq => by
    rw [ht]
    exact dropTooLong_none (h q (List.mem_range.mp hq)) _

/-- Timed copies that are due go before the prompt ones. -/
theorem portStart_timedDue (h : (nextTimed s p).isSome = true) : portStart s p dev = s := if_pos h

/-- A free port starts its next prompt copy. -/
theorem portStart_prompt (htimed : nextTimed s p = none)
    (hfits : ∀ q < 8, (promptHead s p q).all (fun d => !tooLong s p d) = true) (hnext : nextPrompt s p = some c)
    (hfree : (schedAt s p).tx = none) : portStart s p dev = startCopy s p c dev := by
  simp only [portStart, htimed, foldl_dropTooLong_none hfits, hnext, hfree, Option.isSome_none, Bool.false_eq_true, and_false,
    if_false]

theorem portTransmitStart_sends (h : portSends s p = true) : portTransmitStart p dev s = portStart s p dev := if_pos h

theorem portTransmitStart_silent (h : portSends s p = false) (hp : p ≠ 101) : portTransmitStart p dev s = s := by
  rw [portTransmitStart, h, if_neg Bool.false_ne_true, if_neg hp]

/-- Port 101 has no link to wait for: it hands over the head of its queues. -/
theorem portTransmitStart_cluster (h : plainHead s 101 = some c) :
    portTransmitStart 101 dev s = takeOut (emit s (.frame 101 c.stamp c.frame)) 101 c := by
  rw [portTransmitStart, if_neg (show ¬ portSends s 101 = true from Bool.false_ne_true), if_pos rfl, h]

/-- PORT_TRANSMIT_START of an existing port before a shed. -/
theorem exec_portTransmitStart (hp : p < 102) (hshed : s.pwr.shed = none) :
    exec (.portTransmitStart p dev) s = .next (portTransmitStart p dev s) :=
  ev_next (decide_eq_true hp) (powered_on _ hshed)

end Prompt

/-! ## Timed copies (R126-R128, R390) -/

section Timed
variable {s : State} {p : Nat} {dev : Int} {c : Copy}

theorem timedRelease_silent (h : portSends s p = false) : timedRelease p dev s = s := if_pos (by rw [h]; rfl)

/-- The gate serves a copy of a port whose held copies are marked: it is dropped late, or starts where the wire is free. -/
def serveTimed (s : State) (p : Nat) (c : Copy) (dev : Int) : State :=
  if (!onTime s c && !c.held) && qLateDrop s (epochOf s c.epoch) p c.queue then lateDropCopy s p c
  else
    let t := if (schedAt s p).tx.isSome && c.express then preempt s p else s
    if (schedAt t p).tx.isSome then t else startCopy (if !onTime s c && !c.held then lateSentCount t p c else t) p c dev

theorem timedRelease_noneDue (h : portSends s p = true) (hnext : nextTimed (markHeld s p) p = none) :
    timedRelease p dev s = markHeld s p := by
  simp only [timedRelease, h, hnext, Bool.not_true, Bool.false_eq_true, if_false]

/-- A port that sends marks its held copies, then serves the one that is due and first in order. -/
theorem timedRelease_due (h : portSends s p = true) (hnext : nextTimed (markHeld s p) p = some c) :
    timedRelease p dev s = serveTimed (markHeld s p) p c dev := by
  simp only [timedRelease, serveTimed, h, hnext, Bool.not_true, Bool.false_eq_true, if_false]

/-- A copy on time, or one that was held back, is not late. -/
theorem serveTimed_onTime (h : onTime s c = true ∨ c.held = true) (hfree : (schedAt s p).tx = none) :
    serveTimed s p c dev = startCopy s p c dev := by
  have hlate : (!onTime s c && !c.held) = false := by rw [← Bool.not_or, Bool.or_eq_true_iff.mpr h]; rfl
  simp only [serveTimed, hlate, hfree, Bool.false_and, Option.isSome_none, Bool.false_eq_true, if_false]

theorem serveTimed_dropped (htime : onTime s c = false) (hheld : c.held = false)
    (hact : qLateDrop s (epochOf s c.epoch) p c.queue = true) : serveTimed s p c dev = lateDropCopy s p c :=
  if_pos (by rw [htime, hheld, hact]; rfl)

/-- A late copy that LATE_ACT 0 keeps is counted and sent. -/
theorem serveTimed_lateSent (htime : onTime s c = false) (hheld : c.held = false)
    (hact : qLateDrop s (epochOf s c.epoch) p c.queue = false) (hfree : (schedAt s p).tx = none) :
    serveTimed s p c dev = startCopy (lateSentCount s p c) p c dev := by
  simp only [serveTimed, htime, hheld, hact, hfree, Bool.and_false, Bool.not_false, Bool.and_self, Option.isSome_none,
    Bool.false_and, Bool.false_eq_true, if_false, if_true]

/-- TIMED_RELEASE of an existing port before a shed. -/
theorem exec_timedRelease (hp : p < 102) (hshed : s.pwr.shed = none) :
    exec (.timedRelease p dev) s = .next (timedRelease p dev s) :=
  ev_next (decide_eq_true hp) (powered_on _ hshed)

end Timed

/-! ## The end of a frame, gates and the verify procedure (R376, R381, R384, R385) -/

section Wire
variable {s : State} {p : Nat}

theorem frameTxEnd_idle (h : (schedAt s p).tx = none) : frameTxEnd p s = s := by rw [frameTxEnd, h]

/-- The wire and the queue's cells of a frame that leaves. -/
def wireFreed (s : State) (p : Nat) (x : Tx) : State :=
  setQueue (setSched s p { schedAt s p with tx := none }) p x.queue
    { queueAt s p x.queue with cells := (queueAt s p x.queue).cells - x.copy.cells }

/-- A frame whose bits have left, or of a mode without a rate, leaves the wire. -/
theorem frameTxEnd_left {x : Tx} (h : (schedAt s p).tx = some x)
    (hleft : x.bits * 1000000 ≤ since s x.start * portRate s p ∨ portRate s p = 0) :
    frameTxEnd p s = unref (if x.copy.relAt.isNone then
      payCredit (wireFreed s p x) p x.queue (epochOf (wireFreed s p x) x.copy.epoch) x.bits else wireFreed s p x) x.copy.pkt := by
  simp only [frameTxEnd, h, if_pos hleft]
  rfl

/-- The schedule of a port under the gate list of the newest epoch. -/
def gatedSched (s : State) (p : Nat) : Sched := { schedAt s p with
  entry := BitVec.ofNat 6 (gateNow s (newest s) p).1, gates := BitVec.ofNat 8 (gateNow s (newest s) p).2,
  active := gateActive s (newest s) p, hold := gateHold s (newest s) p }

/-- With no frame on the wire there is none to preempt. -/
theorem gateEntryStart_free (hp : p < 96) (h : (schedAt s p).tx = none) :
    gateEntryStart p s = setSched s p (gatedSched s p) := by
  simp only [gateEntryStart, gatedSched, if_pos hp, schedAt_setSched, h]

theorem preemptVerify_verified (h : (schedAt s p).verify = 1) :
    preemptVerify p true s = setSched s p { schedAt s p with verify := 2 } := if_pos h

theorem preemptVerify_failed (h : (schedAt s p).verify = 1) :
    preemptVerify p false s = raise (setSched s p { schedAt s p with verify := 3 }) (4 * p + 3) 8 0 := if_pos h

theorem preemptVerify_idle (ok : Bool) (h : (schedAt s p).verify ≠ 1) : preemptVerify p ok s = s := if_neg h

end Wire

/-- Settles O22: each case of the five rows is one of the lemmas above. -/
theorem transmissionAndRelease : Obligations.TransmissionAndRelease := by
  refine ⟨fun s p dev hp hshed => ?_, fun s p hp => ⟨fun h => ?_, fun x h hleft => ?_, fun hp h => ?_, fun hp h => ⟨?_, ?_⟩,
    fun ok hp h => ?_⟩⟩
  · rw [exec_portTransmitStart hp hshed, exec_timedRelease hp hshed]
    refine ⟨fun h hne => next_congr (portTransmitStart_silent h hne), fun h => next_congr (timedRelease_silent h),
      fun h htimed => next_congr ((portTransmitStart_sends h).trans (portStart_timedDue htimed)),
      fun c h htimed hfits hnext hfree => next_congr ((portTransmitStart_sends h).trans (portStart_prompt htimed hfits hnext hfree)),
      fun c h101 hhead => ?_, fun h => ⟨fun hnext => next_congr (timedRelease_noneDue h hnext),
        fun c hnext htime hfree => next_congr ((timedRelease_due h hnext).trans (serveTimed_onTime htime hfree)),
        fun c hnext htime hheld hact => next_congr ((timedRelease_due h hnext).trans (serveTimed_dropped htime hheld hact)),
        fun c hnext htime hheld hact hfree =>
          next_congr ((timedRelease_due h hnext).trans (serveTimed_lateSent htime hheld hact hfree))⟩⟩
    subst h101
    exact next_congr (portTransmitStart_cluster hhead)
  · exact ev_next (decide_eq_true hp) (frameTxEnd_idle h)
  · exact ev_next (decide_eq_true hp) (frameTxEnd_left h hleft)
  · exact ev_next (decide_eq_true (by omega)) (gateEntryStart_free hp h)
  · exact ev_next (decide_eq_true hp) (preemptVerify_verified h)
  · exact ev_next (decide_eq_true hp) (preemptVerify_failed h)
  · exact ev_next (decide_eq_true hp) (preemptVerify_idle ok h)

end Sys2Proof.Machine
end

section
/-! PROOFS. The family of the clockless core chapter, engines: which packet a microword is executed for, what it leaves, and the
phases of one microword. -/

namespace Sys2Proof.Machine

/-! ## The packet in an engine -/

/-- An engine written reads as written. -/
theorem engAt_setEng (s : State) (e : Nat) (x : Eng) : engAt (setEng s e x) e = x := (tget_tset _ _ _ _ _).trans (if_pos rfl)

/-- A packet found under a number bears it. -/
theorem id_of_pktAt {s : State} {id : Nat} {p : Pkt} (h : pktAt s id = some p) : p.id = id :=
  of_decide_eq_true (List.find?_some (p := fun q : Pkt => decide (q.id = id)) h)

/-- Where a number names a packet, the packet written under it is found there. -/
theorem pktAt_setPkt {s : State} {id : Nat} {p q : Pkt} (h : pktAt s id = some p) (hid : q.id = id) :
    pktAt (setPkt s q) id = some q := by
  have hfind : (fun r : Pkt => decide (r.id = id)) ∘ (fun r => if r.id = q.id then q else r) = fun r => decide (r.id = id) := by
    funext r
    by_cases hr : r.id = q.id
    · rw [Function.comp_apply, if_pos hr, hr]
    · rw [Function.comp_apply, if_neg hr]
  show List.find? _ (s.qm.pkts.map _) = _
  rw [List.find?_map, hfind]
  show (pktAt s id).map _ = _
  rw [h, Option.map_some, if_pos ((id_of_pktAt h).trans hid.symm)]

section Execute
variable {s : State} {e id : Nat} {p : Pkt} {bad : Bool}

/-- The engine has stepped in this grain. -/
def engStepped (s : State) (e : Nat) : State := setEng s e { engAt s e with stepped := true }

/-- The region of a packet's epoch. -/
def pktBase (s : State) (p : Pkt) : Nat := ucodeBase s (epochOf s p.epoch)

theorem microwordExecute_notHere (hpkt : pktAt s id = some p) (h : p.engine ≠ some e ∨ engFenced s e = true) :
    microwordExecute e id bad s = s := by
  simp only [microwordExecute, hpkt, if_pos h]

/-- A packet in flight in a live engine that waits for no lookup: the case that executes a microword. -/
structure Executes (s : State) (e id : Nat) (p : Pkt) : Prop where
  here : pktAt s id = some p
  engine : p.engine = some e
  live : engFenced s e = false
  stage : p.stage = .inEngine
  ready : p.ctx.wait = none

/-- Such a packet runs its region: the base program as loaded in stages, any other microword by microword; a word that has failed
waits for its rewrite. -/
theorem microwordExecute_runs (h : Executes s e id p) : microwordExecute e id bad s =
    if runsBase s (epochOf s p.epoch) then
      if (engAt s e).badWords.any (fun w => decide (pktBase s p ≤ w) && decide (w < pktBase s p + ucodeLen s)) then engStepped s e
      else if bad then
        parityCheck (freeNext (engStepped s e)) e p (pktBase s p) ((freeVal (engStepped s e)).toNat % ucodeLen s)
      else baseRun e id 6 (engStepped s e)
    else if (engAt s e).badWords.contains (pktBase s p + p.ctx.pc) then engStepped s e
    else if bad then parityCheck (engStepped s e) e p (pktBase s p) p.ctx.pc
    else microword (engStepped s e) e p (pktBase s p) (ucodeLen s) := by
  obtain ⟨hpkt, heng, hlive, hstage, hready⟩ := h
  have hhere : ¬ (p.engine ≠ some e ∨ engFenced s e = true) := by simp [heng, hlive]
  have hruns : ¬ (p.stage ≠ .inEngine ∨ p.ctx.wait ≠ none) := by simp [hstage, hready]
  have hnew : ¬ p.stage = .dispatched := by simp [hstage]
  have hpkt' : pktAt (engStepped s e) id = some p := hpkt
  have hbad : (engAt (engStepped s e) e).badWords = (engAt s e).badWords := by rw [engStepped, engAt_setEng]
  simp only [microwordExecute, hpkt, if_neg hhere, if_neg hnew]
  rw [← engStepped]
  simp only [hpkt', if_neg hruns, hbad]
  rfl

/-- Microwords of a region that holds another program, or a changed one. -/
theorem microwordExecute_word (h : Executes s e id p) (hruns : runsBase s (epochOf s p.epoch) = false)
    (hpass : (engAt s e).badWords.contains (pktBase s p + p.ctx.pc) = false) :
    microwordExecute e id false s = microword (engStepped s e) e p (pktBase s p) (ucodeLen s) := by
  rw [microwordExecute_runs h, hruns, hpass]
  rfl

theorem microwordExecute_parity (h : Executes s e id p) (hruns : runsBase s (epochOf s p.epoch) = false)
    (hpass : (engAt s e).badWords.contains (pktBase s p + p.ctx.pc) = false) :
    microwordExecute e id true s = parityCheck (engStepped s e) e p (pktBase s p) p.ctx.pc := by
  rw [microwordExecute_runs h, hruns, hpass]
  rfl

theorem microwordExecute_base (h : Executes s e id p) (hruns : runsBase s (epochOf s p.epoch) = true)
    (hpass : (engAt s e).badWords = []) : microwordExecute e id false s = baseRun e id 6 (engStepped s e) := by
  rw [microwordExecute_runs h, hruns, hpass]
  rfl

/-- MICROWORD_EXECUTE of an existing engine before a shed. -/
theorem exec_microwordExecute {t : State} (he : e < 64) (hshed : s.pwr.shed = none) (h : microwordExecute e id bad s = t) :
    exec (.microwordExecute e id bad) s = .next t :=
  ev_next (decide_eq_true he) ((powered_on _ hshed).trans h)

end Execute

/-! ## One microword (R284-R292) -/

section Word
variable {s t : State} {e base len : Nat} {p q : Pkt} {w : BitVec 128}

theorem microword_overrun (h : 1024 ≤ p.ctx.steps) : microword s e p base len = machineCheck s e p 5 p.ctx.pc := if_pos h

/-- A packet after the extract and the ALU of a microword. -/
def mwComputed (w : BitVec 128) (p : Pkt) : Pkt := { p with ctx := mwAlu w (mwExtract p w { p.ctx with steps := p.ctx.steps + 1 }) }

/-- A packet with its cursor moved by a microword. -/
def mwMoved (w : BitVec 128) (p : Pkt) : Pkt := { p with ctx := { p.ctx with cursor := min 256 (p.ctx.cursor + mf w 21 8) } }

/-- The sequencing of a packet whose microword at `pc` has acted: the packet goes on, or the machine check that it finds. -/
def mwSequenced (t : State) (e : Nat) (w : BitVec 128) (q : Pkt) (len pc : Nat) : State :=
  let r := mwNext t w q len
  match r.2 with
  | some cause => machineCheck t e q cause pc
  | none => setPkt t { q with ctx := r.1 }

theorem mwSequenced_leaves {pc : Nat} (h : (mwNext t w q len).2 = none) :
    mwSequenced t e w q len pc = setPkt t { q with ctx := (mwNext t w q len).1 } := by
  simp only [mwSequenced, h]

theorem mwSequenced_checks {k pc : Nat} (h : (mwNext t w q len).2 = some k) :
    mwSequenced t e w q len pc = machineCheck t e q k pc := by
  simp only [mwSequenced, h]

/-- The microword `w` at which packet `p` stands leaves state `t` and packet `q` after its first four phases. -/
structure Acts (s : State) (e : Nat) (p : Pkt) (base : Nat) (w : BitVec 128) (t : State) (q : Pkt) : Prop where
  word : ucodeWord s (base + p.ctx.pc) = w
  state : (mwAct s e w (mwComputed w p)).1 = t
  packet : mwMoved w (mwAct s e w (mwComputed w p)).2 = q
  inTime : p.ctx.steps < 1024

/-- How END disposes of a packet: discarded where it says so or where the packet has no way to go, else finished. -/
def mwEnded (t : State) (e : Nat) (w : BitVec 128) (q : Pkt) : State :=
  if mf w 29 1 = 1 then engineDiscard t q
  else if q.dest.isNone && q.punt.isNone && q.pass.isNone && (rewriteOf t (epochOf t q.epoch) q).isNone then
    engineDiscard (count t (100 + e) 3 1 q.part) q
  else finishPkt t q

/-- A microword ends its packet or goes to the sequencing. -/
theorem microword_acts (h : Acts s e p base w t q) : microword s e p base len =
    if mf w 37 5 = 14 then mwEnded t e w q else mwSequenced t e w q len p.ctx.pc := by
  obtain ⟨rfl, rfl, rfl, htime⟩ := h
  exact if_neg (Nat.not_le.mpr htime)

theorem microword_end (h : Acts s e p base w t q) (hend : mf w 37 5 = 14) : microword s e p base len = mwEnded t e w q := by
  rw [microword_acts h, if_pos hend]

theorem microword_next (h : Acts s e p base w t q) (hgo : mf w 37 5 ≠ 14) :
    microword s e p base len = mwSequenced t e w q len p.ctx.pc := by
  rw [microword_acts h, if_neg hgo]

theorem mwEnded_discard (h : mf w 29 1 = 1) : mwEnded t e w q = engineDiscard t q := if_pos h

/-- END hands on a packet with a destination. -/
theorem mwEnded_finish (h : mf w 29 1 ≠ 1) (hdest : q.dest.isSome = true) : mwEnded t e w q = finishPkt t q := by
  have hway : q.dest.isNone = false := by rw [← Option.not_isSome, hdest]; rfl
  simp only [mwEnded, if_neg h, hway, Bool.false_and, Bool.false_eq_true, if_false]

end Word

/-! ## The base program (R360, R366) -/

section Base
variable {s : State} {e id : Nat} {p : Pkt}

/-- A supervision frame as it leaves its engine: punted to the cluster with reason 5. -/
def supervised (p : Pkt) : Pkt := { p with punt := some 5, dest := some 101, stage := .finished }

/-- The first stage punts a supervision frame before it asks anything else of it. -/
theorem baseStage_supervision (hpc : p.ctx.pc = 0) (htype : etherType p.bytes = 0x88FB) (hready : p.ctx.wait = none) :
    baseStage s e p = setPkt s (supervised p) := by
  have hctx : { p.ctx with wait := none } = p.ctx := by rw [← hready]
  calc baseStage s e p = basePunt s p 5 := by rw [baseStage, hpc]; exact if_pos htype
    _ = setPkt s { supervised p with ctx := { p.ctx with wait := none } } := rfl
    _ = setPkt s (supervised p) := by rw [hctx]; rfl

/-- A run ends with the stage that finishes its packet. -/
theorem baseRun_finished {q : Pkt} (k : Nat) (hpkt : pktAt s id = some q) (h : q.stage = .finished) : baseRun e id k s = s := by
  cases k with
  | zero => rfl
  | succ k =>
    have hstop : ¬ (q.stage = .inEngine ∧ q.ctx.wait = none) := by simp [h]
    simp only [baseRun, hpkt, if_neg hstop]

theorem baseRun_supervision (k : Nat) (hpkt : pktAt s id = some p) (hstage : p.stage = .inEngine) (hready : p.ctx.wait = none)
    (hpc : p.ctx.pc = 0) (htype : etherType p.bytes = 0x88FB) : baseRun e id (k + 1) s = setPkt s (supervised p) := by
  have hid : p.id = id := id_of_pktAt hpkt
  have hdone : pktAt (setPkt s (supervised p)) id = some (supervised p) := pktAt_setPkt hpkt hid
  simp only [baseRun, hpkt, if_pos (And.intro hstage hready), baseStage_supervision hpc htype hready]
  exact baseRun_finished k hdone rfl

end Base

/-! ## Entry, and the phases of a microword (R120, R285-R287, R293) -/

/-- The head of a dispatch queue enters where fewer than eight packets are in flight. -/
theorem enterEngine_head {s : State} {e : Nat} {p : Pkt} (hstage : p.stage = .dispatched)
    (hhead : (engAt s e).disp.head? = some p.id) (hroom : (engAt s e).held.length < 8) :
    enterEngine s e p =
      some (setPkt (setEng s e { engAt s e with disp := (engAt s e).disp.tail, held := (engAt s e).held ++ [p.id] })
        { p with stage := .inEngine, ctx := { ctxZero with g := entryRegs s p } }) := if_pos ⟨hstage, hhead, hroom⟩

section Phases
variable {w : BitVec 128} {c : EngCtx}

/-- Second operand of the ALU: the immediate or a register. -/
def aluB (w : BitVec 128) (c : EngCtx) : W32 := if mf w 76 1 = 1 then w32 (mf w 60 16) else reg c (mf w 77 4)

theorem mwAlu_add (h : mf w 89 4 = 2) : mwAlu w c = { setReg c (mf w 85 4) (reg c (mf w 81 4) + aluB w c) with
    z := decide (reg c (mf w 81 4) + aluB w c = 0), n := (reg c (mf w 81 4) + aluB w c).getLsbD 31,
    c := decide (2 ^ 32 ≤ (reg c (mf w 81 4)).toNat + (aluB w c).toNat) } := by
  rw [mwAlu, h]
  rfl

theorem mwAlu_sub (h : mf w 89 4 = 3) : mwAlu w c = { setReg c (mf w 85 4) (reg c (mf w 81 4) - aluB w c) with
    z := decide (reg c (mf w 81 4) - aluB w c = 0), n := (reg c (mf w 81 4) - aluB w c).getLsbD 31,
    c := decide ((reg c (mf w 81 4)).toNat < (aluB w c).toNat) } := by
  rw [mwAlu, h]
  rfl

/-- CMP sets the flags of SUB and writes no register. -/
theorem mwAlu_cmp (h : mf w 89 4 = 9) : mwAlu w c = { c with
    z := decide (reg c (mf w 81 4) - aluB w c = 0), n := (reg c (mf w 81 4) - aluB w c).getLsbD 31,
    c := decide ((reg c (mf w 81 4)).toNat < (aluB w c).toNat) } := by
  rw [mwAlu, h]
  rfl

theorem mwExtract_beyond {p : Pkt} (hextract : mf w 59 1 = 1)
    (hend : (p.bytes.take 256).length * 8 < (c.cursor + mf w 53 6) * 8 + mf w 50 3 + (mf w 46 4 + 1)) :
    mwExtract p w c = setReg { c with end_ := true } (mf w 42 4) 0 := (if_pos hextract).trans (if_pos hend)

end Phases

/-- A word that failed within the last 10^6 grains makes its parity check a class F fault of the engine besides. -/
theorem parityCheck_again {s : State} {e base rel : Nat} {p : Pkt} {g : Grain} (hmem : (base + rel, g) ∈ (engAt s e).parityAt)
    (hrecent : since s g < 1000000) : ∃ t, parityCheck s e p base rel = fFault t (64 + e) 0x21 (base + rel) := by
  have hagain : ((engAt s e).parityAt.any fun a => decide (a.1 = base + rel) && decide (since s a.2 < 1000000)) = true :=
    List.any_eq_true.mpr ⟨_, hmem, by rw [decide_eq_true rfl, decide_eq_true hrecent]; rfl⟩
  exact ⟨_, if_pos hagain⟩

/-- Settles O23: the cases of a packet's microword, the entry, the phases and the repeated failure are the lemmas above. -/
theorem enginesExecutePackets : Obligations.EnginesExecutePackets := by
  refine ⟨fun s e id p bad he hshed hpkt => ?_, fun s e p hstage hhead hroom => enterEngine_head hstage hhead hroom,
    fun w c p v => ⟨rfl, rfl, mwAlu_add, mwAlu_sub, mwAlu_cmp, mwExtract_beyond⟩,
    fun s e p base rel g hmem hrecent => parityCheck_again hmem hrecent⟩
  intro s0 ep base w c a q
  refine ⟨fun h => exec_microwordExecute he hshed (microwordExecute_notHere hpkt h), fun heng hlive hstage hready => ?_⟩
  have hx : Executes s e id p := ⟨hpkt, heng, hlive, hstage, hready⟩
  refine ⟨fun hruns hpass => exec_microwordExecute he hshed (microwordExecute_parity hx hruns hpass),
    fun hruns hpass hover => exec_microwordExecute he hshed
      ((microwordExecute_word hx hruns hpass).trans (microword_overrun hover)),
    fun hruns hpass hsteps => ?_,
    fun hruns hpass hpc htype => exec_microwordExecute he hshed
      ((microwordExecute_base hx hruns hpass).trans (baseRun_supervision 5 hpkt hstage hready hpc htype))⟩
  have hacts : Acts s0 e p base w a.1 q := ⟨rfl, rfl, rfl, hsteps⟩
  have hword {t : State} (h : microword s0 e p base (ucodeLen s) = t) : exec (.microwordExecute e id false) s = .next t :=
    exec_microwordExecute he hshed ((microwordExecute_word hx hruns hpass).trans h)
  exact ⟨fun hend hdiscard => hword ((microword_end hacts hend).trans (mwEnded_discard hdiscard)),
    fun hend hkeep hdest => hword ((microword_end hacts hend).trans (mwEnded_finish hkeep hdest)),
    fun hgo hnext => hword ((microword_next hacts hgo).trans (mwSequenced_leaves hnext)),
    fun k hgo hnext => hword ((microword_next hacts hgo).trans (mwSequenced_checks hnext))⟩

end Sys2Proof.Machine
end

section
/-! PROOFS. The family of the clockless core chapter, engine faults: the rewrite of a failed word, the watchdog of an engine, and
the end of a latency window. -/

namespace Sys2Proof.Machine

/-! ## Live engines -/

/-- An engine is fenced by the level that fences it alone. -/
theorem engFenced_eq_true {s : State} {e : Nat} : engFenced s e = true ↔ (engAt s e).fence ≠ 0 := by
  rw [engFenced, decide_eq_true_eq, ne_eq, ne_eq, BitVec.toNat_eq]
  rfl

theorem engFenced_eq_false {s : State} {e : Nat} : engFenced s e = false ↔ (engAt s e).fence = 0 := by
  rw [← Bool.not_eq_true, engFenced_eq_true, not_not]

theorem mem_liveEngines {s : State} {k : Nat} : k ∈ liveEngines s ↔ k < 64 ∧ (engAt s k).fence = 0 := by
  rw [liveEngines, List.mem_filter, List.mem_range, Bool.not_eq_true', engFenced_eq_false]

/-! ## A failed word (R293) -/

section Rewrite
variable {s : State} {e w : Nat}

/-- Another live engine holds a copy of the word that passes. -/
def CopyPasses (s : State) (e w : Nat) : Prop := ∃ k, k < 64 ∧ k ≠ e ∧ (engAt s k).fence = 0 ∧ w ∉ (engAt s k).badWords

/-- The rewrite looks for its source among the live engines. -/
theorem any_liveEngines_iff_copyPasses :
    ((liveEngines s).any fun k => decide (k ≠ e) && !(engAt s k).badWords.contains w) = true ↔ CopyPasses s e w := by
  simp only [CopyPasses, List.any_eq_true, mem_liveEngines, Bool.and_eq_true, decide_eq_true_eq, Bool.not_eq_true',
    List.contains_eq_mem, decide_eq_false_iff_not]
  exact exists_congr fun k => by rw [and_and_and_comm, and_assoc]

theorem ucodeParityRewrite_passes (h : (engAt s e).badWords.contains w = false) : ucodeParityRewrite e w s = s :=
  if_neg (Bool.eq_false_iff.mp h)

theorem ucodeParityRewrite_copied (h : (engAt s e).badWords.contains w = true) (hcopy : CopyPasses s e w) :
    ucodeParityRewrite e w s =
      setEng s e { engAt s e with badWords := (engAt s e).badWords.filter fun k => decide (k ≠ w) } :=
  (if_pos h).trans (if_pos (any_liveEngines_iff_copyPasses.mpr hcopy))

/-- A word that fails in every live engine is a class F fault of the engine that asked. -/
theorem ucodeParityRewrite_faults (h : (engAt s e).badWords.contains w = true) (hcopy : ¬ CopyPasses s e w) :
    ucodeParityRewrite e w s = fFault s (64 + e) 0x21 w :=
  (if_pos h).trans (if_neg fun hany => hcopy (any_liveEngines_iff_copyPasses.mp hany))

theorem not_copyPasses (h : ∀ k, k < 64 → k ≠ e → (engAt s k).fence = 0 → w ∈ (engAt s k).badWords) : ¬ CopyPasses s e w :=
  fun ⟨k, hk, hne, hlive, hpass⟩ => hpass (h k hk hne hlive)

/-- UCODE_PARITY_REWRITE of an existing engine and word. -/
theorem exec_ucodeParityRewrite (s : State) (he : e < 64) (hw : w < 4096) :
    exec (.ucodeParityRewrite e w) s = .next (ucodeParityRewrite e w s) :=
  ev_next (by rw [decide_eq_true he, decide_eq_true hw]; rfl) rfl

end Rewrite

/-! ## The watchdog (R131) -/

section Wedge
variable {s : State} {e : Nat}

/-- The microword of the oldest packet that an engine holds; 0 where it holds none. -/
def oldestWord (s : State) (e : Nat) : Nat := match (engAt s e).held.head?.bind (pktAt s) with | some p => p.ctx.pc | none => 0

theorem engineWedge_faults (hcount : 50000 ≤ (engAt s e).watch.toNat) (hlive : (engAt s e).fence = 0) :
    engineWedge e s =
      fFault s (64 + e) 0x20 (engInFlight (engAt s e) + 256 * min 255 (engAt s e).cmds.length + 65536 * oldestWord s e) :=
  if_pos ⟨hcount, by rw [engFenced_eq_false.mpr hlive]; rfl⟩

theorem engineWedge_none (h : (engAt s e).watch.toNat < 50000 ∨ (engAt s e).fence ≠ 0) : engineWedge e s = s := by
  refine if_neg fun ⟨hcount, hlive⟩ => ?_
  rcases h with hearly | hfenced
  · exact Nat.not_lt.mpr hcount hearly
  · rw [engFenced_eq_true.mpr hfenced] at hlive
    exact Bool.false_ne_true hlive

end Wedge

/-! ## The end of a latency window (R125, R132, R141) -/

section Window
variable {s : State} {ok : Bool} {mode : BitVec 8}

/-- A window whose last grain has not come, or that a device reset stops, does not end. -/
theorem latencyWindowEnd_none (h : s.gr.count.toNat < s.core.win * 1000000 + 999999 ∨ s.dev.inReset = true) :
    latencyWindowEnd ok mode s = s := by
  refine if_pos ?_
  rcases h with hearly | hreset
  · rw [windowDue, now, decide_eq_false (Nat.not_le.mpr hearly)]; rfl
  · rw [hreset, Bool.or_true]

/-- The bound of the confirmed row under the LOAD_CAP in force. -/
def boundNow (s : State) : Nat := latBound s.pwr.conf.toNat s.core.loadCap.toNat

/-- How far the worst latency of the window stays below the bound. -/
def marginNow (s : State) : Int := (boundNow s : Int) - (min 65535 (windowWorst s).1 : Nat)

/-- The latches of the core after a window with the worst latency, bound and margin that `s` had. -/
def latched (s v : State) : State := { v with core := { v.core with
  worst := BitVec.ofNat 16 (min 65535 (windowWorst s).1), eng := BitVec.ofNat 6 (windowWorst s).2,
  bound := BitVec.ofNat 16 (boundNow s), margin := BitVec.ofInt 16 (marginNow s) } }

/-- What a window latches and raises at its end, `v` being the machine whose engines have latched theirs. -/
def monitored (s v : State) : State :=
  if s.core.win = 0 then v
  else if boundNow s < (windowWorst s).1 then raise (latched s v) 656 0 (min 65535 (windowWorst s).1 + 2 ^ 16 * (windowWorst s).2)
  else latched s v

/-- The next window begins: once-per-window events may rise, and a LOAD_CAP written is in force. -/
def windowBegun (u : State) : State := { u with core := { u.core with
  once := [], win := u.gr.count.toNat / 1000000 + 1, loadCap := u.core.pLoadCap.getD u.core.loadCap, pLoadCap := none } }

/-- At its last grain a window latches, lets the power loop step, and the next one begins. -/
theorem latencyWindowEnd_due (hdue : s.core.win * 1000000 + 999999 ≤ s.gr.count.toNat) (hrun : s.dev.inReset = false) :
    latencyWindowEnd ok mode s =
      windowBegun (vcoreStep (monitored s (latchEngines s (decide (0 < s.core.win)))) ok mode (marginNow s)) := by
  have hends : ¬ (!windowDue s || s.dev.inReset) = true := by
    rw [hrun, windowDue, now, decide_eq_true hdue]; exact Bool.false_ne_true
  by_cases hfirst : s.core.win = 0
  · have hfull : ¬ 0 < s.core.win := Nat.not_lt.mpr (Nat.le_zero.mpr hfirst)
    rw [latencyWindowEnd, if_neg hends, monitored, if_pos hfirst]
    simp only [decide_eq_false hfull, Bool.false_eq_true, false_and, if_false]
    rfl
  · rw [latencyWindowEnd, if_neg hends, monitored, if_neg hfirst]
    simp only [decide_eq_true (Nat.pos_of_ne_zero hfirst), true_and, if_true]
    rfl

end Window

/-- Settles O24: the rewrite, the watchdog and the end of a window are the lemmas above, branch by branch. -/
theorem engineFaultsAndLatencyWindows : Obligations.EngineFaultsAndLatencyWindows := by
  refine ⟨fun s e w he hw => ?_, fun s ok mode =>
    ⟨fun h => next_congr (latencyWindowEnd_none h), fun hdue hrun => next_congr (latencyWindowEnd_due hdue hrun)⟩⟩
  rw [exec_ucodeParityRewrite s he hw]
  exact ⟨fun h => next_congr (ucodeParityRewrite_passes h),
    fun h hcopy => next_congr (ucodeParityRewrite_copied h hcopy),
    fun h hall => next_congr (ucodeParityRewrite_faults h (not_copyPasses hall)),
    fun hcount hlive => ev_next (decide_eq_true he) (engineWedge_faults hcount hlive),
    fun h => ev_next (decide_eq_true he) (engineWedge_none h)⟩

end Sys2Proof.Machine
end

section
/-! PROOFS. The family of the partition chapter, queues: what the doorbells and the control words of the queues do, and how an
enable is judged. -/

namespace Sys2Proof.Machine

/-! ## Completion queues and event rings alike (R165, R166, R186) -/

/-- Event ring (`er`) or completion queue `i` of partition `n`. -/
def ringOf (s : State) (n : Nat) (er : Bool) (i : Nat) : Ring := if er then erAt s n i else cqAt s n i

/-- That ring written. -/
def putRing (s : State) (n : Nat) (er : Bool) (i : Nat) (x : Ring) : State := if er then setEr s n i x else setCq s n i x

/-- Its signal where R181 says so. -/
def ringSignal (s : State) (n : Nat) (er : Bool) (i : Nat) : State := if er then erSignal s n i else cqSignal s n i

/-- Its entries. -/
def ringEntries (s : State) (n : Nat) (er : Bool) (i : Nat) : Nat :=
  ringSize (ringOf s n er i).loc (ringOf s n er i).size (if er then 64 else 32)

/-- Its kind in RING_ERROR. -/
def ringKind (er : Bool) : Nat := if er then 2 else 1

/-- Another enabled ring of the kind is on the die. -/
def otherOnDie (s : State) (n : Nat) (er : Bool) (i : Nat) : Bool :=
  if er then (List.range 4).any fun k => decide (k ≠ i) && (erAt s n k).en && (erAt s n k).loc
  else (List.range 8).any fun k => decide (k ≠ i) && (cqAt s n k).en && (cqAt s n k).loc

section Queue
variable {s : State} {n i : Nat} {v : W32}

/-! ## Doorbells (R152, R166, R191) -/

theorem sqDoorbell_resetting (h : (ptnAt s n).resetting = true) : sqDoorbell s n i v = s := if_pos h

theorem sqDoorbell_taken (hrun : (ptnAt s n).resetting = false) (hv : fld v 0 12 < sqSize (sqAt s n i)) :
    sqDoorbell s n i v = setSq s n i { sqAt s n i with tail := fld v 0 12 } :=
  (if_neg (ne_true_of_eq_false hrun)).trans (if_neg (Nat.not_le.mpr hv))

theorem sqDoorbell_bad (hrun : (ptnAt s n).resetting = false) (hv : sqSize (sqAt s n i) ≤ fld v 0 12) :
    sqDoorbell s n i v = ringError (setSq s n i { sqAt s n i with err := 3 }) n i 0 3 :=
  (if_neg (ne_true_of_eq_false hrun)).trans (if_pos hv)

/-- The doorbell of an SQ that no rule refuses. -/
theorem exec_sqDoorbell_allowed {m : Master} {a : Nat} (hn : n < 16) (hi : i < 8) (h : allowed s m a true)
    (ha : queueReg n .sq i 0x0C = a) : exec (.sqDoorbell m n i v) s = .next (sqDoorbell s n i v) := by
  subst ha
  exact ev_regWr_allowed _ h (by rw [h.1, decide_eq_true hn, decide_eq_true hi]; rfl)

section Ring
variable {er : Bool}

theorem headDoorbell_resetting (h : (ptnAt s n).resetting = true) : headDoorbell s n er i v = s := if_pos h

/-- With no reset under way a head below the entries is taken and the ring may signal; any other is a bad doorbell. -/
theorem headDoorbell_running (hrun : (ptnAt s n).resetting = false) : headDoorbell s n er i v =
    if ringEntries s n er i ≤ fld v 0 12 then ringError (putRing s n er i { ringOf s n er i with err := 3 }) n i (ringKind er) 3
    else ringSignal (putRing s n er i (headMoved (ringOf s n er i) (fld v 0 12))) n er i := by
  refine (if_neg (ne_true_of_eq_false hrun)).trans ?_
  cases er <;> rfl

theorem headDoorbell_taken (hrun : (ptnAt s n).resetting = false) (hv : fld v 0 12 < ringEntries s n er i) :
    headDoorbell s n er i v = ringSignal (putRing s n er i (headMoved (ringOf s n er i) (fld v 0 12))) n er i :=
  (headDoorbell_running hrun).trans (if_neg (Nat.not_le.mpr hv))

theorem headDoorbell_bad (hrun : (ptnAt s n).resetting = false) (hv : ringEntries s n er i ≤ fld v 0 12) :
    headDoorbell s n er i v = ringError (putRing s n er i { ringOf s n er i with err := 3 }) n i (ringKind er) 3 :=
  (headDoorbell_running hrun).trans (if_pos hv)

/-- The doorbell of a CQ or ER that no rule refuses. -/
theorem exec_headDoorbell_allowed {m : Master} {a : Nat} (hn : n < 16) (hi : i < if er then 4 else 8) (h : allowed s m a true)
    (ha : queueReg n (if er then .er else .cq) i 0x0C = a) :
    exec (.headDoorbell m n er i v) s = .next (headDoorbell s n er i v) := by
  subst ha
  exact ev_regWr_allowed _ h (by rw [h.1, decide_eq_true hn, decide_eq_true hi]; rfl)

end Ring

/-! ## The judgement of an enable (R144, R190) -/

section Judge
variable {fn : BitVec 4} {other : Bool}

theorem enableRefused_secondOnDie : enableRefused s n true fn true = some 1 := rfl

theorem enableRefused_firstOnDie : enableRefused s n true fn false = none := rfl

theorem enableRefused_bound (h : (bindAt s fn.toNat).pt.toNat = n) : enableRefused s n false fn other = none :=
  if_neg (not_not_intro h)

theorem enableRefused_unbound (h : (bindAt s fn.toNat).pt.toNat ≠ n) : enableRefused s n false fn other = some 2 := if_pos h

end Judge

/-! ## The control word of a submission queue (R185, R189, R190) -/

section Sq

/-- What a write of its control word leaves of a disabled SQ. -/
def sqWritten (q : Sq) (v : W32) : Sq := { q with size := newSize q.size v, cq := BitVec.ofNat 3 (fld v 4 3) }

/-- Another enabled SQ of the partition is on the die. -/
def otherSqOnDie (s : State) (n i : Nat) : Bool :=
  (List.range 8).any fun k => decide (k ≠ i) && (sqAt s n k).en && (sqAt s n k).loc

theorem sqEnWrite_enabled (h : (sqAt s n i).en = true) : sqEnWrite s n i v = setSq s n i { sqAt s n i with en := bit v 7 } := by
  simp only [sqEnWrite, h, if_true]

/-- The control word of a disabled SQ: without EN it is taken, with EN the enable is judged. -/
theorem sqEnWrite_disabled (h : (sqAt s n i).en = false) : sqEnWrite s n i v =
    if bit v 7 then
      match enableRefused s n (sqAt s n i).loc (sqAt s n i).fn (otherSqOnDie s n i) with
      | some e => ringError (setSq s n i { sqWritten (sqAt s n i) v with err := e }) n i 0 e.toNat
      | none => setSq s n i { sqWritten (sqAt s n i) v with en := true, head := 0, tail := 0 }
    else setSq s n i (sqWritten (sqAt s n i) v) := by
  refine (if_neg (ne_true_of_eq_false h)).trans ?_
  rw [if_neg (ne_true_of_eq_false h)]
  rfl

theorem sqEnWrite_stays (h : (sqAt s n i).en = false) (hen : bit v 7 = false) :
    sqEnWrite s n i v = setSq s n i (sqWritten (sqAt s n i) v) :=
  (sqEnWrite_disabled h).trans (if_neg (ne_true_of_eq_false hen))

theorem sqEnWrite_starts (h : (sqAt s n i).en = false) (hen : bit v 7 = true)
    (hok : enableRefused s n (sqAt s n i).loc (sqAt s n i).fn (otherSqOnDie s n i) = none) :
    sqEnWrite s n i v = setSq s n i { sqWritten (sqAt s n i) v with en := true, head := 0, tail := 0 } := by
  rw [sqEnWrite_disabled h, if_pos hen, hok]

theorem sqEnWrite_refused {e : BitVec 4} (h : (sqAt s n i).en = false) (hen : bit v 7 = true)
    (hbad : enableRefused s n (sqAt s n i).loc (sqAt s n i).fn (otherSqOnDie s n i) = some e) :
    sqEnWrite s n i v = ringError (setSq s n i { sqWritten (sqAt s n i) v with err := e }) n i 0 e.toNat := by
  rw [sqEnWrite_disabled h, if_pos hen, hbad]

end Sq

/-! ## The control word of a completion queue or event ring (R186, R189, R190) -/

section Ring
variable {er : Bool}

/-- COAL_CNT and COAL_TIME of the word, which every ring takes. -/
def coalTaken (r : Ring) (v : W32) : Ring :=
  { r with coalCnt := BitVec.ofNat 8 (fld v 16 8), coalTime := BitVec.ofNat 8 (fld v 24 8) }

/-- The fields of the word that a disabled ring takes. -/
def ringTaken (r : Ring) (v : W32) : Ring :=
  { coalTaken r v with size := newSize r.size v, vec := BitVec.ofNat 6 (fld v 4 6) }

theorem ringWrite_enabled {r : Ring} (h : r.en = true) : ringWrite r v = coalTaken r v := if_pos h

theorem ringWrite_disabled {r : Ring} (h : r.en = false) : ringWrite r v = ringTaken r v := if_neg (ne_true_of_eq_false h)

/-- The control word of a CQ or ER: enabled it takes EN; disabled it is taken without EN and judged with it. -/
theorem ringEnWrite_eq : ringEnWrite s n er i v =
    if (ringOf s n er i).en then putRing s n er i { ringWrite (ringOf s n er i) v with en := bit v 10 }
    else if bit v 10 then
      match enableRefused s n (ringOf s n er i).loc (ringOf s n er i).fn (otherOnDie s n er i) with
      | some e => ringError (putRing s n er i { ringWrite (ringOf s n er i) v with err := e }) n i (ringKind er) e.toNat
      | none => putRing s n er i (ringEnabled (ringWrite (ringOf s n er i) v))
    else putRing s n er i (ringWrite (ringOf s n er i) v) := rfl

theorem ringEnWrite_enabled (h : (ringOf s n er i).en = true) :
    ringEnWrite s n er i v = putRing s n er i { coalTaken (ringOf s n er i) v with en := bit v 10 } := by
  rw [ringEnWrite_eq, if_pos h, ringWrite_enabled h]

theorem ringEnWrite_stays (h : (ringOf s n er i).en = false) (hen : bit v 10 = false) :
    ringEnWrite s n er i v = putRing s n er i (ringTaken (ringOf s n er i) v) := by
  rw [ringEnWrite_eq, if_neg (ne_true_of_eq_false h), if_neg (ne_true_of_eq_false hen), ringWrite_disabled h]

theorem ringEnWrite_starts (h : (ringOf s n er i).en = false) (hen : bit v 10 = true)
    (hok : enableRefused s n (ringOf s n er i).loc (ringOf s n er i).fn (otherOnDie s n er i) = none) :
    ringEnWrite s n er i v = putRing s n er i (ringEnabled (ringTaken (ringOf s n er i) v)) := by
  rw [ringEnWrite_eq, if_neg (ne_true_of_eq_false h), if_pos hen, hok, ringWrite_disabled h]

theorem ringEnWrite_refused {e : BitVec 4} (h : (ringOf s n er i).en = false) (hen : bit v 10 = true)
    (hbad : enableRefused s n (ringOf s n er i).loc (ringOf s n er i).fn (otherOnDie s n er i) = some e) :
    ringEnWrite s n er i v =
      ringError (putRing s n er i { ringTaken (ringOf s n er i) v with err := e }) n i (ringKind er) e.toNat := by
  rw [ringEnWrite_eq, if_neg (ne_true_of_eq_false h), if_pos hen, hbad, ringWrite_disabled h]

end Ring

/-- The control word of a queue that no rule refuses. -/
theorem exec_queueEnWrite_allowed {m : Master} {k : QKind} {a : Nat} (hn : n < 16) (hi : i < k.count) (h : allowed s m a true)
    (ha : queueReg n k i 0x08 = a) : exec (.queueEnWrite m n k i v) s = .next (queueEnWrite s n k i v) := by
  subst ha
  exact ev_regWr_allowed _ h (by rw [h.1, decide_eq_true hn, decide_eq_true hi]; rfl)

end Queue

/-- Settles O28: each row has the effect of its register, and each case of it is one of the lemmas above. -/
theorem doorbellsAndEnables : Obligations.DoorbellsAndEnables := by
  refine ⟨fun s m n i v hn hi h => ?_, fun s m n i v hn hi h => ?_, fun s m n i v hn hi h => ?_, fun s m n i v hn hi h => ?_,
    fun s m n i v hn hi h => ?_, fun s m n i v hn hi h => ?_, fun s n i hn => ⟨fun hi => ?_, fun hi => ?_, fun loc fn other => ?_⟩⟩
  · rw [exec_sqDoorbell_allowed hn hi h (by rw [queueReg, winBase]; omega)]
    exact ⟨fun hr => next_congr (sqDoorbell_resetting hr), fun hr hv => next_congr (sqDoorbell_taken hr hv),
      fun hr hv => next_congr (sqDoorbell_bad hr hv)⟩
  · rw [exec_headDoorbell_allowed (er := true) hn hi h (by rw [if_pos rfl, queueReg, winBase]; omega)]
    exact ⟨fun hr => next_congr (headDoorbell_resetting hr), fun hr hv => next_congr (headDoorbell_taken hr hv),
      fun hr hv => next_congr (headDoorbell_bad hr hv)⟩
  · rw [exec_headDoorbell_allowed (er := false) hn hi h (by rw [if_neg Bool.false_ne_true, queueReg, winBase]; omega)]
    exact ⟨fun hr => next_congr (headDoorbell_resetting hr), fun hr hv => next_congr (headDoorbell_taken hr hv),
      fun hr hv => next_congr (headDoorbell_bad hr hv)⟩
  · intro q q' other
    rw [exec_queueEnWrite_allowed hn hi h (by rw [queueReg, winBase]; omega)]
    exact ⟨fun he => next_congr (sqEnWrite_enabled he), fun he hen => next_congr (sqEnWrite_stays he hen),
      fun he hen hok => next_congr (sqEnWrite_starts he hen hok), fun e he hen hbad => next_congr (sqEnWrite_refused he hen hbad)⟩
  · intro r r1 r' other
    rw [exec_queueEnWrite_allowed hn hi h (by rw [queueReg, winBase]; omega)]
    exact ⟨fun he => next_congr (ringEnWrite_enabled (er := false) he),
      fun he hen => next_congr (ringEnWrite_stays (er := false) he hen),
      fun he hen hok => next_congr (ringEnWrite_starts (er := false) he hen hok),
      fun e he hen hbad => next_congr (ringEnWrite_refused (er := false) he hen hbad)⟩
  · intro r r1 r' other
    rw [exec_queueEnWrite_allowed hn hi h (by rw [queueReg, winBase]; omega)]
    exact ⟨fun he => next_congr (ringEnWrite_enabled (er := true) he),
      fun he hen => next_congr (ringEnWrite_stays (er := true) he hen),
      fun e he hen hbad => next_congr (ringEnWrite_refused (er := true) he hen hbad),
      fun he hen hok => next_congr (ringEnWrite_starts (er := true) he hen hok)⟩
  · exact ev_next (by rw [decide_eq_true hn, if_pos rfl, decide_eq_true hi]; rfl) rfl
  · exact ev_next (by rw [decide_eq_true hn, if_neg Bool.false_ne_true, decide_eq_true hi]; rfl) rfl
  · exact ⟨fun hl ho => by rw [hl, ho, enableRefused_secondOnDie], fun hl ho => by rw [hl, ho, enableRefused_firstOnDie],
      fun hl hb => by rw [hl, enableRefused_bound hb], fun hl hb => by rw [hl, enableRefused_unbound hb]⟩

end Sys2Proof.Machine
end

section
/-! PROOFS. The family of the partition chapter, events: the bytes of a record, what raising an event writes, which partitions it
reaches, and what a ring does with a record. -/

namespace Sys2Proof.Machine

/-! ## Records (R179) -/

theorem length_leBytes (n v : Nat) : (leBytes n v).length = n := by
  induction n generalizing v with
  | zero => rfl
  | succ n ih => rw [leBytes, List.length_cons, ih]

theorem length_evRecord (src code data : Nat) (loss phase : Bool) (g : Grain) :
    (evRecord src loss phase code data g).length = 16 := by
  simp only [evRecord, List.length_append, length_leBytes]

section Event
variable {s : State} {n src code data : Nat} {g : Grain}

/-! ## What raising an event writes (R149, R165, R559) -/

/-- A state with what an event can write taken from another. -/
def withEventsOf (s t : State) : State :=
  { t with cq := { t.cq with er := s.cq.er, onEr := s.cq.onEr, pba := s.cq.pba }, prm := { t.prm with soe := s.prm.soe },
           out := s.out }

theorem withEventsOf_self (s : State) : withEventsOf s s = s := rfl

/-- What an event can write does not show once it is taken from another state. -/
theorem withEventsOf_unev (s t : State) : withEventsOf s (unev t) = withEventsOf s t := rfl

/-- With the rings, the interrupts and the kept records put back, raising an event has changed nothing. -/
theorem withEventsOf_raiseAt (s : State) (src code data : Nat) (g : Grain) : withEventsOf s (raiseAt s src code data g) = s := by
  rw [← withEventsOf_unev, raiseAt_unev, withEventsOf_unev, withEventsOf_self]

/-! ## The partitions an event reaches (R149) -/

theorem routed_port (h : src < 384) : routed s n src = decide (portOwner s (src / 4) = n) := if_pos h

theorem routed_engine (hlo : 384 ≤ src) (hhi : src < 448) : routed s n src = true :=
  (if_neg (Nat.not_lt.mpr hlo)).trans (if_pos hhi)

theorem routed_partition (hlo : 448 ≤ src) (hhi : src < 576) : routed s n src = decide ((src - 448) / 8 = n) := by
  rw [routed, if_neg (by omega), if_neg (by omega), if_pos hhi]

theorem routed_time (hlo : 576 ≤ src) (hhi : src < 608) : routed s n src = (decide (n = 0) || (ptnAt s n).timeSub) := by
  rw [routed, if_neg (by omega), if_neg (by omega), if_neg (by omega), if_pos hhi]

theorem routed_device (hlo : 656 ≤ src) : routed s n src = decide (n = 0) := by
  rw [routed, if_neg (by omega), if_neg (by omega), if_neg (by omega), if_neg (by omega), if_neg (by omega), if_neg (by omega)]

/-! ## Delivery to the ring that EV_SEL names (R177, R180, R191) -/

section Deliver
variable {k : Nat}

theorem deliver_unselected (h : evRing s n src = none) : deliver s n src code data g = s := by rw [deliver, h]

/-- The record goes to its ring; where it is lost or stops the ring, the partition's own event follows. -/
theorem deliver_selected (h : evRing s n src = some k) : deliver s n src code data g =
    let t := erPut s n k src code data g
    if erWouldLose s n k then
      (if evRing t n (448 + 8 * n + 3) = some k then t else deliverLast t n (448 + 8 * n + 3) 0 k (now t))
    else if erWouldFail s n k then deliverLast t n (448 + 8 * n + 4) 0 (k + 0x20 + 0x500) (now t)
    else t := by rw [deliver, h]

theorem deliver_kept (h : evRing s n src = some k) (hlose : erWouldLose s n k = false) (hfail : erWouldFail s n k = false) :
    deliver s n src code data g = erPut s n k src code data g := by
  rw [deliver_selected h, hlose, hfail]
  rfl

/-- A full ring that would also take the event of the loss raises no event. -/
theorem deliver_lostQuietly (h : evRing s n src = some k) (hlose : erWouldLose s n k = true)
    (hown : evRing (erPut s n k src code data g) n (448 + 8 * n + 3) = some k) :
    deliver s n src code data g = erPut s n k src code data g :=
  (deliver_selected h).trans ((if_pos hlose).trans (if_pos hown))

theorem deliver_lost (h : evRing s n src = some k) (hlose : erWouldLose s n k = true)
    (hother : evRing (erPut s n k src code data g) n (448 + 8 * n + 3) ≠ some k) :
    deliver s n src code data g =
      deliverLast (erPut s n k src code data g) n (448 + 8 * n + 3) 0 k (now (erPut s n k src code data g)) :=
  (deliver_selected h).trans ((if_pos hlose).trans (if_neg hother))

end Deliver

/-! ## A record in its ring (R165, R176, R180, R190, R191, R652) -/

section Put
variable {k : Nat}

/-- Entries of event ring `k` of partition `n`. -/
def erEntries (s : State) (n k : Nat) : Nat := ringSize (erAt s n k).loc (erAt s n k).size 64

theorem erPut_disabled (h : (erAt s n k).en = false) : erPut s n k src code data g = s := by
  rw [erPut, h]
  rfl

theorem erPut_enabled (h : (erAt s n k).en = true) : erPut s n k src code data g =
    if ringFull (erAt s n k) (erEntries s n k) then
      setEr s n k { erAt s n k with lost := satInc (erAt s n k).lost, lossPend := true }
    else if !(erAt s n k).loc && !s.dev.perst then setEr s n k { erAt s n k with en := false, err := 5, lossPend := false }
    else erSignal (setEr (erStore s n (erAt s n k) (evRecord src (erAt s n k).lossPend (erAt s n k).phase code data g)) n k
      { ringAdvance (erAt s n k) (erEntries s n k)
          (now (erStore s n (erAt s n k) (evRecord src (erAt s n k).lossPend (erAt s n k).phase code data g))) with
        lossPend := false }) n k :=
  if_neg (by rw [h]; exact Bool.false_ne_true)

theorem erPut_full (h : (erAt s n k).en = true) (hfull : ringFull (erAt s n k) (erEntries s n k) = true) :
    erPut s n k src code data g = setEr s n k { erAt s n k with lost := satInc (erAt s n k).lost, lossPend := true } :=
  (erPut_enabled h).trans (if_pos hfull)

/-- A ring in a function's memory stops while the PCIe endpoint is in reset. -/
theorem erPut_stops (h : (erAt s n k).en = true) (hspace : ringFull (erAt s n k) (erEntries s n k) = false)
    (hloc : (erAt s n k).loc = false) (hperst : s.dev.perst = false) :
    erPut s n k src code data g = setEr s n k { erAt s n k with en := false, err := 5, lossPend := false } :=
  (erPut_enabled h).trans ((if_neg (ne_true_of_eq_false hspace)).trans (if_pos (by rw [hloc, hperst]; rfl)))

/-- The on-die area of event ring `k` of partition `n` with a record at its tail. -/
def erStored (s : State) (n k src code data : Nat) (g : Grain) : State := { s with cq := { s.cq with
  onEr := tputs (fun _ => 0) s.cq.onEr (1024 * n + 16 * (erAt s n k).tail)
    (evRecord src (erAt s n k).lossPend (erAt s n k).phase code data g) } }

/-- An on-die ring with space takes the record at its tail and may signal. -/
theorem erPut_onDie (h : (erAt s n k).en = true) (hspace : ringFull (erAt s n k) (erEntries s n k) = false)
    (hloc : (erAt s n k).loc = true) : erPut s n k src code data g =
      erSignal (setEr (erStored s n k src code data g) n k
        { ringAdvance (erAt s n k) (erEntries s n k) (now s) with lossPend := false }) n k := by
  have hstore : erStore s n (erAt s n k) (evRecord src (erAt s n k).lossPend (erAt s n k).phase code data g) =
      erStored s n k src code data g := if_pos hloc
  rw [erPut_enabled h, if_neg (ne_true_of_eq_false hspace), if_neg (by rw [hloc]; exact Bool.false_ne_true), hstore]
  rfl

end Put

/-! ## The SOE ring (R559) -/

/-- The sources whose records the SOE ring keeps. -/
def SoeSource (src : Nat) : Prop := (src < 384 ∧ src % 4 = 0) ∨ 576 ≤ src

theorem soeKeep_kept (h : SoeSource src) : soeKeep s src code data g =
      { s with prm := { s.prm with soe := (evRecord src false false code data g :: s.prm.soe).take 512 } } := if_pos h

theorem soeKeep_other (h : ¬ SoeSource src) : soeKeep s src code data g = s := if_neg h

end Event

/-- Settles O50: the record is spelled by its definition, and each case of routing, delivery, ring and keeping is one of the
lemmas above. -/
theorem eventRecordsAndRings : Obligations.EventRecordsAndRings := by
  exact ⟨fun src code data loss phase g => ⟨length_evRecord src code data loss phase g, rfl⟩,
    fun s src code data g => withEventsOf_raiseAt s src code data g,
    fun s n src => ⟨routed_port, routed_engine, routed_partition, routed_time, routed_device⟩,
    fun s n src code data g => ⟨deliver_unselected, fun k => deliver_kept, fun k => deliver_lostQuietly, fun k => deliver_lost⟩,
    fun s n k src code data g => ⟨erPut_disabled, erPut_full, erPut_stops, erPut_onDie⟩,
    fun s src code data g => ⟨fun h => congrArg (·.prm.soe) (soeKeep_kept h), soeKeep_other⟩⟩

end Sys2Proof.Machine
end

section
/-! PROOFS. The family of the partition chapter, rings of frames: what becomes of the head of logical port 100, when the vector of
the punt ring is sent, and how the send ring enters its frames. -/

namespace Sys2Proof.Machine

/-! ## Intervals of 1,024 grains (R362, R363) -/

/-- An interval that began at `a`, if one began, is over. -/
def intervalOver (s : State) (a : Option Grain) : Bool := match a with | some g => decide (1024 ≤ since s g) | none => true

theorem intervalOver_true {s : State} {a : Option Grain} (h : a = none ∨ ∃ g, a = some g ∧ 1024 ≤ since s g) :
    intervalOver s a = true := by
  obtain rfl | ⟨g, rfl, hg⟩ := h
  · rfl
  · exact decide_eq_true hg

theorem intervalOver_false {s : State} {a : Option Grain} (h : ∃ g, a = some g ∧ since s g < 1024) : intervalOver s a = false := by
  obtain ⟨g, rfl, hg⟩ := h
  exact decide_eq_false (Nat.not_le.mpr hg)

/-- A DMA of function `f` fails, by itself (`ok`) or because it may not succeed. -/
def dmaFails (s : State) (ok : Bool) (f : Nat) : Bool := !ok || !fnDma s f

theorem dmaFails_true {s : State} {ok : Bool} {f : Nat} (h : ok = false ∨ fnDma s f = false) : dmaFails s ok f = true := by
  simpa only [dmaFails, Bool.or_eq_true, Bool.not_eq_true'] using h

theorem dmaFails_false {s : State} {ok : Bool} {f : Nat} (hok : ok = true) (hdma : fnDma s f = true) : dmaFails s ok f = false := by
  rw [dmaFails, hok, hdma]
  rfl

section Punt
variable {s : State} {n id : Nat} {desc : List Byte} {ok : Bool} {c : Copy} {p : Pkt}

/-! ## The punt ring (R361, R362) -/

/-- The state in which the frame of a copy stands in the buffer of the head descriptor, and the descriptor is written with byte 15
last. -/
def puntStored (s : State) (n : Nat) (desc : List Byte) (c : Copy) (p : Pkt) : State :=
  let buf := le desc 8 4
  let d := ringDesc s n false (ptnAt s n).puntHead
  let b := puntDesc s p c.frame.length (decide (buf < c.frame.length))
  let write := fun (t : State) (addr : Nat) (bytes : List Byte) => emit t (.dma (ringFn s n false) addr bytes)
  write (write (write (write s (le desc 0 8) (c.frame.take buf)) (d + 12) (b.take 3)) (d + 16) (b.drop 4)) (d + 15) (slice b 3 1)

/-- The state in which, after that, the ring has gone on by one. -/
def puntDelivered (s : State) (n : Nat) (desc : List Byte) (c : Copy) (p : Pkt) : State :=
  setPtn (puntStored s n desc c p) n
    { ptnAt s n with puntHead := ((ptnAt s n).puntHead + 1) % ringLen (puntStored s n desc c p) n false }

/-- The head of logical port 100 meets its ring: it is dropped, stops the ring, or is delivered. -/
theorem puntRingWrite_head (hhead : plainHead s 100 = some c) (hpkt : pktAt s id = some p) : puntRingWrite n id desc ok s =
    if c.pkt ≠ id ∨ c.part ≠ n then s
    else if !ringOn s n false || (ptnAt s n).puntStop || !(le desc 15 1).testBit 0 then count (takeOut s 100 c) 164 8 1 n
    else if dmaFails s ok (ringFn s n false) then ringStop (takeOut s 100 c) n false
    else puntVector (count (takeOut (puntDelivered s n desc c p) 100 c) 164 15 1 n) n := by
  rw [puntRingWrite, hhead, hpkt]
  rfl

theorem puntRingWrite_otherHead (hhead : plainHead s 100 = some c) (hpkt : pktAt s id = some p)
    (h : c.pkt ≠ id ∨ c.part ≠ n) : puntRingWrite n id desc ok s = s := (puntRingWrite_head hhead hpkt).trans (if_pos h)

section Mine
variable (hhead : plainHead s 100 = some c) (hpkt : pktAt s id = some p) (hid : c.pkt = id) (hpart : c.part = n)
include hhead hpkt hid hpart

/-- The frame is that of the row. -/
theorem puntRingWrite_mine : puntRingWrite n id desc ok s =
    if !ringOn s n false || (ptnAt s n).puntStop || !(le desc 15 1).testBit 0 then count (takeOut s 100 c) 164 8 1 n
    else if dmaFails s ok (ringFn s n false) then ringStop (takeOut s 100 c) n false
    else puntVector (count (takeOut (puntDelivered s n desc c p) 100 c) 164 15 1 n) n :=
  (puntRingWrite_head hhead hpkt).trans (if_neg fun h => h.elim (· hid) (· hpart))

/-- A ring that may not take it drops it. -/
theorem puntRingWrite_drops
    (h : ringOn s n false = false ∨ (ptnAt s n).puntStop = true ∨ (le desc 15 1).testBit 0 = false) :
    puntRingWrite n id desc ok s = count (takeOut s 100 c) 164 8 1 n :=
  (puntRingWrite_mine hhead hpkt hid hpart).trans
    (if_pos (by simpa only [Bool.or_eq_true, Bool.not_eq_true', or_assoc] using h))

/-- A ring that may take it delivers it, or stops where the DMA fails. -/
theorem puntRingWrite_owned (hon : ringOn s n false = true) (hrun : (ptnAt s n).puntStop = false)
    (hown : (le desc 15 1).testBit 0 = true) : puntRingWrite n id desc ok s =
      if dmaFails s ok (ringFn s n false) then ringStop (takeOut s 100 c) n false
      else puntVector (count (takeOut (puntDelivered s n desc c p) 100 c) 164 15 1 n) n :=
  (puntRingWrite_mine hhead hpkt hid hpart).trans (if_neg (by rw [hon, hrun, hown]; exact Bool.false_ne_true))

end Mine

/-- PUNT_RING_WRITE of an existing partition before a shed. -/
theorem exec_puntRingWrite (hn : n < 16) (hshed : s.pwr.shed = none) :
    exec (.puntRingWrite n id desc ok) s = .next (puntRingWrite n id desc ok s) :=
  ev_next (decide_eq_true hn) (powered_on _ hshed)

end Punt

/-! ## The vector of the punt ring (R362) -/

section Vector
variable {s : State} {n : Nat}

theorem puntVector_eq : puntVector s n =
    if intervalOver s (ptnAt s n).puntVecAt then
      msixSend (setPtn s n { ptnAt s n with puntVecAt := some s.gr.count }) (ringFn s n false) (ringVec s n)
    else setPtn s n { ptnAt s n with puntDefer := true } := rfl

theorem puntVector_sent (h : (ptnAt s n).puntVecAt = none ∨ ∃ g, (ptnAt s n).puntVecAt = some g ∧ 1024 ≤ since s g) :
    puntVector s n = msixSend (setPtn s n { ptnAt s n with puntVecAt := some s.gr.count }) (ringFn s n false) (ringVec s n) :=
  if_pos (intervalOver_true h)

theorem puntVector_deferred (h : ∃ g, (ptnAt s n).puntVecAt = some g ∧ since s g < 1024) :
    puntVector s n = setPtn s n { ptnAt s n with puntDefer := true } :=
  if_neg (ne_true_of_eq_false (intervalOver_false h))

theorem puntVectorDeferred_eq : puntVectorDeferred n s =
    if (ptnAt s n).puntDefer && intervalOver s (ptnAt s n).puntVecAt then
      puntVector (setPtn s n { ptnAt s n with puntDefer := false }) n
    else s := rfl

theorem puntVectorDeferred_waits
    (h : (ptnAt s n).puntDefer = false ∨ ∃ g, (ptnAt s n).puntVecAt = some g ∧ since s g < 1024) : puntVectorDeferred n s = s := by
  refine puntVectorDeferred_eq.trans (if_neg (ne_true_of_eq_false ?_))
  rcases h with h | h
  · rw [h, Bool.false_and]
  · rw [intervalOver_false h, Bool.and_false]

theorem puntVectorDeferred_due (hdefer : (ptnAt s n).puntDefer = true)
    (h : (ptnAt s n).puntVecAt = none ∨ ∃ g, (ptnAt s n).puntVecAt = some g ∧ 1024 ≤ since s g) :
    puntVectorDeferred n s = puntVector (setPtn s n { ptnAt s n with puntDefer := false }) n :=
  puntVectorDeferred_eq.trans (if_pos (by rw [hdefer, intervalOver_true h]; rfl))

end Vector

/-! ## The send ring (R363) -/

section Send
variable {s : State} {n work : Nat} {desc frame d : List Byte} {ok : Bool}

/-- The head of a working ring that holds no descriptor is read once its interval is over. -/
theorem sendRingPoll_eq : sendRingPoll n desc ok s =
    if !sendOn s n || (ptnAt s n).sendDesc.isSome || !intervalOver s (ptnAt s n).sendPollAt then s
    else if dmaFails s ok (ringFn s n true) then ringStop s n true
    else if (le desc 15 1).testBit 0 then setPtn s n { ptnAt s n with sendDesc := some (padTo 32 desc), sendPollAt := none }
    else setPtn s n { ptnAt s n with sendPollAt := some s.gr.count } := rfl

theorem sendRingPoll_waits (h : sendOn s n = false ∨ (ptnAt s n).sendDesc.isSome = true ∨
    ∃ g, (ptnAt s n).sendPollAt = some g ∧ since s g < 1024) : sendRingPoll n desc ok s = s := by
  refine sendRingPoll_eq.trans (if_pos ?_)
  rcases h with h | h | h
  · rw [h, Bool.not_false, Bool.true_or, Bool.true_or]
  · rw [h, Bool.or_true, Bool.true_or]
  · rw [intervalOver_false h, Bool.not_false, Bool.or_true]

theorem sendRingPoll_reads (hon : sendOn s n = true) (hfree : (ptnAt s n).sendDesc = none)
    (h : (ptnAt s n).sendPollAt = none ∨ ∃ g, (ptnAt s n).sendPollAt = some g ∧ 1024 ≤ since s g) : sendRingPoll n desc ok s =
      if dmaFails s ok (ringFn s n true) then ringStop s n true
      else if (le desc 15 1).testBit 0 then setPtn s n { ptnAt s n with sendDesc := some (padTo 32 desc), sendPollAt := none }
      else setPtn s n { ptnAt s n with sendPollAt := some s.gr.count } :=
  sendRingPoll_eq.trans (if_neg (by rw [hon, hfree, intervalOver_true h]; exact Bool.false_ne_true))

/-- SEND_RING_POLL of an existing partition before a shed. -/
theorem exec_sendRingPoll (hn : n < 16) (hshed : s.pwr.shed = none) :
    exec (.sendRingPoll n desc ok) s = .next (sendRingPoll n desc ok s) :=
  ev_next (decide_eq_true hn) (powered_on _ hshed)

/-- OWN of the head descriptor cleared in its memory. -/
def ownCleared (s : State) (n : Nat) : State :=
  emit s (.dma (ringFn s n true) (ringDesc s n true (ptnAt s n).sendHead + 15) [0])

/-- After that the ring has gone on by one and holds no descriptor. -/
def sendStepped (s : State) (n : Nat) : State :=
  setPtn (ownCleared s n) n
    { ptnAt s n with sendDesc := none, sendHead := ((ptnAt s n).sendHead + 1) % ringLen (ownCleared s n) n true }

/-- LEN of a descriptor. -/
def sendLen (d : List Byte) : Nat := le d 8 2 % 2 ^ 14

/-- The packet of a descriptor whose frame was read. -/
def sentPkt (s : State) (n : Nat) (d frame : List Byte) (work : Nat) : Pkt :=
  sendPkt (sendStepped s n) n d (padTo (sendLen d) frame) work

/-- What enters the device for a descriptor. -/
def sendEntered (s : State) (n : Nat) (d frame : List Byte) (work : Nat) : State :=
  if 60 ≤ sendLen d ∧ sendLen d ≤ 9212 then
    if (sentPkt s n d frame work).direct.isSome then addPkt (sendStepped s n) (sentPkt s n d frame work)
    else dispatch (addPkt (sendStepped s n) (sentPkt s n d frame work)) (sentPkt s n d frame work)
  else sendStepped s n

theorem sendRingRead_held (hd : (ptnAt s n).sendDesc = some d) : sendRingRead n frame ok work s =
    if !sendOn s n then s
    else if dmaFails s ok (ringFn s n true) then ringStop s n true
    else sendEntered s n d frame work := by
  rw [sendRingRead, hd]
  rfl

theorem sendRingRead_none (h : (ptnAt s n).sendDesc = none ∨ sendOn s n = false) : sendRingRead n frame ok work s = s := by
  cases hd : (ptnAt s n).sendDesc with
  | none => rw [sendRingRead, hd]
  | some d =>
    have hoff : sendOn s n = false := h.resolve_left fun hnone => Option.some_ne_none d (hd.symm.trans hnone)
    exact (sendRingRead_held hd).trans (if_pos (by rw [hoff]; rfl))

theorem sendRingRead_fails (hd : (ptnAt s n).sendDesc = some d) (hon : sendOn s n = true)
    (h : ok = false ∨ fnDma s (ringFn s n true) = false) : sendRingRead n frame ok work s = ringStop s n true := by
  rw [sendRingRead_held hd, hon, Bool.not_true, if_neg Bool.false_ne_true, if_pos (dmaFails_true h)]

theorem sendRingRead_enters (hd : (ptnAt s n).sendDesc = some d) (hon : sendOn s n = true) (hok : ok = true)
    (hdma : fnDma s (ringFn s n true) = true) : sendRingRead n frame ok work s = sendEntered s n d frame work := by
  rw [sendRingRead_held hd, hon, Bool.not_true, if_neg Bool.false_ne_true, dmaFails_false hok hdma, if_neg Bool.false_ne_true]

theorem sendEntered_badLen (h : sendLen d < 60 ∨ 9212 < sendLen d) : sendEntered s n d frame work = sendStepped s n :=
  if_neg (by omega)

theorem sendEntered_direct (hlo : 60 ≤ sendLen d) (hhi : sendLen d ≤ 9212) (h : (sentPkt s n d frame work).direct.isSome = true) :
    sendEntered s n d frame work = addPkt (sendStepped s n) (sentPkt s n d frame work) := (if_pos ⟨hlo, hhi⟩).trans (if_pos h)

theorem sendEntered_dispatched (hlo : 60 ≤ sendLen d) (hhi : sendLen d ≤ 9212) (h : (sentPkt s n d frame work).direct = none) :
    sendEntered s n d frame work = dispatch (addPkt (sendStepped s n) (sentPkt s n d frame work)) (sentPkt s n d frame work) :=
  (if_pos ⟨hlo, hhi⟩).trans (if_neg (by rw [h]; exact Bool.false_ne_true))

/-- SEND_RING_READ of an existing partition before a shed. -/
theorem exec_sendRingRead (hn : n < 16) (hshed : s.pwr.shed = none) :
    exec (.sendRingRead n frame ok work) s = .next (sendRingRead n frame ok work s) :=
  ev_next (decide_eq_true hn) (powered_on _ hshed)

end Send

/-- Settles O41: each row before a shed is its operation, and each case of it is one of the lemmas above. -/
theorem puntAndSendRings : Obligations.PuntAndSendRings := by
  refine ⟨fun s n id desc ok c p hn hshed hhead hpkt => ?_,
    fun s n hn => ⟨puntVector_sent, fun g hg hlt => puntVector_deferred ⟨g, hg, hlt⟩,
      fun h => ev_next (decide_eq_true hn) (puntVectorDeferred_waits h),
      fun hdefer h => ev_next (decide_eq_true hn) (puntVectorDeferred_due hdefer h)⟩,
    fun s n desc ok hn hshed => ?_, fun s n work frame ok hn hshed => ?_⟩
  · rw [exec_puntRingWrite hn hshed]
    refine ⟨fun h => next_congr (puntRingWrite_otherHead hhead hpkt h),
      fun hid hpart h => next_congr (puntRingWrite_drops hhead hpkt hid hpart h),
      fun hid hpart hon hrun hown h => next_congr ?_, fun hid hpart hon hrun hown hok hdma => next_congr ?_⟩
    · exact (puntRingWrite_owned hhead hpkt hid hpart hon hrun hown).trans (if_pos (dmaFails_true h))
    · exact (puntRingWrite_owned hhead hpkt hid hpart hon hrun hown).trans
        (if_neg (ne_true_of_eq_false (dmaFails_false hok hdma)))
  · rw [exec_sendRingPoll hn hshed]
    refine ⟨fun h => next_congr (sendRingPoll_waits h), fun hon hfree h => ⟨fun hbad => next_congr ?_,
      fun hok hdma => ⟨fun hown => next_congr ?_, fun hown => next_congr ?_⟩⟩⟩
    · rw [sendRingPoll_reads hon hfree h, if_pos (dmaFails_true hbad)]
    · rw [sendRingPoll_reads hon hfree h, dmaFails_false hok hdma, if_neg Bool.false_ne_true, if_pos hown]
    · rw [sendRingPoll_reads hon hfree h, dmaFails_false hok hdma, if_neg Bool.false_ne_true, if_neg (ne_true_of_eq_false hown)]
  · rw [exec_sendRingRead hn hshed]
    exact ⟨fun h => next_congr (sendRingRead_none h), fun d hd hon => ⟨fun h => next_congr (sendRingRead_fails hd hon h),
      fun hok hdma => ⟨fun h => next_congr ((sendRingRead_enters hd hon hok hdma).trans (sendEntered_badLen h)),
        fun hlo hhi => ⟨fun h => next_congr ((sendRingRead_enters hd hon hok hdma).trans (sendEntered_direct hlo hhi h)),
          fun h => next_congr ((sendRingRead_enters hd hon hok hdma).trans (sendEntered_dispatched hlo hhi h))⟩⟩⟩⟩

end Sys2Proof.Machine
end

section
/-! PROOFS. The family of the partition chapter, finished packets: how a packet leaves its engine, what the queue manager admits,
and when a number is done or lost. -/

namespace Sys2Proof.Machine

/-! ## A packet leaves its engine (R143, R152, R243, R303, R391) -/

section Enqueue
variable {s : State} {id : Nat} {p : Pkt}

/-- The packet of a number is finished, and the first of its engine and ingress port. -/
def Leaves (s : State) (id : Nat) (p : Pkt) : Prop := pktAt s id = some p ∧ p.stage = .finished ∧ firstOfEngine s p = true

/-- The number of the packet was declared lost. -/
def declaredLost (s : State) (p : Pkt) : Bool := (rsqAt s p.port).lostSet.contains p.seq

/-- The packet counted as a stray of its ingress port. -/
def strayCount (s : State) (p : Pkt) : State :=
  setRsq s p.port { rsqAt s p.port with stray := satInc (rsqAt s p.port).stray }

/-- The queue manager takes a packet that its engine has released. -/
def released (t : State) (p : Pkt) : State :=
  if declaredLost t p then discardPkt (strayCount t p) p
  else if (ptnAt t p.part).resetting then discardPkt (rstDrop t p.part) p
  else if t.cfg.quiesces.any (fun d => drainAll d p) then discardPkt (drainLost t fun d => drainAll d p) p
  else forwardPkt t (epochOf t p.epoch) p

theorem packetEnqueue_leaves (h : Leaves s id p) : packetEnqueue id s = released (engineDone s p) p := by
  obtain ⟨hpkt, hstage, hfirst⟩ := h
  rw [packetEnqueue, hpkt]
  exact if_pos ⟨hstage, hfirst⟩

theorem packetEnqueue_stays (hpkt : pktAt s id = some p) (h : p.stage ≠ .finished ∨ firstOfEngine s p = false) :
    packetEnqueue id s = s := by
  rw [packetEnqueue, hpkt]
  refine if_neg fun ⟨hstage, hfirst⟩ => ?_
  rcases h with h | h
  · exact h hstage
  · exact Bool.false_ne_true (h.symm.trans hfirst)

/-- PACKET_ENQUEUE before a shed. -/
theorem exec_packetEnqueue (hshed : s.pwr.shed = none) : exec (.packetEnqueue id) s = .next (packetEnqueue id s) :=
  ev_next rfl (powered_on _ hshed)

theorem released_stray (h : declaredLost s p = true) : released s p = discardPkt (strayCount s p) p := if_pos h

theorem released_reset (hnum : declaredLost s p = false) (h : (ptnAt s p.part).resetting = true) :
    released s p = discardPkt (rstDrop s p.part) p := (if_neg (ne_true_of_eq_false hnum)).trans (if_pos h)

theorem released_drained (hnum : declaredLost s p = false) (hrun : (ptnAt s p.part).resetting = false)
    (h : s.cfg.quiesces.any (fun d => drainAll d p) = true) :
    released s p = discardPkt (drainLost s fun d => drainAll d p) p :=
  (if_neg (ne_true_of_eq_false hnum)).trans ((if_neg (ne_true_of_eq_false hrun)).trans (if_pos h))

theorem released_forwarded (hnum : declaredLost s p = false) (hrun : (ptnAt s p.part).resetting = false)
    (h : s.cfg.quiesces.any (fun d => drainAll d p) = false) : released s p = forwardPkt s (epochOf s p.epoch) p :=
  (if_neg (ne_true_of_eq_false hnum)).trans ((if_neg (ne_true_of_eq_false hrun)).trans (if_neg (ne_true_of_eq_false h)))

end Enqueue

/-! ## The forwarding result (R290, R291, R346, R360, R363) -/

section Forward
variable {s : State} {e : Epoch} {p : Pkt} {q : Nat}

theorem forwardPkt_direct (h : p.direct = some q) : forwardPkt s e p =
    if portOwner s q = p.part ∧ q < 100 then takeCopies s p [(q, mkCopy s e p q p.bytes false)]
    else discardPkt (xdrop s p.part 1) p := by rw [forwardPkt, h]

theorem forwardPkt_punt {r : BitVec 8} (hdirect : p.direct = none) (h : p.punt = some r) :
    forwardPkt s e p = puntTo s e p r.toNat (puntPort p) := by rw [forwardPkt, hdirect, h]

/-- A packet that nothing names a destination for goes the way of NO_DEST. -/
theorem forwardPkt_noDest (hdirect : p.direct = none) (hpunt : p.punt = none) (hrewrite : rewriteOk s e p = true)
    (httl : ttlPunt s e p = false) (hword : destWord s e p = none) : forwardPkt s e p = noDest s e p false := by
  simp only [forwardPkt, hdirect, hpunt, hrewrite, httl, hword, Bool.not_true, Bool.false_eq_true, if_false]

/-- Without a copy to pass on it counts as NO_DEST of its engine. -/
theorem noDest_discards {k : Nat} {named : Bool} (hpass : p.pass = none) (heng : p.engine = some k) :
    noDest s e p named = discardPkt (count s (100 + k) 3 1 p.part) p := by
  simp only [noDest, hpass, heng, Option.isNone_none, or_true, if_true, Option.isSome_none, Bool.false_eq_true, if_false]

end Forward

/-! ## Admission (R377) -/

section Admission
variable {s : State} {p : Pkt} {l : List (Nat × Copy)}

theorem admitted_guaranteed (h : (ptnAt s p.part).usedCells + cellsOf p.bytes ≤ guarNow s p.part) : admitted s p l = l := if_pos h

theorem admitted_aboveCeiling (hguar : guarNow s p.part < (ptnAt s p.part).usedCells + cellsOf p.bytes)
    (hceil : ceilNow s p.part < (ptnAt s p.part).usedCells + cellsOf p.bytes) : admitted s p l = [] :=
  (if_neg (Nat.not_le.mpr hguar)).trans (if_neg fun h => Nat.not_le.mpr hceil h.1)

end Admission

/-! ## Numbers done and lost (R387, R388, R391) -/

section Reseq
variable {s : State} {i : Nat} {q : BitVec 16}

/-- A resequencer written reads as written. -/
theorem rsqAt_setRsq (s : State) (i : Nat) (x : Rsq) : rsqAt (setRsq s i x) i = x := (tget_tset _ _ _ _ _).trans (if_pos rfl)

/-- The release of packets to their queues leaves every resequencer. -/
theorem rsqAt_reseqRelease (s : State) (i k : Nat) : rsqAt (reseqRelease s i) k = rsqAt s k := rfl

theorem not_seqEarlier_self (q : BitVec 16) : seqEarlier q q = false := by simp [seqEarlier]

/-- DONE passes the number at which it stands, when no other is done. -/
theorem doneAdvance_singleton (q : BitVec 16) : doneAdvance 1 q [q] = (q + 1, []) := by simp [doneAdvance]

/-- The number DONE(i), with nothing else outstanding, moves DONE(i) on by one. -/
theorem doneMark_next (hlost : (rsqAt s i).lostSet = []) (hdone : (rsqAt s i).doneSet = []) (hmiss : (rsqAt s i).missing = [])
    (hq : q = (rsqAt s i).doneTo) : rsqAt (doneMark s i q) i = { rsqAt s i with doneTo := q + 1 } := by
  subst hq
  have hstep : doneMark s i (rsqAt s i).doneTo = reseqRelease (setRsq s i
      { rsqAt s i with doneTo := (rsqAt s i).doneTo + 1, doneSet := [], missing := [] }) i := by
    simp only [doneMark, hlost, hdone, hmiss, not_seqEarlier_self, doneAdvance_singleton, List.length_nil, Nat.zero_add,
      BitVec.sub_self, BitVec.toNat_zero, List.range_zero, List.map_nil, List.filter_nil, List.append_nil, List.contains_nil,
      Bool.false_eq_true, if_false]
  rw [hstep, rsqAt_reseqRelease, rsqAt_setRsq]
  simp only [hdone, hmiss]

/-- The missing number of a resequencer, with its open grain. -/
def missingAt (s : State) (i : Nat) (q : BitVec 16) : Option (BitVec 16 × Grain) :=
  (rsqAt s i).missing.find? fun m => decide (m.1 = q)

theorem reseqGapTimeout_notMissing (h : missingAt s i q = none) : reseqGapTimeout i q s = s := by
  unfold missingAt at h
  rw [reseqGapTimeout, h]

/-- A number is counted as lost and done. -/
def lostDone (s : State) (i : Nat) (q : BitVec 16) : State :=
  doneMark (setRsq s i { rsqAt s i with lost := satInc (rsqAt s i).lost }) i q

/-- It is noted while its packet may still appear. -/
def lostNoted (s : State) (i : Nat) (q : BitVec 16) : State :=
  if stillComing s i q then setRsq s i { rsqAt s i with lostSet := q :: (rsqAt s i).lostSet } else s

theorem reseqGapTimeout_missing {m : BitVec 16 × Grain} (h : missingAt s i q = some m) : reseqGapTimeout i q s =
    if s.qm.gap.toNat * 1000 ≤ since s m.2 then raiseOnce (lostNoted (lostDone s i q) i q) 2 0 663 0 (i + 65536 * q.toNat)
    else s := by
  unfold missingAt at h
  rw [reseqGapTimeout, h]
  rfl

/-- RESEQ_GAP_TIMEOUT of an existing ingress port. -/
theorem exec_reseqGapTimeout (hi : i < 102) : exec (.reseqGapTimeout i q) s = .next (reseqGapTimeout i q s) :=
  ev_next (decide_eq_true hi) rfl

end Reseq

/-- Settles O21: the packet that leaves and the packet that stays, each way out of the engine, the two sure cases of admission, the
number that is done and the one that is lost are the lemmas above. -/
theorem finishedPacketsLeaveTheirEngine : Obligations.FinishedPacketsLeaveTheirEngine := by
  refine ⟨fun s id p hshed hpkt => ?_, fun s p l => ⟨admitted_guaranteed, admitted_aboveCeiling⟩,
    fun s p hlost hdone hmiss hq => doneMark_next (s := delPkt s p.id) hlost hdone hmiss hq, fun s i q hi => ?_⟩
  · rw [exec_packetEnqueue hshed]
    refine ⟨fun h => next_congr (packetEnqueue_stays hpkt h), fun hstage hfirst => ?_⟩
    intro s1 x
    have hleaves {t : State} (h : released s1 p = t) : Host.Outcome.next (packetEnqueue id s) = .next t :=
      next_congr ((packetEnqueue_leaves ⟨hpkt, hstage, hfirst⟩).trans h)
    refine ⟨fun hnum => hleaves (released_stray hnum), fun hnum hreset => hleaves (released_reset hnum hreset),
      fun hnum hrun hdrain => hleaves (released_drained hnum hrun hdrain), fun hnum hrun hfree => ?_⟩
    have hgoes {t : State} (h : forwardPkt s1 (epochOf s1 p.epoch) p = t) : Host.Outcome.next (packetEnqueue id s) = .next t :=
      hleaves ((released_forwarded hnum hrun hfree).trans h)
    exact ⟨fun q hq hown hlt => hgoes ((forwardPkt_direct hq).trans (if_pos ⟨hown, hlt⟩)),
      fun q hq hother => hgoes ((forwardPkt_direct hq).trans (if_neg fun h => hother h.1)),
      fun r hdirect hpunt => hgoes (forwardPkt_punt hdirect hpunt),
      fun k hdirect hpunt hrewrite httl hword hpass heng =>
        hgoes ((forwardPkt_noDest hdirect hpunt hrewrite httl hword).trans (noDest_discards hpass heng))⟩
  · rw [exec_reseqGapTimeout hi]
    exact ⟨fun g hm => ⟨fun h => next_congr ((reseqGapTimeout_missing hm).trans (if_neg (Nat.not_le.mpr h))),
      fun h => next_congr ((reseqGapTimeout_missing hm).trans (if_pos h))⟩, fun h => next_congr (reseqGapTimeout_notMissing h)⟩

end Sys2Proof.Machine
end

section
/-! PROOFS. The family of the command protocol chapter, effects: every row of an opcode acts through `runCmd`, and where its command
is not ready for it, or waits for an earlier one on its object, it does nothing. -/

namespace Sys2Proof.Machine

/-- A row's outcome is `runCmd` of the command number and opcode `acc`, for one effect in every state. -/
def RunsCommand (i : Instr) (acc : Nat × Nat) : Prop :=
  ∃ f : State → Cmd → State, ∀ s, exec i s = .next (runCmd s acc.1 acc.2 f)

/-- Every row that `commandOf` names runs its command. The semaphore of `runCfg` (R515) and the order of services of `pkaCommand`
(R483) lie inside the effect, behind the test of `runCmd`. -/
theorem commandOf_runsCommand {i : Instr} {acc : Nat × Nat} (h : commandOf i = some acc) : RunsCommand i acc := by
  cases i with
  | nop | devReset | fcuHistRead | ptnReset | tbAdjust | camWrite | camInvalidate | camLookup | camStep | fdbWrite | fdbDelete
  | fdbFlush | fdbRead | cfgOpen | cfgSet | cfgCommit | cfgAbort | t2Stage | pmcCensus | pmcRead | prmStore | prmRead | fwInfo
  | cfgImageApply | ptpInstance | keyGenerate | keyImport | keyExport | keyPublic | keyZeroise | pkaSign | pkaVerify | pkaAgree
  | rngRead | tagFlowSet | tdmChainSet | radioNodeAdd | radioNodeDel | mdmShapeSet | hupMeasure | twinRejoin =>
    obtain rfl := Option.some.inj h
    exact ⟨_, fun _ => rfl⟩
  | _ => cases h

/-- An opcode has no effect where no command has the number, or the one that has it is not ready for the opcode. -/
theorem runCmd_notReady {s : State} {id op : Nat} (f : State → Cmd → State)
    (h : ∀ c, cmdAt s id = some c → c.state ≠ .ready ∨ opOf c ≠ op ∨ c.done = true ∨ objectHeld s c = true) :
    runCmd s id op f = s := by
  cases hc : cmdAt s id with
  | none => exact runCmd_absent f hc
  | some c => exact runCmd_other f hc (h c hc)

/-- Settles O8: a row of an opcode is `runCmd` of its command, which leaves the state where that command is not ready for it. -/
theorem commandsThatDoNotRun : Obligations.CommandsThatDoNotRun := by
  intro i s id op hrow hidle
  obtain ⟨f, hexec⟩ := commandOf_runsCommand hrow
  rw [hexec, runCmd_notReady f hidle]

end Sys2Proof.Machine
end

section
/-! PROOFS. The family of the command reference, second tier: T2_STAGE and its writes, the training of DDR5, its patrol scrub. -/

namespace Sys2Proof.Machine

/-! ## T2_STAGE (R215, R418) -/

section Command
variable {s : State} {c : Cmd} {data : List Byte} {ok : Bool}

/-- The stage that the command asks for, not yet writing. -/
def stageOf (s : State) (c : Cmd) (data : List Byte) : Stage :=
  { cmd := some c.id, pt := c.pt, table := parBits c 8 0 2, side := !t2Side s (newest s) (parBits c 8 0 2), tile := par c 12 4
    words := wordsLE (bufLen c / 4) (padTo (bufLen c) data) 0, writing := false }

/-- The stage as it joins the others: it writes at once where it may. -/
def stageJoined (s : State) (c : Cmd) (data : List Byte) : Stage :=
  { stageOf s c data with writing := stageFree s (stageOf s c data) }

/-- A staged command whose DDR5 is not trained. -/
theorem t2Stage_untrained (hddr : ddrOk s = false) : t2Stage data ok s c = complete s c.id stUNIT_FENCED [] :=
  if_pos (by rw [hddr]; rfl)

section Trained
variable (hddr : ddrOk s = true)
include hddr

/-- A table without a staging side, or data beyond its end. -/
theorem t2Stage_noStage (h : t2Stages s (parBits c 8 0 2) = false ∨ t2Size s (parBits c 8 0 2) < par c 12 4 + bufLen c / 2048) :
    t2Stage data ok s c = complete s c.id stT2_NO_STAGE [] :=
  (if_neg (by rw [hddr]; decide)).trans (if_pos (h.imp_left fun h => by rw [h]; rfl))

/-- Data that lies in the staging side is taken once its read succeeds. -/
theorem t2Stage_fits (hstages : t2Stages s (parBits c 8 0 2) = true)
    (hsize : par c 12 4 + bufLen c / 2048 ≤ t2Size s (parBits c 8 0 2)) : t2Stage data ok s c =
      if !ok then complete s c.id stBUFFER_FAULT []
      else running { s with t2 := { s.t2 with stages := s.t2.stages ++ [stageJoined s c data] } } c.id := by
  refine (if_neg (by rw [hddr]; decide)).trans (if_neg ?_)
  rw [hstages]
  rintro (h | h)
  · exact Bool.false_ne_true h
  · exact absurd hsize (Nat.not_le.mpr h)

end Trained

end Command

/-! ## The writes of the stages (R418, R419) -/

section Write
variable {s : State} {id : Nat}

/-- Starting to write the stages of a command that may is setting `writing` in them alone. -/
theorem t2StageWriteStart_eq (s : State) (id : Nat) : t2StageWriteStart id s = { s with t2 := { s.t2 with
    stages := s.t2.stages.map fun g => { g with writing := g.writing || (decide (g.cmd = some id) && stageFree s g) } } } := by
  have hstage : ∀ g : Stage, (if g.cmd = some id ∧ stageFree s g then { g with writing := true } else g) =
      { g with writing := g.writing || (decide (g.cmd = some id) && stageFree s g) } := by
    intro g
    split
    case isTrue h => simp [h]
    case isFalse h =>
      have hoff : (decide (g.cmd = some id) && stageFree s g) = false := by simpa using h
      rw [hoff, Bool.or_false]
  rw [t2StageWriteStart, List.map_congr_left fun g _ => hstage g]

theorem t2StageComplete_some {g : Stage} (h : s.t2.stages.find? (fun g => decide (g.cmd = some id) && g.writing) = some g) :
    t2StageComplete id s = complete { s with t2 := { s.t2 with
      mem := tputs (fun _ => 0) s.t2.mem (512 * (t2Base s g.table g.side + g.tile)) g.words
      stages := s.t2.stages.filter fun x => decide (x.cmd ≠ some id) } } id stDONE [] := by
  rw [t2StageComplete, h]

theorem t2StageComplete_none (h : s.t2.stages.find? (fun g => decide (g.cmd = some id) && g.writing) = none) :
    t2StageComplete id s = s := by rw [t2StageComplete, h]

end Write

/-! ## DDR5: patrol scrub and training (R415-R417, R424, R640) -/

section Ddr
variable {s : State}

theorem ddrPatrolScrub_untrained (a : Nat) (st : BitVec 2) (hddr : ddrOk s = false) : ddrPatrolScrub a st s = s :=
  if_pos (by rw [hddr]; rfl)

/-- A scrubbed burst is corrected, not correctable, or good. -/
theorem ddrPatrolScrub_trained (a : Nat) (st : BitVec 2) (hddr : ddrOk s = true) : ddrPatrolScrub a st s =
    if st = 1 then ddrCorr s (a / 32) else if st = 2 then ddrUncorr s (a / 32) none else s :=
  if_neg (by rw [hddr]; decide)

variable {x y : Bool} {rate : BitVec 2} {gib : BitVec 8}

theorem ddrTrainingComplete_none (h : s.dev.inReset = true ∨ s.dev.t2Done = true ∨ s.dev.dirOk = false) :
    ddrTrainingComplete x y rate gib s = s := if_pos (by simpa using h)

/-- Training ends once a directory names a rate; only both channels together are used. -/
theorem ddrTrainingComplete_ends (hrst : s.dev.inReset = false) (hdone : s.dev.t2Done = false) (hdir : s.dev.dirOk = true) :
    ddrTrainingComplete x y rate gib s =
      (let t : State := { s with dev := { s.dev with t2Done := true } }
       if x ∧ y then { t with t2 := { t.t2 with aOk := true, bOk := true, rate := rate, gib := gib } } else t) :=
  if_neg (by rw [hrst, hdone, hdir]; decide)

theorem ddrTrainingComplete_one (hrst : s.dev.inReset = false) (hdone : s.dev.t2Done = false) (hdir : s.dev.dirOk = true)
    (h : x = false ∨ y = false) : ddrTrainingComplete x y rate gib s = { s with dev := { s.dev with t2Done := true } } := by
  refine (ddrTrainingComplete_ends hrst hdone hdir).trans (if_neg ?_)
  rcases h with rfl | rfl <;> simp

end Ddr

/-- Settles O26: the command, the start and the end of its write, the scrub and the training are the lemmas above. -/
theorem tierTwoRows : Obligations.TierTwoRows := by
  refine ⟨fun s id c data ok hready => ⟨fun hddr => ?_, fun hddr h => ?_, fun hddr hstages hsize => ⟨?_, ?_⟩⟩,
    fun s id => ⟨next_congr (t2StageWriteStart_eq s id), fun g h => next_congr (t2StageComplete_some h),
      fun h => next_congr (t2StageComplete_none h)⟩,
    fun s a gib hot rate x y st => ⟨fun hddr => next_congr (ddrPatrolScrub_untrained a st hddr),
      fun hddr => next_congr (ddrPatrolScrub_trained a 0 hddr), fun hddr => next_congr (ddrPatrolScrub_trained a 1 hddr),
      fun hddr => next_congr (ddrPatrolScrub_trained a 2 hddr), rfl, fun h => next_congr (ddrTrainingComplete_none h),
      fun hrst hdone hdir => ⟨next_congr (ddrTrainingComplete_ends hrst hdone hdir),
        fun h => next_congr (ddrTrainingComplete_one hrst hdone hdir h)⟩⟩⟩
  · exact next_congr ((runCmd_ready _ hready).trans (t2Stage_untrained hddr))
  · exact next_congr ((runCmd_ready _ hready).trans (t2Stage_noStage hddr h))
  · exact next_congr ((runCmd_ready _ hready).trans (t2Stage_fits hddr hstages hsize))
  · exact ⟨stageJoined s c data, next_congr ((runCmd_ready _ hready).trans (t2Stage_fits hddr hstages hsize)),
      rfl, rfl, rfl, rfl, rfl, rfl, rfl⟩

end Sys2Proof.Machine
end

section
/-! PROOFS. The family of the command reference, CAM: its entries, a lookup, the steps of a walk and the walk's idle limit. -/

namespace Sys2Proof.Machine

section Command
variable {s : State} {c : Cmd}

/-! ## Entries (R210, R211, R315) -/

theorem camWrite_mode (h : parBits c 12 0 1 = 1 ↔ camRange s (parBits c 8 0 5) = true) : camWrite s c =
    complete (setCamEnt s (parBits c 8 0 5) (par c 10 2) (some (camEntOf c))) c.id
      (if (camEnt s (parBits c 8 0 5) (par c 10 2)).isSome then stNOTE else stDONE) [] :=
  if_neg fun hne => hne (Bool.eq_iff_iff.mpr (decide_eq_true_iff.trans h))

theorem camWrite_otherMode (h : ¬ (parBits c 12 0 1 = 1 ↔ camRange s (parBits c 8 0 5) = true)) :
    camWrite s c = complete s c.id stCAM_BLOCK_MODE [] :=
  if_pos fun heq => h (by rw [← heq, decide_eq_true_eq])

/-! ## Lookups (R212, R319, R325) -/

section Lookup
variable {p : Nat} {d : ProfDef} {key : BitVec 192}

/-- An answer completes without a walk where nothing matches or one match is all that the profile gives. -/
theorem lookupDone_noWalk {a : CamAnswer} (h : a.1 = none ∨ d.multi = false) :
    lookupDone s c p d key a = complete s c.id (if a.2.2 then stNOTE else stDONE) (lookupResult a 0xFFFF) := by
  unfold lookupDone
  cases ha : a.1 with
  | none => rfl
  | some i => exact if_neg fun hmulti => Bool.false_ne_true ((h.resolve_left (by rw [ha]; nofun)).symm.trans hmulti.1)

/-- Without a match the local answer is none. -/
theorem camLocal_noMatch (h : camMatches s c.pt d key = []) : (camLocal s c.pt d key).1 = none := by
  rw [camLocal, h]
  rfl

end Lookup

/-- The profile that a CAM_LOOKUP names, where its partition owns it. -/
abbrev lookupProfile (s : State) (c : Cmd) : Option ProfDef := camProfile s (newest s) c.pt (parBits c 8 0 6)

/-- The key of a CAM_LOOKUP. -/
abbrev lookupKey (c : Cmd) : BitVec 192 := keyOf (slice c.bytes 16 24)

theorem camLookup_notOwner (h : lookupProfile s c = none) : camLookup s c = complete s c.id stNOT_OWNER [] := by
  rw [camLookup, show camProfile s (newest s) c.pt (parBits c 8 0 6) = none from h]

section Profile
variable {d : ProfDef} (hd : lookupProfile s c = some d)
include hd

/-- The lookup of an owned profile: none of its blocks live, this device alone, or over the cascade. -/
theorem camLookup_owned : camLookup s c =
    if camAllFenced s c.pt d then complete s c.id stUNIT_FENCED []
    else if !d.casc then lookupDone s c (parBits c 8 0 6) d (lookupKey c) (camLocal s c.pt d (lookupKey c))
    else if !cascUp s then
      lookupDone s c (parBits c 8 0 6) d (lookupKey c)
        ((camLocal s c.pt d (lookupKey c)).1, (camLocal s c.pt d (lookupKey c)).2.1, true)
    else if slotRoom s then
      running (slotPut s (cascReq none (some c.id) c.pt (parBits c 8 0 6) d (lookupKey c) false 0)) c.id
    else s := by
  rw [camLookup, show camProfile s (newest s) c.pt (parBits c 8 0 6) = some d from hd]

theorem camLookup_fenced (h : camAllFenced s c.pt d = true) : camLookup s c = complete s c.id stUNIT_FENCED [] := by
  rw [camLookup_owned hd, if_pos h]

section Live
variable (hlive : camAllFenced s c.pt d = false)
include hlive

theorem camLookup_local (hcasc : d.casc = false) : camLookup s c =
    lookupDone s c (parBits c 8 0 6) d (lookupKey c) (camLocal s c.pt d (lookupKey c)) := by
  rw [camLookup_owned hd, hlive, hcasc]
  rfl

/-- A cascaded lookup whose cascade is not used has this device's answer, marked. -/
theorem camLookup_cascDown (hcasc : d.casc = true) (hdown : s.cam.cascEn = false ∨ s.cam.aligned = false) : camLookup s c =
    lookupDone s c (parBits c 8 0 6) d (lookupKey c)
      ((camLocal s c.pt d (lookupKey c)).1, (camLocal s c.pt d (lookupKey c)).2.1, true) := by
  have hup : cascUp s = false := by
    rw [cascUp]
    rcases hdown with h | h <;> rw [h]
    · rfl
    · exact Bool.and_false _
  rw [camLookup_owned hd, hlive, hcasc, hup]
  rfl

theorem camLookup_queued (hcasc : d.casc = true) (hen : s.cam.cascEn = true) (hal : s.cam.aligned = true)
    (hroom : s.cam.slotQ.length < 64) : camLookup s c =
      running (slotPut s (cascReq none (some c.id) c.pt (parBits c 8 0 6) d (lookupKey c) false 0)) c.id := by
  rw [camLookup_owned hd, hlive, hcasc, cascUp, hen, hal, slotRoom, decide_eq_true hroom]
  rfl

end Live

end Profile

/-! ## Steps of a walk (R212, R320) -/

/-- The context that a CAM_STEP names. -/
abbrev stepWalk (s : State) (c : Cmd) : Option Walk := walkAt s c.pt (par c 8 2)

section Step
variable (hk : par c 8 2 < 16)
include hk

theorem camStep_stale (h : stepWalk s c = none) : camStep s c = complete s c.id stCAM_STALE [] := by
  rw [camStep, if_pos hk, show walkAt s c.pt (par c 8 2) = none from h]

variable {w : Walk} (hw : stepWalk s c = some w)
include hw

theorem camStep_dead (hlive : w.live = false) :
    camStep s c = complete s c.id (if w.exhausted then stCAM_STEP_END else stCAM_STALE) [] := by
  rw [camStep, if_pos hk, show walkAt s c.pt (par c 8 2) = some w from hw]
  exact if_pos (by rw [hlive]; rfl)

theorem camStep_end (hlive : w.live = true) (hrem : w.remain = 0) : camStep s c =
    complete (setWalk s c.pt (par c 8 2) (some { w with live := false, exhausted := true })) c.id stCAM_STEP_END [] := by
  rw [camStep, if_pos hk, show walkAt s c.pt (par c 8 2) = some w from hw]
  refine (if_neg (by rw [hlive]; decide)).trans ((if_pos hrem).trans ?_)
  rw [walkEnd, show walkAt s c.pt (par c 8 2) = some w from hw]

/-- A local walk goes on to its next match. -/
theorem camStep_next {i : Nat} (hlive : w.live = true) (hrem : w.remain ≠ 0) (hcasc : w.prof.casc = false)
    (hi : (camLocalAfter s c.pt w.prof w.key w.last).1 = some i) : camStep s c =
      complete (setWalk s c.pt (par c 8 2) (some { w with last := i, remain := w.remain - 1, used := s.gr.count })) c.id
        (if camLfail s c.pt w.prof then stNOTE else stDONE) ([0, BitVec.ofNat 8 (w.remain - 1), 0, 0] ++ leBytes 4 i) := by
  rw [camStep, if_pos hk, show walkAt s c.pt (par c 8 2) = some w from hw]
  refine (if_neg (by rw [hlive]; decide)).trans ((if_neg hrem).trans ((if_pos (by rw [hcasc]; rfl)).trans ?_))
  unfold stepDone
  dsimp only
  rw [show walkAt s c.pt (par c 8 2) = some w from hw, hi]
  rfl

end Step

end Command

/-! ## An idle walk, and what a ternary entry matches (R212, R316) -/

/-- A live walk is freed once it has been idle for 1,000,000 grains. -/
theorem camContextTimeout_live {s : State} {n k : Nat} {w : Walk} (hw : walkAt s n k = some w) (hlive : w.live = true) :
    camContextTimeout n k s = if 1000000 ≤ since s w.used then setWalk s n k none else s := by
  rw [camContextTimeout, hw]
  simp only [hlive, true_and]

/-- Two keys differ nowhere inside a mask where they agree under it. -/
theorem xor_and_eq_zero_iff {n : Nat} (a b m : BitVec n) : (a ^^^ b) &&& m = 0 ↔ a &&& m = b &&& m := by
  have hdistrib : (a ^^^ b) &&& m = (a &&& m) ^^^ (b &&& m) :=
    BitVec.eq_of_getElem_eq fun i hi => by simp only [BitVec.getElem_and, BitVec.getElem_xor, Bool.and_xor_distrib_right]
  rw [hdistrib]
  exact BitVec.xor_eq_zero_iff

theorem camMatch_ternary {x : CamEnt} {key : BitVec 192} (h : x.range = false) :
    camMatch x key = true ↔ key &&& x.mask = x.key &&& x.mask := by
  rw [camMatch, h, ← xor_and_eq_zero_iff]
  exact decide_eq_true_iff

/-- Settles O30: the writes, the lookup, the step, the timeout and the match are the lemmas above, case by case. -/
theorem camCommands : Obligations.CamCommands := by
  refine ⟨fun s id c hready => ⟨fun h => ?_, fun h => ?_⟩, fun s id c hready => next_congr (runCmd_ready _ hready),
    fun s id c hready => ⟨fun h => ?_, fun d hd => ⟨fun h => ?_, fun hlive hcasc h => ?_, fun hlive hcasc => ?_,
      fun hlive hcasc hdown => ?_, fun hlive hcasc hen hal hroom => ?_⟩⟩,
    fun s id c hready hk => ⟨fun h => ?_, fun w hw => ⟨fun hlive => ?_, fun hlive hrem => ?_, fun i hlive hrem hcasc hi => ?_⟩⟩,
    fun s n k w hn hk hw hlive => ?_, fun x key => camMatch_ternary⟩
  · exact next_congr ((runCmd_ready _ hready).trans (camWrite_mode h))
  · exact next_congr ((runCmd_ready _ hready).trans (camWrite_otherMode h))
  · exact next_congr ((runCmd_ready _ hready).trans (camLookup_notOwner h))
  · exact next_congr ((runCmd_ready _ hready).trans (camLookup_fenced hd h))
  · exact next_congr ((runCmd_ready _ hready).trans ((camLookup_local hd hlive hcasc).trans
      (lookupDone_noWalk (h.imp_left camLocal_noMatch))))
  · exact next_congr ((runCmd_ready _ hready).trans (camLookup_local hd hlive hcasc))
  · exact next_congr ((runCmd_ready _ hready).trans (camLookup_cascDown hd hlive hcasc hdown))
  · exact next_congr ((runCmd_ready _ hready).trans (camLookup_queued hd hlive hcasc hen hal hroom))
  · exact next_congr ((runCmd_ready _ hready).trans (camStep_stale hk h))
  · exact next_congr ((runCmd_ready _ hready).trans (camStep_dead hk hw hlive))
  · exact next_congr ((runCmd_ready _ hready).trans (camStep_end hk hw hlive hrem))
  · exact next_congr ((runCmd_ready _ hready).trans (camStep_next hk hw hlive hrem hcasc hi))
  · have hrow : (decide (n < 16) && decide (k < 16)) = true := by rw [decide_eq_true hn, decide_eq_true hk]; rfl
    exact ⟨fun h => ev_next hrow ((camContextTimeout_live hw hlive).trans (if_neg (Nat.not_le.mpr h))),
      fun h => ev_next hrow ((camContextTimeout_live hw hlive).trans (if_pos h))⟩

end Sys2Proof.Machine
end

section
/-! PROOFS. The family of the command reference, forwarding database: its commands, alone and through the partner, and the decisions
that learn. -/

namespace Sys2Proof.Machine

/-- A command ready for an opcode spells it. -/
theorem readyCmd_op {s : State} {id op : Nat} {c : Cmd} (h : readyCmd s id op c) : opOf c = op := by
  obtain ⟨-, -, hop, -, -⟩ := h
  exact hop

/-! ## The effects of the commands (R213, R214) -/

section Effect
variable {s : State} {n : Nat} {l : List Byte} {g : Grain} {remote : Bool}

theorem fdbWriteEff_noRegion (h : fdbBucket s n (fdbMac l) (fdbVid l) = none) :
    fdbWriteEff s n l g remote = (s, stFDB_FULL, []) := by rw [fdbWriteEff, h]

variable {b : Nat}

section Bucket
variable (hb : fdbBucket s n (fdbMac l) (fdbVid l) = some b)
include hb

/-- The way that holds the key is written again. -/
theorem fdbWriteEff_held {w : Nat} {x : FdbEnt} (h : fdbFind s b (fdbMac l) (fdbVid l) = some (w, x)) :
    fdbWriteEff s n l g remote =
      (setFdbEnt s b w (some (writtenEnt l g remote)), stNOTE, leBytes 4 b ++ [BitVec.ofNat 8 w]) := by
  rw [fdbWriteEff, hb]
  dsimp only
  rw [h]

/-- A new key takes the lowest free way. -/
theorem fdbWriteEff_free {w : Nat} (h : fdbFind s b (fdbMac l) (fdbVid l) = none) (hw : freeWay s b = some w) :
    fdbWriteEff s n l g remote =
      (count (setFdbEnt s b w (some (writtenEnt l g remote))) 166 1 1 0, stDONE, leBytes 4 b ++ [BitVec.ofNat 8 w]) := by
  rw [fdbWriteEff, hb]
  dsimp only
  rw [h, hw]
  dsimp only [Option.orElse]

theorem fdbDeleteEff_held {w : Nat} {x : FdbEnt} (h : fdbFind s b (fdbMac l) (fdbVid l) = some (w, x)) :
    fdbDeleteEff s n l = (setFdbEnt s b w none, stDONE, []) := by
  rw [fdbDeleteEff, hb, Option.bind_some, h, Option.map_some]

theorem fdbDeleteEff_absent (h : fdbFind s b (fdbMac l) (fdbVid l) = none) : fdbDeleteEff s n l = (s, stNOTE, []) := by
  rw [fdbDeleteEff, hb, Option.bind_some, h, Option.map_none]

end Bucket

/-! The effect is the one of the opcode. -/

theorem fdbEff_write (hop : le l 0 1 = 0x18) : fdbEff s n l g remote = fdbWriteEff s n l g remote := if_pos hop

theorem fdbEff_delete (hop : le l 0 1 = 0x19) : fdbEff s n l g remote = fdbDeleteEff s n l :=
  (if_neg (by rw [hop]; decide)).trans (if_pos hop)

theorem fdbEff_flush (hop : le l 0 1 = 0x1A) : fdbEff s n l g remote = fdbFlushEff s n l :=
  (if_neg (by rw [hop]; decide)).trans (if_neg (by rw [hop]; decide))

end Effect

section Command
variable {s : State} {c : Cmd}

/-! ## Commands of this device (R213, R214) -/

/-- A command that is not twin-scoped completes with its effect. -/
theorem fdbCommand_alone {t : State} {st : Nat} {result : List Byte} (htwin : twinOf c = false)
    (h : fdbEff s c.pt c.bytes c.arrive false = (t, st, result)) : fdbCommand s c = complete t c.id st result := by
  rw [fdbCommand, htwin, h]
  rfl

theorem fdbRead_found {x : FdbEnt} (h : (fdbLookup s c.pt (fdbMac c.bytes) (fdbVid c.bytes)).1 = some x) :
    fdbRead s c = complete s c.id stDONE
      ([BitVec.ofNat 8 (1 + 2 * b1 x.static + 4 * b1 x.flapping + 8 * b1 x.twin), BitVec.ofNat 8 x.port] ++ leBytes 2 x.moves ++
        leBytes 8 x.touch.toNat) := by rw [fdbRead, h]

theorem fdbRead_absent (h : (fdbLookup s c.pt (fdbMac c.bytes) (fdbVid c.bytes)).1 = none) :
    fdbRead s c = complete s c.id stDONE [] := by rw [fdbRead, h]

/-! ## Twin-scoped commands (R200, R613, R615) -/

section Twin
variable (htwin : twinOf c = true)
include htwin

theorem fdbCommand_unpaired (hp : paired s = false) : fdbCommand s c =
    complete s c.id (if s.twn.state = twSEPARATED then stTWIN_SEPARATED else stTWIN_ABSENT) [] := by
  rw [fdbCommand, htwin, hp]
  rfl

/-- With room among the shared decisions the command is carried. -/
theorem fdbCommand_carried (hp : paired s = true) (hroom : s.twn.shared.length < 16384) : fdbCommand s c =
    (let g := toPair s c.arrive + lagOf s
     let d : Shared := { apply := g, remote := false, index := 8 * c.pt + c.sq.getD 0, learn := none, bucket := none
                         cmd := some c.id, carried := none, ok := false }
     torvSend (running { s with twn := { s.twn with shared := s.twn.shared ++ [d] } } c.id) 0x04
      (leBytes 8 g.toNat ++ [BitVec.ofNat 8 c.pt] ++ List.replicate 7 0 ++ c.bytes)) := by
  rw [fdbCommand, htwin, hp]
  exact if_neg (Nat.not_le.mpr hroom)

end Twin

end Command

/-! ## Learning decisions (R331, R332) -/

section Learn
variable {s : State} {e : LearnEv} {g : Grain} {b : Nat}

/-- An own learning decision that may change its bucket: its partition runs and learns on the port, the port is not down by
then, and the bucket of its key is no fenced one. -/
structure Learns (s : State) (e : LearnEv) (g : Grain) (b : Nat) : Prop where
  runs : (ptnAt s e.pt).resetting = false
  on : learnsOn s e.pt e.port e.vid = true
  inTime : lateLearn s e.port g = false
  enabled : bit (wd (cur s sFDB_AGE e.pt) 2) 0 = true
  bucket : fdbBucket s e.pt e.mac e.vid = some b
  live : fdbFenced s b = false

/-- What a decision that may change its bucket does with the way that holds its key. -/
theorem learnApply_bucket (h : Learns s e g b) : learnApply s e g false =
    match fdbFind s b e.mac e.vid with
    | none =>
      match (freeWay s b).orElse fun _ => oldestWay s b fun x => !x.static && !x.flapping with
      | some w => count (setFdbEnt s b w (some (newEnt e g false))) 166 1 1 e.pt
      | none => learnDrop s e.pt g
    | some (w, x) =>
      if x.chg = some g ∧ x.port ≠ e.port ∧ !partners s x.port e.port then
        raiseAt (setPtn s e.pt { ptnAt s e.pt with conflicts := satInc (ptnAt s e.pt).conflicts }) 660 0
          (moveData x.port e.port e.pt) g
      else if heldOn s x e.port then
        if x.flapping && decide (x.port ≠ e.port) then s else setFdbEnt s b w (some { x with touch := later x.touch g })
      else if partners s x.port e.port then
        setFdbEnt s b w (some { x with pair := true, port := min x.port e.port, touch := g, twin := false })
      else learnMove s e g false b w x := by
  unfold learnApply
  rw [h.runs, h.on, h.inTime, h.enabled, h.bucket]
  dsimp only
  rw [h.live]
  rfl

theorem learnApply_new {w : Nat} (h : Learns s e g b) (hfind : fdbFind s b e.mac e.vid = none) (hw : freeWay s b = some w) :
    learnApply s e g false = count (setFdbEnt s b w (some (newEnt e g false))) 166 1 1 e.pt := by
  rw [learnApply_bucket h, hfind, hw]
  rfl

variable {w : Nat} {x : FdbEnt}

/-- A key on the port that holds it is touched. -/
theorem learnApply_touch (h : Learns s e g b) (hfind : fdbFind s b e.mac e.vid = some (w, x)) (hport : x.port = e.port) :
    learnApply s e g false = setFdbEnt s b w (some { x with touch := later x.touch g }) := by
  have hheld : heldOn s x e.port = true := by rw [heldOn, decide_eq_true hport, Bool.true_or]
  rw [learnApply_bucket h, hfind]
  refine (if_neg fun ⟨_, hmoved, _⟩ => hmoved hport).trans ((if_pos hheld).trans (if_neg ?_))
  rw [decide_eq_false (not_not_intro hport), Bool.and_false]
  exact Bool.false_ne_true

/-- A key on a port that neither holds it nor is the partner of one that does moves. -/
theorem learnApply_moves (h : Learns s e g b) (hfind : fdbFind s b e.mac e.vid = some (w, x)) (hchg : x.chg ≠ some g)
    (hheld : heldOn s x e.port = false) (hpart : partners s x.port e.port = false) :
    learnApply s e g false = learnMove s e g false b w x := by
  rw [learnApply_bucket h, hfind]
  exact (if_neg fun ⟨hnow, _⟩ => hchg hnow).trans ((if_neg (by rw [hheld]; exact Bool.false_ne_true)).trans
    (if_neg (by rw [hpart]; exact Bool.false_ne_true)))

theorem learnMove_fixed (h : x.static = true ∨ x.flapping = true) : learnMove s e g false b w x = s :=
  if_pos (by rcases h with h | h <;> rw [h] <;> simp)

/-- Outside the window a move counts as the first of a new one. -/
theorem learnMove_restarts (hstatic : x.static = false) (hflap : x.flapping = false)
    (hwindow : fld (wd (cur s sFDB_AGE e.pt) 1) 0 24 * 1000 ≤ (g - x.wstart).toNat) : learnMove s e g false b w x =
      countMove (setFdbEnt s b w (some (movedEnt x e.port 1 g g false))) e.pt :=
  (if_neg (by rw [hstatic, hflap]; decide)).trans (if_pos hwindow)

end Learn

/-- Settles O31: each command, its twin-scoped form and each case of a learning decision are the lemmas above. -/
theorem forwardingDatabaseRows : Obligations.ForwardingDatabaseRows := by
  refine ⟨fun s id c htwin => ⟨fun hready => ?_, fun hready b hb => ?_, fun hready => ?_,
      fun hready => ⟨fun x h => ?_, fun h => ?_⟩⟩,
    fun s id c hready htwin => ⟨fun hp => ?_, fun hp hroom => ?_⟩, fun s e g b hruns hon htime hen hb hlive => ?_⟩
  · have hop := readyCmd_op hready
    have hwrite {t : State} {st : Nat} {result : List Byte} (h : fdbWriteEff s c.pt c.bytes c.arrive false = (t, st, result)) :
        exec (.fdbWrite id) s = .next (complete t c.id st result) :=
      next_congr ((runCmd_ready _ hready).trans (fdbCommand_alone htwin ((fdbEff_write hop).trans h)))
    exact ⟨fun h => hwrite (fdbWriteEff_noRegion h),
      fun b hb => ⟨fun w x h => hwrite (fdbWriteEff_held hb h), fun w h hw => hwrite (fdbWriteEff_free hb h hw)⟩⟩
  · have hop := readyCmd_op hready
    have hdelete {t : State} {st : Nat} {result : List Byte} (h : fdbDeleteEff s c.pt c.bytes = (t, st, result)) :
        exec (.fdbDelete id) s = .next (complete t c.id st result) :=
      next_congr ((runCmd_ready _ hready).trans (fdbCommand_alone htwin ((fdbEff_delete hop).trans h)))
    exact ⟨fun w x h => hdelete (fdbDeleteEff_held hb h), fun h => hdelete (fdbDeleteEff_absent hb h)⟩
  · have hop := readyCmd_op hready
    exact next_congr ((runCmd_ready _ hready).trans (fdbCommand_alone htwin (fdbEff_flush hop)))
  · exact next_congr ((runCmd_ready _ hready).trans (fdbRead_found h))
  · exact next_congr ((runCmd_ready _ hready).trans (fdbRead_absent h))
  · exact next_congr ((runCmd_ready _ hready).trans (fdbCommand_unpaired htwin hp))
  · exact next_congr ((runCmd_ready _ hready).trans (fdbCommand_carried htwin hp hroom))
  · have h : Learns s e g b := ⟨hruns, hon, htime, hen, hb, hlive⟩
    refine ⟨fun w hfind hw => learnApply_new h hfind hw, fun w x hfind hport => learnApply_touch h hfind hport,
      fun w x hfind hchg hheld hpart => ?_⟩
    have hmoves := learnApply_moves h hfind hchg hheld hpart
    exact ⟨fun hfixed => hmoves.trans (learnMove_fixed hfixed),
      fun hstatic hflap hwindow => hmoves.trans (learnMove_restarts hstatic hflap hwindow)⟩

end Sys2Proof.Machine
end

section
/-! PROOFS. The family of the command reference, configuration: the CFG commands under their semaphore, and the image. -/

namespace Sys2Proof.Machine

/-! ## The semaphore of the CFG commands (R515-R517) -/

section Semaphore
variable {s : State} {id op : Nat} {c : Cmd} (f : State → Cmd → State) (hready : readyCmd s id op c)
include hready

/-- While semaphore 16 + n is free a CFG command of partition n acts. -/
theorem runCfg_free (hsem : semAt s (16 + c.pt) = none) : runCfg s id op f = f s c := by
  rw [runCfg, runCmd_ready _ hready]
  dsimp only
  rw [hsem]

/-- While it is held, the command acts and gives it back where it is the holder, and joins the waiters where it is none of them
and there is room. -/
theorem runCfg_held {x : Sem} (hsem : semAt s (16 + c.pt) = some x) : runCfg s id op f =
    if x.holder.hcu ∧ x.holder.cmd = some id then semFree (f s c) (16 + c.pt)
    else if (x.waiters.any fun w => decide (w.cmd = some id)) || decide (8 ≤ x.waiters.length) then s
    else setSem s (16 + c.pt)
      (some { x with waiters := x.waiters ++ [{ hcu := true, token := 0, lease := 0, cmd := some id }] }) := by
  rw [runCfg, runCmd_ready _ hready]
  dsimp only
  rw [hsem]

theorem runCfg_joins {x : Sem} (hsem : semAt s (16 + c.pt) = some x) (hhcu : x.holder.hcu = false) (hwait : x.waiters = []) :
    runCfg s id op f = setSem s (16 + c.pt)
      (some { x with waiters := [{ hcu := true, token := 0, lease := 0, cmd := some id }] }) := by
  rw [runCfg_held f hready hsem, hhcu, hwait]
  exact if_neg fun h => Bool.false_ne_true h.1

end Semaphore

section Command
variable {s : State} {c : Cmd}

/-! ## CFG_OPEN, CFG_SET, CFG_COMMIT and CFG_ABORT (R216, R234, R235) -/

theorem cfgOpen_twice (h : (txnOf s c.pt).isSome = true) : cfgOpen s c = complete s c.id stCFG_TXN_OPEN [] := if_pos h

theorem cfgOpen_opens (h : txnOf s c.pt = none) : cfgOpen s c =
    complete { s with cfg := { s.cfg with txns := s.cfg.txns ++ [⟨c.pt, false, []⟩] } } c.id stDONE
      (leBytes 2 (newest s).num.toNat) := if_neg (by rw [h]; exact Bool.false_ne_true)

section Effect
variable {n k : Nat} {v : List W32}

/-- Without a transaction, or once its commit has arrived, no setting is taken. -/
theorem cfgSetEff_closed (h : txnOf s n = none ∨ (commitOf s n).isSome = true) : cfgSetEff s n k v = (s, stCFG_NO_TXN) := by
  unfold cfgSetEff
  cases ht : txnOf s n with
  | none => rfl
  | some t => exact if_pos (h.resolve_left (by rw [ht]; nofun))

variable {t : Txn} (ht : txnOf s n = some t) (hcommit : commitOf s n = none)
include ht hcommit

theorem cfgSetEff_full (hlen : 4096 ≤ t.sets.length) (hnew : t.sets.all (fun x => decide (x.1 ≠ k)) = true) :
    cfgSetEff s n k v = (s, stQUEUE_FULL) := by
  rw [cfgSetEff, ht, hcommit]
  exact (if_neg Bool.false_ne_true).trans (if_pos ⟨hlen, hnew⟩)

/-- The transactions with a setting put into the one of partition `n`. -/
def txnsPut (s : State) (n k : Nat) (v : List W32) : List Txn :=
  s.cfg.txns.map fun x => if !x.remote && decide (x.pt = n) then { x with sets := putSet x.sets k v } else x

theorem cfgSetEff_put (hlen : t.sets.length < 4096) :
    cfgSetEff s n k v = ({ s with cfg := { s.cfg with txns := txnsPut s n k v } }, stDONE) := by
  rw [cfgSetEff, ht, hcommit]
  exact (if_neg Bool.false_ne_true).trans (if_neg fun h => absurd h.1 (Nat.not_le.mpr hlen))

end Effect

/-- CFG_SET completes with the status of its effect. -/
theorem cfgSet_eff {t : State} {st : Nat} (h : cfgSetEff s c.pt (setKey c) (setWords c) = (t, st)) :
    cfgSet s c = complete t c.id st [] := by rw [cfgSet, h]

theorem cfgCommit_closed (h : txnOf s c.pt = none ∨ (commitOf s c.pt).isSome = true) :
    cfgCommit s c = complete s c.id stCFG_NO_TXN [] := by
  unfold cfgCommit
  cases ht : txnOf s c.pt with
  | none => rfl
  | some t => exact if_pos (h.resolve_left (by rw [ht]; nofun))

/-- The commit that a CFG_COMMIT states of the settings of its transaction. -/
def statedCommit (c : Cmd) (sets : List (Nat × List W32)) : Commit :=
  { pt := c.pt, twin := twinOf c, at_ := BitVec.ofNat 64 (par c 16 8), cmd := some c.id, drainOk := drainOf c, image := none
    sets := sets, waiting := false, until_ := 0, remote := false }

theorem cfgCommit_states {t : Txn} (ht : txnOf s c.pt = some t) (hcommit : commitOf s c.pt = none) :
    cfgCommit s c = running (addCommit s (statedCommit c t.sets)) c.id := by
  rw [cfgCommit, ht, hcommit]
  rfl

theorem cfgAbort_cancels {k : Commit} (h : commitOf s c.pt = some k) :
    cfgAbort s c = complete (completeOpt (dropCommit s k) k.cmd stCFG_NO_TXN []) c.id stDONE [] := by rw [cfgAbort, h]

theorem cfgAbort_closes (h : commitOf s c.pt = none) :
    cfgAbort s c = complete (closeTxn s c.pt) c.id (if (txnOf s c.pt).isSome then stDONE else stNOTE) [] := by rw [cfgAbort, h]

/-! ## CFG_IMAGE_APPLY (R217, R246) -/

variable {image : List Byte} {ok : Bool}

/-- Once the lease of its semaphore was lost, the command ends with it. -/
theorem imageHeld_lost (h : s.cc.semLost.getLsbD (16 + c.pt) = true) : imageHeld image ok s c =
    complete { s with cc := { s.cc with semLost := s.cc.semLost &&& ~~~BitVec.ofNat 64 (2 ^ (16 + c.pt)) } } c.id 0x19 [] := if_pos h

section Kept
variable (hlost : s.cc.semLost.getLsbD (16 + c.pt) = false)
include hlost

/-- While the HCU holds the semaphore the command waits. -/
theorem imageHeld_waits {x : Sem} (hsem : semAt s (16 + c.pt) = some x) (hhcu : x.holder.hcu = true) :
    imageHeld image ok s c = s := by
  unfold imageHeld
  dsimp only
  rw [hlost, hsem, if_neg Bool.false_ne_true, if_pos hhcu]

theorem imageHeld_acts (hsem : semAt s (16 + c.pt) = none) : imageHeld image ok s c = cfgImageApply image ok s c := by
  unfold imageHeld
  dsimp only
  rw [hlost, hsem, if_neg Bool.false_ne_true, if_neg Bool.false_ne_true]

end Kept

theorem cfgImageApply_fault : cfgImageApply image false s c = complete s c.id stBUFFER_FAULT [] := rfl

/-- The part of the buffer that the image fills. -/
abbrev imageOf (image : List Byte) (c : Cmd) : List Byte := image.take (bufLen c)

/-- An image whose length or structure is not the format's. -/
theorem cfgImageApply_format (h : (imageOf image c).length ≠ bufLen c ∨ imageForm (imageOf image c) = false) :
    cfgImageApply image true s c = complete s c.id stCFG_FORMAT [] :=
  if_pos (h.imp_right fun h => by rw [h]; rfl)

section Form
variable (hlen : (imageOf image c).length = bufLen c) (hform : imageForm (imageOf image c) = true)
include hlen hform

/-- A well-formed image: its signature, its partition, and the partition's open transaction are checked in this order. -/
theorem cfgImageApply_formed : cfgImageApply image true s c =
    if !imageSigned s (imageOf image c) then complete s c.id stCFG_SIG []
    else if le (imageOf image c) 6 1 ≠ c.pt then complete s c.id stNOT_OWNER []
    else if (txnOf s c.pt).isSome then complete s c.id stCFG_TXN_OPEN []
    else
      let s1 : State := { s with cfg := { s.cfg with txns := s.cfg.txns ++ [⟨c.pt, false, []⟩] } }
      let r := imageEntries s1 c.pt ((List.range (le (imageOf image c) 12 4)).map fun i => slice (imageOf image c) (64 + 56 * i) 56)
      if r.2 = stDONE then imageCommit r.1 c (imageOf image c) else complete (closeTxn r.1 c.pt) c.id r.2 [] := by
  refine if_neg ?_
  rintro (h | h)
  · exact h hlen
  · rw [hform] at h
    exact Bool.false_ne_true h

theorem cfgImageApply_unsigned (hsig : imageSigned s (imageOf image c) = false) :
    cfgImageApply image true s c = complete s c.id stCFG_SIG [] := by
  rw [cfgImageApply_formed hlen hform, hsig]
  rfl

variable (hsig : imageSigned s (imageOf image c) = true)
include hsig

theorem cfgImageApply_otherPt (hpt : le (imageOf image c) 6 1 ≠ c.pt) :
    cfgImageApply image true s c = complete s c.id stNOT_OWNER [] := by
  rw [cfgImageApply_formed hlen hform, hsig, if_pos hpt]
  rfl

variable (hpt : le (imageOf image c) 6 1 = c.pt)
include hpt

theorem cfgImageApply_open (htxn : (txnOf s c.pt).isSome = true) :
    cfgImageApply image true s c = complete s c.id stCFG_TXN_OPEN [] := by
  rw [cfgImageApply_formed hlen hform, hsig, if_neg (not_not_intro hpt), if_pos htxn]
  rfl

/-- An image that passes every check runs its entries in a transaction of its own. -/
theorem cfgImageApply_runs (htxn : txnOf s c.pt = none) : cfgImageApply image true s c =
    (let s1 : State := { s with cfg := { s.cfg with txns := s.cfg.txns ++ [⟨c.pt, false, []⟩] } }
     let r := imageEntries s1 c.pt ((List.range (le (imageOf image c) 12 4)).map fun i => slice (imageOf image c) (64 + 56 * i) 56)
     if r.2 = stDONE then imageCommit r.1 c (imageOf image c) else complete (closeTxn r.1 c.pt) c.id r.2 []) := by
  rw [cfgImageApply_formed hlen hform, hsig, if_neg (not_not_intro hpt), htxn]
  rfl

end Form

end Command

/-- Settles O33: the semaphore, the four commands under it, and the checks of an image in their order are the lemmas above. -/
theorem configurationCommands : Obligations.ConfigurationCommands := by
  refine ⟨fun s id c hsem => ⟨fun hready => ?_, fun hready => ?_, fun hready => ?_, fun hready => ?_⟩,
    fun s id c x hready hsem => ⟨fun hhcu hwait => next_congr (runCfg_joins _ hready hsem hhcu hwait), fun hhcu hcmd => ?_⟩,
    fun s id c image ok hready => ⟨fun hlost => ?_, fun x hlost hsem hhcu => ?_, fun hlost hsem => ?_⟩⟩
  · have hfree := runCfg_free cfgOpen hready hsem
    exact ⟨fun h => next_congr (hfree.trans (cfgOpen_twice h)), fun h => next_congr (hfree.trans (cfgOpen_opens h))⟩
  · have hset {t : State} {st : Nat} (h : cfgSetEff s c.pt (setKey c) (setWords c) = (t, st)) :
        exec (.cfgSet id) s = .next (complete t c.id st []) :=
      next_congr ((runCfg_free cfgSet hready hsem).trans (cfgSet_eff h))
    exact ⟨fun h => hset (cfgSetEff_closed h), fun t ht hcommit => ⟨fun hlen hnew => hset (cfgSetEff_full ht hcommit hlen hnew),
      fun hlen => hset (cfgSetEff_put ht hcommit hlen)⟩⟩
  · have hfree := runCfg_free cfgCommit hready hsem
    exact ⟨fun h => next_congr (hfree.trans (cfgCommit_closed h)),
      fun t ht hcommit => next_congr (hfree.trans (cfgCommit_states ht hcommit))⟩
  · have hfree := runCfg_free cfgAbort hready hsem
    exact ⟨fun k h => next_congr (hfree.trans (cfgAbort_cancels h)), fun h => next_congr (hfree.trans (cfgAbort_closes h))⟩
  · exact next_congr ((runCfg_held _ hready hsem).trans (if_pos ⟨hhcu, hcmd⟩))
  · exact next_congr ((runCmd_ready _ hready).trans (imageHeld_lost hlost))
  · exact next_congr ((runCmd_ready _ hready).trans (imageHeld_waits hlost hsem hhcu))
  · have hacts {ok : Bool} {t : State} (h : cfgImageApply image ok s c = t) : exec (.cfgImageApply id image ok) s = .next t :=
      next_congr ((runCmd_ready _ hready).trans ((imageHeld_acts hlost hsem).trans h))
    exact ⟨hacts cfgImageApply_fault, fun h => hacts (cfgImageApply_format h),
      fun hlen hform hsig => hacts (cfgImageApply_unsigned hlen hform hsig),
      fun hlen hform hsig hpt => hacts (cfgImageApply_otherPt hlen hform hsig hpt),
      fun hlen hform hsig hpt htxn => hacts (cfgImageApply_open hlen hform hsig hpt htxn),
      fun hlen hform hsig hpt htxn => hacts (cfgImageApply_runs hlen hform hsig hpt htxn)⟩

end Sys2Proof.Machine
end

section
/-! PROOFS. The family of the command reference, hold-up bank: its samples and the ledger, the start of a test and its end. -/

namespace Sys2Proof.Machine

section Bank
variable {s : State}

/-! ## Samples and the ledger (R547, R548, R550) -/

/-- The bank with a sample of `mv` mV and energy `e`, and the powers that the ledger takes with it. -/
def hupSampled (h : Hup) (mv e : Nat) : Hup :=
  { h with v := BitVec.ofNat 16 (min 65535 mv), eBank := e, pHold := h.holdW.toNat, pShed := h.shedW.toNat }

theorem hupSample_set {code : BitVec 12} (h : s.hup.vMin ≠ 0) : hupSample code s = ledgerJudge { s with
    hup := hupSampled s.hup (bankMv s code.toNat) (bankEnergy s (bankMv s code.toNat)) } := by
  unfold hupSample
  dsimp only
  rw [if_neg h, if_neg h]
  rfl

/-- With V_MIN 0 the energy is a free value. -/
theorem hupSample_unset {code : BitVec 12} (h : s.hup.vMin = 0) : hupSample code s = ledgerJudge { s with
    freeCtr := s.freeCtr + 1, hup := hupSampled s.hup (bankMv s code.toNat) ((freeVal s).toNat % 2 ^ 32) } := by
  unfold hupSample
  dsimp only
  rw [if_pos h, if_pos h]
  rfl

/-- In LOW the bank must cover the whole ledger with 1,000 uJ more. -/
theorem ledgerJudge_low (hlow : s.hup.low = true) : ledgerJudge s =
    if held s + 2000000 ≤ 2000 * s.hup.eBank then { s with hup := { s.hup with low := false } } else s := if_pos hlow

/-- Otherwise it must cover the stores and the reserve. -/
theorem ledgerJudge_notLow (hlow : s.hup.low = false) : ledgerJudge s =
    if 2000 * s.hup.eBank < heldStores s + reserve s then
      raise { s with hup := { s.hup with low := true } } 670 3 s.hup.cap.toNat
    else s := if_neg (by rw [hlow]; exact Bool.false_ne_true)

/-! ## The start of a test (R546) -/

/-- The state in which a periodic test has fallen due at this grain. -/
def testDue (s : State) : State := { s with hup := { s.hup with dueAt := s.gr.count } }

theorem hupTestStart_notDue
    (h : s.hup.period = 0 ∨ s.pwr.shed.isSome = true ∨ since s s.hup.dueAt < s.hup.period.toNat * 1000000000) :
    hupTestStart s = s :=
  if_pos h

/-- A periodic test that is due is dropped, starts, or is counted for want of its energy. -/
theorem hupTestStart_due (hper : s.hup.period ≠ 0) (hshed : s.pwr.shed = none)
    (hdue : s.hup.period.toNat * 1000000000 ≤ since s s.hup.dueAt) : hupTestStart s =
      if s.hup.test.isSome then testDue s
      else if covers s (testEnergy s) then testStart (testDue s) none
      else { testDue s with hup := { (testDue s).hup with skipped := satInc s.hup.skipped } } := by
  refine if_neg ?_
  rw [hshed]
  rintro (h | h | h)
  · exact hper h
  · exact Bool.false_ne_true h
  · exact absurd hdue (Nat.not_le.mpr h)

variable {c : Cmd}

theorem hupMeasure_waits (h : s.hup.test.isSome = true) : hupMeasure s c = s := if_pos h

/-- With no test running the command starts one where the bank covers it. -/
theorem hupMeasure_judged (h : s.hup.test = none) : hupMeasure s c =
    if covers s (testEnergy s) then running (testStart s (some c.id)) c.id else complete s c.id stHUP_BUSY [] :=
  if_neg (by rw [h]; exact Bool.false_ne_true)

/-! ## The end of a test (R225, R545, R546) -/

section TestEnd
variable {v0 v1 v2 : Nat}

theorem hupTestEnd_none (h : s.hup.test = none) : hupTestEnd v0 v1 v2 s = s := by rw [hupTestEnd, h]

theorem hupTestEnd_early (h : since s s.hup.testAt < 2000000) : hupTestEnd v0 v1 v2 s = s := by
  unfold hupTestEnd
  cases s.hup.test with
  | none => rfl
  | some k => exact if_pos h

/-- The state in which a test is discarded. -/
def testDiscarded (s : State) : State := { s with hup := { s.hup with test := none, skipped := satInc s.hup.skipped } }

/-- The state in which a test has given CAP and ESR. -/
def testMeasured (s : State) (v0 v1 v2 : Nat) : State :=
  { s with hup := { s.hup with
      test := none, cap := BitVec.ofNat 24 (testCap s v1 v2), esr := BitVec.ofNat 32 (testEsr s v0 v1 v2).toNat, valid := true } }

/-- Event 670 for a measured bank, with CODE 2 too below CAP_MIN. -/
def testReported (s : State) : State :=
  let r := raise s 670 1 s.hup.cap.toNat
  if r.hup.cap.toNat < r.hup.capMin.toNat then raise r 670 2 r.hup.cap.toNat else r

variable {k : Option Nat} (hk : s.hup.test = some k) (hend : 2000000 ≤ since s s.hup.testAt)
include hk hend

theorem hupTestEnd_bad (hbad : testBad s v0 v1 v2 = true) : hupTestEnd v0 v1 v2 s = testComplete (testDiscarded s) k true := by
  unfold hupTestEnd
  rw [hk]
  exact (if_neg (Nat.not_lt.mpr hend)).trans (if_pos hbad)

theorem hupTestEnd_good (hbad : testBad s v0 v1 v2 = false) :
    hupTestEnd v0 v1 v2 s = testComplete (testReported (testMeasured s v0 v1 v2)) k false := by
  unfold hupTestEnd
  rw [hk]
  exact (if_neg (Nat.not_lt.mpr hend)).trans (if_neg (by rw [hbad]; exact Bool.false_ne_true))

end TestEnd

end Bank

/-- Settles O37: samples, the ledger, the two starts of a test and its end are the lemmas above, branch by branch. -/
theorem holdUpBankRows : Obligations.HoldUpBankRows := by
  refine ⟨fun s code => ⟨fun h => next_congr (hupSample_set h), fun h => next_congr (hupSample_unset h),
      fun hlow h => (ledgerJudge_low hlow).trans (if_pos h), fun hlow h => (ledgerJudge_low hlow).trans (if_neg (Nat.not_le.mpr h)),
      fun hlow h => (ledgerJudge_notLow hlow).trans (if_pos h),
      fun hlow h => (ledgerJudge_notLow hlow).trans (if_neg (Nat.not_lt.mpr h))⟩,
    fun s => ⟨fun h => next_congr (hupTestStart_notDue h), fun hper hshed hdue => ?_⟩,
    fun s id c hready => ⟨fun h => ?_, fun h hcov => ?_, fun h hcov => ?_⟩,
    fun s v0 v1 v2 => ⟨fun h => next_congr (hupTestEnd_none h), fun h => next_congr (hupTestEnd_early h),
      fun k hk hend => ⟨fun hbad => ?_, fun hbad => ?_⟩⟩⟩
  · have hrow := hupTestStart_due hper hshed hdue
    refine ⟨fun h => next_congr (hrow.trans (if_pos h)), fun h hcov => next_congr (hrow.trans ?_),
      fun h hcov => next_congr (hrow.trans ?_)⟩
    · rw [h, hcov]
      rfl
    · rw [h, hcov]
      rfl
  · exact next_congr ((runCmd_ready _ hready).trans (hupMeasure_waits h))
  · refine next_congr ((runCmd_ready _ hready).trans ((hupMeasure_judged h).trans (if_neg ?_)))
    rw [hcov]
    exact Bool.false_ne_true
  · exact next_congr ((runCmd_ready _ hready).trans ((hupMeasure_judged h).trans (if_pos hcov)))
  · have hrow := hupTestEnd_bad hk hend hbad
    exact ⟨fun hnone => next_congr (by rw [hrow, hnone]; rfl), fun i hsome => next_congr (by rw [hrow, hsome]; rfl)⟩
  · intro n t r u
    have hrow : hupTestEnd v0 v1 v2 s = testComplete u k false := hupTestEnd_good hk hend hbad
    clear_value u
    exact ⟨fun hnone => next_congr (by rw [hrow, hnone]; rfl), fun i hsome => next_congr (by rw [hrow, hsome]; rfl)⟩

end Sys2Proof.Machine
end

section
/-! PROOFS. The family of the command reference, key services: the order of services, what each finds at its start, and its end. -/

namespace Sys2Proof.Machine

/-! ## A command joins the order of services (R201, R483) -/

section Join
variable {s : State} {id op : Nat} {c : Cmd} (buf : List Byte)

/-- The service of opcode `op` that a command asks for. -/
def serviceOf (id op : Nat) (c : Cmd) (input : List Byte) : Service :=
  { cmd := id, pt := c.pt, op := BitVec.ofNat 8 op, alg := par c 9 1, slot := par c 8 1, dest := par c 10 1, len := bufLen c
    input := input, endAt := none, slices := false, status := 0, output := [], outAt := 0, key := none }

/-- The input of an opcode: the buffer of one that reads it. -/
def inputOf (op : Nat) (c : Cmd) (buf : List Byte) : List Byte :=
  if decide (op = 0x51 ∨ op = 0x58 ∨ op = 0x59 ∨ op = 0x5A) then padTo (bufLen c) buf else []

theorem pkaCommand_joins (h : readyCmd s id op c) : pkaCommand op id buf true s =
    { running s id with pka := { (running s id).pka with
        queue := insService (serviceOf id op c (inputOf op c buf)) s.pka.queue } } := runCmd_ready _ h

/-- A command whose buffer is not read. -/
theorem pkaCommand_unread (h : readyCmd s id op c) : pkaCommand op id buf false s = complete s id stBUFFER_FAULT [] :=
  runCmd_ready _ h

end Join

/-! ## The head of the order begins (R483, R496, R502) -/

section Start
variable {s : State} {v : Service} {r : List Service}

/-- The services that still wait or run. -/
def servicesKept (s : State) : List Service := s.pka.queue.filter fun v => v.endAt.isSome || v.slices || serves s v

/-- The state with another order of services. -/
def withServices (s : State) (q : List Service) : State := { s with pka := { s.pka with queue := q } }

/-- The slots that a service names. -/
def serviceSlots (v : Service) : List Nat := if v.op = 0x5A then [v.slot, v.dest] else [v.slot]

variable (hq : servicesKept s = v :: r)
include hq

/-- The head begins where the unit is free, the firmware runs and nothing earlier is in its way. -/
theorem pkaServiceStart_head : pkaServiceStart s =
    if v.endAt.isSome || ccFenced s || s.dbg.halted then withServices s (v :: r)
    else if !v.slices &&
        (serviceMissing (withServices s (v :: r)) v.cmd || slotBusy (withServices s (v :: r)) v.cmd (serviceSlots v)) then
      withServices s (v :: r)
    else serviceBegin (withServices s (v :: r)) v r := by
  unfold pkaServiceStart
  dsimp only
  rw [show s.pka.queue.filter (fun v => v.endAt.isSome || v.slices || serves s v) = v :: r from hq]
  rfl

theorem pkaServiceStart_waits (h : v.endAt.isSome = true ∨ ccFenced s = true ∨ s.dbg.halted = true) :
    pkaServiceStart s = withServices s (v :: r) :=
  (pkaServiceStart_head hq).trans (if_pos (by rcases h with h | h | h <;> rw [h] <;> simp))

theorem pkaServiceStart_held (hslices : v.slices = false) (h : serviceMissing (withServices s (v :: r)) v.cmd = true ∨
    slotBusy (withServices s (v :: r)) v.cmd (serviceSlots v) = true) : pkaServiceStart s = withServices s (v :: r) := by
  rw [pkaServiceStart_head hq, hslices]
  refine ite_eq_left_iff.mpr fun _ => if_pos ?_
  rcases h with h | h <;> rw [h] <;> simp

section Free
variable (hend : v.endAt = none) (hcc : ccFenced s = false) (hrun : s.dbg.halted = false)
include hend hcc hrun

/-- With the unit free and the firmware running only what is earlier holds the head, and no slice of a generation. -/
theorem pkaServiceStart_free : pkaServiceStart s =
    if !v.slices &&
        (serviceMissing (withServices s (v :: r)) v.cmd || slotBusy (withServices s (v :: r)) v.cmd (serviceSlots v)) then
      withServices s (v :: r)
    else serviceBegin (withServices s (v :: r)) v r :=
  (pkaServiceStart_head hq).trans (if_neg (by rw [hend, hcc, hrun]; decide))

/-- A generation under way begins its next slice. -/
theorem pkaServiceStart_slice (hslices : v.slices = true) :
    pkaServiceStart s = withServices s ({ v with endAt := some (s.gr.count + 1000000) } :: r) :=
  (pkaServiceStart_free hq hend hcc hrun).trans ((if_neg (by rw [hslices]; exact Bool.false_ne_true)).trans (if_pos hslices))

theorem pkaServiceStart_begins (hslices : v.slices = false) (hmissing : serviceMissing (withServices s (v :: r)) v.cmd = false)
    (hbusy : slotBusy (withServices s (v :: r)) v.cmd (serviceSlots v) = false) :
    pkaServiceStart s = serviceBegin (withServices s (v :: r)) v r :=
  (pkaServiceStart_free hq hend hcc hrun).trans (if_neg (by rw [hslices, hmissing, hbusy]; decide))

end Free

end Start

section Begin
variable {s : State} {v : Service} {r : List Service}

/-- An RSA generation that may begin: its slot is its partition's and empty, and the DRBG gives random bytes. -/
abbrev RsaBegins (s : State) (v : Service) : Prop :=
  isRsaGen v = true ∧ keyOwner s v.slot = v.pt ∧ keyAt s v.slot = none ∧ s.pka.entOk = true ∧ s.pka.drbgOk = true

/-- A request after a reseed that draws no bytes. -/
theorem drawReq_reseed_zero (s : State) :
    (drawReq (reseed s) 0).1 = { s with pka := { s.pka with reqs := 1, seedAt := s.gr.count } } := by
  rw [drawReq, draw]
  rfl

theorem serviceBegin_rsa (hslices : v.slices = false) (h : RsaBegins s v) : serviceBegin s v r =
    { s with pka := { s.pka with
        queue := { v with endAt := some (s.gr.count + 1000000), slices := true } :: r, reqs := 1, seedAt := s.gr.count } } := by
  obtain ⟨hrsa, hown, hempty, hent, hdrbg⟩ := h
  unfold serviceBegin
  dsimp only
  rw [hslices, if_neg Bool.false_ne_true, if_pos ⟨hrsa, hown, by rw [hempty]; rfl, hent, hdrbg⟩, drawReq_reseed_zero]

/-- What any other service finds is fixed at its start, and its end lies its time later. -/
theorem serviceBegin_other (hslices : v.slices = false) (h : ¬ RsaBegins s v) : serviceBegin s v r =
    (let a := findService s v
     withServices a.1 ({ v with
       endAt := some (s.gr.count + BitVec.ofNat 64 a.2.time), status := a.2.status, output := a.2.output, outAt := a.2.outAt
       key := a.2.key } :: r)) :=
  (if_neg (by rw [hslices]; exact Bool.false_ne_true)).trans
    (if_neg fun ⟨hrsa, hown, hempty, hent, hdrbg⟩ => h ⟨hrsa, hown, Option.isNone_iff_eq_none.mp hempty, hent, hdrbg⟩)

end Begin

/-! ## What a service finds (R485, R486, R490-R496) -/

section Find
variable {s : State} {v : Service}

theorem findService_verify (hop : v.op = 0x59) : findService s v =
    (s, let r := verifyStatus v.alg v.input v.len
        if r.1 = stDONE then foundDone r.2 [] 0 none else foundFail r.1 r.2) := if_pos hop

theorem findService_random (hop : v.op = 0x5B) : findService s v = findRandom s v :=
  (if_neg (by rw [hop]; decide)).trans (if_pos hop)

theorem findService_notOwner (hown : keyOwner s v.slot ≠ v.pt) (hverify : v.op ≠ 0x59) (hrandom : v.op ≠ 0x5B) :
    findService s v = (s, foundFail stNOT_OWNER 0) :=
  (if_neg hverify).trans ((if_neg hrandom).trans (if_pos (by simp [hown])))

/-- What an import has found: its key, or the status of its first failing check. -/
def importFound (v : Service) (a : Nat × Option KeySlot) : Found :=
  match a.2 with
  | some x => foundDone 8000 [] 0 (some (v.slot, x))
  | none => foundFail a.1 8000

/-- What the service of an owner finds, by its opcode. -/
def findOwned (s : State) (v : Service) (op : BitVec 8) : State × Found :=
  if op = 0x50 then findGenerate s v
  else if op = 0x51 then (s, importFound v (importKey s v.pt v.slot v.input v.len))
  else if op = 0x52 then findExport s v
  else if op = 0x58 then findSign s v
  else findAgree s v

/-- A service of the owner of its slots is the one of its opcode. -/
theorem findService_owned {op : BitVec 8} (hown : keyOwner s v.slot = v.pt) (hop : v.op = op) (hverify : op ≠ 0x59)
    (hrandom : op ≠ 0x5B) (hdest : op = 0x5A → keyOwner s v.dest = v.pt) : findService s v = findOwned s v op := by
  subst hop
  exact (if_neg hverify).trans ((if_neg hrandom).trans (if_neg (by simpa [hown] using hdest)))

theorem findService_oneSlot {op : BitVec 8} (hown : keyOwner s v.slot = v.pt) (hop : v.op = op)
    (h : op ≠ 0x59 ∧ op ≠ 0x5B ∧ op ≠ 0x5A) : findService s v = findOwned s v op := by
  obtain ⟨hverify, hrandom, hagree⟩ := h
  exact findService_owned hown hop hverify hrandom fun h => absurd h hagree

/-! KEY_GENERATE -/

theorem findGenerate_occupied (h : (keyAt s v.slot).isSome = true) : findGenerate s v = (s, foundFail stKEY_OCCUPIED 0) := if_pos h

section Empty
variable (hempty : keyAt s v.slot = none)
include hempty

theorem findGenerate_entropyFail (h : s.pka.entOk = false ∨ s.pka.drbgOk = false) :
    findGenerate s v = (s, foundFail stENTROPY_FAIL 0) := by
  refine (if_neg (by rw [hempty]; exact Bool.false_ne_true)).trans (if_pos ?_)
  rcases h with h | h <;> rw [h] <;> simp

/-- A fresh reseed, then a key of the curve, or one of 32 drawn bytes. -/
theorem findGenerate_draws (hent : s.pka.entOk = true) (hdrbg : s.pka.drbgOk = true) : findGenerate s v =
    if v.alg ≤ 3 then
      let a := drawReq (reseed s) ((curveOf v.alg).len + 8)
      (a.1, foundDone (genTime v.alg) [] 0
        (some (v.slot, privKey v.alg (beBytes (curveOf v.alg).len (beNat a.2 % ((curveOf v.alg).n - 1) + 1)))))
    else
      let a := drawReq (reseed s) 32
      (a.1, foundDone (genTime v.alg) [] 0 (some (v.slot, if v.alg ≤ 5 then privKey v.alg a.2 else secretKey v.alg a.2))) :=
  (if_neg (by rw [hempty]; exact Bool.false_ne_true)).trans (if_neg (by rw [hent, hdrbg]; decide))

end Empty

/-! KEY_EXPORT -/

theorem findExport_empty (h : keyAt s v.slot = none) : findExport s v = (s, foundFail stKEY_EMPTY 0) := by rw [findExport, h]

theorem findExport_full {x : KeySlot} (h : keyAt s v.slot = some x) : findExport s v =
    if v.len < 44 + (formOf x).length then (s, foundFail stBAD_PARAM 0)
    else ((drawReq s 12).1, foundDone 8000 (blobSeal v.pt x (drawReq s 12).2) 0 none) := by rw [findExport, h]

/-! PKA_SIGN -/

/-- What a signature over a well-formed input finds with the key `x` of its slot. -/
def signFound (s : State) (v : Service) (x : KeySlot) : State × Found :=
  if x.kind ≠ 1 ∨ x.alg.toNat = 5 then (s, foundFail stKEY_TYPE 0)
  else if !mlenOk x.alg.toNat (le v.input 0 2) ∨ (x.alg.toNat ≤ 4 ∧ le v.input 2 1 ≠ 0) then (s, foundFail stBAD_PARAM 0)
  else
    let a := signWith s x (le v.input 2 1) (slice v.input 4 (le v.input 0 2))
    (a.1, foundDone (signTime x.alg.toNat (le v.input 0 2)) a.2 v.len none)

section Sign
variable (hzero : zeros v.input 3 1 = true) (hlen : v.len = 4 + le v.input 0 2) (hscheme : le v.input 2 1 ≤ 1)
include hzero hlen hscheme

theorem findSign_formed : findSign s v = (keyAt s v.slot).elim (s, foundFail stKEY_EMPTY 0) (signFound s v) := by
  refine (if_neg ?_).trans ?_
  · rw [hzero]
    rintro (h | h | h)
    · exact absurd hscheme (Nat.not_le.mpr h)
    · exact Bool.false_ne_true h
    · exact h hlen
  · cases keyAt s v.slot <;> rfl

theorem findSign_empty (h : keyAt s v.slot = none) : findSign s v = (s, foundFail stKEY_EMPTY 0) := by
  rw [findSign_formed hzero hlen hscheme, h, Option.elim_none]

theorem findSign_full {x : KeySlot} (hx : keyAt s v.slot = some x) : findSign s v = signFound s v x := by
  rw [findSign_formed hzero hlen hscheme, hx, Option.elim_some]

end Sign

section SignKey
variable {x : KeySlot}

theorem signFound_type (h : x.kind ≠ 1 ∨ x.alg = 5) : signFound s v x = (s, foundFail stKEY_TYPE 0) :=
  if_pos (h.imp_right fun h => by rw [h]; rfl)

theorem signFound_signs (hkind : x.kind = 1) (halg : x.alg ≠ 5) (hmlen : mlenOk x.alg.toNat (le v.input 0 2) = true)
    (hplain : x.alg.toNat ≤ 4 → le v.input 2 1 = 0) : signFound s v x =
      (let a := signWith s x (le v.input 2 1) (slice v.input 4 (le v.input 0 2))
       (a.1, foundDone (signTime x.alg.toNat (le v.input 0 2)) a.2 v.len none)) := by
  refine (if_neg ?_).trans (if_neg ?_)
  · rintro (h | h)
    · exact h hkind
    · exact halg (BitVec.eq_of_toNat_eq h)
  · rw [hmlen]
    rintro (h | ⟨hcurve, hscheme⟩)
    · exact Bool.false_ne_true h
    · exact hscheme (hplain hcurve)

end SignKey

/-! PKA_AGREE -/

section Agree
variable (hlen : (pubLens v.alg).contains v.len = true)
include hlen

theorem findAgree_empty (h : keyAt s v.slot = none) : findAgree s v = (s, foundFail stKEY_EMPTY 0) := by
  rw [findAgree, hlen, h]
  rfl

variable {x : KeySlot} (hx : keyAt s v.slot = some x)
include hx

theorem findAgree_occupied (h : (keyAt s v.dest).isSome = true) : findAgree s v = (s, foundFail stKEY_OCCUPIED 0) := by
  rw [findAgree, hlen, hx]
  exact if_pos h

variable (hdest : keyAt s v.dest = none) (hkind : x.kind = 1) (halg : x.alg.toNat = v.alg)
include hdest hkind halg

/-- A secret key of the algorithm meets the point. -/
theorem findAgree_meets : findAgree s v =
    match agreeZ v.alg x v.input with
    | none => (s, foundFail stPOINT (agreeTime v.alg))
    | some z => (s, foundDone (agreeTime v.alg) [] 0 (some (v.dest, secretKey 10 (hmac256 (List.replicate 32 0) z)))) := by
  rw [findAgree, hlen, hx]
  dsimp only
  rw [hdest]
  exact (if_neg Bool.false_ne_true).trans ((if_neg Bool.false_ne_true).trans
    (if_neg fun h => h.elim (fun h => h hkind) (fun h => h halg)))

end Agree

/-! RNG_READ -/

theorem findRandom_entropyFail (h : s.pka.entOk = false ∨ s.pka.drbgOk = false) :
    findRandom s v = (s, foundFail stENTROPY_FAIL 0) :=
  if_pos (by rcases h with h | h <;> rw [h] <;> simp)

theorem findRandom_draws (hent : s.pka.entOk = true) (hdrbg : s.pka.drbgOk = true) : findRandom s v =
    ((drawReq (reseed s) v.len).1, foundDone (1000 * ((v.len + 63) / 64)) (drawReq (reseed s) v.len).2 0 none) :=
  if_neg (by rw [hent, hdrbg]; decide)

end Find

/-! ## The end of a service (R222, R483, R504) -/

section End
variable {s : State} {v : Service} {r : List Service} {ok : Bool} {c : Cmd}

/-- The state in which the service has left the order and filled its slot. -/
def serviceLeft (s : State) (v : Service) (r : List Service) : State :=
  match v.key with
  | some (k, x) => setKeySlot (withServices s r) k (some x)
  | none => withServices s r

/-- Filling the slot leaves the commands. -/
theorem cmdAt_serviceLeft (s : State) (v : Service) (r : List Service) (id : Nat) : cmdAt (serviceLeft s v r) id = cmdAt s id := by
  unfold serviceLeft
  cases v.key <;> rfl

/-- A service whose command is still there completes it, with its output where it has one. -/
theorem serviceEnd_completes (hc : cmdAt s v.cmd = some c) : serviceEnd s v r ok =
    if v.status = stDONE ∧ !v.output.isEmpty then bufOut (serviceLeft s v r) c ok v.outAt v.output stDONE (outLen v)
    else complete (serviceLeft s v r) v.cmd v.status [] := by
  have hleft := (cmdAt_serviceLeft s v r v.cmd).trans hc
  unfold serviceEnd
  unfold serviceLeft at hleft ⊢
  cases hkey : v.key with
  | none =>
    rw [hkey] at hleft
    dsimp only at hleft ⊢
    rw [show cmdAt { s with pka := { s.pka with queue := r } } v.cmd = some c from hleft]
    rfl
  | some e =>
    rw [hkey] at hleft
    dsimp only at hleft ⊢
    rw [show cmdAt (setKeySlot { s with pka := { s.pka with queue := r } } e.1 (some e.2)) v.cmd = some c from hleft]
    rfl

theorem serviceEnd_status (hc : cmdAt s v.cmd = some c) (h : v.status ≠ stDONE ∨ v.output = []) :
    serviceEnd s v r ok = complete (serviceLeft s v r) v.cmd v.status [] := by
  rw [serviceEnd_completes hc]
  refine if_neg fun ⟨hst, hout⟩ => ?_
  rcases h with h | h
  · exact h hst
  · rw [h] at hout
    exact Bool.false_ne_true hout

/-- An output is written to the buffer. -/
theorem serviceEnd_output (hc : cmdAt s v.cmd = some c) (hst : v.status = stDONE) (hout : v.output ≠ []) :
    serviceEnd s v r ok = bufOut (serviceLeft s v r) c ok v.outAt v.output stDONE (outLen v) := by
  rw [serviceEnd_completes hc]
  exact if_pos ⟨hst, by rw [Bool.not_eq_true', List.isEmpty_eq_false_iff]; exact hout⟩

variable (hq : s.pka.queue = v :: r)
include hq

/-- Before its end, and for a generation in slices, the head does not release. -/
theorem pkaServiceRelease_none (h : v.endAt = none ∨ v.slices = true ∨ (∃ g, v.endAt = some g ∧ reached s g = false)) :
    pkaServiceRelease ok s = s := by
  rw [pkaServiceRelease, hq]
  dsimp only
  cases hend : v.endAt with
  | none => rfl
  | some g =>
    refine if_neg fun hrel => ?_
    rw [Bool.and_eq_true, Bool.not_eq_true'] at hrel
    obtain ⟨hslices, hreached⟩ := hrel
    rcases h with h | h | ⟨g', hg', h⟩
    · exact nomatch hend.symm.trans h
    · exact Bool.false_ne_true (hslices.symm.trans h)
    · obtain rfl := Option.some.inj (hend.symm.trans hg')
      exact Bool.false_ne_true (h.symm.trans hreached)

theorem pkaServiceRelease_ends {g : Grain} (hend : v.endAt = some g) (hslices : v.slices = false) (hreached : reached s g = true) :
    pkaServiceRelease ok s = serviceEnd s v r ok := by
  rw [pkaServiceRelease, hq]
  dsimp only
  rw [hend, hslices]
  exact if_pos hreached

theorem keygenSliceEnd_none (h : v.slices = false ∨ v.endAt = none) : keygenSliceEnd ok s = s := by
  rw [keygenSliceEnd, hq]
  exact if_neg fun ⟨hslices, hend⟩ =>
    h.elim (fun h => Bool.false_ne_true (h.symm.trans hslices)) (fun h => by rw [h] at hend; exact Bool.false_ne_true hend)

/-- A slice that ends puts the generation behind the others, or ends it with its key. -/
theorem keygenSliceEnd_slice (hslices : v.slices = true) (hend : v.endAt.isSome = true) : keygenSliceEnd ok s =
    if ok then serviceEnd s { v with status := stDONE, key := some (v.slot, privKey v.alg (rsaForm v.alg s.pka.draws)) } r true
    else withServices s (r ++ [{ v with endAt := none }]) := by
  rw [keygenSliceEnd, hq]
  exact if_pos ⟨hslices, hend⟩

end End

/-- Settles O38: joining the order, the start, what each service finds, and its end are the lemmas above. -/
theorem keyServices : Obligations.KeyServices := by
  refine ⟨fun s id c buf => ⟨fun h => ?_, fun h => ⟨?_, ?_⟩, fun h => ?_, fun h => ⟨?_, ?_⟩, fun h => ⟨?_, ?_⟩, fun h => ⟨?_, ?_⟩,
      fun h => ?_⟩,
    fun s v r hq => ?_, fun s v => ?_, fun s v r ok hq => ?_⟩
  · exact next_congr (pkaCommand_joins _ h)
  · exact next_congr (pkaCommand_joins _ h)
  · exact next_congr (pkaCommand_unread _ h)
  · exact next_congr (pkaCommand_joins _ h)
  · exact next_congr (pkaCommand_joins _ h)
  · exact next_congr (pkaCommand_unread _ h)
  · exact next_congr (pkaCommand_joins _ h)
  · exact next_congr (pkaCommand_unread _ h)
  · exact next_congr (pkaCommand_joins _ h)
  · exact next_congr (pkaCommand_unread _ h)
  · exact next_congr (pkaCommand_joins _ h)
  · intro s1 l rsa
    refine ⟨fun h => next_congr (pkaServiceStart_waits hq h), fun hslices h => next_congr (pkaServiceStart_held hq hslices h),
      fun hend hcc hrun => ⟨fun hslices => next_congr (pkaServiceStart_slice hq hend hcc hrun hslices),
        fun hslices hmissing hbusy => ?_⟩⟩
    have hbegin := pkaServiceStart_begins hq hend hcc hrun hslices hmissing hbusy
    exact ⟨fun hrsa => next_congr (hbegin.trans (serviceBegin_rsa hslices hrsa)),
      fun hrsa => next_congr (hbegin.trans (serviceBegin_other hslices hrsa))⟩
  · refine ⟨findService_notOwner, fun hown hop => ?_, fun hown hop => ?_, fun hown hop => ?_, fun hown hop hzero hlen hscheme => ?_,
      fun hown hdest hop hlen => ?_, fun hop h => (findService_random hop).trans (findRandom_entropyFail h),
      fun hop hent hdrbg => (findService_random hop).trans (findRandom_draws hent hdrbg), findService_verify⟩
    · have hfind : findService s v = findGenerate s v := findService_oneSlot hown hop (by decide)
      exact ⟨fun h => hfind.trans (findGenerate_occupied h), fun hempty h => hfind.trans (findGenerate_entropyFail hempty h),
        fun hempty hent hdrbg halg =>
          hfind.trans ((findGenerate_draws hempty hent hdrbg).trans (if_neg (Nat.not_le.mpr halg))),
        fun hempty hent hdrbg halg => hfind.trans ((findGenerate_draws hempty hent hdrbg).trans (if_pos halg))⟩
    · have hfind : findService s v = (s, importFound v (importKey s v.pt v.slot v.input v.len)) :=
        findService_oneSlot hown hop (by decide)
      exact ⟨fun x st h => hfind.trans (by rw [h]; rfl), fun st h => hfind.trans (by rw [h]; rfl)⟩
    · have hfind : findService s v = findExport s v := findService_oneSlot hown hop (by decide)
      exact ⟨fun h => hfind.trans (findExport_empty h), fun x hx hlen => hfind.trans ((findExport_full hx).trans (if_pos hlen)),
        fun x hx hlen => hfind.trans ((findExport_full hx).trans (if_neg (Nat.not_lt.mpr hlen)))⟩
    · have hfind : findService s v = findSign s v := findService_oneSlot hown hop (by decide)
      exact ⟨fun h => hfind.trans (findSign_empty hzero hlen hscheme h),
        fun x hx h => hfind.trans ((findSign_full hzero hlen hscheme hx).trans (signFound_type h)),
        fun x hx hkind halg hmlen hplain =>
          hfind.trans ((findSign_full hzero hlen hscheme hx).trans (signFound_signs hkind halg hmlen hplain))⟩
    · have hfind : findService s v = findAgree s v := findService_owned hown hop (by decide) (by decide) fun _ => hdest
      refine ⟨fun h => hfind.trans (findAgree_empty hlen h), fun x hx h => hfind.trans (findAgree_occupied hlen hx h),
        fun x hx hempty hkind halg => ?_⟩
      have hmeets := hfind.trans (findAgree_meets hlen hx hempty hkind halg)
      exact ⟨fun h => by rw [hmeets, h], fun z h => by rw [hmeets, h]⟩
  · refine ⟨fun h => next_congr (pkaServiceRelease_none hq h), fun g c hend hslices hreached hc => ?_,
      fun h => next_congr (keygenSliceEnd_none hq h), fun hslices hend => ⟨next_congr (keygenSliceEnd_slice hq hslices hend),
        fun c hout hc => next_congr ((keygenSliceEnd_slice hq hslices hend).trans (serviceEnd_status hc (.inr hout)))⟩⟩
    have hrel (ok : Bool) := pkaServiceRelease_ends (ok := ok) hq hend hslices hreached
    exact ⟨fun h => next_congr ((hrel ok).trans (serviceEnd_status hc h)), fun hst hout =>
      ⟨next_congr ((hrel true).trans (serviceEnd_output hc hst hout)),
        next_congr ((hrel false).trans (serviceEnd_output hc hst hout))⟩⟩

end Sys2Proof.Machine
end

section
/-! PROOFS. The family of the command reference, key slots and entropy: commands without the datapath, the entropy source and the
DRBG, and the multiply-accumulate datapath. -/

namespace Sys2Proof.Machine

/-! ## Commands without the datapath (R224, R349, R489, R502) -/

section Command
variable {s : State} {id : Nat} {c : Cmd}

/-- A command of one slot names it. -/
theorem slotsNamed_one (h : opOf c = 0x53 ∨ opOf c = 0x54) : slotsNamed c = [par c 8 1] := by
  unfold slotsNamed
  dsimp only
  rcases h with h | h <;> (rw [h]; rfl)

section Public
variable {ok : Bool} (h : readyCmd s id 0x53 c)
include h

/-- KEY_PUBLIC waits for what is earlier on its slot, and else reads it. -/
theorem keyPublic_ready : keyPublic id ok s =
    if slotBusy s id [par c 8 1] then s
    else (keyAt s (par c 8 1)).elim (complete s id stKEY_EMPTY []) fun x =>
      if x.kind = 3 then complete s id stKEY_TYPE []
      else if bufLen c < x.pub.length then complete s id stBAD_PARAM []
      else bufOut s c ok 0 x.pub stDONE (leBytes 2 x.pub.length) := by
  rw [keyPublic, runCmd_ready _ h, slotsNamed_one (.inl (readyCmd_op h))]
  cases keyAt s (par c 8 1) <;> rfl

variable (hfree : slotBusy s id [par c 8 1] = false)
include hfree

theorem keyPublic_empty (hx : keyAt s (par c 8 1) = none) : keyPublic id ok s = complete s id stKEY_EMPTY [] := by
  rw [keyPublic_ready h, hfree, hx]
  rfl

variable {x : KeySlot} (hx : keyAt s (par c 8 1) = some x)
include hx

theorem keyPublic_full : keyPublic id ok s =
    if x.kind = 3 then complete s id stKEY_TYPE []
    else if bufLen c < x.pub.length then complete s id stBAD_PARAM []
    else bufOut s c ok 0 x.pub stDONE (leBytes 2 x.pub.length) := by
  rw [keyPublic_ready h, hfree, hx]
  rfl

/-- The public form is written to a buffer that holds it. -/
theorem keyPublic_writes (hkind : x.kind ≠ 3) (hlen : x.pub.length ≤ bufLen c) :
    keyPublic id ok s = bufOut s c ok 0 x.pub stDONE (leBytes 2 x.pub.length) :=
  (keyPublic_full h hfree hx).trans ((if_neg hkind).trans (if_neg (Nat.not_lt.mpr hlen)))

end Public

section Zeroise
variable (h : readyCmd s id 0x54 c)
include h

/-- KEY_ZEROISE waits for what is earlier on its slot, and else empties it. -/
theorem keyZeroise_ready : keyZeroise id s =
    if slotBusy s id [par c 8 1] then s
    else (keyAt s (par c 8 1)).elim (complete s id stNOTE []) fun _ =>
      complete (setKeySlot s (par c 8 1) none) id stDONE [] := by
  rw [keyZeroise, runCmd_ready _ h, slotsNamed_one (.inr (readyCmd_op h))]
  cases keyAt s (par c 8 1) <;> rfl

variable (hfree : slotBusy s id [par c 8 1] = false)
include hfree

theorem keyZeroise_empty (hx : keyAt s (par c 8 1) = none) : keyZeroise id s = complete s id stNOTE [] := by
  rw [keyZeroise_ready h, hfree, hx]
  rfl

theorem keyZeroise_full (hx : (keyAt s (par c 8 1)).isSome = true) :
    keyZeroise id s = complete (setKeySlot s (par c 8 1) none) id stDONE [] := by
  obtain ⟨x, hx⟩ := Option.isSome_iff_exists.mp hx
  rw [keyZeroise_ready h, hfree, hx]
  rfl

end Zeroise

section TagFlow
variable (h : readyCmd s id 0x5C c)
include h

/-- The state in which the tag flow that the command names holds `w` and the command completes. -/
def tagFlowPut (s : State) (id : Nat) (c : Cmd) (w : BitVec 16) : State :=
  complete { s with fwd := { s.fwd with tagFlows := tset (fun _ => 0) s.fwd.tagFlows (parBits c 10 0 12) w } } id stDONE []

/-- TAG_FLOW_SET waits for what is earlier on its slot, frees its flow with MODE 0, and else claims it. -/
theorem tagFlowSet_ready : tagFlowSet id s =
    if slotBusy s id (slotsNamed c) then s
    else if par c 12 1 = 0 then tagFlowPut s id c 0
    else (keyAt s (par c 8 1)).elim (complete s id stKEY_EMPTY []) fun x =>
      if x.kind = 3 ∧ x.alg.toNat = (if par c 12 1 = 1 then 11 else 10) then
        tagFlowPut s id c (BitVec.ofNat 16 (par c 12 1 + 4 * par c 8 1 + 256 * c.pt))
      else complete s id stKEY_TYPE [] := by
  rw [tagFlowSet, runCmd_ready _ h]
  dsimp only
  cases keyAt s (par c 8 1) <;> rfl

theorem tagFlowSet_waits (hbusy : slotBusy s id (slotsNamed c) = true) : tagFlowSet id s = s :=
  (tagFlowSet_ready h).trans (if_pos hbusy)

variable (hfree : slotBusy s id (slotsNamed c) = false)
include hfree

theorem tagFlowSet_frees (hmode : par c 12 1 = 0) : tagFlowSet id s = tagFlowPut s id c 0 := by
  rw [tagFlowSet_ready h, hfree]
  exact if_pos hmode

variable (hmode : par c 12 1 ≠ 0)
include hmode

theorem tagFlowSet_empty (hx : keyAt s (par c 8 1) = none) : tagFlowSet id s = complete s id stKEY_EMPTY [] := by
  rw [tagFlowSet_ready h, hfree, if_neg hmode, hx]
  rfl

/-- A flow is claimed with a secret of the algorithm of its mode. -/
theorem tagFlowSet_full {x : KeySlot} (hx : keyAt s (par c 8 1) = some x) : tagFlowSet id s =
    if x.kind = 3 ∧ x.alg.toNat = (if par c 12 1 = 1 then 11 else 10) then
      tagFlowPut s id c (BitVec.ofNat 16 (par c 12 1 + 4 * par c 8 1 + 256 * c.pt))
    else complete s id stKEY_TYPE [] := by
  rw [tagFlowSet_ready h, hfree, if_neg hmode, hx]
  rfl

end TagFlow

end Command

/-! ## Entropy and the DRBG (R495, R496, R501) -/

section Entropy
variable {s : State}

theorem pkaKeystore_empty {k : Nat} (h : keyAt s k = none) : pkaKeystore k s = s :=
  if_neg (by rw [h]; exact Bool.false_ne_true)

theorem pkaKeystore_full {k : Nat} (h : (keyAt s k).isSome = true) :
    pkaKeystore k s = raise (kFault (setKeySlot s k none) 7 0x84 (some (keyOwner s k)) k) 667 0 k := if_pos h

theorem entropyPass_none (h : s.pka.entOk = true ∨ s.dev.inReset = true) : entropyPass s = s :=
  if_pos (by rcases h with h | h <;> rw [h] <;> simp)

/-- The start-up test recovers an instantiated DRBG, and instantiates it the first time. -/
theorem entropyPass_passes (hent : s.pka.entOk = false) (hrst : s.dev.inReset = false) : entropyPass s =
    if s.pka.inst then raise { s with pka := { s.pka with entOk := true } } 666 2 0
    else { s with pka := { s.pka with entOk := true, inst := true, drbgOk := true, reqs := 0, seedAt := s.gr.count } } :=
  if_neg (by rw [hent, hrst]; decide)

/-- A scheduled reseed is due. -/
abbrev ReseedDue (s : State) : Prop :=
  s.pka.drbgOk = true ∧ s.pka.entOk = true ∧ (4096 ≤ s.pka.reqs ∨ 1000000000 ≤ since s s.pka.seedAt)

theorem drbgReseed_due (h : ReseedDue s) :
    drbgReseed s = { s with pka := { s.pka with reqs := 0, seedAt := s.gr.count } } := if_pos h

theorem drbgReseed_notDue (h : ¬ ReseedDue s) : drbgReseed s = s := if_neg h

/-- A deferred reseed has reached its limit. -/
abbrev ReseedLost (s : State) : Prop :=
  s.pka.drbgOk = true ∧ s.pka.entOk = false ∧ (65536 ≤ s.pka.reqs ∨ 60000000000 ≤ since s s.pka.seedAt)

theorem drbgLimit_eq (s : State) :
    drbgLimit s = if ReseedLost s then fFault { s with pka := { s.pka with drbgOk := false } } 6 0x83 0 else s := by
  unfold drbgLimit ReseedLost
  simp only [Bool.not_eq_true']

end Entropy

/-! ## The datapath (R481, R482, R500) -/

section Datapath
variable {s : State}

/-- An allowed write of a register of the control cluster acts for the cluster alone. -/
theorem ccWr_allowed {m : Master} {a : Nat} (k : State → State) (h : refusal s m a 4 true true = none) :
    ccWr s m a k = if m = .cc then k s else refuse s m a true 3 := by rw [ccWr, h]

section Op
variable {v : W32}

theorem dpOp_busy (h : s.pka.busyTo.isSome = true) : dpOp s v = { s with pka := { s.pka with ovr := true } } := if_pos h

/-- An operation on an idle datapath: none, one whose ranges are refused, or one that begins. -/
theorem dpOp_idle (h : s.pka.busyTo = none) : dpOp s v =
    if fld v 0 2 = 3 then s
    else if dpRefused s (fld v 0 2) (fld v 2 7 + 1) then { s with pka := { s.pka with err := true } }
    else { s with pka := { s.pka with
      op := BitVec.ofNat 2 (fld v 0 2), lm1 := BitVec.ofNat 7 (fld v 2 7 + 1 - 1), opX := s.pka.x, opA := s.pka.a, opB := s.pka.b
      busyTo := some (s.gr.count + BitVec.ofNat 64 (1 + dpTime (fld v 0 2) (fld v 2 7 + 1))) } } :=
  if_neg (by rw [dpBusy, h]; exact Bool.false_ne_true)

end Op

/-- The state in which the datapath is idle again. -/
def dpIdle (s : State) : State := { s with pka := { s.pka with busyTo := none } }

theorem pkaDpComplete_none {late : Bool} (h : s.pka.busyTo = none ∨ (∃ g, s.pka.busyTo = some g ∧ reached s g = false)) :
    pkaDpComplete late s = s := by
  rw [pkaDpComplete]
  rcases h with h | ⟨g, h, hg⟩
  · rw [h]
  · rw [h]
    exact if_neg (by rw [hg]; exact Bool.false_ne_true)

/-- At its end the work is late or its result is written. -/
theorem pkaDpComplete_ends {late : Bool} {g : Grain} (h : s.pka.busyTo = some g) (hg : reached s g = true) : pkaDpComplete late s =
    if late then fFault (dpIdle s) 6 0x81 (s.pka.op.toNat + 256 * s.pka.lm1.toNat) else dpResult (dpIdle s) := by
  rw [pkaDpComplete, h]
  exact if_pos hg

/-- The words of an operation's X become `n`, with CY. -/
def dpStored (s : State) (words n : Nat) (cy : BitVec 64) : State :=
  let t := ramPut s s.pka.opX.toNat words n
  { t with pka := { t.pka with cy := cy } }

/-- A times B is added to X. -/
theorem dpResult_product (h : s.pka.op = 0) : dpResult s =
    (let l := s.pka.lm1.toNat + 1
     let n := ramInt s s.pka.opX.toNat (2 * l) + ramInt s s.pka.opA.toNat l * ramInt s s.pka.opB.toNat l
     dpStored s (2 * l) n (s.pka.cy + BitVec.ofNat 64 (n / 2 ^ (128 * l)))) := if_pos h

/-- A times one word of B is added to X. -/
theorem dpResult_row (h : s.pka.op = 1) : dpResult s =
    (let l := s.pka.lm1.toNat + 1
     let n := ramInt s s.pka.opX.toNat (l + 1) + ramInt s s.pka.opA.toNat l * (ramWord s s.pka.opB.toNat).toNat
     dpStored s (l + 1) n (s.pka.cy + BitVec.ofNat 64 (n / 2 ^ (64 * (l + 1))))) :=
  (if_neg (by rw [h]; decide)).trans (if_pos h)

/-- CY is added to X. -/
theorem dpResult_carry (h : s.pka.op = 2) : dpResult s =
    (let l := s.pka.lm1.toNat + 1
     let n := ramInt s s.pka.opX.toNat l + s.pka.cy.toNat
     dpStored s l n (BitVec.ofNat 64 (n / 2 ^ (64 * l)))) :=
  (if_neg (by rw [h]; decide)).trans (if_neg (by rw [h]; decide))

end Datapath

/-- Settles O39: the three commands, the slots, the entropy source, the DRBG and the datapath are the lemmas above. -/
theorem keySlotsEntropyAndDatapath : Obligations.KeySlotsEntropyAndDatapath := by
  refine ⟨fun s id c => ⟨fun h hbusy ok => ?_, fun h hfree => ⟨fun ok hx => next_congr (keyPublic_empty h hfree hx),
        fun ok x hx hkind => ?_, fun x hx hkind => ⟨fun ok hlen => ?_, fun hlen => ⟨?_, ?_⟩⟩⟩,
      fun h hbusy => ?_, fun h hfree => ⟨fun hx => next_congr (keyZeroise_empty h hfree hx),
        fun hx => next_congr (keyZeroise_full h hfree hx)⟩,
      fun h hbusy => next_congr (tagFlowSet_waits h hbusy),
      fun h hfree => ⟨fun hmode => next_congr (tagFlowSet_frees h hfree hmode),
        fun hmode hx => next_congr (tagFlowSet_empty h hfree hmode hx),
        fun x hmode hx => ⟨fun hkind halg => ?_, fun hother => ?_⟩⟩⟩,
    fun s k hk => ⟨fun h => ev_next (decide_eq_true hk) (pkaKeystore_empty h),
      fun h => ev_next (decide_eq_true hk) (pkaKeystore_full h)⟩,
    fun s => ⟨rfl, rfl, fun h => next_congr (entropyPass_none h), fun hent hrst => ⟨fun hinst => ?_, fun hinst => ?_⟩,
      ⟨fun h => next_congr (drbgReseed_due h), fun h => next_congr (drbgReseed_notDue h)⟩,
      ⟨fun h => next_congr ((drbgLimit_eq s).trans (if_pos h)), fun h => next_congr ((drbgLimit_eq s).trans (if_neg h))⟩⟩,
    fun s m v ⟨hwf, hallow⟩ => ?_, fun s late => ⟨fun h => next_congr (pkaDpComplete_none h), fun g hbusy hg => ?_⟩⟩
  · exact next_congr ((keyPublic_ready h).trans (if_pos hbusy))
  · exact next_congr ((keyPublic_full h hfree hx).trans (if_pos hkind))
  · exact next_congr ((keyPublic_full h hfree hx).trans ((if_neg hkind).trans (if_pos hlen)))
  · exact next_congr (keyPublic_writes h hfree hx hkind hlen)
  · exact next_congr (keyPublic_writes h hfree hx hkind hlen)
  · exact next_congr ((keyZeroise_ready h).trans (if_pos hbusy))
  · exact next_congr ((tagFlowSet_full h hfree hmode hx).trans (if_pos ⟨hkind, halg⟩))
  · exact next_congr ((tagFlowSet_full h hfree hmode hx).trans
      (if_neg fun h => hother.elim (fun hne => hne h.1) (fun hne => hne h.2)))
  · exact next_congr ((entropyPass_passes hent hrst).trans (if_pos hinst))
  · exact next_congr ((entropyPass_passes hent hrst).trans (if_neg (by rw [hinst]; exact Bool.false_ne_true)))
  · intro op l
    have hwrite : ccWr s m 0x06C00000 (fun s => dpOp s v) = if m = .cc then dpOp s v else refuse s m 0x06C00000 true 3 :=
      ccWr_allowed _ hallow
    have hidle (hm : m = .cc) (hbusy : s.pka.busyTo = none) := (hwrite.trans (if_pos hm)).trans (dpOp_idle hbusy)
    exact ⟨fun hm => ev_next hwf (hwrite.trans (if_neg hm)),
      fun hm hbusy => ev_next hwf ((hwrite.trans (if_pos hm)).trans (dpOp_busy hbusy)),
      fun hm hbusy hop => ev_next hwf ((hidle hm hbusy).trans (if_pos hop)),
      fun hm hbusy hop href => ev_next hwf ((hidle hm hbusy).trans ((if_neg hop).trans (if_pos href))),
      fun hm hbusy hop href => ev_next hwf ((hidle hm hbusy).trans ((if_neg hop).trans
        (if_neg (by rw [href]; exact Bool.false_ne_true))))⟩
  · have hends (late : Bool) := pkaDpComplete_ends (late := late) hbusy hg
    exact ⟨next_congr (hends true), fun hop => next_congr ((hends false).trans (dpResult_product (s := dpIdle s) hop)),
      fun hop => next_congr ((hends false).trans (dpResult_row (s := dpIdle s) hop)),
      fun hop => next_congr ((hends false).trans (dpResult_carry (s := dpIdle s) hop))⟩

end Sys2Proof.Machine
end

section
/-! PROOFS. The family of the command reference, device reset: what it keeps, what starts and ends it, and
the pins while it holds. -/

namespace Sys2Proof.Machine

/-! ## A device reset (R632) -/

/-- The state with another FCU. -/
def withFcu (x : Fcu) (s : State) : State := { s with fcu := x }

/-- Recording a fault writes nothing but the FCU. -/
theorem withFcu_fcuRecord (x : Fcu) (s : State) (r : Rec) (fence : Bool) (g : Grain) :
    withFcu x (fcuRecord s r fence g) = withFcu x s := by
  unfold fcuRecord
  dsimp only
  rw [apply_ite (withFcu x)]
  exact ite_self (withFcu x s)

/-- So does recording the faults that wait. -/
theorem withFcu_flushFaults (x : Fcu) (s : State) : withFcu x (flushFaults s) = withFcu x s := by
  unfold flushFaults
  generalize lateEntries s = l
  induction l generalizing s with
  | nil => rfl
  | cons e l ih =>
    rw [List.foldl_cons, ih]
    cases faultOf e.inp.what with
    | none => rfl
    | some r => exact withFcu_fcuRecord x s r false e.stamp

/-- The faults that wait go to the FCU alone. -/
theorem flushFaults_eq (s : State) : flushFaults s = withFcu (flushFaults s).fcu s := withFcu_flushFaults (flushFaults s).fcu s

theorem flushFaults_dev (s : State) : (flushFaults s).dev = s.dev := (congrArg State.dev (flushFaults_eq s) :)

theorem flushFaults_fuse (s : State) : (flushFaults s).fuse = s.fuse := (congrArg State.fuse (flushFaults_eq s) :)

theorem flushFaults_prm (s : State) : (flushFaults s).prm = s.prm := (congrArg State.prm (flushFaults_eq s) :)

theorem flushFaults_pwr (s : State) : (flushFaults s).pwr = s.pwr := (congrArg State.pwr (flushFaults_eq s) :)

section Kept
variable (s : State) (r : BitVec 3) (b : Bool)

/-- The pins driven from outside keep their levels. -/
theorem deviceReset_levels : (deviceReset s r b).dev.resetN = s.dev.resetN ∧ (deviceReset s r b).dev.perst = s.dev.perst := by
  rw [← flushFaults_dev s]
  exact ⟨rfl, rfl⟩

/-- PRM keeps its content, and its stores without their commands. -/
theorem deviceReset_prm :
    (deviceReset s r b).prm.lines = s.prm.lines ∧ (deviceReset s r b).prm.regions = s.prm.regions ∧
      (deviceReset s r b).prm.wear = s.prm.wear ∧ (deviceReset s r b).prm.scrub = s.prm.scrub ∧
      (deviceReset s r b).prm.stores = s.prm.stores.map fun x => { x with cmd := none } := by
  rw [← flushFaults_prm s]
  exact ⟨rfl, rfl, rfl, rfl, rfl⟩

/-- The always-on time and the wake time go on; the sequencer store stays in standby. -/
theorem deviceReset_pwr :
    (deviceReset s r b).pwr.aon = s.pwr.aon ∧ (deviceReset s r b).pwr.wakeAt = s.pwr.wakeAt ∧
      (deviceReset s r b).pwr.store = if b then s.pwr.store else [] := by
  rw [← flushFaults_pwr s]
  exact ⟨rfl, rfl, rfl⟩

end Kept

/-! ## RESET_N and the internal reset (R633, R636, R642) -/

section Reset
variable {s : State}

/-- The state with RESET_N low. -/
def resetLow (s : State) : State := { s with dev := { s.dev with resetN := false } }

theorem resetNAssert_held (h : s.pwr.shed ≠ none ∨ railsOff s = true) : resetNAssert s = resetLow s := by
  refine if_pos ?_
  rcases h with h | h
  · obtain ⟨x, hx⟩ := Option.ne_none_iff_exists'.mp h
    exact Bool.or_eq_true_iff.mpr (.inl (Option.isSome_iff_exists.mpr ⟨x, hx⟩))
  · exact Bool.or_eq_true_iff.mpr (.inr h)

theorem resetNAssert_resets (hshed : s.pwr.shed = none) (hrails : railsOff s = false) : resetNAssert s =
    (let t := deviceReset (resetLow s) (if fatalNow (resetLow s) then 3 else 1) false
     { t with dev := { t.dev with intReset := s.dev.intReset } }) := by
  refine if_neg ?_
  rw [show railsOff { s with dev := { s.dev with resetN := false } } = false from hrails, hshed]
  decide

/-- The state with RESET_N high and no debug action. -/
def resetHigh (s : State) : State := { s with dev := { s.dev with resetN := true }, dbg := { s.dbg with acting := false } }

variable {straps : BitVec 6}

theorem resetNRelease_high (h : s.dev.resetN = true) : resetNRelease straps s = s := if_pos h

/-- RESET_N rising begins PHASE 1 where the device is held by nothing else. -/
theorem resetNRelease_low (h : s.dev.resetN = false) : resetNRelease straps s =
    if s.dev.inReset && !s.dev.intReset && !railsOff s then bootBegin (resetHigh s) straps else resetHigh s :=
  if_neg (by rw [h]; exact Bool.false_ne_true)

/-- The state in which the internal reset has ended, with the rails that came up. -/
def internalFree (s : State) : State :=
  { s with
    dev := { s.dev with intReset := false }
    pwr := { s.pwr with
      en := if s.pwr.upSeq then 0xFF else s.pwr.en
      good := if s.pwr.upSeq then 0xFF else s.pwr.en
      upSeq := false } }

theorem internalResetRelease_holds (h : s.dev.intReset = false ∨ railsOff s = true ∨ s.pwr.railFail = true ∨ s.pwr.shed ≠ none) :
    internalResetRelease straps s = s := by
  refine if_pos ?_
  rw [← Option.isSome_iff_ne_none] at h
  rcases h with h | h | h | h <;> rw [h] <;> simp

theorem internalResetRelease_ends (hint : s.dev.intReset = true) (hrails : railsOff s = false) (hfail : s.pwr.railFail = false)
    (hshed : s.pwr.shed = none) : internalResetRelease straps s =
      if s.dev.resetN then bootBegin (internalFree s) straps else internalFree s :=
  if_neg (by rw [hint, hrails, hfail, hshed]; decide)

end Reset

/-! ## Pins (R643, R649) -/

section Pins
variable {s : State}

theorem pinPhase_reset (hvaon : s.pwr.vaon = true) (hshed : s.pwr.shed = none) (hrails : railsOff s = false)
    (hrst : s.dev.inReset = true) : pinPhase s = .reset := by
  rw [pinPhase, hvaon, hshed, hrails, hrst]
  rfl

theorem pinPhase_shed (hvaon : s.pwr.vaon = true) (hshed : s.pwr.shed ≠ none) : pinPhase s = .standby := by
  rw [pinPhase, hvaon, Option.isSome_iff_ne_none.mpr hshed]
  rfl

/-- In reset a pin holds its state. -/
theorem pinOf_reset (h : pinPhase s = .reset) (held run : PinState) : pinOf s held run = held := by rw [pinOf, h]

theorem pinOf_standby (h : pinPhase s = .standby) (held run : PinState) : pinOf s held run = .undriven := by rw [pinOf, h]

/-- An open-drain line is released outside running. -/
theorem odPin_released (h : pinPhase s ≠ .running) (pulls : Bool) : odPin s pulls = .released :=
  if_neg (by rw [decide_eq_false h, Bool.false_and]; exact Bool.false_ne_true)

theorem witnessPin_released (h : pinPhase s = .reset ∨ pinPhase s = .standby) : witnessPin s = .released := by
  unfold witnessPin
  rcases h with h | h <;> rw [h]

end Pins

/-- Settles O53: what the reset keeps, its starts and ends, and the pins are the lemmas above. -/
theorem deviceResetKeepsAndReleases : Obligations.DeviceResetKeepsAndReleases := by
  refine ⟨fun s r b => ?_, fun s => ⟨fun h => next_congr (resetNAssert_held h),
      fun hshed hrails => next_congr (resetNAssert_resets hshed hrails)⟩,
    fun s id c h => next_congr (runCmd_ready _ h),
    fun s straps => ⟨fun h => next_congr (resetNRelease_high h), fun hlow h => ?_, fun hlow hrst hint hrails => ?_⟩,
    fun s straps => ⟨fun h => next_congr (internalResetRelease_holds h), fun hint hrails hfail hshed => ?_⟩,
    fun s straps => rfl, fun s => ⟨rfl, rfl⟩, fun s p hvaon => ⟨fun hshed hrails hrst => ?_, fun hshed => ?_⟩⟩
  · obtain ⟨hresetN, hperst⟩ := deviceReset_levels s r b
    obtain ⟨hlines, hregions, hwear, hscrub, hstores⟩ := deviceReset_prm s r b
    obtain ⟨haon, hwake, hstore⟩ := deviceReset_pwr s r b
    exact ⟨withFcu_flushFaults s.fcu s, rfl, rfl, rfl, rfl, hresetN, hperst, flushFaults_fuse s, hlines, hregions, hwear, hscrub,
      hstores, haon, hwake, hstore, rfl, rfl, rfl, rfl, rfl, rfl, rfl, rfl, rfl, rfl, rfl, rfl, rfl, rfl, rfl, rfl, rfl, rfl,
      rfl, rfl, rfl, rfl, rfl, rfl, rfl, rfl, rfl, rfl, rfl, rfl⟩
  · refine next_congr ((resetNRelease_low hlow).trans (if_neg ?_))
    rcases h with h | h | h <;> rw [h] <;> simp
  · exact next_congr ((resetNRelease_low hlow).trans (if_pos (by rw [hrst, hint, hrails]; rfl)))
  · have hends := internalResetRelease_ends (straps := straps) hint hrails hfail hshed
    exact ⟨fun h => next_congr (hends.trans (if_neg (by rw [h]; exact Bool.false_ne_true))),
      fun h => next_congr (hends.trans (if_pos h))⟩
  · have hphase := pinPhase_reset hvaon hshed hrails hrst
    have hoff : pinPhase s ≠ .running := by rw [hphase]; nofun
    exact ⟨pinOf_reset hphase _ _, pinOf_reset hphase _ _, pinOf_reset hphase _ _, pinOf_reset hphase _ _, pinOf_reset hphase _ _,
      pinOf_reset hphase _ _, witnessPin_released (.inl hphase), odPin_released hoff _, odPin_released hoff _,
      pinOf_reset hphase _ _⟩
  · have hphase := pinPhase_shed hvaon hshed
    have hoff : pinPhase s ≠ .running := by rw [hphase]; nofun
    exact ⟨pinOf_standby hphase _ _, pinOf_standby hphase _ _, pinOf_standby hphase _ _, pinOf_standby hphase _ _,
      pinOf_standby hphase _ _, pinOf_standby hphase _ _, witnessPin_released (.inr hphase),
      odPin_released hoff _, odPin_released hoff _⟩

end Sys2Proof.Machine
end

section
/-! PROOFS. The family of the command reference, twin: a change of state, presence and the witness, the link, TWN_CTL, and the
rejoin. -/

namespace Sys2Proof.Machine

/-! ## A change of state (R618, R619) -/

section Change
variable {s : State} {st : BitVec 3} {cause : Nat}

theorem raise_twn (s : State) (src code data : Nat) : (raise s src code data).twn = s.twn :=
  (congrArg State.twn (raise_unev s src code data) : (unev (raise s src code data)).twn = (unev s).twn)

/-- The state in which the device has left its twin state for `st`. -/
def twinLeft (s : State) (st : BitVec 3) (cause : Nat) : State :=
  if s.twn.state = twPAIRED then leavePaired (twinSet s st cause) else twinSet s st cause

theorem twinTo_same (h : s.twn.state = st) : twinTo s st cause = s := if_pos h

/-- SEPARATED counts, PARTNER_LOST clears TWIN flags, PAIRED is remembered. -/
theorem twinTo_changes (h : s.twn.state ≠ st) : twinTo s st cause =
    let u := twinLeft s st cause
    if st = twSEPARATED then { u with twn := { u.twn with seps := satInc u.twn.seps } }
    else if st = twLOST then twinCleared u
    else if st = twPAIRED then { u with twn := { u.twn with pairedOnce := true } }
    else u := by
  unfold twinTo twinLeft paired
  rw [if_neg h]
  simp only [decide_eq_true_eq]

theorem leavePaired_senior (h : senior s = true) : leavePaired s = readyClear s := if_pos h

end Change

/-! ## Presence and the witness (R610, R611, R619) -/

section Presence
variable {s : State}

theorem aliveStopped_alive (h : s.twn.alive = true) : aliveStopped s =
    linkDown { s with twn := { s.twn with alive := false, aliveStop := some s.gr.count } } 2 := if_pos h

theorem aliveStopped_none (h : s.twn.alive = false) : aliveStopped s = s := if_neg (by rw [h]; exact Bool.false_ne_true)

/-- The state in which TWN_ALIVE_IN toggles again. -/
def aliveAgain (s : State) : State := { s with twn := { s.twn with alive := true, aliveStop := none } }

/-- Without the link a PAIRED or SOLO-HOLD device separates. -/
theorem aliveReturn_separates (hlink : s.twn.link = false) (hst : s.twn.state = 2 ∨ s.twn.state = 5) :
    aliveReturn s = twinTo (aliveAgain s) 3 1 := by
  refine if_pos ?_
  show (!s.twn.link && (decide (s.twn.state = twPAIRED) || decide (s.twn.state = twSOLO))) = true
  rw [hlink]
  rcases hst with h | h <;> rw [h] <;> rfl

theorem aliveReturn_holds (h : s.twn.link = true ∨ (s.twn.state ≠ 2 ∧ s.twn.state ≠ 5)) :
    aliveReturn s = linkHolds (aliveAgain s) := by
  refine if_neg ?_
  show ¬ (!s.twn.link && (decide (s.twn.state = twPAIRED) || decide (s.twn.state = twSOLO))) = true
  rcases h with h | ⟨hpaired, hsolo⟩
  · rw [h]
    exact Bool.false_ne_true
  · rw [decide_eq_false (p := s.twn.state = twPAIRED) hpaired, decide_eq_false (p := s.twn.state = twSOLO) hsolo, Bool.or_self,
      Bool.and_false]
    exact Bool.false_ne_true

section Witness
variable {level : Bool}

/-- A sample of the device's own sense window after its first PAIRED state. -/
abbrev OwnSample (s : State) : Prop :=
  s.twn.pairedOnce = true ∧ s.dev.inReset = false ∧ (pairGrain s).toNat % 16000 = (if senior s then 750 else 8750)

/-- The state with the level of the witness as sampled. -/
def witnessTaken (s : State) (level : Bool) : State := { s with twn := { s.twn with witness := !level } }

theorem witnessSample_other (h : ¬ OwnSample s) : witnessSample level s = s :=
  if_neg fun ⟨honce, hrst, hgrain⟩ => h ⟨honce, by simpa using hrst, hgrain⟩

/-- An own sample judges a device whose A stopped at another grain. -/
theorem witnessSample_own (h : OwnSample s) : witnessSample level s =
    match s.twn.aliveStop with
    | some g => if s.twn.alive ∨ s.gr.count = g then witnessTaken s level else aliveLost (witnessTaken s level) (!level)
    | none => witnessTaken s level := by
  obtain ⟨honce, hrst, hgrain⟩ := h
  exact if_pos ⟨honce, by rw [hrst]; rfl, hgrain⟩

theorem witnessSample_plain (h : OwnSample s)
    (hstop : s.twn.aliveStop = none ∨ s.twn.alive = true ∨ s.twn.aliveStop = some s.gr.count) :
    witnessSample level s = witnessTaken s level := by
  rw [witnessSample_own h]
  cases hg : s.twn.aliveStop with
  | none => rfl
  | some g =>
    rw [hg] at hstop
    refine if_pos ?_
    rcases hstop with h | h | h
    · exact nomatch h
    · exact .inl h
    · exact .inr (Option.some.inj h).symm

theorem witnessSample_lost {g : Grain} (h : OwnSample s) (hstop : s.twn.aliveStop = some g) (hg : g ≠ s.gr.count)
    (halive : s.twn.alive = false) : witnessSample level s = aliveLost (witnessTaken s level) (!level) := by
  rw [witnessSample_own h, hstop, halive]
  exact if_neg fun h => h.elim Bool.false_ne_true fun heq => hg heq.symm

end Witness

section Lost
variable {held : Bool}

/-- PAIRED or SEPARATED with A stopped. -/
theorem aliveLost_pair (h : s.twn.state = 2 ∨ s.twn.state = 3) : aliveLost s held =
    if held && !senior s then twinTo s twSOLO 2 else twinTo s twLOST 2 := if_pos h

theorem aliveLost_solo (h : s.twn.state = 5) : aliveLost s held = if held then s else twinTo s twLOST 2 := by
  unfold aliveLost
  dsimp only
  rw [h]
  cases held <;> rfl

theorem aliveLost_other (hpaired : s.twn.state ≠ 2) (hsep : s.twn.state ≠ 3) (hsolo : s.twn.state ≠ 5) : aliveLost s held = s :=
  (if_neg fun h => h.elim hpaired hsep).trans (if_neg fun h => hsolo h.1)

end Lost

end Presence

/-! ## The link (R619) -/

section Link
variable {s : State}

theorem linkHolds_down (h : s.twn.link = false ∨ s.twn.alive = false) : linkHolds s = s :=
  if_pos (by rcases h with h | h <;> rw [h] <;> simp)

section Up
variable (hlink : s.twn.link = true) (halive : s.twn.alive = true)
include hlink halive

theorem linkHolds_up : linkHolds s =
    if s.twn.state = twJOINING then joinEnter s
    else if s.twn.state = twSEPARATED ∨ s.twn.state = twSOLO then
      (if s.twn.auto || !s.twn.joinCmds.isEmpty then joinEnter s else s)
    else if s.twn.state = twLOST then joinEnter s
    else s := if_neg (by rw [hlink, halive]; decide)

theorem linkHolds_joins (h : s.twn.state = 1 ∨ s.twn.state = 4) : linkHolds s = joinEnter s := by
  rw [linkHolds_up hlink halive]
  rcases h with h | h <;> (rw [h]; rfl)

/-- Apart, AUTO or a waiting TWIN_REJOIN decides. -/
theorem linkHolds_apart (h : s.twn.state = 3 ∨ s.twn.state = 5) : linkHolds s =
    if s.twn.auto || !s.twn.joinCmds.isEmpty then joinEnter s else s := by
  rw [linkHolds_up hlink halive]
  rcases h with h | h <;> (rw [h]; rfl)

theorem linkHolds_stays (h : s.twn.state = 0 ∨ s.twn.state = 2) : linkHolds s = s := by
  rw [linkHolds_up hlink halive]
  rcases h with h | h <;> (rw [h]; rfl)

end Up

theorem joinEnter_fenced (h : ccFenced s = true) : joinEnter s = s := if_pos h

/-! ## TWN_CTL (R612, R626) -/

/-- The fields of TWN_CTL as written; JSRC and a LAG from 256 in OFF only. -/
def twnCtlSet (s : State) (v : W32) : State :=
  { s with twn := { s.twn with
    en := bit v 0, auto := bit v 1
    jsrc := if s.twn.state = twOFF then BitVec.ofNat 2 (fld v 2 2) else s.twn.jsrc
    lag := if s.twn.state = twOFF ∧ 256 ≤ fld v 16 12 then BitVec.ofNat 12 (fld v 16 12) else s.twn.lag } }

/-- EN makes or leaves OFF. -/
theorem twnCtlWrite_eq (s : State) (v : W32) : twnCtlWrite v s =
    if bit v 0 = false then (if s.twn.state = twOFF then twnCtlSet s v else twinOff (twnCtlSet s v))
    else if s.twn.state = twOFF then
      { twinTo (twnCtlSet s v) twJOINING 0 with twn := { (twinTo (twnCtlSet s v) twJOINING 0).twn with joinFrom := twOFF } }
    else autoJoin (twnCtlSet s v) := by
  unfold twnCtlWrite twnCtlSet
  simp only [Bool.not_eq_true', decide_eq_true_eq, Bool.and_eq_true]

/-! ## The rejoin (R622, R623, R226) -/

/-- A failed rejoin may be tried again. -/
abbrev RejoinsAgain (s : State) : Prop :=
  s.twn.retry = true ∧ s.twn.link = true ∧ s.twn.alive = true ∧ s.twn.state ≠ 0 ∧ s.twn.state ≠ 2 ∧
    1000000000 ≤ since s s.twn.failAt

theorem rejoinRetry_eq (s : State) : rejoinRetry s = if RejoinsAgain s then joinEnter s else s := by
  unfold rejoinRetry RejoinsAgain paired
  simp only [Bool.not_eq_true', decide_eq_false_iff_not]
  rfl

/-- Grain t of a rejoin has come, with the time to load at a junior. -/
abbrev RejoinDue (s : State) : Prop :=
  joining s = true ∧ s.twn.joinStep = 4 ∧ before (pairGrain s) s.twn.joinAt = false ∧
    (senior s = true ∨ s.twn.times.filter (·.load) ≠ [])

/-- The state in which the rejoin is over. -/
def rejoinOver (s : State) : State :=
  { s with twn := { s.twn with times := s.twn.times.filter fun c => !c.load, joinStep := 0, retry := false } }

/-- The junior loads the senior's time. -/
def timeLoaded (s : State) : State :=
  let u := (s.twn.times.filter (·.load)).foldl timeChgApply (rejoinOver s)
  validUpdate { u with tb := { u.tb with holdover := false } }

theorem rejoinComplete_eq (s : State) : rejoinComplete s =
    if RejoinDue s then
      let t := if senior s then rejoinOver s else timeLoaded s
      joinsEnd (twinTo t twPAIRED 0) stDONE (leBytes 8 t.twn.joinAt.toNat)
    else s := by
  unfold rejoinComplete RejoinDue
  simp only [Bool.not_eq_true', List.isEmpty_eq_false_iff]
  rfl

variable {c : Cmd}

theorem twinRejoin_paired (h : s.twn.state = 2) : twinRejoin s c = complete s c.id 1 (leBytes 8 s.twn.joinAt.toNat) :=
  if_pos (decide_eq_true h)

/-- A device that is not PAIRED: no partner, no link, or the rejoin. -/
theorem twinRejoin_unpaired (h : s.twn.state ≠ 2) : twinRejoin s c =
    if s.twn.state = twOFF ∨ s.twn.state = twLOST ∨ s.twn.partCcFenced then complete s c.id stTWIN_ABSENT []
    else if !s.twn.link then complete s c.id stTWIN_SEPARATED []
    else
      let t := running { s with twn := { s.twn with joinCmds := s.twn.joinCmds ++ [c.id] } } c.id
      if t.twn.state = twJOINING then t else linkHolds t :=
  if_neg fun hpaired => h (of_decide_eq_true hpaired)

theorem twinRejoin_absent (h : s.twn.state = 0 ∨ s.twn.state = 4 ∨ (s.twn.state ≠ 2 ∧ s.twn.partCcFenced = true)) :
    twinRejoin s c = complete s c.id 0xA8 [] := by
  have hne : s.twn.state ≠ 2 := by
    rcases h with h | h | h
    · rw [h]; decide
    · rw [h]; decide
    · exact h.1
  exact (twinRejoin_unpaired hne).trans (if_pos (h.imp_right fun h => h.imp_right And.right))

/-- JOINING, SEPARATED or SOLO-HOLD with a running partner. -/
theorem twinRejoin_apart (h : s.twn.state = 1 ∨ s.twn.state = 3 ∨ s.twn.state = 5) (hcc : s.twn.partCcFenced = false) :
    twinRejoin s c =
      if !s.twn.link then complete s c.id stTWIN_SEPARATED []
      else
        let t := running { s with twn := { s.twn with joinCmds := s.twn.joinCmds ++ [c.id] } } c.id
        if t.twn.state = twJOINING then t else linkHolds t := by
  have hne : s.twn.state ≠ 2 := by rcases h with h | h | h <;> (rw [h]; decide)
  refine (twinRejoin_unpaired hne).trans (if_neg ?_)
  rw [hcc]
  rcases h with h | h | h <;> (rw [h]; decide)

end Link

/-- Settles O57: the change of state, presence, the witness, the link, TWN_CTL and the rejoin are the lemmas above. -/
theorem twinStatesPresenceAndRejoin : Obligations.TwinStatesPresenceAndRejoin := by
  refine ⟨fun s st cause => ?_,
    fun s => ⟨fun h => next_congr (if_pos h), fun h => next_congr (if_neg (by rw [h]; exact Bool.false_ne_true)),
      fun h => next_congr (aliveStopped_none h), fun h => next_congr (aliveStopped_alive h), fun h => next_congr (if_pos ?_),
      fun halive hrst => ?_⟩,
    fun s level => ⟨fun h => next_congr (witnessSample_other h), fun h hstop => next_congr (witnessSample_plain h hstop),
      fun g h hstop hg halive => next_congr (witnessSample_lost h hstop hg halive)⟩,
    fun s held => ⟨fun h hheld hsen => ?_, fun h hother => ?_, fun h hheld => ?_, fun h hheld => ?_, aliveLost_other⟩,
    fun s => ⟨linkHolds_down, fun hlink halive => ⟨linkHolds_joins hlink halive, fun h hask => ?_, fun h hauto hnone => ?_,
      linkHolds_stays hlink halive⟩, joinEnter_fenced⟩,
    fun s m v hallow => ?_,
    fun s => ⟨fun h => next_congr ((rejoinRetry_eq s).trans (if_pos h)), fun h => next_congr ((rejoinRetry_eq s).trans (if_neg h))⟩,
    fun s => ⟨fun h => next_congr ((rejoinComplete_eq s).trans (if_neg h)), fun h hsen => ?_, fun h hsen => ?_⟩,
    fun s id c hready => ⟨fun h => ?_, fun h => ?_, fun h hcc => ⟨fun hlink => ?_, fun hlink hst => ?_, fun hlink hst => ?_⟩⟩⟩
  · intro t u
    refine ⟨raise_twn _ _ _ _, twinTo_same, fun hne => ?_, leavePaired_senior⟩
    have hto := twinTo_changes (cause := cause) hne
    refine ⟨fun h => hto.trans (if_pos h), fun h => hto.trans ((if_neg ?_).trans (if_pos h)),
      fun h => hto.trans ((if_neg ?_).trans ((if_neg ?_).trans (if_pos h))),
      fun hpaired hsep hlost => hto.trans ((if_neg hsep).trans ((if_neg hlost).trans (if_neg hpaired)))⟩
    all_goals
      rw [h]
      decide
  · rcases h with h | h <;> rw [h] <;> simp
  · intro t
    have hback : (if s.twn.alive || s.dev.inReset then s else aliveReturn s) = aliveReturn s :=
      if_neg (by rw [halive, hrst]; decide)
    exact ⟨fun hlink hst => next_congr (hback.trans (aliveReturn_separates hlink hst)),
      fun h => next_congr (hback.trans (aliveReturn_holds h))⟩
  · exact (aliveLost_pair h).trans (if_pos (by rw [hheld, hsen]; rfl))
  · refine (aliveLost_pair h).trans (if_neg ?_)
    rcases hother with h | h <;> rw [h] <;> simp
  · exact (aliveLost_solo h).trans (if_neg (by rw [hheld]; exact Bool.false_ne_true))
  · exact (aliveLost_solo h).trans (if_pos hheld)
  · refine (linkHolds_apart hlink halive h).trans (if_pos ?_)
    rw [Bool.or_eq_true, Bool.not_eq_true', List.isEmpty_eq_false_iff]
    exact hask
  · refine (linkHolds_apart hlink halive h).trans (if_neg ?_)
    rw [hauto, hnone]
    exact Bool.false_ne_true
  · intro off t
    have hctl : exec (.twnCtlWrite m v) s = .next (twnCtlWrite v s) := ev_regWr_allowed _ hallow hallow.1
    have hen (h : bit v 0 = true) : ¬ bit v 0 = false := by rw [h]; nofun
    rw [hctl]
    have heq := twnCtlWrite_eq s v
    exact ⟨fun h hoff => next_congr (heq.trans ((if_pos h).trans (if_pos hoff))),
      fun h hon => next_congr (heq.trans ((if_pos h).trans (if_neg hon))),
      fun h hoff => next_congr (heq.trans ((if_neg (hen h)).trans (if_pos hoff))),
      fun h hon => next_congr (heq.trans ((if_neg (hen h)).trans (if_neg hon)))⟩
  · refine next_congr ((rejoinComplete_eq s).trans ((if_pos h).trans ?_))
    rw [hsen]
    rfl
  · refine next_congr ((rejoinComplete_eq s).trans ((if_pos h).trans ?_))
    rw [hsen]
    rfl
  · exact next_congr ((runCmd_ready _ hready).trans (twinRejoin_paired h))
  · exact next_congr ((runCmd_ready _ hready).trans (twinRejoin_absent h))
  · exact next_congr ((runCmd_ready _ hready).trans ((twinRejoin_apart h hcc).trans (if_pos (by rw [hlink]; rfl))))
  · exact next_congr ((runCmd_ready _ hready).trans ((twinRejoin_apart h hcc).trans
      ((if_neg (by rw [hlink]; decide)).trans (if_pos hst))))
  · exact next_congr ((runCmd_ready _ hready).trans ((twinRejoin_apart h hcc).trans
      ((if_neg (by rw [hlink]; decide)).trans (if_neg hst))))

end Sys2Proof.Machine
end

section
/-! PROOFS. The family of the configuration chapter, device reset: the settings it restores and the epoch it opens (R252). -/

namespace Sys2Proof.Machine

/-! ## Keys and reset values of settings -/

section Keys
variable {sid idx : Nat}

/-- A key holds its SETTING above its INDEX. -/
theorem skey_div (hidx : idx < 65536) : skey sid idx / 65536 = sid := by unfold skey; omega

theorem skey_mod (hidx : idx < 65536) : skey sid idx % 65536 = idx := by unfold skey; omega

/-- The indices of CLS_RULE are the 1,024 rules, each of six words (R295). -/
theorem settingWords_clsRule : settingWords sCLS_RULE idx = if idx < 1024 then some 6 else none := rfl

/-- A rule resets to six zero words, which is what an unlisted entry of a rule bank reads as. -/
theorem settingReset_clsRule (hidx : idx < 1024) : settingReset (skey sCLS_RULE idx) = List.replicate 6 0 := by
  have hkey : idx < 65536 := by omega
  calc settingReset (skey sCLS_RULE idx) = List.replicate ((settingWords sCLS_RULE idx).getD 0) 0 := by
        rw [settingReset, skey_div hkey, skey_mod hkey]
        rfl
    _ = List.replicate 6 0 := by rw [settingWords_clsRule, if_pos hidx]; rfl

/-- Where the configuration is at reset, every setting has its reset value: a drain-class setting in its own table, a rule in the
banks, and every other setting in epoch 0. -/
theorem cur_cfgReset {s : State} {n : Nat} (hcfg : s.cfg = Cfg.reset) (hwords : settingWords sid idx = some n) :
    cur s sid idx = settingReset (skey sid idx) := by
  unfold cur newest setVal
  rw [hcfg]
  split
  case isTrue => rfl
  case isFalse =>
    split
    case isTrue hrule =>
      subst hrule
      have hidx : idx < 1024 := by
        by_contra hout
        rw [settingWords_clsRule, if_neg hout] at hwords
        nomatch hwords
      exact (settingReset_clsRule hidx).symm
    case isFalse => rfl

end Keys

/-! ## A device reset (R252, R632) -/

theorem deviceReset_cfg (s : State) (r : BitVec 3) (b : Bool) : (deviceReset s r b).cfg = Cfg.reset := rfl

theorem deviceReset_gr (s : State) (r : BitVec 3) (b : Bool) : (deviceReset s r b).gr = Gr.reset := rfl

/-- Settles O59: a device reset leaves the configuration at reset, where every setting reads its reset value. -/
theorem deviceResetRestoresSettings : Obligations.DeviceResetRestoresSettings := by
  intro s reason standby t
  have hcfg : t.cfg = Cfg.reset := deviceReset_cfg s reason standby
  have hgr : t.gr = Gr.reset := deviceReset_gr s reason standby
  refine ⟨by rw [hcfg]; rfl, by rw [hcfg]; rfl, by rw [hcfg]; rfl, fun sid idx n hwords _ => cur_cfgReset hcfg hwords,
    ⟨Epoch.zero, by rw [hcfg]; rfl, rfl, rfl⟩, by rw [hgr]; rfl, fun id c hready => next_congr (runCmd_ready devReset hready)⟩

end Sys2Proof.Machine
end

section
/-! PROOFS. The family of the parsing, classification and microcode chapter: the results of lookups, the tiles and requests of the
state pool, reads without an answer, and the window test. -/

namespace Sys2Proof.Machine

/-! ## The result of a lookup returns (R290) -/

section Return
variable {s t : State} {id e : Nat} {p : Pkt} {l : Lookup} {ddr : BitVec 2}

/-- A packet in an engine waits for the result of a lookup. -/
structure Awaits (s : State) (id e : Nat) (p : Pkt) (l : Lookup) : Prop where
  here : pktAt s id = some p
  engine : p.engine = some e
  wait : p.ctx.wait = some l

/-- LOOKUP_RETURN before a shed. -/
theorem exec_lookupReturn (hshed : s.pwr.shed = none) (h : lookupReturn id ddr s = t) : exec (.lookupReturn id ddr) s = .next t :=
  ev_next rfl ((powered_on _ hshed).trans h)

theorem lookupReturn_ready (hpkt : pktAt s id = some p) (hready : p.ctx.wait = none) : lookupReturn id ddr s = s := by
  simp only [lookupReturn, hpkt, hready]

theorem lookupReturn_fdb (h : Awaits s id e p .fdb) : lookupReturn id ddr s = fdbReturn s p := by
  simp only [lookupReturn, h.here, h.wait, h.engine]

theorem lookupReturn_cam {k : Nat} (h : Awaits s id e p (.cam k)) : lookupReturn id ddr s = camPacket s p k := by
  simp only [lookupReturn, h.here, h.wait, h.engine]

theorem lookupReturn_t2 {table a : Nat} (h : Awaits s id e p (.t2 table a)) : lookupReturn id ddr s = t2Return s p table a ddr := by
  simp only [lookupReturn, h.here, h.wait, h.engine]

theorem lookupReturn_stateLd {w : Nat} (h : Awaits s id e p (.stateLd w)) :
    lookupReturn id ddr s = flowReturn s e p w none := by
  simp only [lookupReturn, h.here, h.wait, h.engine]

theorem lookupReturn_stateSt {w : Nat} {v : W32} (h : Awaits s id e p (.stateSt w v)) :
    lookupReturn id ddr s = flowReturn s e p w (some v) := by
  simp only [lookupReturn, h.here, h.wait, h.engine]

end Return

/-! ## Results of the FDB and of the CAM (R290, R319) -/

section Search
variable {s : State} {p : Pkt}

/-- What the FDB answers to the key of a packet. -/
def pktFdb (s : State) (p : Pkt) : Option FdbEnt × Bool :=
  fdbLookup s p.part (BitVec.ofNat 48 ((wd p.ctx.key 0).toNat + 2 ^ 32 * (wd p.ctx.key 1).toNat))
    (BitVec.ofNat 12 (wd p.ctx.key 2).toNat)

theorem fdbReturn_hit {x : FdbEnt} (h : (pktFdb s p).1 = some x) :
    fdbReturn s p = count (setPkt s { p with ctx := { p.ctx with
      g := p.ctx.g.set 11 (w32 x.port), hit := true, lfail := (pktFdb s p).2, wait := none } }) 166 2 1 p.part := by
  rw [pktFdb] at h
  simp only [fdbReturn, pktFdb, h, Option.isSome_some, if_true]

/-- G11 keeps its value on a miss (log entry 33). -/
theorem fdbReturn_miss (h : (pktFdb s p).1 = none) :
    fdbReturn s p = count (setPkt s { p with ctx := { p.ctx with hit := false, lfail := (pktFdb s p).2, wait := none } })
      166 3 1 p.part := by
  rw [pktFdb] at h
  simp only [fdbReturn, pktFdb, h, Option.isSome_none, Bool.false_eq_true, if_false]

/-- A profile that the partition has not answers as a miss. -/
theorem camPacket_noProfile {k : Nat} (h : camProfile s (epochOf s p.epoch) p.part k = none) :
    camPacket s p k = setPkt s { p with ctx := { p.ctx with hit := false, multi := false, lfail := false, wait := none } } := by
  simp only [camPacket, h]
  rfl

theorem camPacket_local {k : Nat} {d : ProfDef} (h : camProfile s (epochOf s p.epoch) p.part k = some d) (hlocal : d.casc = false) :
    camPacket s p k = camReturn s p (camLocal s p.part d (pktKey p)) := by
  simp only [camPacket, h, hlocal, Bool.not_false, if_true]

end Search

/-! ## Words of T2 (R414, R418, R427) -/

section TierTwo
variable {s t : State} {p : Pkt} {ep : Epoch} {table a pt tile : Nat} {ddr : BitVec 2}

/-- A read beyond its table, or with DDR5 not trained. -/
theorem t2Read_outside (h : t2Tile s ep table a = none) : t2Read s ep table a pt ddr = (s, 0, true) := by
  rw [t2Read, h]

/-- A read of a tile: its burst is corrected, not correctable, or good. -/
theorem t2Read_inside (h : t2Tile s ep table a = some tile) : t2Read s ep table a pt ddr =
    if ddr = 1 then (ddrCorr s tile, t2Word s tile a, false)
    else if ddr = 2 then (ddrUncorr s tile (some pt), 0, true)
    else (s, t2Word s tile a, false) := by
  rw [t2Read, h]

theorem t2Read_good (h : t2Tile s ep table a = some tile) (hddr : ddr = 0) :
    t2Read s ep table a pt ddr = (s, t2Word s tile a, false) := by
  rw [t2Read_inside h, hddr]
  rfl

theorem t2Read_corrected (h : t2Tile s ep table a = some tile) (hddr : ddr = 1) :
    t2Read s ep table a pt ddr = (ddrCorr s tile, t2Word s tile a, false) := by
  rw [t2Read_inside h, if_pos hddr]

theorem t2Read_uncorrectable (h : t2Tile s ep table a = some tile) (hddr : ddr = 2) :
    t2Read s ep table a pt ddr = (ddrUncorr s tile (some pt), 0, true) := by
  rw [t2Read_inside h, hddr]
  rfl

/-- What a read leaves and gives is what its return leaves and writes. -/
theorem t2Return_of_t2Read {w : W32} {fail : Bool} (h : t2Read s (epochOf s p.epoch) table a p.part ddr = (t, w, fail)) :
    t2Return s p table a ddr = setPkt t { p with ctx := { setReg p.ctx 11 w with lfail := fail, wait := none } } := by
  rw [t2Return, h]

end TierTwo

/-! ## State of flow 0 (R410) -/

/-- A load of flow 0 reads 0, and a store keeps the registers. -/
theorem flowReturn_zero {s : State} {p : Pkt} (e w : Nat) (store : Option W32) (h : p.flow = 0) : flowReturn s e p w store =
    setPkt s { p with ctx := { (if store.isNone then setReg p.ctx 11 0 else p.ctx) with wait := none } } :=
  if_pos h

/-! ## Tiles and requests (R409, R411, R413) -/

section Pool
variable {s : State} {n id : Nat} {x : Tile} {r : TileReq} {p : Pkt}

theorem tileTransferComplete_moving {e : Nat} (htile : tileAt s n = some x) (h : x.moving = some e) : tileTransferComplete n s =
    count (setTile (makeRoom s e) n (some { x with home := some e, moving := none })) 167 2 1 x.pt := by
  simp only [tileTransferComplete, htile, h]

theorem tileTransferComplete_still (htile : tileAt s n = some x) (h : x.moving = none) : tileTransferComplete n s = s := by
  simp only [tileTransferComplete, htile, h]

/-- TILE_TRANSFER_COMPLETE of an existing tile. -/
theorem exec_tileTransferComplete {t : State} (hn : n < 14336) (h : tileTransferComplete n s = t) :
    exec (.tileTransferComplete n) s = .next t :=
  ev_next (decide_eq_true hn) h

variable (hreq : s.mt.reqs.find? (fun r => decide (r.pkt = id) && r.tile.isNone) = some r) (hpkt : pktAt s id = some p)
include hreq hpkt

/-- A request keeps waiting for 2,000 grains. -/
theorem stateRequestTimeout_early (h : since s r.since < 2000) : stateRequestTimeout id s = s := by
  simp only [stateRequestTimeout, hreq, hpkt, if_neg (Nat.not_le.mpr h)]

/-- A load whose request has waited so long gives 0, and NOSTATE of its partition counts it. -/
theorem stateRequestTimeout_load {w : Nat} (h : 2000 ≤ since s r.since) (hwait : p.ctx.wait = some (.stateLd w)) :
    stateRequestTimeout id s =
      setPkt (setPtn (stateServed s id) p.part { ptnAt s p.part with noState := satInc (ptnAt s p.part).noState })
        { p with ctx := { setReg p.ctx 11 0 with wait := none } } := by
  simp only [stateRequestTimeout, hreq, hpkt, if_pos h, hwait]
  rfl

end Pool

/-! ## A DDR5 read without an answer (R427) -/

/-- The tile of a table's word does not depend on the packets. -/
theorem t2Tile_setPkt (s : State) (q : Pkt) (n : BitVec 16) (table a : Nat) :
    t2Tile (setPkt s q) (epochOf (setPkt s q) n) table a = t2Tile s (epochOf s n) table a := rfl

theorem ddrTimeout_t2 {s : State} {id table a tile : Nat} {p : Pkt} (hpkt : pktAt s id = some p)
    (hwait : p.ctx.wait = some (.t2 table a)) (htile : t2Tile s (epochOf s p.epoch) table a = some tile) : ddrTimeout id s =
      kFault (setPkt s { p with ctx := { setReg p.ctx 11 0 with lfail := true, wait := none } }) 8 0x0062 (some p.part) tile := by
  simp only [ddrTimeout, hpkt, hwait, t2Tile_setPkt, htile]

/-! ## The window test (R366) -/

section Window
variable {r : RedRec} {q : BitVec 16}

/-- A number ahead of TOP is accepted and becomes TOP; DELIVER and PASS move with it. -/
theorem redTest_ahead (hlo : 1 ≤ (q - r.top).toNat) (hhi : (q - r.top).toNat ≤ 32767) :
    ∃ d m, redTest r q false = ({ r with top := q, deliver := d, pass := m }, true, false) :=
  ⟨_, _, if_pos ⟨hlo, hhi⟩⟩

/-- A number at TOP or behind it is judged by its distance from TOP. -/
theorem redTest_behind (h : 32768 ≤ (q - r.top).toNat ∨ q = r.top) : redTest r q false =
    if (r.top - q).toNat < 64 then
      if r.deliver.toNat.testBit (r.top - q).toNat then (r, false, false)
      else ({ r with deliver := r.deliver ||| BitVec.ofNat 64 (2 ^ (r.top - q).toNat) }, true, false)
    else (r, true, true) := by
  refine if_neg fun ⟨hlo, hhi⟩ => ?_
  rcases h with hbehind | rfl
  · omega
  · rw [BitVec.sub_self] at hlo
    exact absurd hlo (by decide)

theorem redTest_duplicate (h : 32768 ≤ (q - r.top).toNat ∨ q = r.top) (hin : (r.top - q).toNat < 64)
    (hmark : r.deliver.toNat.testBit (r.top - q).toNat = true) : redTest r q false = (r, false, false) := by
  rw [redTest_behind h, if_pos hin, if_pos hmark]

theorem redTest_marks (h : 32768 ≤ (q - r.top).toNat ∨ q = r.top) (hin : (r.top - q).toNat < 64)
    (hfree : r.deliver.toNat.testBit (r.top - q).toNat = false) :
    redTest r q false = ({ r with deliver := r.deliver ||| BitVec.ofNat 64 (2 ^ (r.top - q).toNat) }, true, false) := by
  rw [redTest_behind h, if_pos hin, if_neg (Bool.eq_false_iff.mp hfree)]

theorem redTest_outOfWindow (h : 32768 ≤ (q - r.top).toNat) (hout : 64 ≤ (r.top - q).toNat) :
    redTest r q false = (r, true, true) := by
  rw [redTest_behind (.inl h), if_neg (Nat.not_lt.mpr hout)]

end Window

/-- Settles O25: each result that returns, the tiles, the requests, the reads and the window test are the lemmas above. -/
theorem lookupsReturn : Obligations.LookupsReturn := by
  refine ⟨fun s id e p ddr hshed hpkt heng => ⟨fun hready => exec_lookupReturn hshed (lookupReturn_ready hpkt hready),
      fun hwait => ?fdb, fun k hwait hprof => ?noProfile, fun k d hwait hprof hlocal => ?cam, fun table a hwait => ?t2,
      fun w hwait hflow => ?load, fun w v hwait hflow => ?store⟩,
    fun s n e x hn htile => ⟨fun h => exec_tileTransferComplete hn (tileTransferComplete_moving htile h),
      fun h => exec_tileTransferComplete hn (tileTransferComplete_still htile h)⟩,
    fun s id r p hreq hpkt => ⟨fun h => next_congr (stateRequestTimeout_early hreq hpkt h),
      fun w h hwait => next_congr (stateRequestTimeout_load hreq hpkt h hwait)⟩,
    fun s id table a tile p hpkt hwait htile => next_congr (ddrTimeout_t2 hpkt hwait htile),
    fun r q => ⟨redTest_ahead, fun h hin => ⟨redTest_duplicate h hin, redTest_marks h hin⟩, redTest_outOfWindow⟩⟩
  case fdb =>
    have hreturn := lookupReturn_fdb (ddr := ddr) ⟨hpkt, heng, hwait⟩
    exact ⟨fun x hhit => exec_lookupReturn hshed (hreturn.trans (fdbReturn_hit hhit)),
      fun hmiss => exec_lookupReturn hshed (hreturn.trans (fdbReturn_miss hmiss))⟩
  case noProfile => exact exec_lookupReturn hshed ((lookupReturn_cam ⟨hpkt, heng, hwait⟩).trans (camPacket_noProfile hprof))
  case cam => exact exec_lookupReturn hshed ((lookupReturn_cam ⟨hpkt, heng, hwait⟩).trans (camPacket_local hprof hlocal))
  case t2 =>
    have hreturn {t : State} {w : W32} {fail : Bool} (h : t2Read s (epochOf s p.epoch) table a p.part ddr = (t, w, fail)) :=
      exec_lookupReturn hshed ((lookupReturn_t2 ⟨hpkt, heng, hwait⟩).trans (t2Return_of_t2Read h))
    exact ⟨fun hnone => hreturn (t2Read_outside hnone), fun tile htile => ⟨fun hddr => hreturn (t2Read_good htile hddr),
      fun hddr => hreturn (t2Read_corrected htile hddr), fun hddr => hreturn (t2Read_uncorrectable htile hddr)⟩⟩
  case load => exact exec_lookupReturn hshed ((lookupReturn_stateLd ⟨hpkt, heng, hwait⟩).trans (flowReturn_zero e w none hflow))
  case store =>
    exact exec_lookupReturn hshed ((lookupReturn_stateSt ⟨hpkt, heng, hwait⟩).trans (flowReturn_zero e w (some v) hflow))

end Sys2Proof.Machine
end

section
/-! PROOFS. What every step keeps: the queue of commands, the revoke bits, the SVN floor from below, and the board hash but for a
programming. -/

namespace Sys2Proof.Machine

/-- Settles O1: both sides of the step are its definition. -/
theorem stepRunsFrontCommand : Obligations.StepRunsFrontCommand := fun _ _ _ => ⟨rfl, rfl⟩

/-! ## What a row does to the fuses and the queue -/

/-- `t` is `s` after the programming of the board hash that was under way in `s` (R514): the other fuses and the queue are those
of `s`. -/
def Programs (s t : State) : Prop :=
  s.cc.progBusy = true ∧ kp t = (s.fuse.floor, s.fuse.revoked, s.cc.progVal, s.pending)

theorem fuseProgDone_grows_or_programs (s : State) : grows s (fuseProgDone s) ∨ Programs s (fuseProgDone s) := by
  cases h : s.cc.progBusy with
  | true => exact .inr ⟨h, by rw [fuseProgDone_busy h]; rfl⟩
  | false => exact .inl (by rw [fuseProgDone_idle h]; exact grows_refl s)

/-- A row answers through `ev` a state whose SVN floor may have grown, or one that completes a programming. Three rows can write
CC_WDOG, and with it the floor; one completes a programming; every other row keeps the fuses and the queue. -/
theorem exec_grows_or_programs (i : Instr) (s : State) : ∃ t, exec i s = ev i.wf t ∧ (grows s t ∨ Programs s t) := by
  cases i with
  | registerWrite m a size v => exact ⟨_, rfl, .inl (registerWrite_grows m a size v s)⟩
  | ccWdogKick m v => exact ⟨_, rfl, .inl (wdogKick_grows m v s)⟩
  | debugWrite core a v => exact ⟨_, rfl, .inl (debugWrite_grows core a v s)⟩
  | fuseProgDone => exact ⟨_, rfl, fuseProgDone_grows_or_programs s⟩
  | bypass code =>
    exact ⟨if !tapCodes.contains code.toNat then tapIr s code false [false] else s, rfl, .inl (grows_of_kp (by simp))⟩
  | _ => exact ⟨_, rfl, .inl (grows_of_kp (by simp))⟩

/-- A row that answers a next state is such a row. -/
theorem grows_or_programs_of_exec {i : Instr} {s t : State} (h : exec i s = .next t) : grows s t ∨ Programs s t := by
  obtain ⟨u, hu, hkeeps⟩ := exec_grows_or_programs i s
  rw [hu] at h
  cases hwf : i.wf with
  | true =>
    rw [hwf, ev_true] at h
    cases h
    exact hkeeps
  | false =>
    rw [hwf, ev_false] at h
    cases h

/-- No row changes the queue of waiting commands. -/
theorem exec_pending {i : Instr} {s t : State} (h : exec i s = .next t) : t.pending = s.pending := by
  rcases grows_or_programs_of_exec h with ⟨_, _, _, hpending⟩ | ⟨_, hkp⟩
  · exact hpending
  · exact congrArg (fun x => x.2.2.2) hkp

theorem step_of_cons {s : State} {c : Instr} {rest : List Instr} (h : s.pending = c :: rest) :
    step s = exec c { s with pending := rest } := by rw [step, h]

theorem step_of_nil {s : State} (h : s.pending = []) : step s = .next s := by rw [step, h]

/-- Settles O3: no row writes the queue, and a step hands its row the rest of the queue. -/
theorem commandsLeaveTheQueue : Obligations.CommandsLeaveTheQueue := by
  refine ⟨fun i s t h => exec_pending h, fun s t c rest hqueue h => ?_⟩
  rw [step_of_cons hqueue] at h
  exact exec_pending h

/-- Settles O4: an idle step keeps the fuses, and a row raises the floor, keeps the fuses or completes a programming. -/
theorem svnFloorNeverFalls : Obligations.SvnFloorNeverFalls := by
  intro s t h
  cases hqueue : s.pending with
  | nil =>
    rw [step_of_nil hqueue] at h
    cases h
    exact ⟨Nat.le_refl _, rfl, .inl rfl⟩
  | cons c rest =>
    rw [step_of_cons hqueue] at h
    rcases grows_or_programs_of_exec h with ⟨hfloor, hrevoked, hhash, _⟩ | ⟨hbusy, hkp⟩
    · exact ⟨hfloor, hrevoked, .inl hhash⟩
    · exact ⟨Nat.le_of_eq (congrArg (fun x => x.1.toNat) hkp).symm, congrArg (fun x => x.2.1) hkp,
        .inr ⟨hbusy, congrArg (fun x => x.2.2.1) hkp⟩⟩

end Sys2Proof.Machine
end

section
/-! PROOFS. The families of the control cluster and the power chapter: a second supply source in a shed, and the accesses and
requests of a debug session. -/

namespace Sys2Proof.Machine

/-! ## A second source of a shed (R563) -/

section Second
variable {s : State} {idx c : Nat} {p : Grain}

/-- The state with PWR_GOOD of rail `n` low. -/
def railFallen (s : State) (n : Nat) : State := { s with pwr := { s.pwr with good := s.pwr.good &&& ~~~BitVec.ofNat 8 (2 ^ n) } }

theorem pfailNAssert_second (hshed : s.pwr.shed = some (c, p)) (h : p ≠ s.gr.count) : pfailNAssert s = pfailLow s := by
  cases hen : s.pwr.enPfail with
  | true => exact (pfailNAssert_enabled hen).trans (shedStart_second hshed (.inl h))
  | false => exact pfailNAssert_masked hen

theorem pwrGoodLoss_second {n : Nat} (hshed : s.pwr.shed = some (c, p)) (h : p ≠ s.gr.count) :
    pwrGoodLoss n s = s ∨ pwrGoodLoss n s = xFault (railFallen s n) 4 0xA1 n := by
  by_cases hhigh : RailHigh s n
  · exact .inr ((pwrGoodLoss_high hhigh).trans
      (congrArg (xFault · 4 0xA1 n) (shedStart_second (s := railFallen s n) hshed (.inl h))))
  · exact .inl (pwrGoodLoss_none hhigh)

theorem monitorTrip_second {code : BitVec 12} (hshed : (hupSample code s).pwr.shed = some (c, p))
    (h : p ≠ (hupSample code s).gr.count) : monitorTrip code s = hupSample code s := by
  by_cases hfall : (decide (s.hup.vTrip.toNat ≤ s.hup.v.toNat) &&
      decide ((hupSample code s).hup.v.toNat < (hupSample code s).hup.vTrip.toNat) && (hupSample code s).pwr.enMon) = true
  · exact (if_pos hfall).trans (shedStart_second hshed (.inl h))
  · exact if_neg hfall

/-- At the shed grain the lower of the two indices is the cause. -/
theorem shedStart_cause (hshed : s.pwr.shed = some (c, p)) (hgrain : p = s.gr.count) :
    (shedStart s idx).pwr.shed = some (min c idx, p) := by
  rcases Nat.lt_or_ge idx c with hlt | hge
  · rw [shedStart_lower hshed hgrain hlt, Nat.min_eq_right (Nat.le_of_lt hlt)]
  · rw [shedStart_second hshed (.inr hge), hshed, Nat.min_eq_left hge]

/-- A record of 9,728 bytes with its byte 8 written over. -/
theorem patchByte8 {l : List Byte} (n : Nat) (hl : l.length = 9728) :
    (l.take 8 ++ leBytes 1 n ++ l.drop 9).length = 9728 ∧ (l.take 8 ++ leBytes 1 n ++ l.drop 9)[8]? = some (BitVec.ofNat 8 n) := by
  have hhead : (l.take 8).length = 8 := by rw [List.length_take, hl]; rfl
  constructor
  · simp only [List.length_append, hhead, length_leBytes, List.length_drop, hl]
  · rw [List.append_assoc, List.getElem?_append_right (Nat.le_of_eq hhead), hhead]
    rfl

/-- Byte 8 of the captured record is the cause too. -/
theorem shedStart_record {l : List Byte} (hshed : s.pwr.shed = some (c, p)) (hgrain : p = s.gr.count) (hlg : s.pwr.lg = some l)
    (hl : l.length = 9728) (hbyte : l[8]? = some (BitVec.ofNat 8 c)) : ∃ l', (shedStart s idx).pwr.lg = some l' ∧
      l'.length = 9728 ∧ l'[8]? = some (BitVec.ofNat 8 (min c idx)) := by
  rcases Nat.lt_or_ge idx c with hlt | hge
  · rw [shedStart_lower hshed hgrain hlt, Nat.min_eq_right (Nat.le_of_lt hlt)]
    exact ⟨_, congrArg (Option.map _) hlg, patchByte8 idx hl⟩
  · rw [shedStart_second hshed (.inr hge), Nat.min_eq_left hge]
    exact ⟨l, hlg, hl, hbyte⟩

/-- In a shed, a source writes the supply state alone. -/
theorem shedStart_frame (hshed : s.pwr.shed = some (c, p)) : shedStart s idx = { s with pwr := (shedStart s idx).pwr } := by
  by_cases h : p = s.gr.count ∧ idx < c
  · rw [shedStart_lower hshed h.1 h.2]
  · rw [shedStart_second hshed ((Decidable.not_and_iff_not_or_not.mp h).imp_right Nat.not_lt.mp)]

end Second

/-- Settles O60: at a later grain no source starts anything, at the shed grain only the cause and its byte of the record change. -/
theorem secondSupplySourceInAShed : Obligations.SecondSupplySourceInAShed := by
  intro s c p hshed _
  refine ⟨fun h => next_congr (pfailNAssert_second hshed h), fun h n hn => ?rail,
    fun code ht hlate => next_congr (monitorTrip_second ht (Ne.symm hlate)), fun idx hgrain => shedStart_cause hshed hgrain,
    fun idx l hgrain hlg hl hbyte => shedStart_record hshed hgrain hlg hl hbyte, fun idx => shedStart_frame hshed⟩
  case rail =>
    have hrow (t : State) (ht : pwrGoodLoss n s = t) : exec (.pwrGoodLoss n) s = .next t := ev_next (decide_eq_true hn) ht
    exact (pwrGoodLoss_second hshed (Ne.symm h)).imp (hrow _) (hrow _)

/-! ## Levels of a debug session (R533) -/

section Debug
variable {s : State} {a : Nat} {v : W32}

theorem dbgLow_none {need : Nat} (h : s.dbg.level = 0) : dbgLow s need = some 4 := if_pos h

theorem dbgLow_below (h : s.dbg.level = 1) : dbgLow s 2 = some 1 := by rw [dbgLow, h]; rfl

theorem dbgLow_enough {need : Nat} (h : need ≤ s.dbg.level.toNat) (hpos : 0 < need) : dbgLow s need = none := by
  have hopen : s.dbg.level ≠ 0 := fun hzero => by rw [hzero] at h; exact absurd h (Nat.not_le.mpr hpos)
  rw [dbgLow, if_neg hopen, if_neg (Nat.not_lt.mpr h)]

/-- What an access of too low a level leaves. -/
theorem debugPeek_low {core : Bool} {st : BitVec 5} (h : dbgLow s 1 = some st) : debugPeek core a s = dbgResult s st 0 := by
  rw [debugPeek, h]

theorem debugTake_low {st : BitVec 5} (h : dbgLow s 2 = some st) : debugTake a s = dbgResult s st 0 := by rw [debugTake, h]

theorem debugWrite_low {core : Bool} {st : BitVec 5} (h : dbgLow s 2 = some st) : debugWrite core a v s = dbgResult s st 0 := by
  rw [debugWrite, h]

theorem debugHalt_low {st : BitVec 5} (h : dbgLow s 2 = some st) : debugHalt s = dbgStatus s st := by rw [debugHalt, h]

theorem debugResume_low {st : BitVec 5} (h : dbgLow s 2 = some st) : debugResume s = dbgStatus s st := by rw [debugResume, h]

/-! ## Peeks, takes and writes (R519 to R521) -/

theorem debugPeek_core (h : dbgLow s 1 = none) : debugPeek true a s = peekCore s a := by rw [debugPeek, h]; rfl

theorem debugPeek_control (h : dbgLow s 1 = none) : debugPeek false a s = peekControl s a := by rw [debugPeek, h]; rfl

theorem peekCore_word {w : W32} (hw : coreWord s.cc.tcm s.cc.coreRegs a = some w) : peekCore s a =
    dbgResult { s with dbg := { s.dbg with
      tcmDiff := s.dbg.tcmDiff || decide (coreWord s.cc.tcm2 s.cc.coreRegs2 a ≠ some w) } } 0 w := by rw [peekCore, hw]

theorem peekCore_outside (hw : coreWord s.cc.tcm s.cc.coreRegs a = none) : peekCore s a = dbgResult s 2 0 := by rw [peekCore, hw]

theorem peekControl_refused {c : Nat} (hc : accessCause s .cc a 4 false = some c) :
    peekControl s a = dbgResult (refuse s .cc a false c) 2 0 := by rw [peekControl, hc]

theorem peekControl_sideEffect (hc : accessCause s .cc a 4 false = none) (hp : peekRefused s a = true) :
    peekControl s a = dbgResult { s with dbg := { s.dbg with peekRef := true } } 0 0xDEAD5EE0 := by
  rw [peekControl, hc, hp]
  rfl

theorem peekControl_value (hc : accessCause s .cc a 4 false = none) (hp : peekRefused s a = false) :
    peekControl s a = dbgResult s 0 ((regValue s .cc a).getD 0) := by
  rw [peekControl, hc, hp]
  rfl

theorem debugTake_refused {c : Nat} (h : dbgLow s 2 = none) (hc : accessCause s .cc a 4 false = some c) :
    debugTake a s = dbgResult (refuse s .cc a false c) 2 0 := by rw [debugTake, h, hc]

theorem debugTake_reads (h : dbgLow s 2 = none) (hc : accessCause s .cc a 4 false = none) :
    debugTake a s = dbgResult (dbgLog (regTake s a) a false) 0 ((regValue s .cc a).getD 0) := by rw [debugTake, h, hc]

theorem debugWrite_core (h : dbgLow s 2 = none) (hw : (coreWord s.cc.tcm s.cc.coreRegs a).isSome = true) :
    debugWrite true a v s = dbgResult (dbgLog (coreWrite_ s a v) a true) 0 0 := by
  rw [debugWrite, h, hw]
  rfl

theorem debugWrite_outside (h : dbgLow s 2 = none) (hw : coreWord s.cc.tcm s.cc.coreRegs a = none) :
    debugWrite true a v s = dbgResult s 2 0 := by
  rw [debugWrite, h, hw]
  rfl

theorem debugWrite_refused {c : Nat} (h : dbgLow s 2 = none) (hc : debugCause s a = some c) :
    debugWrite false a v s = dbgResult (refuse s .cc a true c) 2 0 := by
  rw [debugWrite, h, hc]
  rfl

theorem debugWrite_register (h : dbgLow s 2 = none) (hc : debugCause s a = none) : debugWrite false a v s =
    dbgResult (dbgLog (if fuseRegister a then ccWrite s (a - 0x07000000) v true else regEffect s .cc a v) a true) 0 0 := by
  rw [debugWrite, h, hc]
  rfl

/-! ## HALT and RESUME (R522, R523, R531) -/

theorem ccFenced_iff : ccFenced s = true ↔ s.cc.state = 3 := decide_eq_true_iff.trans (BitVec.toNat_inj (y := 3))

/-- A HALT is refused: the status and HALT_REFUSED. -/
def haltRefused (s : State) : State := { s with dbg := { s.dbg with status := 0, haltRef := true } }

/-- The cores halt. -/
def coresHalted (s : State) : State :=
  { s with dbg := { s.dbg with status := 0, halted := true }, cc := { s.cc with state := 2 } }

/-- The cores go on. -/
def coresResumed (s : State) : State :=
  { s with dbg := { s.dbg with status := 0, halted := false }, cc := { s.cc with state := 1 } }

theorem debugHalt_session (h : dbgLow s 2 = none) : debugHalt s =
    if s.cc.state = 0 ∨ ccFenced s = true then haltRefused s
    else if s.dbg.halted then dbgStatus s 0
    else raise (if s.dbg.freeze then semFreeze (coresHalted s) else coresHalted s) 668 3 0 := by
  rw [debugHalt, h]
  rfl

theorem debugHalt_refused (h : dbgLow s 2 = none) (hst : s.cc.state = 0 ∨ s.cc.state = 3) : debugHalt s = haltRefused s := by
  rw [debugHalt_session h, if_pos (hst.imp_right ccFenced_iff.mpr)]

theorem not_bootingOrFenced (hboot : s.cc.state ≠ 0) (hfence : s.cc.state ≠ 3) : ¬ (s.cc.state = 0 ∨ ccFenced s = true) :=
  fun h => h.elim hboot fun hf => hfence (ccFenced_iff.mp hf)

theorem debugHalt_again (h : dbgLow s 2 = none) (hboot : s.cc.state ≠ 0) (hfence : s.cc.state ≠ 3) (hhalt : s.dbg.halted = true) :
    debugHalt s = dbgStatus s 0 := by
  rw [debugHalt_session h, if_neg (not_bootingOrFenced hboot hfence), if_pos hhalt]

theorem debugHalt_halts (h : dbgLow s 2 = none) (hboot : s.cc.state ≠ 0) (hfence : s.cc.state ≠ 3) (hrun : s.dbg.halted = false) :
    debugHalt s = raise (if s.dbg.freeze then semFreeze (coresHalted s) else coresHalted s) 668 3 0 := by
  rw [debugHalt_session h, if_neg (not_bootingOrFenced hboot hfence), if_neg (ne_true_of_eq_false hrun)]

theorem debugResume_resumes (h : dbgLow s 2 = none) (hhalt : s.dbg.halted = true) (hst : s.cc.state = 2) :
    debugResume s = raise (semThaw (coresResumed s)) 668 4 0 := by
  rw [debugResume, h]
  exact if_pos ⟨hhalt, hst⟩

theorem debugResume_none (h : dbgLow s 2 = none) (hrun : s.dbg.halted = false ∨ s.cc.state ≠ 2) : debugResume s = dbgStatus s 0 := by
  rw [debugResume, h]
  exact if_neg fun ⟨hhalt, hst⟩ => hrun.elim (ne_false_of_eq_true hhalt) (· hst)

end Debug

/-- Settles O48: a session below the level answers its status alone, and each access and request above it is its lemma. -/
theorem debugAccesses : Obligations.DebugAccesses := by
  refine ⟨fun s core a v => ⟨fun h => ?closed, fun h => ?below, fun h => ?peek⟩, fun s a v h => ?access, fun s h => ?request⟩
  case closed =>
    have hlow (need : Nat) : dbgLow s need = some 4 := dbgLow_none h
    exact ⟨next_congr (debugPeek_low (hlow 1)), next_congr (debugTake_low (hlow 2)), next_congr (debugWrite_low (hlow 2)),
      next_congr (debugHalt_low (hlow 2)), next_congr (debugResume_low (hlow 2))⟩
  case below =>
    have hlow := dbgLow_below h
    exact ⟨next_congr (debugTake_low hlow), next_congr (debugWrite_low hlow), next_congr (debugHalt_low hlow),
      next_congr (debugResume_low hlow)⟩
  case peek =>
    have hlow := dbgLow_enough h Nat.one_pos
    have hcore {t : State} (ht : peekCore s a = t) := next_congr ((debugPeek_core hlow).trans ht)
    have hcontrol {t : State} (ht : peekControl s a = t) := next_congr ((debugPeek_control hlow).trans ht)
    exact ⟨fun w hw => hcore (peekCore_word hw), fun hw => hcore (peekCore_outside hw),
      fun c hc => hcontrol (peekControl_refused hc), fun hc hp => hcontrol (peekControl_sideEffect hc hp),
      fun hc hp => hcontrol (peekControl_value hc hp)⟩
  case access =>
    have hlow := dbgLow_enough h Nat.two_pos
    exact ⟨fun c hc => next_congr (debugTake_refused hlow hc), fun hc => next_congr (debugTake_reads hlow hc),
      fun hw => next_congr (debugWrite_core hlow hw), fun hw => next_congr (debugWrite_outside hlow hw),
      fun c hc => next_congr (debugWrite_refused hlow hc), fun hc => next_congr (debugWrite_register hlow hc)⟩
  case request =>
    have hlow := dbgLow_enough h Nat.two_pos
    exact ⟨fun hst => next_congr (debugHalt_refused hlow hst),
      fun hboot hfence hhalt => next_congr (debugHalt_again hlow hboot hfence hhalt),
      fun hboot hfence hrun => next_congr (debugHalt_halts hlow hboot hfence hrun),
      fun hhalt hst => next_congr (debugResume_resumes hlow hhalt hst), fun hrun => next_congr (debugResume_none hlow hrun)⟩

end Sys2Proof.Machine
end

section
/-! PROOFS. The family of the power chapter: rails and their sequence, the programs of the sequencer, the poll of the regulator,
standby and wake. -/

namespace Sys2Proof.Machine

/-! ## Rails (R535) -/

section Rails
variable {s : State} {rail : Nat}

/-- The device runs its rails, or is kept from running them, already. -/
abbrev RailsHeld (s : State) : Prop :=
  s.pwr.upSeq = true ∨ s.pwr.railFail = true ∨ s.pwr.off = true ∨ s.pwr.state = 3 ∨ s.pwr.en ≠ 0 ∨ s.dev.inReset = false

theorem powerOn_guard : (s.pwr.vaon && (s.pwr.upSeq || s.pwr.railFail || s.pwr.off || decide (s.pwr.state = 3) ||
    decide (s.pwr.en ≠ 0) || !s.dev.inReset)) = true ↔ s.pwr.vaon = true ∧ RailsHeld s := by
  simp only [RailsHeld, Bool.and_eq_true, Bool.or_eq_true, decide_eq_true_eq, Bool.not_eq_true', or_assoc]

theorem powerOn_held (hvaon : s.pwr.vaon = true) (h : RailsHeld s) : powerOn s = s := if_pos (powerOn_guard.mpr ⟨hvaon, h⟩)

theorem powerOn_starts (h : ¬ (s.pwr.vaon = true ∧ RailsHeld s)) :
    powerOn s = railsUp { s with pwr := { s.pwr with vaon := true } } := if_neg (mt powerOn_guard.mp h)

/-- Without VAON, or with nothing of its rails begun, the device is not held. -/
theorem not_railsHeld (h : s.pwr.vaon = false ∨ (s.pwr.upSeq = false ∧ s.pwr.railFail = false ∧ s.pwr.off = false ∧
    s.pwr.state ≠ 3 ∧ s.pwr.en = 0 ∧ s.dev.inReset = true)) : ¬ (s.pwr.vaon = true ∧ RailsHeld s) := by
  rintro ⟨hvaon, hheld⟩
  rcases h with h | ⟨hup, hfail, hoff, hst, hen, hrst⟩
  · exact Bool.false_ne_true (h.symm.trans hvaon)
  · exact hst (by simpa [RailsHeld, hup, hfail, hoff, hen, hrst] using hheld)

theorem railTimeout_none (h : s.pwr.upSeq = false) : railTimeout rail s = s := if_neg (ne_true_of_eq_false h)

theorem railTimeout_stops (h : s.pwr.upSeq = true) : railTimeout rail s = xFault { s with pwr := { s.pwr with
    en := 0, good := 0, upSeq := false, aon := s.pwr.aon + 328, railFail := true, railNext := rail } } 4 0xA0 rail := if_pos h

theorem railRetry_none (h : s.pwr.railFail = false) : railRetry s = s := if_neg (ne_true_of_eq_false h)

theorem railRetry_starts (h : s.pwr.railFail = true) :
    railRetry s = railsUp { s with pwr := { s.pwr with aon := s.pwr.aon + 32768 } } := if_pos h

end Rails

/-! ## The sequencer (R536 to R538) -/

section Sequencer
variable {s : State} {image : List Byte} {io : List Nat}

theorem sequencerLoad_none (h : s.dev.phase ≠ 5 ∨ s.dev.fwOk = false ∨ ccFenced s = true ∨ s.pwr.seqOk = true ∨ image = []) :
    sequencerLoad image io s = s := by
  unfold sequencerLoad
  by_cases hoff : s.dev.phase ≠ 5 ∨ (!s.dev.fwOk) = true ∨ ccFenced s = true ∨ s.pwr.seqOk = true
  · rw [if_pos hoff]
  · have hempty : image = [] := by
      rcases h with h | h | h | h | h
      · exact absurd (.inl h) hoff
      · exact absurd (.inr (.inl (by rw [h]; rfl))) hoff
      · exact absurd (.inr (.inr (.inl h))) hoff
      · exact absurd (.inr (.inr (.inr h))) hoff
      · exact h
    rw [if_neg hoff, hempty]
    rfl

/-- The firmware runs and the store is not loaded. -/
structure LoadsStore (s : State) (image : List Byte) : Prop where
  phase : s.dev.phase = 5
  fw : s.dev.fwOk = true
  free : ccFenced s = false
  unloaded : s.pwr.seqOk = false
  image : image ≠ []

theorem LoadsStore.pass (h : LoadsStore s image) :
    ¬ (s.dev.phase ≠ 5 ∨ (!s.dev.fwOk) = true ∨ ccFenced s = true ∨ s.pwr.seqOk = true) ∧ ¬ image.isEmpty = true := by
  obtain ⟨hphase, hfw, hfree, hunloaded, himage⟩ := h
  refine ⟨?_, fun he => himage (List.isEmpty_iff.mp he)⟩
  rw [hphase, hfw, hfree, hunloaded]
  decide

theorem sequencerLoad_refused {d : Nat} (h : LoadsStore s image) (hbad : seqImageBad s image = some d) :
    sequencerLoad image io s = raise s 672 1 d := by
  rw [sequencerLoad, if_neg h.pass.1, if_neg h.pass.2, hbad]

theorem sequencerLoad_accepted (h : LoadsStore s image) (hgood : seqImageBad s image = none) : sequencerLoad image io s =
    (let words := (List.range (le image 6 2)).map fun k => (BitVec.ofNat 64 (le image (64 + 8 * k) 8) : BitVec 64)
     seqEntry { s with pwr := { s.pwr with store := words, seqOk := true } } 3 io) := by
  rw [sequencerLoad, if_neg h.pass.1, if_neg h.pass.2, hgood]

variable {store : List (BitVec 64)} {k pc : Nat} {stack : List Nat} {en : BitVec 8} {out : List Output} {w : BitVec 64}

theorem seqRun_past (h : store[pc]? = none) : seqRun store (k + 1) pc stack en io out = (en, out, some (some pc)) := by
  simp only [seqRun, h]

theorem seqRun_noOp (h : store[pc]? = some w) (hop : 10 ≤ sqf w 59 5) :
    seqRun store (k + 1) pc stack en io out = (en, out, some (some pc)) := by
  have hne (n : Nat) (hn : n < 10) : sqf w 59 5 ≠ n := by omega
  simp only [seqRun, h, hne 0 (by decide), hne 1 (by decide), hne 2 (by decide), hne 3 (by decide), hne 4 (by decide), hne 5 (by decide),
    hne 6 (by decide), hne 7 (by decide), hne 8 (by decide), hne 9 (by decide), if_false]

theorem seqRun_end (h : store[pc]? = some w) (hop : sqf w 59 5 = 0) :
    seqRun store (k + 1) pc stack en io out = (en, out, some none) := by
  simp only [seqRun, h, if_pos hop]

theorem seqFail_none (h : s.pwr.seqFail = none) : seqFail s = s := by rw [seqFail, h]

variable {e a : Nat}

/-- The state in which a failed entry has been taken. -/
def failTaken (s : State) : State := { s with pwr := { s.pwr with seqFail := none } }

theorem seqFail_some (h : s.pwr.seqFail = some (e, a)) : seqFail s =
    let t := raise (if e = 2 then xFault (failTaken s) 4 0xA2 (e + 65536 * a) else cFault (failTaken s) 4 0xA2 (e + 65536 * a))
      672 2 (e + 65536 * a)
    if e = 2 then railsUp t else if e = 3 then { t with pwr := { t.pwr with seqOk := false } } else railsDown t := by
  rw [seqFail, h]
  rfl

theorem seqFail_wake (h : s.pwr.seqFail = some (e, a)) (he : e = 2) : seqFail s =
    railsUp (raise (xFault (failTaken s) 4 0xA2 (e + 65536 * a)) 672 2 (e + 65536 * a)) := by
  rw [seqFail_some h]
  simp only [if_pos he]

theorem seqFail_trim (h : s.pwr.seqFail = some (e, a)) (he : e = 3) : seqFail s =
    (let u := raise (cFault (failTaken s) 4 0xA2 (e + 65536 * a)) 672 2 (e + 65536 * a)
     { u with pwr := { u.pwr with seqOk := false } }) := by
  have hne : e ≠ 2 := by omega
  rw [seqFail_some h]
  simp only [if_neg hne, if_pos he]

theorem seqFail_down (h : s.pwr.seqFail = some (e, a)) (hwake : e ≠ 2) (htrim : e ≠ 3) : seqFail s =
    railsDown (raise (cFault (failTaken s) 4 0xA2 (e + 65536 * a)) 672 2 (e + 65536 * a)) := by
  rw [seqFail_some h]
  simp only [if_neg hwake, if_neg htrim]

end Sequencer

/-! ## The regulator (R539, R541, R542) -/

section Regulator
variable {s : State} {mv : BitVec 16}

theorem voutPoll_stopped {ok : Bool} (h : s.pwr.state ≠ 1) : voutPoll mv ok s = s := if_pos h

theorem voutPoll_failed (h : s.pwr.state = 1) : voutPoll mv false s = cFault s 4 0xA3 (s.pwr.vaddr.toNat + 256 * 0x8B) := by
  rw [voutPoll, if_neg (not_not_intro h)]
  rfl

/-- The reading confirms a rise. -/
def confirmsRise (s : State) (mv : BitVec 16) : Bool := s.pwr.riseAt.isSome && decide (rowMv s.pwr.row.toNat ≤ mv.toNat + 10)

/-- The reading is too low for FLOOR, and none that follows a fall. -/
def belowFloor (s : State) (mv : BitVec 16) : Bool := decide (mv.toNat + 20 < rowMv s.pwr.floor.toNat) && !s.pwr.falling

theorem confirmsRise_iff : confirmsRise s mv = true ↔ s.pwr.riseAt.isSome = true ∧ rowMv s.pwr.row.toNat ≤ mv.toNat + 10 := by
  rw [confirmsRise, Bool.and_eq_true, decide_eq_true_eq]

theorem belowFloor_iff : belowFloor s mv = true ↔ mv.toNat + 20 < rowMv s.pwr.floor.toNat ∧ s.pwr.falling = false := by
  rw [belowFloor, Bool.and_eq_true, decide_eq_true_eq, Bool.not_eq_true']

/-- A good reading, of which `sure` says whether it confirms a rise. -/
def readingTaken (s : State) (mv : BitVec 16) (sure : Bool) : State :=
  { s with pwr := { s.pwr with
      readMv := mv
      falling := false
      conf := if sure then s.pwr.row else s.pwr.conf
      riseAt := if sure then none else s.pwr.riseAt } }

theorem voutPoll_good {low sure : Bool} (h : s.pwr.state = 1) (hlow : belowFloor s mv = low) (hsure : confirmsRise s mv = sure) :
    voutPoll mv true s = if low then kFault (readingTaken s mv sure) 4 0xA6 none mv.toNat else readingTaken s mv sure := by
  subst hlow hsure
  exact (if_neg (not_not_intro h)).trans (if_neg Bool.false_ne_true)

theorem vcoreSlow_none (h : s.pwr.riseAt = none) : vcoreSlow s = s := by rw [vcoreSlow, h]

variable {g : Grain}

theorem vcoreSlow_early (h : s.pwr.riseAt = some g) (hg : since s g < 1000000) : vcoreSlow s = s := by
  rw [vcoreSlow, h]
  exact if_neg (Nat.not_le.mpr hg)

theorem vcoreSlow_due (h : s.pwr.riseAt = some g) (hg : 1000000 ≤ since s g) : vcoreSlow s =
    raise (cFault { s with pwr := { s.pwr with riseAt := none, row := s.pwr.conf, down := 0 } } 4 0xA5 s.pwr.row.toNat)
      669 3 s.pwr.row.toNat := by
  rw [vcoreSlow, h]
  exact if_pos hg

end Regulator

/-! ## Standby and wake (R543, R544, R651) -/

section Standby
variable {s : State} {io : List Nat}

/-- What standby needs of the stores that drain: the device and the power state. -/
def devPwr (s : State) : Dev × Pwr := (s.dev, s.pwr)

theorem lineWrite_devPwr (s : State) (l : Nat) (b : List Byte) : devPwr (lineWrite s l b) = devPwr s := by
  have hraise (t : State) (src code data : Nat) : devPwr (raise t src code data) = devPwr t :=
    Prod.ext (raise_dev t src code data) (raise_pwr t src code data)
  unfold lineWrite
  split
  · rfl
  · dsimp only
    rw [apply_ite devPwr, hraise]
    exact ite_self _

theorem linesWrite_devPwr (s : State) (l : Nat) (r : List (List Byte)) : devPwr (linesWrite s l r) = devPwr s := by
  induction r generalizing s l with
  | nil => rfl
  | cons b r ih => exact (ih _ _).trans (lineWrite_devPwr s l b)

theorem unitZero_devPwr (s : State) (u : Nat) : devPwr (unitZero s u) = devPwr s := by
  unfold unitZero
  generalize List.replicate 256 zeroLine = zeros
  split
  · exact linesWrite_devPwr s _ zeros
  · rfl

theorem foldl_devPwr {α : Type} {f : State → α → State} (h : ∀ t a, devPwr (f t a) = devPwr t) (l : List α) (s : State) :
    devPwr (l.foldl f s) = devPwr s :=
  List.foldlRecOn l f (motive := fun t => devPwr t = devPwr s) rfl fun t ht a _ => (h t a).trans ht

theorem drainStores_devPwr (s : State) : devPwr (drainStores s) = devPwr s := by
  have hstore (t : State) (x : Store) : devPwr (linesWrite (x.scrub.foldl unitZero t) x.first x.lines) = devPwr t :=
    (linesWrite_devPwr _ _ _).trans (foldl_devPwr unitZero_devPwr x.scrub t)
  exact foldl_devPwr hstore s.prm.stores s

theorem drainStores_dev (s : State) : (drainStores s).dev = s.dev := congrArg Prod.fst (drainStores_devPwr s)

theorem drainStores_pwr (s : State) : (drainStores s).pwr = s.pwr := congrArg Prod.snd (drainStores_devPwr s)

/-- A device reset for standby keeps whether the sequencer's store is loaded. -/
theorem deviceReset_seqOk (s : State) (r : BitVec 3) : (deviceReset s r true).pwr.seqOk = s.pwr.seqOk := by
  rw [← flushFaults_pwr s]
  rfl

theorem standbyEntry_none (h : s.pwr.shed ≠ none ∨ railsOff s = true) : standbyEntry io s = s :=
  if_pos (Bool.or_eq_true_iff.mpr (h.imp_left Option.isSome_iff_ne_none.mpr))

theorem standbyEntry_enters (hshed : s.pwr.shed = none) (hrails : railsOff s = false) : standbyEntry io s =
    (let t := drainStores (deviceReset s s.dev.reason true)
     if s.pwr.seqOk then seqEntry t 1 io else railsDown t) := by
  rw [standbyEntry, if_neg (by rw [hshed, hrails]; decide)]
  simp only [drainStores_pwr, deviceReset_seqOk]

variable {src : BitVec 2}

theorem wake_none (h : s.pwr.state ≠ 3 ∨ s.pwr.vaon = false ∨ wakes s src = false) : wake src io s = s := by
  refine if_pos ?_
  simpa only [Bool.not_eq_true'] using h

/-- The device in the first grain after a wake. -/
def awake (s : State) (src : BitVec 2) : State :=
  { s with
    pwr := { s.pwr with state := 0, aon := if src = 2 then s.pwr.wakeAt else s.pwr.aon }
    dev := { s.dev with reason := 5, intReset := true } }

theorem wake_wakes (hst : s.pwr.state = 3) (hvaon : s.pwr.vaon = true) (hsrc : wakes s src = true) : wake src io s =
    if s.pwr.seqOk then seqEntry (awake s src) 2 io else railsUp (awake s src) :=
  if_neg (by rw [hst, hvaon, hsrc]; decide)

end Standby

/-- Settles O49: each row is its lemma above. -/
theorem railsSequencesAndRegulator : Obligations.RailsSequencesAndRegulator := by
  refine ⟨fun s => ⟨fun h => next_congr (powerOn_starts (not_railsHeld h)), fun hvaon h => next_congr (powerOn_held hvaon h), rfl⟩,
    fun s rail hrail => ⟨fun h => ev_next (decide_eq_true hrail) (railTimeout_none h),
      fun h => ev_next (decide_eq_true hrail) (railTimeout_stops h), fun h => next_congr (railRetry_none h),
      fun h => next_congr (railRetry_starts h)⟩,
    fun s image io => ⟨fun h => next_congr (sequencerLoad_none h), fun hphase hfw hfree hunloaded himage =>
      have h : LoadsStore s image := ⟨hphase, hfw, hfree, hunloaded, himage⟩
      ⟨fun d hbad => next_congr (sequencerLoad_refused h hbad), fun hgood => next_congr (sequencerLoad_accepted h hgood)⟩⟩,
    fun store k pc stack en io out => ⟨seqRun_past, fun w => seqRun_noOp, fun w => seqRun_end⟩,
    fun s => ⟨fun h => next_congr (seqFail_none h), fun e a h => ⟨fun he => next_congr (seqFail_wake h he),
      fun he => next_congr (seqFail_trim h he), fun hwake htrim => next_congr (seqFail_down h hwake htrim)⟩, rfl⟩,
    fun s mv ok => ?regulator, fun s io => ?standby, fun s src io => ?wake⟩
  case regulator =>
    have hgood (hst : s.pwr.state = 1) (hok : ok = true) (low sure : Bool) (hlow : belowFloor s mv = low)
        (hsure : confirmsRise s mv = sure) : exec (.voutPoll mv ok) s =
          .next (if low then kFault (readingTaken s mv sure) 4 0xA6 none mv.toNat else readingTaken s mv sure) := by
      rw [hok]
      exact next_congr (voutPoll_good hst hlow hsure)
    have hnot {b : Bool} {q : Prop} (h : b = true ↔ q) (hq : ¬ q) : b = false := Bool.eq_false_iff.mpr (mt h.mp hq)
    exact ⟨fun h => next_congr (voutPoll_stopped h), fun hst hok => hok ▸ next_congr (voutPoll_failed hst),
      fun hst hok hlow hsure => hgood hst hok false false (hnot belowFloor_iff hlow) (hnot confirmsRise_iff hsure),
      fun hst hok hlow hsure => hgood hst hok false true (hnot belowFloor_iff hlow) (confirmsRise_iff.mpr hsure),
      fun hst hok hlow hsure => hgood hst hok true false (belowFloor_iff.mpr hlow) (hnot confirmsRise_iff hsure),
      fun hst hok hlow hsure => hgood hst hok true true (belowFloor_iff.mpr hlow) (confirmsRise_iff.mpr hsure),
      fun h => next_congr (vcoreSlow_none h),
      fun g h => ⟨fun hg => next_congr (vcoreSlow_early h hg), fun hg => next_congr (vcoreSlow_due h hg)⟩⟩
  case standby =>
    refine ⟨fun h => next_congr (standbyEntry_none h), fun hshed hrails => ⟨?_, ?_, rfl, fun hseq => ?_, fun hseq => ?_⟩⟩
    · rw [drainStores_pwr]
      rfl
    · rw [drainStores_dev]
      rfl
    · exact next_congr ((standbyEntry_enters hshed hrails).trans (if_pos hseq))
    · exact next_congr ((standbyEntry_enters hshed hrails).trans (if_neg (ne_true_of_eq_false hseq)))
  case wake =>
    refine ⟨fun h => next_congr (wake_none h), fun hst hvaon hsrc => ⟨fun hseq => ?_, fun hseq => ?_⟩, rfl, rfl, rfl, fun h => ?_⟩
    · exact next_congr ((wake_wakes hst hvaon hsrc).trans (if_pos hseq))
    · exact next_congr ((wake_wakes hst hvaon hsrc).trans (if_neg (ne_true_of_eq_false hseq)))
    · rw [show wakes s 2 = (s.pwr.alarmEn && decide (s.pwr.aon.toNat ≤ s.pwr.wakeAt.toNat)) from rfl, h, Bool.false_and]

end Sys2Proof.Machine
end

section
/-! PROOFS. The family of the twin chapter, the Torv link: what a frame does while the link is up, how the link comes up and goes
down, and the frames of a rejoin. -/

namespace Sys2Proof.Machine

/-! ## Frames received (R607, R608) -/

section Frame
variable {s : State} {type len : Nat} {f : List Byte} {k : State → List Byte → State}

theorem recv_linkOff (h : s.twn.link = false) : recv s type len f k = s := if_neg (ne_true_of_eq_false h)

theorem recv_good (hlink : s.twn.link = true) (hgood : frameGood type len f = true) (hnext : frameNext s f = true) :
    recv s type len f k = k { s with twn := { s.twn with fseqRx := some (BitVec.ofNat 32 (le f 4 4)) } } (slice f 16 len) :=
  (if_pos hlink).trans (if_pos (Bool.and_eq_true_iff.mpr ⟨hgood, hnext⟩))

theorem recv_lost (hlink : s.twn.link = true) (h : frameGood type len f = false ∨ frameNext s f = false) :
    recv s type len f k = linkDown s 1 :=
  (if_pos hlink).trans (if_neg fun hboth => by
    obtain ⟨hgood, hnext⟩ := Bool.and_eq_true_iff.mp hboth
    exact h.elim (ne_false_of_eq_true hgood) (ne_false_of_eq_true hnext))

/-- The row takes a frame of a type by `k`: not at all without the link, and not where the frame is lost. -/
def TakesFrame (s : State) (f : List Byte) (i : Instr) (type len : Nat) (k : State → List Byte → State) : Prop :=
  (s.twn.link = false → exec i s = .next s) ∧
  (s.twn.link = true → frameGood type len f = true → frameNext s f = true → exec i s = .next
    (k { s with twn := { s.twn with fseqRx := some (BitVec.ofNat 32 (le f 4 4)) } } (slice f 16 len))) ∧
  (s.twn.link = true → frameGood type len f = false ∨ frameNext s f = false → exec i s = .next (linkDown s 1))

theorem takesFrame_of_recv {i : Instr} (h : exec i s = ev true (recv s type len f k)) : TakesFrame s f i type len k :=
  ⟨fun hlink => h.trans (next_congr (recv_linkOff hlink)),
    fun hlink hgood hnext => h.trans (next_congr (recv_good hlink hgood hnext)),
    fun hlink hlost => h.trans (next_congr (recv_lost hlink hlost))⟩

/-- The rows of the Torv frames, with their types, lengths and effects. -/
theorem rows_takeFrames (s : State) (f : List Byte) :
    TakesFrame s f (.torvKeepalive f) 0x01 8 keepaliveRx ∧ TakesFrame s f (.torvDecision f) 0x02 32 decisionRx ∧
    TakesFrame s f (.torvTouch f) 0x03 24 touchRx ∧ TakesFrame s f (.torvCommand f) 0x04 80 commandRx ∧
    TakesFrame s f (.torvVerdict f) 0x05 16 verdictRx ∧ TakesFrame s f (.torvTime f) 0x06 40 timeRx ∧
    TakesFrame s f (.torvReady f) 0x07 48 (fun s b => readyAnswer (readyRx s b)) ∧ TakesFrame s f (.torvProbe f) 0x08 8 probeRx ∧
    TakesFrame s f (.torvProbeReply f) 0x09 24 probeReplyRx ∧ TakesFrame s f (.torvBulk f) 0x0A 136 bulkRx ∧
    TakesFrame s f (.torvBulkEnd f) 0x0B 8 bulkEndRx ∧ TakesFrame s f (.torvNotice f) 0x0C 8 noticeRx ∧
    TakesFrame s f (.torvRole f) 0x0D 8 roleRx :=
  ⟨takesFrame_of_recv rfl, takesFrame_of_recv rfl, takesFrame_of_recv rfl, takesFrame_of_recv rfl, takesFrame_of_recv rfl,
    takesFrame_of_recv rfl, takesFrame_of_recv rfl, takesFrame_of_recv rfl, takesFrame_of_recv rfl, takesFrame_of_recv rfl,
    takesFrame_of_recv rfl, takesFrame_of_recv rfl, takesFrame_of_recv rfl⟩

theorem frameGood_iff : frameGood type len f = true ↔ f.length = 20 + len ∧ le f 0 1 = type ∧ le f 2 2 = len ∧
    le f (16 + len) 4 = (crc32 (f.take (16 + len))).toNat := by
  simp only [frameGood, Bool.and_eq_true, decide_eq_true_eq, and_assoc]

theorem frameNext_first (h : s.twn.fseqRx = none) : frameNext s f = true := by rw [frameNext, h]

theorem frameNext_iff {n : BitVec 32} (h : s.twn.fseqRx = some n) : frameNext s f = true ↔ BitVec.ofNat 32 (le f 4 4) = n + 1 := by
  rw [frameNext, h]
  exact decide_eq_true_iff

end Frame

/-! ## The link goes down and comes up (R606, R619, R623) -/

section Link
variable {s : State} {cause : Nat}

theorem linkDown_off (h : s.twn.link = false) : linkDown s cause = s := if_neg (ne_true_of_eq_false h)

/-- The state in which the link is down and the waiting TWIN_REJOIN commands have completed with TWIN_SEPARATED. -/
abbrev linkLost (s : State) : State := joinsEnd (linkOff s) 0x16 []

theorem linkDown_on (h : s.twn.link = true) : linkDown s cause =
    if paired (linkLost s) then (if (linkLost s).twn.alive then twinTo (linkLost s) 3 cause else linkLost s)
    else if (linkLost s).twn.state = 1 then joinFail (linkLost s) cause
    else linkLost s := if_pos h

theorem linkDown_separates (h : s.twn.link = true) (hpaired : paired (linkLost s) = true) (halive : (linkLost s).twn.alive = true) :
    linkDown s cause = twinTo (linkLost s) 3 cause := by rw [linkDown_on h, if_pos hpaired, if_pos halive]

theorem linkDown_pairedAlone (h : s.twn.link = true) (hpaired : paired (linkLost s) = true)
    (halive : (linkLost s).twn.alive = false) : linkDown s cause = linkLost s := by
  rw [linkDown_on h, if_pos hpaired, if_neg (ne_true_of_eq_false halive)]

theorem linkDown_joining (h : s.twn.link = true) (hst : (linkLost s).twn.state = 1) : linkDown s cause = joinFail (linkLost s) cause := by
  have hpaired : ¬ paired (linkLost s) = true := by rw [paired, hst]; decide
  rw [linkDown_on h, if_neg hpaired, if_pos hst]

theorem linkDown_other (h : s.twn.link = true) (hpaired : paired (linkLost s) = false) (hst : (linkLost s).twn.state ≠ 1) :
    linkDown s cause = linkLost s := by rw [linkDown_on h, if_neg (ne_true_of_eq_false hpaired), if_neg hst]

theorem keepaliveTimeout_none (h : s.twn.lastKa = none) : keepaliveTimeout s = s := by rw [keepaliveTimeout, h]

variable {g : Grain}

theorem keepaliveTimeout_early (h : s.twn.lastKa = some g) (hg : since s g < 4000) : keepaliveTimeout s = s := by
  rw [keepaliveTimeout, h]
  exact if_neg (Nat.not_le.mpr hg)

theorem keepaliveTimeout_due (h : s.twn.lastKa = some g) (hg : 4000 ≤ since s g) : keepaliveTimeout s = linkDown s 1 := by
  rw [keepaliveTimeout, h]
  exact if_pos hg

theorem torvLinkUp_none (h : s.twn.link = true ∨ s.twn.state = 0 ∨ s.twn.alive = false ∨ s.dev.inReset = true) :
    torvLinkUp s = s := if_pos (h.imp_right fun h => h.imp_right fun h => h.imp_left fun h => by rw [h]; rfl)

/-- After a shed, or where the link is up or may not come up, no link comes up. -/
theorem powered_torvLinkUp_none
    (h : s.pwr.shed ≠ none ∨ s.twn.link = true ∨ s.twn.state = 0 ∨ s.twn.alive = false ∨ s.dev.inReset = true) :
    powered s (torvLinkUp s) = s := by
  rcases h with h | h
  · exact powered_off _ h
  · rw [torvLinkUp_none h]
    exact ite_self s

theorem torvLinkUp_up (hlink : s.twn.link = false) (hst : s.twn.state ≠ 0) (halive : s.twn.alive = true) (hrst : s.dev.inReset = false) :
    torvLinkUp s = linkHolds { s with twn := { s.twn with link := true, lanes := 15, lastKa := some s.gr.count, fseqRx := none } } := by
  refine if_neg ?_
  rw [hlink, halive, hrst]
  rintro (h | h | h | h)
  · exact Bool.false_ne_true h
  · exact hst h
  · exact Bool.false_ne_true h
  · exact Bool.false_ne_true h

end Link

/-! ## ROLE, PROBE and TIME (R608, R612, R617, R622) -/

section Step
variable {s : State} {b : List Byte} {p : Bool}

/-- The state in which the partner's strap is known. -/
def roleTaken (s : State) (b : List Byte) : State := { s with twn := { s.twn with partSenior := some ((le b 0 1).testBit 0) } }

theorem roleRx_judged (hjoin : joining (roleTaken s b) = true) (hstep : s.twn.joinStep = 1) :
    roleRx s b = roleJudge (roleTaken s b) ((le b 0 1).testBit 0) := if_pos ⟨hjoin, hstep⟩

theorem roleRx_kept (h : joining (roleTaken s b) = false ∨ s.twn.joinStep ≠ 1) : roleRx s b = roleTaken s b :=
  if_neg fun ⟨hjoin, hstep⟩ => h.elim (ne_false_of_eq_true hjoin) (· hstep)

theorem roleJudge_equal (h : p = senior s) : roleJudge s p = joinFail s 3 := if_pos h

theorem roleJudge_measures (h : p ≠ senior s) (hjunior : senior s = false) (hprobes : s.twn.probes = []) :
    roleJudge s p = torvSend s 0x08 (leBytes 8 s.gr.count.toNat) := (if_neg h).trans (if_pos (by rw [hjunior, hprobes]; rfl))

theorem roleJudge_waits (h : p ≠ senior s) (hnot : senior s = true ∨ s.twn.probes ≠ []) : roleJudge s p = s := by
  refine (if_neg h).trans (if_neg fun hboth => ?_)
  obtain ⟨hjunior, hempty⟩ := Bool.and_eq_true_iff.mp hboth
  rcases hnot with hsen | hprobes
  · rw [hsen] at hjunior
    exact Bool.false_ne_true hjunior
  · exact hprobes (List.isEmpty_iff.mp hempty)

theorem probeRx_answers (hjoin : joining s = true) (hstep : s.twn.joinStep = 1) (hsen : senior s = true) : probeRx s b =
    torvSend s 0x09 (b ++ leBytes 8 s.gr.count.toNat ++ leBytes 8 s.gr.count.toNat) := if_pos ⟨hjoin, hstep, hsen⟩

theorem probeRx_none (h : joining s = false ∨ s.twn.joinStep ≠ 1 ∨ senior s = false) : probeRx s b = s :=
  if_neg fun ⟨hjoin, hstep, hsen⟩ => by
    rcases h with h | h | h
    · exact ne_false_of_eq_true hjoin h
    · exact h hstep
    · exact ne_false_of_eq_true hsen h

theorem probeReplyRx_none (h : joining s = false ∨ s.twn.joinStep ≠ 1 ∨ senior s = true) : probeReplyRx s b = s :=
  if_neg fun ⟨hjoin, hstep, hjunior⟩ => by
    rcases h with h | h | h
    · exact ne_false_of_eq_true hjoin h
    · exact h hstep
    · rw [h] at hjunior
      exact Bool.false_ne_true hjunior

/-- The state with one more measurement. -/
def probeTaken (s : State) (b : List Byte) : State :=
  { s with twn := { s.twn with
      probes := s.twn.probes ++ [probeResult (grainAt b 0) (grainAt b 8) (grainAt b 16) s.gr.count] } }

section Junior
variable (hjoin : joining s = true) (hstep : s.twn.joinStep = 1) (hjunior : senior s = false)
include hjoin hstep hjunior

theorem probeReplyRx_taken : probeReplyRx s b =
    if (probeTaken s b).twn.probes.length < 16 then torvSend (probeTaken s b) 0x08 (leBytes 8 s.gr.count.toNat)
    else if probesGood (probeTaken s b) then
      digestSend { probeTaken s b with twn := { (probeTaken s b).twn with
        goff := ((probeTaken s b).twn.probes.head?.map (·.1)).getD s.twn.goff } }
    else joinFail (probeTaken s b) 4 := if_pos ⟨hjoin, hstep, by rw [hjunior]; rfl⟩

theorem probeReplyRx_next (h : (probeTaken s b).twn.probes.length < 16) :
    probeReplyRx s b = torvSend (probeTaken s b) 0x08 (leBytes 8 s.gr.count.toNat) := by
  rw [probeReplyRx_taken hjoin hstep hjunior, if_pos h]

theorem probeReplyRx_fails (h : 16 ≤ (probeTaken s b).twn.probes.length) (hgood : probesGood (probeTaken s b) = false) :
    probeReplyRx s b = joinFail (probeTaken s b) 4 := by
  rw [probeReplyRx_taken hjoin hstep hjunior, if_neg (Nat.not_lt.mpr h), if_neg (ne_true_of_eq_false hgood)]

theorem probeReplyRx_sets (h : 16 ≤ (probeTaken s b).twn.probes.length) (hgood : probesGood (probeTaken s b) = true) :
    probeReplyRx s b = digestSend { probeTaken s b with twn := { (probeTaken s b).twn with
      goff := ((probeTaken s b).twn.probes.head?.map (·.1)).getD s.twn.goff } } := by
  rw [probeReplyRx_taken hjoin hstep hjunior, if_neg (Nat.not_lt.mpr h), if_pos hgood]

end Junior

/-- Measurements are good where all agree in GOFF and each delay allows LAG. -/
theorem probesGood_iff {q : BitVec 64 × BitVec 64} {l : List (BitVec 64 × BitVec 64)} (h : s.twn.probes = q :: l) :
    probesGood s = true ↔ (∀ x ∈ l, x.1 = q.1) ∧ ∀ x ∈ q :: l, 2 * x.2.toInt + 128 ≤ (s.twn.lag.toNat : Int) := by
  unfold probesGood
  rw [h]
  simp only [Bool.and_eq_true, List.all_eq_true, decide_eq_true_eq]

/-- A senior takes no TIME, nor does a junior that is neither PAIRED nor loading in a rejoin. -/
abbrev TakesTime (s : State) (b : List Byte) : Prop :=
  senior s = false ∧ (paired s = true ∨ (joining s = true ∧ (timeOf b).load = true))

theorem timeRx_guard : (senior s || !(paired s || (joining s && (timeOf b).load))) = true ↔ ¬ TakesTime s b := by
  rw [TakesTime]
  cases senior s <;> cases paired s <;> cases joining s <;> simp

theorem timeRx_ignored (h : ¬ TakesTime s b) : timeRx s b = s := if_pos (timeRx_guard.mpr h)

theorem timeRx_late (h : TakesTime s b) (hlate : before (timeOf b).apply (pairGrain s) = true) :
    timeRx s b = linkDown { s with twn := { s.twn with late := satInc s.twn.late } } 6 :=
  (if_neg fun hg => timeRx_guard.mp hg h).trans (if_pos hlate)

theorem timeRx_waits (h : TakesTime s b) (hlate : before (timeOf b).apply (pairGrain s) = false) :
    timeRx s b = { s with twn := { s.twn with times := s.twn.times ++ [timeOf b] } } :=
  (if_neg fun hg => timeRx_guard.mp hg h).trans (if_neg (ne_true_of_eq_false hlate))

theorem not_takesTime (h : senior s = true ∨ (paired s = false ∧ (joining s = false ∨ (timeOf b).load = false))) :
    ¬ TakesTime s b := by
  rintro ⟨hjunior, hpaired | ⟨hjoin, hload⟩⟩
  · exact h.elim (fun hsen => ne_false_of_eq_true hsen hjunior) fun h => ne_false_of_eq_true hpaired h.1
  · exact h.elim (fun hsen => ne_false_of_eq_true hsen hjunior) fun h =>
      h.2.elim (ne_false_of_eq_true hjoin) (ne_false_of_eq_true hload)

end Step

/-- Settles O55: the frames, the link and the steps of a rejoin are the lemmas above. -/
theorem torvFramesAndLink : Obligations.TorvFramesAndLink := by
  refine ⟨rows_takeFrames,
    fun s f type len => ⟨frameGood_iff, frameNext_first, fun n => frameNext_iff⟩,
    fun s cause => ⟨linkDown_off, linkDown_separates, linkDown_pairedAlone, linkDown_joining, linkDown_other, rfl⟩,
    fun s => ⟨rfl, fun h => next_congr (keepaliveTimeout_none h), fun g h => ⟨fun hg => next_congr (keepaliveTimeout_early h hg),
      fun hg => next_congr (keepaliveTimeout_due h hg)⟩, fun h => next_congr (powered_torvLinkUp_none h),
      fun hshed hlink hst halive hrst => next_congr ((powered_on _ hshed).trans (torvLinkUp_up hlink hst halive hrst))⟩,
    fun s b => ⟨rfl, rfl, ⟨fun hjoin hstep => ⟨fun h => ?equal, fun h hjunior hprobes => ?measures, fun h hnot => ?waits⟩, roleRx_kept⟩,
      probeRx_answers, probeRx_none, probeReplyRx_none, fun hjoin hstep hjunior => ⟨probeReplyRx_next hjoin hstep hjunior,
        probeReplyRx_fails hjoin hstep hjunior, probeReplyRx_sets hjoin hstep hjunior⟩,
      fun h => timeRx_ignored (not_takesTime h), fun hjunior h => ⟨timeRx_late ⟨hjunior, h⟩, timeRx_waits ⟨hjunior, h⟩⟩⟩,
    fun s p l h => probesGood_iff h⟩
  case equal => exact (roleRx_judged hjoin hstep).trans (roleJudge_equal h)
  case measures => exact (roleRx_judged hjoin hstep).trans (roleJudge_measures h hjunior hprobes)
  case waits => exact (roleRx_judged hjoin hstep).trans (roleJudge_waits h hnot)

end Sys2Proof.Machine
end

section
/-! PROOFS. The families of the radio chapters, transmission: schedules, chains and spans, where a burst starts, and how it ends. -/

namespace Sys2Proof.Machine

/-! ## Schedules, chains and spans (R459 to R461) -/

section Chain
variable {s : State} {m : Nat} {x : TdmSched}

theorem scheduleStart_due (hnext : (radioAt s m).nextSched = some x) (hdue : x.start * secUnits ≤ s.tb.t) (hrst : s.dev.inReset = false) :
    scheduleStart m s = cutSpans (setRadio s m { radioAt s m with
      sched := some x, nextSched := none, chainOn := false, inTail := false }) m x.spans := by
  rw [scheduleStart, hnext]
  exact if_pos ⟨hdue, by rw [hrst]; rfl⟩

theorem scheduleStart_none
    (h : ∀ x, (radioAt s m).nextSched = some x → s.tb.t < x.start * secUnits ∨ s.dev.inReset = true) : scheduleStart m s = s := by
  unfold scheduleStart
  dsimp only
  cases hnext : (radioAt s m).nextSched with
  | none => rfl
  | some x =>
    refine if_neg fun ⟨hdue, hrst⟩ => ?_
    rcases h x hnext with hearly | hreset
    · omega
    · rw [hreset] at hrst
      exact Bool.false_ne_true hrst

variable {k c0 : Nat} {sp : Option Nat}

theorem chainStart_at (hsched : (radioAt s m).sched = some x) (hpos : posAt x s.tb.t = some (k, c0, sp)) : chainStart m s =
    if ((radioAt s m).chainOn && decide ((radioAt s m).chain = k)) || s.dev.inReset then s else chainBegin m s x k sp := by
  rw [chainStart, hsched, Option.bind_some, hpos]
  rfl

theorem chainStart_runs (hsched : (radioAt s m).sched = some x) (hpos : posAt x s.tb.t = some (k, c0, sp))
    (h : (radioAt s m).chainOn = true ∧ (radioAt s m).chain = k ∨ s.dev.inReset = true) : chainStart m s = s := by
  rw [chainStart_at hsched hpos]
  refine if_pos ?_
  rwa [Bool.or_eq_true, Bool.and_eq_true, decide_eq_true_eq]

theorem chainStart_begins (hsched : (radioAt s m).sched = some x) (hpos : posAt x s.tb.t = some (k, c0, sp))
    (h : (radioAt s m).chainOn = false ∨ (radioAt s m).chain ≠ k) (hrst : s.dev.inReset = false) :
    chainStart m s = chainBegin m s x k sp := by
  rw [chainStart_at hsched hpos, hrst, Bool.or_false]
  refine if_neg fun hboth => ?_
  obtain ⟨hon, hchain⟩ := Bool.and_eq_true_iff.mp hboth
  exact h.elim (ne_false_of_eq_true hon) (· (of_decide_eq_true hchain))

theorem chainStart_outside (h : ∀ x, (radioAt s m).sched = some x → posAt x s.tb.t = none) : chainStart m s = s := by
  unfold chainStart
  dsimp only
  cases hsched : (radioAt s m).sched with
  | none => rfl
  | some x => rw [Option.bind_some, h x hsched, Option.map_none]

theorem spanStart_off (h : schedOn (radioAt s m) = none) : spanStart m s = s := by rw [spanStart, h]

theorem spanStart_on (h : schedOn (radioAt s m) = some x) : spanStart m s = spanTake m s (posAt x s.tb.t) := by rw [spanStart, h]

theorem spanStart_before (h : schedOn (radioAt s m) = some x) (hpos : posAt x s.tb.t = none) :
    spanStart m s = setRadio s m { radioAt s m with chainOn := false } :=
  (spanStart_on h).trans (congrArg (spanTake m s) hpos)

/-- The span, or the quiet tail, is another than the channel stands in. -/
theorem spanStart_at (h : schedOn (radioAt s m) = some x) (hpos : posAt x s.tb.t = some (k, c0, sp)) : spanStart m s =
    if k ≠ (radioAt s m).chain ∨ (sp.isNone = (radioAt s m).inTail ∧ sp.getD (radioAt s m).spanIdx = (radioAt s m).spanIdx) then s
    else setRadio s m { radioAt s m with
      spanIdx := sp.getD (radioAt s m).spanIdx, inTail := sp.isNone, spanBusy := (radioAt s m).pa } := by
  refine (spanStart_on h).trans ((congrArg (spanTake m s) hpos).trans ?_)
  rw [spanTake, Bool.decide_eq_true]

theorem spanStart_moves (h : schedOn (radioAt s m) = some x) (hpos : posAt x s.tb.t = some (k, c0, sp))
    (hchain : k = (radioAt s m).chain) (hnew : sp.isNone ≠ (radioAt s m).inTail ∨ sp.getD (radioAt s m).spanIdx ≠ (radioAt s m).spanIdx) :
    spanStart m s = setRadio s m { radioAt s m with
      spanIdx := sp.getD (radioAt s m).spanIdx, inTail := sp.isNone, spanBusy := (radioAt s m).pa } := by
  rw [spanStart_at h hpos]
  exact if_neg fun hold => hold.elim (· hchain) fun ⟨htail, hidx⟩ => hnew.elim (· htail) (· hidx)

end Chain

/-! ## Where a burst starts (R458, R462, R467) -/

section Start
variable {s : State} {m c0 start f : Nat} {x : TdmSched} {w : BitVec 8 × Nat × Nat} {c : Copy}

/-- The channel works, is not held and does not transmit. -/
abbrev ChannelFree (s : State) (m : Nat) : Prop :=
  rWorks s m = true ∧ (radioAt s m).held = false ∧ (radioAt s m).pa = false ∧ (radioAt s m).burst = none

theorem burstStart_guard : (!rWorks s m || (radioAt s m).held || (radioAt s m).pa || (radioAt s m).burst.isSome) = false ↔
    ChannelFree s m := by
  simp only [ChannelFree, Bool.or_eq_false_iff, Bool.not_eq_false', Option.isSome_eq_false_iff, Option.isNone_iff_eq_none, and_assoc]

theorem burstStart_busy (h : ¬ ChannelFree s m) : burstStart m s = s :=
  if_pos (Bool.of_not_eq_false (mt burstStart_guard.mp h))

theorem burstStart_free (h : ChannelFree s m) : burstStart m s =
    match (radioAt s m).sched, burstSlot s m with
    | some x, some (w, c0, start) =>
      if w.1 = 0 then (if fwRuns s then beaconGo s m x w c0 start else s)
      else downlinkGo m x w c0 start ((portCopies s (96 + m)).length + 1) s
    | _, _ => s := if_neg (ne_true_of_eq_false (burstStart_guard.mpr h))

theorem burstStart_noSlot (h : (radioAt s m).sched = none ∨ burstSlot s m = none) : burstStart m s = s := by
  by_cases hfree : ChannelFree s m
  · rw [burstStart_free hfree]
    rcases h with h | h
    · rw [h]
    · rw [h]
      cases (radioAt s m).sched <;> rfl
  · exact burstStart_busy hfree

section Slot
variable (hfree : ChannelFree s m) (hsched : (radioAt s m).sched = some x) (hslot : burstSlot s m = some (w, c0, start))
include hfree hsched hslot

theorem burstStart_slot : burstStart m s =
    if w.1 = 0 then (if fwRuns s then beaconGo s m x w c0 start else s)
    else downlinkGo m x w c0 start ((portCopies s (96 + m)).length + 1) s := by rw [burstStart_free hfree, hsched, hslot]

theorem burstStart_beacon (hw : w.1 = 0) (hfw : fwRuns s = true) : burstStart m s = beaconGo s m x w c0 start := by
  rw [burstStart_slot hfree hsched hslot, if_pos hw, if_pos hfw]

theorem burstStart_noFirmware (hw : w.1 = 0) (hfw : fwRuns s = false) : burstStart m s = s := by
  rw [burstStart_slot hfree hsched hslot, if_pos hw, if_neg (ne_true_of_eq_false hfw)]

theorem burstStart_downlink (hw : w.1 ≠ 0) :
    burstStart m s = downlinkGo m x w c0 start ((portCopies s (96 + m)).length + 1) s := by
  rw [burstStart_slot hfree hsched hslot, if_neg hw]

end Slot

theorem downlinkGo_empty (h : plainHead s (96 + m) = none) : downlinkGo m x w c0 start (f + 1) s = s := by rw [downlinkGo, h]

theorem downlinkGo_head (h : plainHead s (96 + m) = some c) : downlinkGo m x w c0 start (f + 1) s =
    if neverFits s m x c.frame.length then downlinkGo m x w c0 start f (dropHead s (96 + m) c)
    else if start + burstT s m c.frame.length ≤ c0 + w.2.2 * spanU x - hemU x then
      burstGo (setQueue s (96 + m) c.queue { queueAt s (96 + m) c.queue with
        copies := (queueAt s (96 + m) c.queue).copies.filter fun d => decide (d.pkt ≠ c.pkt) }) m start false (some c) c.frame
    else s := by rw [downlinkGo, h]

theorem downlinkGo_drops (h : plainHead s (96 + m) = some c) (hfit : neverFits s m x c.frame.length = true) :
    downlinkGo m x w c0 start (f + 1) s = downlinkGo m x w c0 start f (dropHead s (96 + m) c) := by
  rw [downlinkGo_head h, if_pos hfit]

theorem downlinkGo_sends (h : plainHead s (96 + m) = some c) (hfit : neverFits s m x c.frame.length = false)
    (hroom : start + burstT s m c.frame.length ≤ c0 + w.2.2 * spanU x - hemU x) : downlinkGo m x w c0 start (f + 1) s =
      burstGo (setQueue s (96 + m) c.queue { queueAt s (96 + m) c.queue with
        copies := (queueAt s (96 + m) c.queue).copies.filter fun d => decide (d.pkt ≠ c.pkt) }) m start false (some c) c.frame := by
  rw [downlinkGo_head h, if_neg (ne_true_of_eq_false hfit), if_pos hroom]

theorem downlinkGo_waits (h : plainHead s (96 + m) = some c) (hfit : neverFits s m x c.frame.length = false)
    (hroom : c0 + w.2.2 * spanU x - hemU x < start + burstT s m c.frame.length) : downlinkGo m x w c0 start (f + 1) s = s := by
  rw [downlinkGo_head h, if_neg (ne_true_of_eq_false hfit), if_neg (Nat.not_le.mpr hroom)]

end Start

/-! ## The end of a burst (R444 to R448, R454) -/

section End
variable {s : State} {m : Nat} {bins : List (Nat × Int)} {nmse : BitVec 16} {b : TxBurst}

theorem burstEnd_none (h : (radioAt s m).burst = none) : burstEnd m bins nmse s = s := by rw [burstEnd, h]

theorem burstEnd_early (h : (radioAt s m).burst = some b) (hend : reached s b.endAt = false) : burstEnd m bins nmse s = s := by
  rw [burstEnd, h]
  exact if_neg (ne_true_of_eq_false hend)

theorem burstEnd_due (h : (radioAt s m).burst = some b) (hend : reached s b.endAt = true) : burstEnd m bins nmse s =
    (let s1 := burstCopyGone s m
     let r := radioAt s1 m
     let s2 := setRadio s1 m { r with burst := none, bursts := satInc r.bursts, lastEnd := some (s1.gr.count, b.end_) }
     let s3 := maskCheck (paFall s2 m) m bins
     shapeDue (if (radioAt s3 m).shape.dpd then dpdCapture s3 m nmse else s3) m) := by
  rw [burstEnd, h]
  exact if_pos hend

theorem maskCheck_holds (h : (radioAt s m).shape.dpd = true ∨ worstBin (radioAt s m).shape.mask bins = none) :
    maskCheck s m bins = s := by
  unfold maskCheck
  dsimp only
  rcases h with h | h
  · exact if_pos h
  · rw [h]
    exact ite_self s

theorem maskCheck_violated {f : Nat} (hdpd : (radioAt s m).shape.dpd = false) (h : worstBin (radioAt s m).shape.mask bins = some f) :
    maskCheck s m bins = holdSet (setRadio s m { radioAt s m with maskViol := satInc (radioAt s m).maskViol }) m 1 f := by
  unfold maskCheck
  dsimp only
  rw [h]
  exact if_neg (ne_true_of_eq_false hdpd)

theorem holdSet_held (h : (radioAt s m).held = true) (c : BitVec 2) (d : Nat) : holdSet s m c d = s := if_pos h

theorem holdSet_free (h : (radioAt s m).held = false) (c : BitVec 2) (d : Nat) :
    holdSet s m c d = mdmEvent (setRadio s m { radioAt s m with held := true, holdCause := c }) m 0 c.toNat d :=
  if_neg (ne_true_of_eq_false h)

theorem judgeUpdate_reverts {old : BitVec 16} (h : (radioAt s m).preNmse = some old) (hworse : old.toInt + 12 < nmse.toInt) :
    judgeUpdate s m nmse = mdmEvent (setRadio s m { radioAt s m with
      preNmse := none, newCoef := none, shape := { (radioAt s m).shape with coef := (radioAt s m).prevCoef },
      reverts := satInc (radioAt s m).reverts }) m 2 2 (old.toNat + 65536 * nmse.toNat) := by
  rw [judgeUpdate, h]
  exact if_pos hworse

/-! ## Limits of a burst: PA_LIMIT and DCLK (R448, R455) -/

theorem paLimit_cuts (hpa : (radioAt s m).pa = true) (hlong : 41000000 ≤ since s (radioAt s m).paAt) : paLimit m s =
    fFault (mdmEvent (shapeDue (paCut s m) m) m 1 3 0) (224 + m) 0x71 0 := if_pos ⟨hpa, hlong⟩

theorem paLimit_none (h : (radioAt s m).pa = false ∨ since s (radioAt s m).paAt < 41000000) : paLimit m s = s :=
  if_neg fun ⟨hpa, hlong⟩ => h.elim (ne_false_of_eq_true hpa) (Nat.not_lt.mpr hlong)

theorem dclkLoss_none (h : (radioAt s m).dclkOk = false) : dclkLoss m s = s := if_neg (ne_true_of_eq_false h)

theorem dclkLoss_cuts (h : (radioAt s m).dclkOk = true) : dclkLoss m s =
    (let t := paCut s m
     shapeDue (mdmEvent (setRadio t m { radioAt t m with
       dclkOk := false, tracked := (radioAt t m).tracked.filter (·.decoded) }) m 1 1 0) m) := if_pos h

theorem dclkReturn_none (h : (radioAt s m).dclkOk = true ∨ s.dev.inReset = true) : dclkReturn m s = s :=
  if_pos (Bool.or_eq_true_iff.mpr h)

theorem dclkReturn_returns (h : (radioAt s m).dclkOk = false) (hrst : s.dev.inReset = false) :
    dclkReturn m s = mdmEvent (setRadio s m { radioAt s m with dclkOk := true }) m 1 2 0 := if_neg (by rw [h, hrst]; decide)

end End

/-- Settles O43: each row of an existing channel is its lemma above. -/
theorem chainsSpansAndBursts : Obligations.ChainsSpansAndBursts := by
  have hrow {m : Nat} (hm : m < 4) {t u : State} (h : t = u) : ev (decide (m < 4)) t = .next u := ev_next (decide_eq_true hm) h
  refine ⟨fun s m hm => ?spans, fun s m hm => ?start,
    fun s m c0 start f x w => ⟨downlinkGo_empty, fun c h => ⟨downlinkGo_drops h, downlinkGo_sends h, downlinkGo_waits h⟩⟩,
    fun s m bins nmse hm => ?finish, fun s m ls coef hm => ?limits⟩
  case spans =>
    exact ⟨fun x hnext hdue hrst => hrow hm (scheduleStart_due hnext hdue hrst), fun h => hrow hm (scheduleStart_none h),
      fun x k c0 sp hsched hpos => ⟨fun h => hrow hm (chainStart_runs hsched hpos h),
        fun h hrst => hrow hm (chainStart_begins hsched hpos h hrst)⟩,
      fun h => hrow hm (chainStart_outside h), fun h => hrow hm (spanStart_off h),
      fun x h => ⟨fun hpos => hrow hm (spanStart_before h hpos), fun k c0 sp hpos =>
        ⟨fun hold => hrow hm ((spanStart_at h hpos).trans (if_pos hold)),
          fun hchain hnew => hrow hm (spanStart_moves h hpos hchain hnew)⟩⟩⟩
  case start =>
    exact ⟨fun h => hrow hm (burstStart_busy h), fun h => hrow hm (burstStart_noSlot h), fun x w c0 start hfree hsched hslot =>
      ⟨fun hw hfw => hrow hm (burstStart_beacon hfree hsched hslot hw hfw),
        fun hw hfw => hrow hm (burstStart_noFirmware hfree hsched hslot hw hfw),
        fun hw => hrow hm (burstStart_downlink hfree hsched hslot hw)⟩⟩
  case finish =>
    exact ⟨fun h => hrow hm (burstEnd_none h), fun b h => ⟨fun hend => hrow hm (burstEnd_early h hend),
      fun hend => hrow hm (burstEnd_due h hend)⟩, maskCheck_holds, fun f hdpd h => maskCheck_violated hdpd h, holdSet_held,
      holdSet_free, fun old h hworse => judgeUpdate_reverts h hworse⟩
  case limits =>
    exact ⟨fun h => hrow hm (if_pos h), fun h => hrow hm (if_neg (ne_true_of_eq_false h)),
      fun hpa hlong => hrow hm (paLimit_cuts hpa hlong), fun h => hrow hm (paLimit_none h), fun h => hrow hm (dclkLoss_none h),
      fun h => hrow hm (dclkLoss_cuts h), fun h => hrow hm (dclkReturn_none h),
      fun h hrst => hrow hm (dclkReturn_returns h hrst)⟩

end Sys2Proof.Machine
end

section
/-! PROOFS. The families of the radio chapters, reception: syncs, decoded bursts and their class, frames that become packets, and the
noise floor. -/

namespace Sys2Proof.Machine

/-! ## Syncs (R439, R465) -/

section Sync
variable {s : State} {m sub j : Nat} {word : BitVec 32}

/-- Bursts that are being received. -/
abbrev receiving (s : State) (m : Nat) : List RxBurst := (radioAt s m).tracked.filter fun b => !b.decoded

theorem syncDetect_none (h : rListens s m = false ∨ syncNode (radioAt s m) word = none) : syncDetect m word sub s = s := by
  unfold syncDetect
  dsimp only
  rcases h with h | h
  · exact if_pos (by rw [h]; rfl)
  · rw [h]
    exact ite_self s

section Expected
variable (hlisten : rListens s m = true) (hword : syncNode (radioAt s m) word = some j)
include hlisten hword

/-- The burst that a sync begins. -/
def rxStart (s : State) (m sub j : Nat) : RxBurst :=
  { node := j, sync := compensate (stampOf s sub) (-(16 * (radioAt s m).rxDly.toNat : Int)), from_ := 0, to_ := 0, type_ := 0,
    hdrNode := 0, payload := [], report := [], result := 0, decoded := false, collided := false, keep := false, bad := false,
    relAt := 0, inScope := false }

theorem syncDetect_expected : syncDetect m word sub s =
    if 2 ≤ (receiving s m).length then setRadio s m { radioAt s m with overrun := satInc (radioAt s m).overrun, spanBusy := true }
    else setRadio s m { radioAt s m with
      tracked := (radioAt s m).tracked ++ [rxStart s m sub j], sync := satInc (radioAt s m).sync, spanBusy := true } := by
  unfold syncDetect
  dsimp only
  rw [hlisten, hword]
  rfl

theorem syncDetect_overrun (h : 2 ≤ (receiving s m).length) : syncDetect m word sub s =
    setRadio s m { radioAt s m with overrun := satInc (radioAt s m).overrun, spanBusy := true } := by
  rw [syncDetect_expected hlisten hword, if_pos h]

theorem syncDetect_tracks (h : (receiving s m).length < 2) : syncDetect m word sub s = setRadio s m { radioAt s m with
    tracked := (radioAt s m).tracked ++ [rxStart s m sub j], sync := satInc (radioAt s m).sync, spanBusy := true } := by
  rw [syncDetect_expected hlisten hword, if_neg (Nat.not_le.mpr h)]

end Expected

end Sync

/-! ## Bursts decoded and classed (R440 to R442, R463 to R468) -/

section Decode
variable {s : State} {m : Nat} {coded : List Byte} {level cfo : BitVec 16} {b : RxBurst}

theorem burstDecoded_none (h : (radioAt s m).tracked.find? (fun b => !b.decoded) = none) :
    burstDecoded m coded level cfo s = s := by rw [burstDecoded, h]

theorem burstDecoded_some (h : (radioAt s m).tracked.find? (fun b => !b.decoded) = some b) :
    burstDecoded m coded level cfo s = burstTake m coded level cfo s b := by rw [burstDecoded, h]

/-- What the channel decodes. -/
abbrev decodedBurst (s : State) (m : Nat) (coded : List Byte) : BurstIn := burstDecode (rmK s m) (rmTwoT s m) (rmDepth s m) coded

theorem burstTake_early (h : rxComplete s m b (decodedBurst s m coded) = false) : burstTake m coded level cfo s b = s :=
  if_pos (by rw [h]; rfl)

section Complete
variable (s m coded level cfo b)

/-- The instant of a burst's first symbol. -/
def rxEst : Nat := tAdd b.sync (-((symU s m (rmPre s m + 32) : Nat) : Int))

/-- The schedule of the chain in progress, an empty one without it. -/
def rxSched : TdmSched := (schedOn (radioAt s m)).getD { spans := 0, chain := 0, span := 0, hem := 0, start := 0 }

/-- The node of a burst is in REACQ, or gone. -/
def rxReacq : Bool := match nodeOf (radioAt s m) b.node with | some e => decide (e.state = 2) | none => true

/-- OFFSET of a burst. -/
def rxOffset : Int := (offsetOf s m (rxSched s m) (radioAt s m) b.node (rxEst s m b)).getD 0

/-- A burst decoded without error from a node in state ACTIVE. -/
def rxGood : Bool := decide ((decodedBurst s m coded).result = 0) && !rxReacq s m b

/-- The frame of such a burst is kept where it is not bad. -/
def rxKeep : Bool := rxGood s m coded b && !frameBad b.node (decodedBurst s m coded)

/-- The frame is lost in a drain. -/
def rxLost : Bool := rxKeep s m coded b && (b.inScope || rDrains s m)

/-- The burst with what its decoding gave. -/
def rxTaken : RxBurst :=
  let d := decodedBurst s m coded
  let a := tAdd (rxEst s m b) (-((rmRamp s m * usU : Nat) : Int))
  let z := if d.result = 1 then tAdd b.sync (symU s m (96 / rmBits s m) : Nat) else a + burstT s m d.len
  { b with
    from_ := a, to_ := z, type_ := d.type_, hdrNode := d.node, payload := d.payload, report := burstReport s m b d level cfo,
    result := BitVec.ofNat 3 d.result, decoded := true, keep := rxKeep s m coded b && !rxLost s m coded b,
    bad := rxGood s m coded b && frameBad b.node d, relAt := holdTo (rxSched s m) a z, inScope := false }

/-- The state in which a drain has counted a lost frame. -/
def rxDrained : State := if rxLost s m coded b then drainLost s (fun q => q.ingress.contains (96 + m)) else s

/-- The state in which the burst is decoded and reported, its node has its OFFSET, and overlapping bursts have collided. -/
def rxRecorded : State :=
  let d := decodedBurst s m coded
  let e := rxTaken s m coded level cfo b
  let r := radioAt (rxDrained s m coded b) m
  let t := setRadio (rxDrained s m coded b) m { resultCount r d.result with
    tracked := r.tracked.map (fun k => if k.sync = b.sync ∧ !k.decoded then e else k), lastRep := burstReport s m b d level cfo }
  collide (setNode t m b.node fun n => { n with offset := rxOffset s m b }) m e

/-- The burst is an answer of a node in REACQ. -/
def rxAnswers : Bool :=
  let d := decodedBurst s m coded
  decide (d.result = 0) && decide (d.type_ = 2) && decide (d.node = b.node) &&
    inReleased (rxSched s m) (radioAt (rxDrained s m coded b) m) b.node (rxEst s m b) &&
    !((radioAt (rxRecorded s m coded level cfo b) m).tracked.any fun k =>
      decide (k.sync = (rxTaken s m coded level cfo b).sync) && k.collided)

end Complete

section Class
variable (hdone : rxComplete s m b (decodedBurst s m coded) = true)
include hdone

theorem burstTake_complete : burstTake m coded level cfo s b =
    if (nodeOf (radioAt (rxDrained s m coded b) m) b.node).isNone then rxRecorded s m coded level cfo b
    else if rxReacq s m b then
      classReacq (rxRecorded s m coded level cfo b) m b.node (rxAnswers s m coded level cfo b) (rxOffset s m b)
    else classActive (rxRecorded s m coded level cfo b) m b.node
      (placement (rxSched s m) (radioAt (rxDrained s m coded b) m) b.node (rxEst s m b)) (rxOffset s m b) :=
  if_neg (by rw [hdone]; decide)

theorem burstTake_gone (h : nodeOf (radioAt (rxDrained s m coded b) m) b.node = none) :
    burstTake m coded level cfo s b = rxRecorded s m coded level cfo b := by
  rw [burstTake_complete hdone, h]
  rfl

theorem burstTake_active (h : (nodeOf (radioAt (rxDrained s m coded b) m) b.node).isSome = true) (hactive : rxReacq s m b = false) :
    burstTake m coded level cfo s b = classActive (rxRecorded s m coded level cfo b) m b.node
      (placement (rxSched s m) (radioAt (rxDrained s m coded b) m) b.node (rxEst s m b)) (rxOffset s m b) := by
  rw [burstTake_complete hdone, if_neg (ne_true_of_eq_false (Option.isNone_eq_false_iff.mpr h)), if_neg (ne_true_of_eq_false hactive)]

theorem burstTake_reacq (h : (nodeOf (radioAt (rxDrained s m coded b) m) b.node).isSome = true) (hreacq : rxReacq s m b = true) :
    burstTake m coded level cfo s b =
      classReacq (rxRecorded s m coded level cfo b) m b.node (rxAnswers s m coded level cfo b) (rxOffset s m b) := by
  rw [burstTake_complete hdone, if_neg (ne_true_of_eq_false (Option.isNone_eq_false_iff.mpr h)), if_pos hreacq]

end Class

/-! ## Placement (R464) -/

variable {x : TdmSched} {r : Radio} {j t : Nat}

theorem placement_inside (h : ∃ w ∈ nodeWindows x r j t, w.1 + (hemU x : Nat) ≤ (t : Int) ∧ (t : Int) < w.2.1 - (hemU x : Nat)) :
    placement x r j t = 0 := by
  refine if_pos ?_
  obtain ⟨w, hw, hfrom, hto⟩ := h
  exact List.any_eq_true.mpr ⟨w, hw, Bool.and_eq_true_iff.mpr ⟨decide_eq_true hfrom, decide_eq_true hto⟩⟩

theorem placement_noWindow (h : nodeWindows x r j t = []) : placement x r j t = 2 := by
  rw [placement, h]
  rfl

end Decode

/-! ## Frames that become packets (R465, R470) -/

section Release
variable {s : State} {m work : Nat} {b : RxBurst}

theorem radioFrameRelease_none (h : (radioAt s m).tracked.find? (fun b => b.decoded && decide (b.relAt ≤ s.tb.t)) = none) :
    radioFrameRelease m work s = s := by rw [radioFrameRelease, h]

/-- The channel without a burst. -/
def rxReleased (s : State) (m : Nat) (b : RxBurst) : Radio :=
  { radioAt s m with tracked := (radioAt s m).tracked.filter fun k => decide (k ≠ b) }

section Due
variable (h : (radioAt s m).tracked.find? (fun b => b.decoded && decide (b.relAt ≤ s.tb.t)) = some b)
include h

theorem radioFrameRelease_due : radioFrameRelease m work s =
    if b.collided then setRadio s m (rxReleased s m b)
    else if b.bad then setRadio s m { rxReleased s m b with bad := satInc (radioAt s m).bad }
    else if b.keep then radioPacket (setRadio s m (rxReleased s m b)) m b work
    else setRadio s m (rxReleased s m b) := by
  rw [radioFrameRelease, h]
  rfl

theorem radioFrameRelease_discards (hb : b.collided = true ∨ (b.bad = false ∧ b.keep = false)) :
    radioFrameRelease m work s = setRadio s m (rxReleased s m b) := by
  rw [radioFrameRelease_due h]
  rcases hb with hcollided | ⟨hbad, hkeep⟩
  · exact if_pos hcollided
  · rw [hbad, hkeep]
    exact ite_self _

theorem radioFrameRelease_bad (hcollided : b.collided = false) (hbad : b.bad = true) :
    radioFrameRelease m work s = setRadio s m { rxReleased s m b with bad := satInc (radioAt s m).bad } := by
  rw [radioFrameRelease_due h, if_neg (ne_true_of_eq_false hcollided), if_pos hbad]

theorem radioFrameRelease_packet (hcollided : b.collided = false) (hbad : b.bad = false) (hkeep : b.keep = true) :
    radioFrameRelease m work s = radioPacket (setRadio s m (rxReleased s m b)) m b work := by
  rw [radioFrameRelease_due h, if_neg (ne_true_of_eq_false hcollided), if_neg (ne_true_of_eq_false hbad), if_pos hkeep]

end Due

section Packet
variable (s m work b)

/-- The frame of a packet of the channel: with its report where RPT_APPEND is set. -/
def radioFrame : List Byte := if (radioAt s m).rptAppend then b.payload ++ b.report else b.payload

/-- The partition that receives it. -/
def radioPart : Nat := framePart s (newest s) (96 + m) (radioFrame s m b)

/-- The packet. -/
def radioPkt : Pkt :=
  { newPkt s (96 + m) (radioPart s m b) (stampOf s 0) 0 (radioFrame s m b) .arriving with work := work }

/-- The state in which the packet has arrived and is counted. -/
def radioCounted : State :=
  count (count (addPkt s (radioPkt s m work b)) (96 + m) 1 1 (radioPart s m b)) (96 + m) 3 b.payload.length (radioPart s m b)

end Packet

theorem radioPacket_eq : radioPacket s m b work =
    if (ptnAt (radioCounted s m work b) (radioPart s m b)).resetting then
      discardPkt (rstDrop (radioCounted s m work b) (radioPart s m b)) (radioPkt s m work b)
    else if rDrains (radioCounted s m work b) m then
      discardPkt (drainLost (radioCounted s m work b) fun q => q.ingress.contains (96 + m)) (radioPkt s m work b)
    else dispatch (radioCounted s m work b) (radioPkt s m work b) := by
  unfold radioPacket radioCounted radioPkt radioPart radioFrame
  rfl

theorem radioPacket_resetting (h : (ptnAt (radioCounted s m work b) (radioPart s m b)).resetting = true) :
    radioPacket s m b work = discardPkt (rstDrop (radioCounted s m work b) (radioPart s m b)) (radioPkt s m work b) := by
  rw [radioPacket_eq, if_pos h]

theorem radioPacket_dispatched (h : (ptnAt (radioCounted s m work b) (radioPart s m b)).resetting = false)
    (hdrain : rDrains (radioCounted s m work b) m = false) :
    radioPacket s m b work = dispatch (radioCounted s m work b) (radioPkt s m work b) := by
  rw [radioPacket_eq, if_neg (ne_true_of_eq_false h), if_neg (ne_true_of_eq_false hdrain)]

end Release

/-! ## The noise floor (R443) -/

section Noise
variable {s : State} {m : Nat} {level : BitVec 16} {full : Bool}

/-- A measurement ends. -/
abbrev MeasuresNoise (s : State) (m : Nat) : Prop :=
  rWorks s m = true ∧ idleSpan s m = true ∧ spanDue (radioAt s m) s.tb.t = true ∧ (radioAt s m).spanBusy = false ∧
    (radioAt s m).pa = false

theorem noise_guard : (!rWorks s m || !idleSpan s m || !spanDue (radioAt s m) s.tb.t || (radioAt s m).spanBusy ||
    (radioAt s m).pa) = false ↔ MeasuresNoise s m := by
  simp only [MeasuresNoise, Bool.or_eq_false_iff, Bool.not_eq_false', and_assoc]

theorem noiseFloorMeasure_none (h : ¬ MeasuresNoise s m) : noiseFloorMeasure m level full s = s :=
  if_pos (Bool.of_not_eq_false (mt noise_guard.mp h))

theorem noiseFloorMeasure_measures (h : MeasuresNoise s m) : noiseFloorMeasure m level full s = setRadio s m { radioAt s m with
    spanBusy := true, nf := if full then (radioAt s m).nf else ((level + (radioAt s m).rxCal) :: (radioAt s m).nf).take 16 } :=
  if_neg (ne_true_of_eq_false (noise_guard.mpr h))

theorem not_measuresNoise (h : rWorks s m = false ∨ idleSpan s m = false ∨ (radioAt s m).spanBusy = true ∨ (radioAt s m).pa = true) :
    ¬ MeasuresNoise s m := by
  rintro ⟨hworks, hidle, _, hbusy, hpa⟩
  rcases h with h | h | h | h
  · exact ne_false_of_eq_true hworks h
  · exact ne_false_of_eq_true hidle h
  · exact ne_true_of_eq_false hbusy h
  · exact ne_true_of_eq_false hpa h

/-- A span is due in its own last hem. -/
theorem spanDue_iff {r : Radio} {x : TdmSched} {t k c0 i : Nat} (hsched : schedOn r = some x) (hpos : posAt x t = some (k, c0, some i)) :
    spanDue r t = true ↔ i = r.spanIdx ∧ c0 + (i + 1) * spanU x ≤ t + hemU x := by
  have hdue : spanDue r t = nearEnd x r.spanIdx t (posAt x t) := by rw [spanDue, hsched]
  rw [hdue, hpos, nearEnd, Bool.and_eq_true, decide_eq_true_eq, decide_eq_true_eq]

end Noise

/-- Settles O44: each row of an existing channel is its lemma above. -/
theorem radioReception : Obligations.RadioReception := by
  have hrow {m : Nat} (hm : m < 4) {t u : State} (h : t = u) : ev (decide (m < 4)) t = .next u := ev_next (decide_eq_true hm) h
  refine ⟨fun s m sub word hm hsub => ?sync, fun s m coded level cfo hm => ?decode,
    fun s m j off x t => ⟨rfl, rfl, placement_inside, placement_noWindow⟩, fun s m work hm => ?release,
    fun s m level full hm => ?noise⟩
  case sync =>
    have hrow {t : State} (h : syncDetect m word sub s = t) : exec (.syncDetect m word sub) s = .next t :=
      ev_next (by rw [decide_eq_true hm, decide_eq_true hsub]; rfl) h
    exact ⟨fun h => hrow (syncDetect_none h), fun j hlisten hword => ⟨fun h => hrow (syncDetect_overrun hlisten hword h),
      fun h => hrow (syncDetect_tracks hlisten hword h)⟩⟩
  case decode =>
    refine ⟨fun h => hrow hm (burstDecoded_none h), fun b h => ⟨fun hearly => ?_, fun hdone => ⟨fun hnode => ?_,
      fun hnode hactive => ?_, fun hnode hreacq => ?_⟩⟩⟩
    · exact hrow hm ((burstDecoded_some h).trans (burstTake_early hearly))
    · exact hrow hm ((burstDecoded_some h).trans (burstTake_gone hdone hnode))
    · exact hrow hm ((burstDecoded_some h).trans (burstTake_active hdone hnode hactive))
    · exact hrow hm ((burstDecoded_some h).trans (burstTake_reacq hdone hnode hreacq))
  case release =>
    exact ⟨fun h => hrow hm (radioFrameRelease_none h), fun b h => ⟨fun hb => hrow hm (radioFrameRelease_discards h hb),
      fun hcollided hbad => hrow hm (radioFrameRelease_bad h hcollided hbad),
      fun hcollided hbad hkeep => hrow hm (radioFrameRelease_packet h hcollided hbad hkeep)⟩,
      fun b => ⟨radioPacket_dispatched, radioPacket_resetting⟩⟩
  case noise =>
    refine ⟨fun h => hrow hm (noiseFloorMeasure_none (not_measuresNoise h)),
      fun x k c0 i hworks hidle hbusy hpa hsched hpos => ⟨fun hother => ?_, fun hspan hend => ?_⟩⟩
    · refine hrow hm (noiseFloorMeasure_none fun ⟨_, _, hdue, _⟩ => ?_)
      obtain ⟨hspan, hend⟩ := (spanDue_iff hsched hpos).mp hdue
      exact hother.elim (· hspan) (Nat.not_lt.mpr hend)
    · exact hrow hm (noiseFloorMeasure_measures ⟨hworks, hidle, (spanDue_iff hsched hpos).mpr ⟨hspan, hend⟩, hbusy, hpa⟩)

end Sys2Proof.Machine
end
